-- ==== Sys2Proof/Word.lean ====
section
/-! DEFINITION. The word types of the module and the type of sparse maps. -/
namespace Sys2Proof

/-- A register or signal box word (R101, R470). -/
abbrev Word := BitVec 32

/-- A byte of any memory. -/
abbrev Byte := BitVec 8

/-- A Porix word (R109). -/
abbrev PWord := BitVec 128

/-- A row of a weight bank, or a word of platform memory (R48, R90). -/
abbrev RowBits := BitVec 256

/-- The index of a station, 0 to 127 (R298). -/
abbrev Stn := Fin 128

/-- Sparse data by key: strictly rising keys, no entry equal to what an unlisted key reads as. -/
abbrev SMap (α : Type) := List (Nat × α)

end Sys2Proof
end

