-- ==== Sys2Proof/Syntax.lean ====
section
/-! DEFINITION. The commands of the module: one constructor of `Instr` per row of spec/opcode_table.json, with what the environment supplies as operands, and the plain data that frames and contributions are made of. -/
namespace Sys2Proof.Machine

/-- An A48 entry: its code and its wrap count, -7 to 7, or -8 when lost (R153). -/
structure Entry where
  a : BitVec 48
  w : Int
  deriving DecidableEq, Repr

/-- An accumulator slot (R97). `ent` is keyed by 64*m + n. `ref` is the hidden REF of a started row (R169). -/
structure Slot where
  ent : SMap Entry
  ra : SMap Byte
  cw : SMap Byte
  maxc : SMap Word
  sumc : SMap Word
  ts : Int
  range : Bool
  empty : BitVec 16
  chain : Byte
  ref : SMap Int
  deriving DecidableEq, Repr

/-- One contribution to a slot entry: slot, row, column, integer P, activation and weight exponents, and whether the source's W was lost (R156, R162). -/
structure Contrib where
  slot : Nat
  m : Nat
  n : Nat
  p : Int
  ea : Nat
  ew : Nat
  lost : Bool
  deriving DecidableEq, Repr

/-- A tile or contribution for the reduction path (R87, R131, R338). `seq` is the station's own instruction, if it is one; `src` and `txn` name the requester of an arriving contribution; `zero` holds the entries that overwrite clears first; `write` marks a collective result, which replaces entries; `guard` is the guarded number of the REDUCE in its station's ledger, if it has one (R268). -/
structure Tile where
  seq : Option Nat
  src : Nat
  txn : Nat
  slots : List Nat
  amode : Nat
  chain : Byte
  zero : List (Nat × Nat × Nat)
  adds : List Contrib
  range : Bool
  write : Bool
  rtok : Option Nat
  guard : Option (Nat × Nat)
  deriving DecidableEq, Repr

/-- The stream that a line belongs to, as the fields TAG and SCL of its header tell it to the mesh port (R146, R299): DFMT, data lines, TAG of the first block. -/
structure Stream where
  fmt : Nat
  len : Nat
  tag : Nat
  deriving DecidableEq, Repr

/-- The kinds of flit with what they carry (R299; `bar2` is an access through BAR2, R431, whose `txn` is the tick of its arrival). `wr` carries addresses with the mask and value of each byte, the lines of its transaction that it accounts for (its own first, then those of blocks passed over, which do not come: log entry 83), TOTAL, and its stream; `red` stands for the whole sequence of RED flits of a contribution; `nack` tells the requester in another module of a slip (log entry 76). -/
inductive FlitBody where
  | wr (bytes : List (Nat × Byte × Byte)) (lines : List Nat) (total : Nat) (strm : Option Stream)
  | ack
  | token (t : Nat)
  | tkt (ctr : Nat)
  | tktval (v : Word)
  | red (t : Tile)
  | xqVec (q rank m j dfmt : Nat) (data scale : List Byte)
  | xqMark (q rank count : Nat) (more : Bool)
  | xqOpen (q round share vout : Nat)
  | xqWant (q rank : Nat)
  | xqRefuse (q : Nat)
  | xqRes (q m j : Nat) (data scale : List Byte)
  | bar2 (off n : Nat) (w : Option (List Byte))
  | nack (block found : Nat)
  deriving DecidableEq, Repr

/-- A flit in transit. A node is a station 0 to 127, or 128 + the edge id (R298). `src` is the node that sends it and `req` the requester, which SRC of the header names (R299); `mod` is the module of the requester when it is another module (R307, R326). -/
structure Flit where
  src : Nat
  dst : Nat
  req : Nat
  txn : Nat
  mod : Option Nat
  body : FlitBody
  deriving DecidableEq, Repr

/-- What a Slora frame carries (R316): up to 8 flits of one mesh transaction at consecutive addresses; in a LINKCTL frame the training identity (module, coordinates, port), if any; an interlock message; a notice; up to 8 lines of a collective image from line `part`; the lines of a snapshot image that go by one sibling, as cells and the key of the bytes whose layout the manual does not give (log entry 14), or the acknowledgement of a snapshot. -/
inductive FrameBody where
  | data (fs : List Flit)
  | linkctl (ident : Option (Nat × Nat × Nat))
  | ilk (kind ilk : Nat) (iseq : Word) (lce count slow reason : Nat)
  | notice (nkind mod nseq : Nat) (iseq : Word) (ilk cause reason rep : Nat)
  | coll (coll inst phase part mext next : Nat) (image : Slot)
  | snap (gen sibling key : Nat) (cells : List (Nat × Byte))
  | snapAck (gen : Nat)
  deriving DecidableEq, Repr

/-- A Slora frame: FTYPE (0 DATA, 1 ILK, 2 NOTICE, 3 COLL, 4 LINKCTL), class (0 request, 1 response, 2 control), virtual channel, SEQ, ACKSEQ, NAK, modules, NLINES, the sum of station indices that chooses the sibling, the SEQ that it had on the sibling that failed (R322; log entry 84), credit returned as class, VC and count, body (R316 to R318). -/
structure Frame where
  ftype : Nat
  cls : Nat
  vc : Nat
  seq : Nat
  ackseq : Nat
  nak : Bool
  dmod : Nat
  smod : Nat
  nlines : Nat
  pick : Nat
  orig : Option Nat
  cr : Option (Nat × Nat × Nat)
  body : FrameBody
  deriving DecidableEq, Repr

/-- What a cartridge answers to an authentication (R395, R396): certificate, signature, serial, first-use date in days since 2020-01-01, cycle count, status block. -/
structure CartResp where
  cert : List Byte
  sig : List Byte
  serial : BitVec 64
  firstUse : Nat
  cycles : Word
  status : List Byte
  deriving DecidableEq, Repr

/-- What the module meets in a bring-up (R403, R412 to R414): POS straps, the channels that pass at 6,400 MT/s only and those that fail, whether copy A or B is unreadable, a failing unit and address of the self-test, the rate, width and mode of the PCIe link, and an uncorrectable line of the spill image that a resume reads (R389). -/
structure BootEnv where
  pos : Fin 64
  slow : List (Fin 80)
  lost : List (Fin 80)
  badA : Bool
  badB : Bool
  failed : Option (Nat × BitVec 64)
  link : Byte
  spillUe : Option Nat
  deriving DecidableEq, Repr

/-- A queue descriptor as the host posted it (R435). -/
structure HostDesc where
  addr : Nat
  len : Word
  session : BitVec 16
  kind : Byte
  flags : Byte
  user : BitVec 64
  deriving DecidableEq, Repr

/-- A configuration request (R428, R429, R441): a dword read, or a write of Bus Master Enable, of MSI-X Enable and Function Mask, of ASPM L1 in Link Control, or of the power state D0. -/
inductive CfgReq where
  | read (dword : Nat)
  | bme (b : Bool)
  | msix (en mask : Bool)
  | aspm (b : Bool)
  | d0
  deriving DecidableEq, Repr

end Sys2Proof.Machine

namespace Sys2Proof

/-- An error `delta` in one popcount of a pass: macro, token, plane, quarter of the rows, column (0 to 255 a data column, 256 to 263 a check column; for PASSR 8*row + bit) (R69, R77). -/
structure Upset where
  mac : Nat
  m : Nat
  plane : Nat
  quarter : Nat
  col : Nat
  delta : Int
  deriving DecidableEq, Repr

/-- A scale-stream slip: the block of the instruction at which it is seen and the TAG found at the head of the scale queue (R146, R147). -/
structure Slip where
  block : Nat
  found : BitVec 4
  deriving DecidableEq, Repr

/-- What the hardware meets while an instruction runs: popcount errors (R69), a slip (R147), an uncorrectable tile buffer word or LPDDR5X line (R179, R290), LPDDR5X lines found correctable (R289), mc in which the requests of a platform memory master were refused (R93), platform words that the station port reads in the same mc as a mesh write of a flit in transit (R94), and how many lines the mover moves before it turns to something else, all when none is given (R149, R386). -/
structure Obs where
  upsets : List Upset
  slip : Option Slip
  ue : Option (Nat × Nat)
  ce : List Nat
  refused : List (Fin 5 × Nat)
  clash : List Nat
  upto : Option Nat
  deriving DecidableEq, Repr

/-- A station whose mover runs an ST, and what the ST meets. -/
structure Moving where
  stn : Stn
  obs : Obs
  deriving DecidableEq, Repr

/-- What an access through a mesh port meets at platform memory: how many of its words raise BUSY, and the mc for which it is refused (R93 to R95). -/
structure Contended where
  busy : Fin 3
  refused : Nat
  deriving DecidableEq, Repr

/-- The register that a read names, and the word that the signal box writes to that place in the same mc, if it does (R477). -/
structure RegRead where
  addr : Nat
  clash : Option Word
  deriving DecidableEq, Repr

/-- What reading a golden slot finds: an uncorrectable line, if any, and the correctable ones, counted from its first line (R289, R290). -/
structure SlotRead where
  ue : Option Nat
  ce : List Nat
  deriving DecidableEq, Repr

inductive Instr where
  | sbInstruction (s : Stn)
  | sbIssue3 (s : Stn) (v : Word)
  | sbSumHi (s : Stn) (rd : Fin 32)
  | sbSleep (s : Stn) (v : Word)
  | wordIssue (s : Stn)
  | nop (s : Stn)
  | pass (s : Stn) (o : Obs)
  | passr (s : Stn) (o : Obs)
  | wload (s : Stn) (o : Obs)
  | wloadCommit (s : Stn)
  | ld (s : Stn) (o : Obs)
  | st (s : Moving)
  | mcast (s : Stn) (o : Obs)
  | accrd (s : Stn)
  | accwr (s : Stn)
  | accclr (s : Stn)
  | reduce (s : Stn)
  | consist (s : Stn) (o : Obs)
  | consistComplete (s : Stn)
  | summary (s : Stn)
  | summaryPost (s : Stn)
  | ticket (s : Stn)
  | take (s : Stn)
  | give (s : Stn)
  | giveDeliver (s : Stn)
  | interlock (s : Stn)
  | dispatch (s : Stn) (o : Obs)
  | gather (s : Stn) (o : Obs)
  | tileHandover (s : Stn) (seq : Nat)
  | reductionAdd (s : Stn) (arr : Bool)
  | reduceArrival (dst src : Stn)
  | ackReceipt (s : Stn) (src : Nat)
  | tokenArrival (dst : Stn) (src : Nat)
  | runStart (s : Stn) (v : Word)
  | runStop (s : Stn) (v : Word)
  | wake (s : Stn) (v : Word)
  | sleepCommit (s : Stn)
  | retentionReached (s : Stn)
  | wakeComplete (s : Stn)
  | stnTokClear (s : Stn) (i : Fin 8) (v : Word)
  | stnTokset (s : Stn) (i : Fin 8) (v : Word)
  | localStoreWindowWrite (s : Stn) (k : Fin 8192) (v : Word)
  | meshReadRetry (s : Stn) (addr : Nat) (again : Bool)
  | tktRequest (ctr : Fin 64) (s : Stn)
  | tktval (s : Stn)
  | meshTktValWrite (ctr : Fin 64) (v : Word)
  | meshTktLimitWrite (ctr : Fin 64) (v : Word)
  | ledgerEntryCommit (s : Stn)
  | jobStart
  | stepBoundary
  | exponentDerivation (b : Fin 32768) (recs : List Nat) (expLine foldLine : Nat) (tok : Byte)
  | sessionStateWrite (i : Fin 10240) (k : Fin 16) (en : BitVec 4) (v : Word)
  | sessionCmdPark (v : Word)
  | xqMarker (q : Fin 64) (rank : Nat)
  | xqRoundStart (q : Fin 64)
  | xqTout (q : Fin 64)
  | flitCrcRetransmit (r : Fin 176) (d : Fin 4) (again : Bool)
  | meshLinkRetrain (r : Fin 176) (d : Fin 4)
  | meshWrArrival (dst : Stn) (src : Nat) (met : Contended) (slip : Option Slip)
  | lpddrRequest (line : Nat) (w : Option (Fin 64 × List Byte)) (lce ce ue : Bool)
  | channelRetrain (c : Fin 20) (j : Fin 4) (outcome : Fin 3)
  | mr4Read (c : Fin 20) (rate : Fin 32)
  | rfm (c : Fin 20)
  | powerDownEntry (c : Fin 20) (j : Fin 4)
  | patrolScrub (line : Nat) (ce ue : Bool)
  | goldenRebuild (line : Nat)
  | goldenLoad (v : Word)
  | memConfigWrite (k : Fin 9) (v : Word)
  | frameReceive (p : Fin 12) (good : Bool) (ce ue : Nat) (f : Machine.Frame)
  | portTraining (p : Fin 12) (bad : BitVec 4) (pm pp : Nat)
  | trainingTimeout (p : Fin 12)
  | laneFail (p : Fin 12) (lane : Fin 4)
  | linkEnWrite (p : Fin 12) (v : Word)
  | retrain (p : Fin 12) (v : Word)
  | moduleArrival
  | present (child ilk lce : Nat)
  | arrive (child ilk lce count slow reason : Nat) (iseq : Word)
  | release (ilk lce slow reason : Nat) (iseq : Word)
  | snapshotCopyDone
  | snapLate
  | departureStagger (s : Stn)
  | deadlineExpiry
  | noNoticeExpiry
  | lateNotice (p : Fin 12) (mod ilk cause reason rep : Nat) (iseq : Word)
  | haltNotice (p : Fin 12) (mod nseq : Nat)
  | resumeNotice (p : Fin 12) (mod nseq : Nat)
  | haltAllowanceExpiry
  | coll (smod cid k phase mext next : Nat) (img : Machine.Slot)
  | collectiveResultWrite (s : Stn)
  | lineClearGo (v : Word)
  | clearNotice (p : Fin 12) (mod e : Nat)
  | governorPeriod (lines hops chg : Nat)
  | clockChange
  | calibration (m : Option Nat) (reg : Fin 7)
  | alertAssert (reg : Bool) (words : List (Fin 7 × BitVec 16))
  | alertDeassert (reg : Bool)
  | alertHoldExpiry
  | regAlertLong (words : List (Fin 7 × BitVec 16))
  | supplyLowEnd
  | temperatureRead (tj : BitVec 7)
  | thermalStepRise
  | thermalStepFall
  | thermalResume (e : Machine.BootEnv)
  | thermalTrip
  | marginSample (low short : List (Fin 16))
  | coastReturn
  | govCeilingWrite (v : Word)
  | clrthr (v : Word)
  | govLimitWrite (peak : Bool) (v : Word)
  | inputSample (mv10 : BitVec 16)
  | brownout
  | overvoltage
  | inputQualified (e : Machine.BootEnv)
  | stateLost
  | cartridgeRemoval
  | cartridgeInsertion
  | authentication (r : Option Machine.CartResp)
  | authRetry (r : Option Machine.CartResp)
  | reauth (v : Word) (r : Option Machine.CartResp)
  | chargeStart
  | cal (v : Word)
  | calDischargeEnd (cap : Nat)
  | calageDay (aged : Bool)
  | railPowerGoodTimeout (reg : Fin 7) (status : BitVec 16)
  | bringupRepeat (e : Machine.BootEnv)
  | perstNAssert
  | perstNDeassert (link : Byte)
  | functionLevelReset
  | configurationRequest (r : Machine.CfgReq)
  | mbxBegin (v : Word)
  | chunk (v : Word)
  | mbxEnd (v : Word)
  | restart (v : Word) (e : Machine.BootEnv)
  | mailboxOtherOp (v : Word)
  | mailboxComplete (err : Bool)
  | unlock (sig : List Byte)
  | getInfo (smbus : Bool) (payload : List Byte)
  | getCert (smbus : Bool) (payload : List Byte)
  | getMeas (smbus : Bool) (payload : List Byte)
  | getAudit (smbus : Bool) (payload : List Byte)
  | attestationOtherCode (smbus : Bool) (code : Byte)
  | setEndpointId (smbus : Bool) (inst : Fin 32) (op eid : Byte)
  | getEndpointId (smbus : Bool) (inst : Fin 32)
  | getMctpVersionSupport (smbus : Bool) (inst : Fin 32) (type : Byte)
  | getMessageTypeSupport (smbus : Bool) (inst : Fin 32)
  | getVendorDefinedMessageSupport (smbus : Bool) (inst : Fin 32) (sel : Byte)
  | registerWrite (a : Nat) (en : BitVec 4) (v : Word)
  | loLatchRead (r : Fin 5) (a : RegRead)
  | bar2Access (s : Stn) (off : Fin 4194304) (n : Fin 65) (w : Option (List Byte)) (met : Contended)
  | bar2Timeout (s : Stn)
  | bar4Access (off n : Nat) (w : Option (List Byte)) (ce ue : Bool)
  | hostqTailWrite (q : Fin 16) (v : Word)
  | hostqEn (q : Fin 16) (v : Word)
  | qreset (q : Fin 16) (v : Word)
  | inboundDescriptor (q : Fin 16) (d : Machine.HostDesc) (buf : Option (List Byte))
  | outboundDescriptor (q : Fin 16) (d : Machine.HostDesc) (ok : Bool)
  | producerLinePoll (q : Fin 16)
  | msixUnmask (i : Fin 64)
  | d3hot
  | l1Entry
  | faultRdWrite (v : Word)
  | tileReplay (s : Stn) (o : Obs)
  | macroReload (s : Stn) (found : SlotRead)
  | routeAround (s : Stn)
  | stationRestart (s : Stn)
  | rollback
  | roll (v : Word)
  | scrub (s : Stn) (m : Fin 64) (k : Fin 4) (found : SlotRead)
  | noNoticeRollbackExpiry
  | alwaysOnPowerLoss
  | cartridgeStatusRead (v t : BitVec 16) (cycles : Word) (cap : Option Nat)
  | perBankRefresh (c : Fin 20) (j : Fin 4)
  | mctpUnsupportedMessage (smbus : Bool) (type : Byte)
  deriving DecidableEq, Repr

end Sys2Proof
end

