-- ==== Sys2Proof/Config.lean ====
section
/-! DEFINITION. What an implementation fixes and the values the manual leaves open. Nothing here has a body that Lean can evaluate. -/
namespace Sys2Proof

/-- The k-th arbitrary word the device returns (R6, R94, R95, R431, R477). Log entry 13. -/
opaque Config.freeNat : Nat → Nat

/-- The bytes of a spill image whose layout within its records the manual does not give: the image's key and the offset (R388). Log entry 14. -/
opaque Config.imageByte : Nat → Nat → BitVec 8

/-- Haurn's PCI vendor identifier (R479). Log entry 6. -/
opaque Config.vendorId : BitVec 16

/-- The device serial (R427, R479). Log entry 6. -/
opaque Config.serial : BitVec 64

/-- The digest of the ordering customer's key that owner key slot 0 holds from the factory (R418). Log entry 6. -/
opaque Config.customerKey : List (BitVec 8)

/-- The Haurn firmware key, whose digest the mask ROM holds (R411). Log entry 6. -/
opaque Config.firmwareKey : List (BitVec 8)

/-- The digest of the mask ROM of M0 to M3 (R426). Log entry 6. -/
opaque Config.romDigest : List (BitVec 8)

/-- The key that a cartridge certificate certifies under the root key of an image, none when it does not verify (R396). Log entry 8. -/
opaque Config.cartKey : List (BitVec 8) → List (BitVec 8) → Option (List (BitVec 8))

/-- Haurn's IANA enterprise number as an image holds it (R424). Log entry 9. -/
opaque Config.enterprise : List (BitVec 8) → Nat

/-- The public key that checks an unlock signature of Haurn's (R423). Log entry 8. -/
opaque Config.unlockKey : List (BitVec 8)

/-- The signature that the module's device key makes (R425). Log entry 8. -/
opaque Config.deviceSign : List (BitVec 8) → List (BitVec 8)

/-- The device certificate chain (R424). Log entry 8. -/
opaque Config.certChain : List (BitVec 8)

/-- Where a training job keeps the constant regions of R244 in the stations of a mask: EXPTAB, SCLTAB and CONSTU8 lines, the one-hot tiles of R246 and the image buffers. -/
structure TrainTables where
  mask : BitVec 128
  exptab : Nat
  scltab : Nat
  constu8 : Nat
  onehot : List Nat
  images : List Nat
  deriving DecidableEq, Repr, Inhabited

/-- What the accepted timetable copy holds in sections whose byte layout the manual does not give (R410): the torus values with the POS entry, register records, collective records, snapshot ranges in MiB, user inline-ECC regions in GiB, limits, phase words, chain records, and the job: station programs by mask, register records, tokens, the counters of each step, the step interlock, whether the job serves sessions, the descriptor bytes of each resident golden slot, the constant regions of training, and the loader. -/
structure Plan where
  torus : Bool
  dims : Word
  dbase : Nat
  root : Word
  entry : Word
  config : List (Nat × Word)
  colls : List (Nat × List (BitVec 8))
  ranges : List (Nat × Nat)
  ecc : List (Nat × Nat)
  opmax : Option Nat
  limits : List (Nat × Word)
  phases : List Word
  chains : List (BitVec 128 × Nat × List Word)
  job : Bool
  programs : List (BitVec 128 × List (BitVec 8))
  jobRegs : List (Nat × Word)
  tokens : List (Nat × Nat)
  counters : List (List (Nat × Word × Word))
  stepIlk : Nat
  serving : Bool
  golden : List (Nat × List (BitVec 8))
  tables : List TrainTables
  loader : List (BitVec 8)
  deriving DecidableEq, Repr, Inhabited

/-- A module without an accepted copy. -/
def Plan.none : Plan where
  torus := false
  dims := 0x1041
  dbase := 0
  root := 0
  entry := 0
  config := []
  colls := []
  ranges := []
  ecc := []
  opmax := Option.none
  limits := []
  phases := []
  chains := []
  job := false
  programs := []
  jobRegs := []
  tokens := []
  counters := []
  stepIlk := 0
  serving := false
  golden := []
  tables := []
  loader := []

/-- How the mask ROM reads the sections of a copy for the POS straps given: the layouts that the manual leaves to the image. Log entry 9. -/
opaque Config.readPlan : List (BitVec 8) → Nat → Plan

end Sys2Proof
end

