-- ==== Sys2Proof/Machine/State.lean ====
section
/-! DEFINITION. Everything the manual gives the module, as plain data, and the module right after reset. -/
namespace Sys2Proof.Machine

/-- A slot as ACCCLR leaves it (R97). -/
def Slot.clear : Slot := ⟨[], [], [], [], [], 0, false, 0, 0, []⟩

/-- A weight bank of a macro (R48) with its part of the correction table (R100). `chk` holds the check columns per row, `crow` the two check rows; the sums are keyed by channel, by 4*channel + quarter and by row. -/
structure Bank where
  rows : SMap RowBits
  chk : SMap Byte
  crow : SMap RowBits
  idx : RowBits
  fmt : BitVec 2
  sparse : Bool
  zero : Bool
  sumw : SMap (BitVec 16)
  qsum : SMap (BitVec 16)
  rsum : SMap (BitVec 16)
  wexp : SMap Byte
  crec : SMap Word
  deriving DecidableEq, Repr

/-- A bank at station reset: ZERO set (R59). -/
def Bank.reset : Bank := ⟨[], [], [], 0, 0, false, true, [], [], [], [], []⟩

/-- Station states (R105). -/
inductive RunState where
  | awake | asleep | waking | stopped
  deriving DecidableEq, Repr

/-- Where an instruction in flight stands. `recover n` waits for step n of the ladder. -/
inductive Stage where
  | issued | computed | handed | written | sent | held | recover (step : Nat)
  deriving DecidableEq, Repr

/-- What an instruction captures at its issue: tile descriptor, KMAP, working declarations, destinations, chain descriptor words, expert map, whether a named bank holds S2, and the values of SUM of RSLOT of a CONSIST (R79, R108, R151, R178, R182, R303, R234). -/
structure Capture where
  data : Nat
  scl : Nat
  kmap : List Nat
  work : BitVec 64
  dests : List Nat
  desc : List Word
  xmap : List Word
  s2 : Bool
  rsum : List Rat
  deriving DecidableEq, Repr

/-- A fault found in an instruction: code, DETAIL0, DETAIL1 (R446). -/
structure FaultInfo where
  code : Nat
  d0 : Word
  d1 : BitVec 64
  deriving DecidableEq, Repr

/-- An instruction in flight (R148). `acks` counts acknowledgements outstanding, `pend` the banks a WLOAD has still to commit, `fails` and `prevFails` the macros whose check failed now and before (R451), `owed` unpaid credits (R351), `guard` its ledger entry and guarded index (R268), `entry` its tile interval, `moved` how many blocks, or lines of a RAW transfer, the mover is past and `skipped` the lines it has left out (R124, R149, R386), `landed` the destinations at which a GIVE has made its token present (R268), `result` the reducer results that a CONSIST leaves or a SUMMARY posts (R134), `why` the fault it is replayed for, `ueLine` its uncorrectable line, `toReload`, `toFault` and `reloaded` the macros of R451 to R454. -/
structure Flight where
  seq : Nat
  word : PWord
  stage : Stage
  cap : Capture
  acks : Nat
  moved : Nat
  skipped : List Nat
  landed : Nat
  tile : Option Tile
  pend : List (Nat × Bank)
  fails : BitVec 64
  prevFails : BitVec 64
  attempts : Nat
  owed : Nat
  guard : Option (Nat × Nat)
  entry : Option Nat
  result : BitVec 56
  why : FaultInfo
  ueLine : Option Nat
  toReload : List Nat
  toFault : List Nat
  reloaded : List Nat
  deriving DecidableEq, Repr

/-- An entry of the summary FIFO: the instruction that reserved it and its summary once posted (R104). -/
structure SumEntry where
  seq : Nat
  val : Option (BitVec 64)
  deriving DecidableEq, Repr

/-- An open tile ledger entry (R267): the value once the counter has returned it. `isOver` is STATE OVER; `ended` says the interval has ended. -/
structure LedgerEntry where
  value : Option Word
  seq : Nat
  done : Word
  nguard : Nat
  isOver : Bool
  owned : BitVec 64
  ended : Bool
  deriving DecidableEq, Repr

/-- A station's tile ledger: the enable in effect, open entries, next SEQ, and in a replay the next SEQ to give and the guarded index reached (R267, R270). -/
structure Ledger where
  en : Bool
  entries : List LedgerEntry
  next : Nat
  replay : Bool
  rpos : Nat
  rguard : Nat
  deriving DecidableEq, Repr

/-- The routing a DISPATCH recorded: its word, the entry of each token and expert (module or none for this one, queue, rank), what each token still has to send, and what GATHER has placed (R216, R221). -/
structure Routed where
  m : Nat
  j : Nat
  mod : Option Nat
  q : Nat
  rank : Nat
  deriving DecidableEq, Repr

/-- A recorded DISPATCH: `started` once its routing is recorded, `queues` the queues that its map names with this station's rank at each, `unsent` the routed pairs not yet sent, `unplaced` the pairs whose result is not placed, `sentTo` the queues that have a marker of it, `ended` those that have its last one, `part` the vectors sent to a queue for which the marker is still due, `gather` the GATHER paired with it. -/
structure DispRec where
  seq : Nat
  word : PWord
  started : Bool
  queues : List (Option Nat × Nat × Nat)
  routes : List Routed
  unsent : List Routed
  unplaced : List Routed
  sentTo : List (Option Nat × Nat)
  ended : List (Option Nat × Nat)
  part : List (Option Nat × Nat × Nat)
  gather : Option Nat
  deriving DecidableEq, Repr

/-- What a station knows of an expert queue (R220): module (none for this one), queue, the round for which it is open to the station, none once a marker has used the opening, and SHR and VOUT as the last opening told them, 0 before one has. -/
structure XOpen where
  mod : Option Nat
  q : Nat
  round : Option Nat
  share : Nat
  vout : Nat
  deriving DecidableEq, Repr

/-- The restart point of a station: pc and s1 to s31 (R457). -/
structure RestartPoint where
  pc : Word
  regs : List Word
  deriving DecidableEq, Repr

/-- An open transaction at a destination (R307, R386): requester, its module when it is another one, TXN, and the lines written so far. -/
structure Arrival where
  req : Nat
  mod : Option Nat
  txn : Nat
  lines : List Nat
  deriving DecidableEq, Repr

/-- A posted interlock arrival (R139): scope, number, the INTERLOCK's place; whether the station waits at it, as it does until a restart, and whether a release has passed it meanwhile (R458). -/
structure Posted where
  domain : Bool
  ilk : Nat
  seq : Nat
  waits : Bool
  passed : Bool
  deriving DecidableEq, Repr

/-- A frame that waits at a port, and for through-traffic the port, class and VC of the input buffer that it still fills (R317, R324). -/
structure Waiting where
  frame : Frame
  origin : Option (Nat × Nat × Nat)
  deriving DecidableEq, Repr

/-- A port controller (R317, R321, R322): next SEQ to send, last SEQ received in order, frames kept until acknowledged, frames that wait for credit or for a halted neighbour, failures of the frame awaited, whether frames are being discarded until it arrives, credits per 3*VC + class, failed lanes. -/
structure Port where
  txNext : Nat
  rxLast : Nat
  sent : List Frame
  wait : List Waiting
  fails : Nat
  naks : Nat
  dropping : Bool
  credit : List Nat
  badLanes : BitVec 4
  deriving DecidableEq, Repr

/-- A port at reset: 32 frames of credit for each pair of VC and class (R317). -/
def Port.reset : Port := ⟨0, 4095, [], [], 0, 0, false, List.replicate 6 32, 0⟩

/-- An arrival of a child subtree (R328, R329): child, ILK, COUNT, SLOWMOD, REASON, ISEQ. -/
structure ChildArrival where
  child : Nat
  ilk : Nat
  count : Nat
  slow : Nat
  reason : Nat
  iseq : Word
  deriving DecidableEq, Repr

/-- One interlock on the tree of R328. `own` says that this module has arrived with its reason, `late` the pair that became present last, `sentUp` that ARRIVE (or at the root RELEASE) is due no more. -/
structure Ilk where
  ilk : Nat
  present : List Nat
  arrived : List ChildArrival
  own : Bool
  last : Option (Nat × Nat)
  sentUp : Bool
  deriving DecidableEq, Repr

/-- An interlock nobody has reached. -/
def Ilk.reset : Ilk := ⟨0, [], [], false, none, false⟩

/-- An instance of a collective on this module (R336, R337): contributors with slot and extent, the images received, this module's combined image, what has been sent on, the result for each station not yet handed over. -/
structure CollInst where
  coll : Nat
  inst : Nat
  mext : Nat
  next : Nat
  own : List (Nat × Nat)
  images : List (Nat × Nat × Slot)
  acc : Option Slot
  sent : Bool
  bad : Bool
  result : Option Slot
  due : List (Nat × Nat)
  deriving DecidableEq, Repr

/-- A deadline timer (R331): ticks counted, running, the modules it has named. -/
structure Timer where
  ticks : Nat
  running : Bool
  named : List Nat
  deriving DecidableEq, Repr

/-- A rollback in progress (R461): its round, the generation G, whether the image is restored or the job started again, and the fault that called for it. -/
structure Roll where
  round : Nat
  g : Nat
  restored : Bool
  why : FaultInfo
  unit : Nat
  deriving DecidableEq, Repr

/-- A snapshot in progress (R340): its generation, the ticks since the release, whether SNAP_LATE was logged, and whether the outgoing copy is acknowledged. -/
structure SnapRun where
  gen : Nat
  ticks : Nat
  late : Bool
  acked : Bool
  deriving DecidableEq, Repr

/-- The lines of a collective image that one frame brought (R316): source, collective, instance, phase, MEXT, NEXT, first line, content. -/
structure CollPart where
  smod : Nat
  coll : Nat
  inst : Nat
  phase : Nat
  mext : Nat
  next : Nat
  part : Nat
  image : Slot
  deriving DecidableEq, Repr

/-- The collectives service and the port controllers. `ilk` is the domain interlock in progress, `snapIlk` and `rollIlk` the commit interlock and a rollback round on the same tree; `arrivedAt` the tick of the own arrival; `halts` the modules whose HALT notice is outstanding with its NSEQ; `paused` the ticks of pause in the interval; `seen` the notices already forwarded, as NKIND, MOD, NSEQ or ISEQ, CAUSE; `lateMods` the modules named by LATE notices of the interval; `recovered` and `haltedIn` the first reasons of R329; `allowOver` that the halt allowance is spent; `boundary` that the job runner has acted at this interlock; `noNotice` the children named under LATE_NO_NOTICE; `parts` the COLL frames not yet acted on; `snapGot` the parts of the partner's snapshot image that have come: module, generation, sibling. -/
structure Net where
  ports : SMap Port
  ilk : Ilk
  arrivedAt : Option Nat
  timer : Timer
  halts : List (Nat × Nat)
  paused : Nat
  seen : List (Nat × Nat × Nat × Nat)
  lateMods : List Nat
  insts : List CollInst
  instNext : SMap Nat
  recovered : Bool
  haltedIn : Bool
  snapIlk : Ilk
  rollIlk : Ilk
  roll : Option Roll
  snap : Option SnapRun
  snapForce : Bool
  allowOver : Bool
  boundary : Bool
  noNotice : List Nat
  parts : List CollPart
  snapGot : List (Nat × Nat × Nat)
  deriving DecidableEq, Repr

/-- The collectives service at reset. -/
def Net.reset : Net where
  ports := []
  ilk := Ilk.reset
  arrivedAt := none
  timer := ⟨0, false, []⟩
  halts := []
  paused := 0
  seen := []
  lateMods := []
  insts := []
  instNext := []
  recovered := false
  haltedIn := false
  snapIlk := Ilk.reset
  rollIlk := Ilk.reset
  roll := none
  snap := none
  snapForce := false
  allowOver := false
  boundary := false
  noNotice := []
  parts := []
  snapGot := []

/-- An expert queue (R218 to R224): settings in effect, dispatch number, round, ranks expected with a marker, markers in (rank, count, MORE), vectors in (rank, m, j, data, scale), positions served (position, rank, m, j), whether a round is with the owner, the sources known by rank, and by rank how many dispatches it has begun here and for how many its GATHER has issued (R221). -/
structure XQueue where
  cfg : List Word
  disp : Nat
  round : Nat
  expect : List Nat
  marks : List (Nat × Nat × Bool)
  vecs : List (Nat × Nat × Nat × List Byte × List Byte)
  served : List (Nat × Nat × Nat × Nat)
  busy : Bool
  srcs : SMap (Nat × Option Nat)
  told : SMap Nat
  want : SMap Nat
  deriving DecidableEq, Repr

/-- An expert queue at reset: open for its first dispatch, its expected ranks taken from NSRC (R220). -/
def XQueue.reset : XQueue := ⟨List.replicate 7 0, 0, 1, [], [], [], [], false, [], [], []⟩

/-- The session service: the READYSEQ counter, the PARK requests pending and the session in each berth (R230, R232). -/
structure Sess where
  readySeq : Word
  park : List Nat
  berths : SMap (Option Nat)
  deriving DecidableEq, Repr

/-- The signal box of a station (R101, R102). `mc8` counts eighths of mc. -/
structure SignalBox where
  pc : Word
  regs : SMap Word
  store : SMap Byte
  issue0 : Word
  issue1 : Word
  issue2 : Word
  mc8 : Nat
  deriving DecidableEq, Repr

/-- The power and run state of a station (R105 to R108). `stopping`: the signal box has stopped and queued words complete; `issueOff`: a stop under R113 keeps the queue from issuing; `slept`: ASLEEP or WAKING when the halt in progress began (R387). -/
structure StnCtl where
  run : RunState
  stopping : Bool
  issueOff : Bool
  stopHeld : Bool
  sleepReq : Bool
  retention : Bool
  wakeReq : Bool
  admitted : Bool
  slept : Bool
  deriving DecidableEq, Repr

/-- The issue side of a station: queue, instructions in flight, summary FIFO, posted interlock, departure stagger, current PHASE, credits (R103, R104, R139, R148, R348, R351, R361). -/
structure Issue where
  queue : List PWord
  flight : List Flight
  fifo : List SumEntry
  next : Nat
  posted : Option Posted
  stagger : Bool
  phase : Byte
  account : Nat
  spent : Nat
  deriving DecidableEq, Repr

/-- One station (R83). `xopen` holds what it knows of expert queues. `toReload` and `toFault` hold the banks, each with the credits that its reload has drawn, and the macros that a scrub sent to steps 2 and 3 (R350, R452, R454). `got` holds the transactions of which lines have been written and others are due (R307). -/
structure Station where
  sb : SignalBox
  ctl : StnCtl
  iss : Issue
  pm : SMap Byte
  slots : SMap Slot
  banks : SMap Bank
  tokens : BitVec 256
  redq : List Tile
  arrive : List Tile
  routerHeld : List Flit
  result : BitVec 56
  ledger : Ledger
  disp : List DispRec
  restart : RestartPoint
  nextRestart : List RestartPoint
  step4 : Bool
  detour : Option (Nat × Nat × Bool)
  reloads : SMap (List Nat)
  reloadBuf : Option (Nat × Nat)
  xopen : List XOpen
  toReload : List (Nat × Nat × FaultInfo × Nat)
  toFault : List Nat
  got : List Arrival
  deriving DecidableEq, Repr

/-- The reducer results at station reset: every EMPTY bit set, COUNT 0, ALLFIN, MAXC 0x8000, MAXE 0xFF (R197). -/
def emptyResult : BitVec 56 := 0xFF80004000FFFF

/-- A station at reset. -/
def Station.reset : Station where
  sb := ⟨0, [], [], 0, 0, 0, 0⟩
  ctl := ⟨.stopped, false, false, false, false, false, false, false, false⟩
  iss := ⟨[], [], [], 0, none, false, 0, 0, 0⟩
  pm := []
  slots := []
  banks := []
  tokens := 0
  redq := []
  arrive := []
  routerHeld := []
  result := emptyResult
  ledger := ⟨false, [], 0, false, 0, 0⟩
  disp := []
  restart := ⟨0, []⟩
  nextRestart := []
  step4 := false
  detour := none
  reloads := []
  reloadBuf := none
  xopen := []
  toReload := []
  toFault := []
  got := []

/-- What the module sends to the outside: an MSI-X message, a fault record as text on the J4 UART, a Slora frame, a write to host memory, an answer to a PCIe request with its status (0 success, 1 Unsupported Request, 2 retry, 4 Completer Abort), an MCTP message, the level of HALT_OUT_N, a command with its data on the J3 bus (R316, R384, R395, R405, R424, R438, R441, R447). The model's own log. -/
inductive Out where
  | msix (vector : Nat) (addr : Nat) (data : Word)
  | uart (record : List Word)
  | frame (port : Nat) (f : Frame)
  | hostWrite (addr : Nat) (data : List Byte)
  | completion (status : Nat) (poisoned : Bool) (data : List Byte)
  | mctp (medium : Nat) (bytes : List Byte)
  | haltOut (low : Bool)
  | linkState (l1 : Bool)
  | smbus (addr code : Nat) (bytes : List Byte)
  deriving DecidableEq, Repr

/-- The PCIe function and link (R428, R429, R441, R443): MSI-X enable and function mask, pending bits, Bus Master Enable, D3hot, ASPM L1 enabled and entered. -/
structure Pcie where
  msixEn : Bool
  msixMask : Bool
  pba : BitVec 64
  bme : Bool
  d3 : Bool
  l1En : Bool
  l1 : Bool
  deriving DecidableEq, Repr

/-- The endpoint after a conventional reset. -/
def Pcie.reset : Pcie := ⟨false, false, 0, false, false, false, false⟩

/-- A collective definition (R334). -/
structure CollDef where
  kind : Nat
  stn : Nat
  rtok : Nat
  start : List Nat
  count : List Nat
  stride : List Nat
  root : List Nat
  smask : BitVec 128
  deriving DecidableEq, Repr

/-- Past estimates of a window, newest first, as runs of equal estimates in watts (R358). -/
abbrev History := List (Nat × Rat)

/-- The power governor besides its registers (R347 to R376): window histories, estimate and uncredited estimate of the last period, core voltage in mV, whether the hold runs, margin event in force and tick of the last one, whether credit limits bound in each period of the last ms, periods for which OP7 stays withheld, coast return begun, interval durations of reasons 1 to 9, successive failed PMBus updates, energy fraction in nJ, sum and count of the estimates before gain since the last calibration, ticks of the low samples of each monitor, the reason of the term that set the allowance, the result of step 4 of the target point and the reason that lowered it. -/
structure Gov where
  capHist : History
  peakHist : History
  est : Rat
  unc : Rat
  volt : Nat
  hold : Bool
  margin : Bool
  lastMargin : Option Nat
  bounds : List Bool
  boostOff : Nat
  returning : Bool
  interval : List Nat
  pmFails : Nat
  energyFrac : Nat
  estSum : Rat
  estCount : Nat
  lows : SMap (List Nat)
  term : Nat
  top : Nat
  lowBy : Nat
  deriving DecidableEq, Repr

/-- The governor at reset: OP2, histories at the limits (R358, R380). -/
def Gov.reset : Gov where
  capHist := [(99999, 380)]
  peakHist := [(999, 460)]
  est := 0
  unc := 0
  volt := 660
  hold := false
  margin := false
  lastMargin := none
  bounds := []
  boostOff := 0
  returning := false
  interval := List.replicate 9 0
  pmFails := 0
  energyFrac := 0
  estSum := 0
  estCount := 0
  lows := []
  term := 0
  top := 2
  lowBy := 0

/-- A mesh link in one direction: the router that receives from it, the side of that router from which it comes (0 +x, 1 −x, 2 +y, 3 −y; 0 at an edge router), whether it has stopped, successive failures, and the tick of its last retraining (R298, R299, R464). -/
structure MeshLink where
  router : Nat
  dir : Nat
  stopped : Bool
  fails : Nat
  retrained : Option Nat
  deriving DecidableEq, Repr

/-- The job runner (R265, R279): phase (0 none, 1 loader programs run, 2 job started) and the step. -/
structure JobRun where
  phase : Nat
  step : Nat
  noStart : Bool
  deriving DecidableEq, Repr

/-- Everything in the edge domain and the station domain: what the spill image holds (R388). `reg` holds the BAR0 registers of the blocks GOV, HOSTQ, LINK, MEM, MESH, SESSION and STN under their addresses; `rwo` the RWO registers already written (R8); `polled` the producer index that the feed last read for each outbound queue (R437); `eids` the MCTP endpoint IDs on PCIe and SMBus (R443); `refresh` the refresh rate that each controller took from MR4, `pdown` the channels in power-down (R283) and `hops` the link crossings of flits sent that no period of the governor has counted (R301, R354). -/
structure Die where
  reg : SMap Word
  stns : SMap Station
  mesh : List Flit
  wakeQ : List Nat
  pcie : Pcie
  jobStns : List Nat
  jobStarted : Bool
  runSet : List Nat
  colls : SMap CollDef
  xqs : SMap XQueue
  sess : Sess
  net : Net
  gov : Gov
  links : List MeshLink
  job : JobRun
  rwo : List Nat
  polled : SMap Nat
  eids : List Nat
  refresh : SMap Nat
  pdown : BitVec 80
  hops : Nat
  deriving DecidableEq, Repr

/-- The edge and station domains as power-up leaves them. -/
def Die.reset : Die where
  reg := []
  stns := []
  mesh := []
  wakeQ := []
  pcie := Pcie.reset
  jobStns := []
  jobStarted := false
  runSet := []
  colls := []
  xqs := []
  sess := ⟨0, [], []⟩
  net := Net.reset
  gov := Gov.reset
  links := []
  job := ⟨0, 0, false⟩
  rwo := []
  polled := []
  eids := [0, 0]
  refresh := []
  pdown := 0
  hops := 0

/-- A snapshot image of this module (R340, R341): generation, die state, golden copy and listed user ranges as memory cells. -/
structure Snapshot where
  gen : Nat
  die : Die
  golden : SMap Byte
  user : SMap Byte
  deriving DecidableEq, Repr

/-- The spill image (R388, R389): NSEQ, cause (0 brownout, 1 overvoltage, 2 thermal), tick of halt start, VALID, the die state. -/
structure Spill where
  nseq : Nat
  cause : Nat
  tick : Nat
  valid : Bool
  die : Die
  deriving DecidableEq, Repr

/-- A record of the halt log (R390, R394): NSEQ, closed, and the cause of R394 by which the state was lost, counted from 1, or 0. -/
structure HaltRecord where
  nseq : Nat
  closed : Bool
  cause : Nat
  deriving DecidableEq, Repr

/-- The fuse block (R418): owner key digests by slot, active slot, security version, ceiling and changes made, solo-mode enable, audit sequence. -/
structure Fuses where
  slots : List (List Byte)
  slot : Nat
  secver : Nat
  opmax : Nat
  ceilUsed : Nat
  solo : Bool
  audit : Nat
  deriving DecidableEq, Repr

/-- The mailbox (R416, R417): the running command (OP, SLOT, OFFSET, LEN, data), copies begun, ranges programmed as slot, start, length. -/
structure Mailbox where
  run : Option (Nat × Nat × Nat × Nat × List Byte)
  begun : List Nat
  done : List (Nat × Nat × Nat)
  deriving DecidableEq, Repr

/-- The Tender cartridge as the module knows it (R396 to R399): capacitance in mF, first-use date in days, successive failures to respond, calibration discharge under way, EOL logged, and whether a charge to 30.4 V is due, under way or paused (R397). -/
structure Cartridge where
  cap : Nat
  firstUse : Nat
  noResp : Nat
  cal : Bool
  eolLogged : Bool
  due : Bool
  deriving DecidableEq, Repr

/-- Supply and ride-through (R363, R382 to R394, R493): ticks in the halting or resuming state, the halt's cause, the trip latch (1 set and the supplies removed, 2 after a power cycle, until the bring-up that reports it), rail failures of this bring-up, whether a repeat of bring-up is due, the two alert inputs as asserted: SUPPLY_ALERT_N and the regulators', with the STATUS_WORDs read at the latter's assertion (R365), PERST_N low, and the tick of its deassertion. -/
structure Supply where
  ticks : Nat
  cause : Nat
  trip : Nat
  railFails : Nat
  repeatDue : Bool
  pinSupply : Bool
  pinReg : Bool
  words : List (Fin 7 × BitVec 16)
  perst : Bool
  perstTick : Nat
  deriving DecidableEq, Repr

/-- A request that waits at a controller for the end of self-refresh and retraining (R295): line, what is written from an offset, errors met. -/
structure MemReq where
  line : Nat
  w : Option (Nat × List Byte)
  lce : Bool
  ce : Bool
  ue : Bool
  deriving DecidableEq, Repr

/-- An attestation request that a halt defers (R425): medium, CODE, payload. -/
structure Asked where
  smbus : Bool
  code : Byte
  payload : List Byte
  deriving DecidableEq, Repr

/-- The module: the die, the always-on registers, LPDDR5X with its uncorrectable lines and the keys of the spill images that it holds by start address (log entry 14), the half of the snapshot region that holds the committed generation (R340), the requests that wait at its controllers, the clock of ticks, the snapshots that the partner holds of this module (newest first) and the copy under way, spill image, halt log, flash, fuses, the accepted plan with its digest and measurements, mailbox, cartridge, supply, the attestation requests deferred, latches of R473, recovery history, the log of outputs, the free-value counter, and the queue of waiting commands. -/
structure State where
  die : Die
  aoReg : SMap Word
  lpddr : SMap Byte
  poison : List Nat
  images : List (Nat × Nat)
  snapHalf : Nat
  memWait : List MemReq
  uptime : Nat
  powered : Bool
  l480 : Bool
  snaps : List Snapshot
  snapOut : Option Snapshot
  spill : Option Spill
  haltLog : List HaltRecord
  flash : SMap Byte
  fuses : Fuses
  plan : Plan
  image : List Byte
  meas : List (List Byte)
  mbx : Mailbox
  cart : Cartridge
  sup : Supply
  asked : List Asked
  latch : SMap (Option Word)
  ownSteps : List Nat
  out : List Out
  free : Nat
  pending : List Instr
  deriving DecidableEq, Repr

/-- The module right after power-on: BRINGUP, the edge and station domains off, memories as log entry 4 says, fuses as shipped (log entry 6), variant S320 (log entry 7). -/
def State.reset : State where
  die := Die.reset
  aoReg := []
  lpddr := []
  poison := []
  images := []
  snapHalf := 0
  memWait := []
  uptime := 0
  powered := false
  l480 := false
  snaps := []
  snapOut := none
  spill := none
  haltLog := []
  flash := []
  fuses := ⟨[], 0, 0, 7, 0, false, 0⟩
  plan := Plan.none
  image := []
  meas := List.replicate 8 (List.replicate 48 0)
  mbx := ⟨none, [], []⟩
  cart := ⟨0, 0, 0, false, false, false⟩
  sup := ⟨0, 0, 0, 0, false, false, false, [], true, 0⟩
  asked := []
  latch := []
  ownSteps := []
  out := []
  free := 0
  pending := []

/-- Who stops a step and why. -/
inductive Fault where
  /-- Raised by the LPDDR5X controller commands for a line beyond the fitted capacity, which does not exist (R126, R281). Safe. -/
  | noSuchLine
  deriving DecidableEq, Repr

/-- A command without a meaning. -/
inductive Refusal where
  /-- Raised by an arm of `exec` that has no meaning yet. Safe. -/
  | notModelled (mnemonic : String)
  deriving DecidableEq, Repr

end Sys2Proof.Machine
end

