-- ==== Sys2Proof/Machine/Airel.lean ====
section
/-! DEFINITION. The geometry of the Airel mesh: nodes, links, routes, hops (R298, R301, R302). -/
namespace Sys2Proof.Machine

/-- An edge id at which an edge router stands: each serves one block, so there is none where the table names no block (R298). DEDUCED, log entry 79. -/
def edgeExists (e : Nat) : Bool :=
  decide (e < 16) || (decide (e < 48) && decide (3 ≤ e % 16) && decide (e % 16 ≤ 12))

/-- The station router to which an edge router is linked (R298). -/
def attachedTo (e : Nat) : Nat :=
  if e < 8 then 16 * e else if e < 16 then 16 * (e - 8) + 15 else if e < 32 then e - 16 else 112 + (e - 32)

/-- The side of its station router on which an edge router lies: 0 +x, 1 −x, 2 +y, 3 −y (R298). -/
def edgeSide (e : Nat) : Nat := if e < 8 then 1 else if e < 16 then 0 else if e < 32 then 3 else 2

/-- The station router at which the flits of a node travel the array. -/
def routerOf (node : Nat) : Nat := if node < 128 then node else attachedTo (node - 128)

/-- The link into node `r` from its side `d` exists (R298): a neighbour or an edge router lies there; an edge router has the one link. -/
def linkExists (r d : Nat) : Bool :=
  if r < 128 then
    match d with
    | 0 => true
    | 1 => true
    | 2 => decide (r / 16 < 7) || edgeExists (32 + r % 16)
    | 3 => decide (0 < r / 16) || edgeExists (16 + r % 16)
    | _ => false
  else edgeExists (r - 128) && decide (d = 0)

/-- A link crossed: the node that receives and the side from which the flit comes. -/
abbrev Crossing := Nat × Nat

/-- The links crossed along row `y` from column `a` to column `b`. -/
def xCrossings (y a b : Nat) : List Crossing :=
  if a ≤ b then (List.range (b - a)).map (fun k => (16 * y + a + 1 + k, 1))
  else (List.range (a - b)).map (fun k => (16 * y + a - 1 - k, 0))

/-- The links crossed along column `x` from row `a` to row `b`. -/
def yCrossings (x a b : Nat) : List Crossing :=
  if a ≤ b then (List.range (b - a)).map (fun k => (16 * (a + 1 + k) + x, 3))
  else (List.range (a - b)).map (fun k => (16 * (a - 1 - k) + x, 2))

/-- The route between two nodes (R301): across the edge link, along x, along y, across the edge link. -/
def route (a b : Nat) : List Crossing :=
  if a = b then []
  else
    let p := routerOf a
    let q := routerOf b
    (if a < 128 then [] else [(p, edgeSide (a - 128))])
      ++ xCrossings (p / 16) (p % 16) (q % 16) ++ yCrossings (q % 16) (p / 16) (q / 16)
      ++ (if b < 128 then [] else [(b, 0)])

/-- The hops of a unicast flit (R301). -/
def hopsOf (a b : Nat) : Nat := (route a b).length

/-- The hops of a multicast flit: each link of the tree is crossed once (R302). -/
def treeHops (a : Nat) (bs : List Nat) : Nat := ((bs.flatMap (route a)).dedup).length

/-- No link of the route has stopped (R299, R301). -/
def State.pathOpen (s : State) (a b : Nat) : Bool :=
  (route a b).all (fun c => !s.die.links.any (fun l => l.stopped && decide (l.router = c.1) && decide (l.dir = c.2)))

end Sys2Proof.Machine
end

