-- ==== Sys2Proof/Machine/Maps.lean ====
section
/-! DEFINITION. Sparse maps, bit fields, byte strings and the memories built of them. -/
namespace Sys2Proof.Machine

variable {α : Type}

/-- The value at a key: what is listed there, or the default of that key. -/
def mget (d : Nat → α) : SMap α → Nat → α
  | [], k => d k
  | (a, x) :: r, k => if a = k then x else mget d r k

/-- The map without a key. -/
def merase (m : SMap α) (k : Nat) : SMap α := m.filter (fun p => decide (p.1 ≠ k))

/-- The map with a pair put in its place by key. -/
def mins : SMap α → Nat → α → SMap α
  | [], k, v => [(k, v)]
  | (a, x) :: r, k, v => if a < k then (a, x) :: mins r k v else (k, v) :: (a, x) :: r

/-- The map with key `k` reading as `v`; writing the default removes the entry. -/
def mset [DecidableEq α] (d : Nat → α) (m : SMap α) (k : Nat) (v : α) : SMap α :=
  if v = d k then merase m k else mins (merase m k) k v

/-- The keys rise strictly from above `lo`. -/
def risingFrom : Nat → SMap α → Bool
  | _, [] => true
  | lo, (a, _) :: r => decide (lo ≤ a) && risingFrom (a + 1) r

/-- The canonical form: strictly rising keys and no entry equal to its default. -/
def mwf [DecidableEq α] (d : Nat → α) (m : SMap α) : Bool :=
  risingFrom 0 m && m.all (fun p => decide (p.2 ≠ d p.1))

/-- The field of `len` bits from bit `lo`. -/
def fld {n : Nat} (w : BitVec n) (lo len : Nat) : Nat := (w.toNat >>> lo) % 2 ^ len

/-- One bit as a truth value. -/
def bitAt {n : Nat} (w : BitVec n) (i : Nat) : Bool := w.getLsbD i

/-- A word with the field of `len` bits from bit `lo` replaced. -/
def putFld {n : Nat} (w : BitVec n) (lo len v : Nat) : BitVec n :=
  let mask := BitVec.ofNat n ((2 ^ len - 1) <<< lo)
  (w &&& ~~~mask) ||| (BitVec.ofNat n ((v % 2 ^ len) <<< lo))

/-- A word with one bit set or cleared. -/
def putBit {n : Nat} (w : BitVec n) (i : Nat) (b : Bool) : BitVec n := putFld w i 1 (if b then 1 else 0)

/-- Two's complement reading of a field of `bits` bits. -/
def sx (bits v : Nat) : Int :=
  let r := v % 2 ^ bits
  if r < 2 ^ (bits - 1) then (r : Int) else (r : Int) - 2 ^ bits

/-- The `n` little-endian bytes of a number. -/
def leBytes (n v : Nat) : List Byte := (List.range n).map (fun i => BitVec.ofNat 8 (v >>> (8 * i)))

/-- The number that little-endian bytes spell. -/
def leNat : List Byte → Nat
  | [] => 0
  | b :: r => b.toNat + 256 * leNat r

/-- A signed number as a pattern of `n` bits. -/
def ofS (n : Nat) (v : Int) : Nat := (BitVec.ofInt n v).toNat

/-- What an unlisted byte of a memory reads as: 0. DESIGN CHOICE, log entry 4. -/
def byte0 (_ : Nat) : Byte := 0

/-- What an unlisted byte of the configuration flash reads as: erased, 0xFF. DESIGN CHOICE, log entry 4. -/
def byteFF (_ : Nat) : Byte := 0xFF

/-- The addresses of `n` consecutive bytes from `a`, modulo `top`. -/
def addrs (top a n : Nat) : List Nat := (List.range n).map (fun i => (a + i) % top)

/-- `n` bytes of a memory of `top` bytes from `a`, with wrap. -/
def rdBytes (top : Nat) (m : SMap Byte) (a n : Nat) : List Byte := (addrs top a n).map (mget byte0 m)

/-- One byte written to a memory of `top` bytes. -/
def wrByte (top : Nat) (m : SMap Byte) (a : Nat) (b : Byte) : SMap Byte := mset byte0 m (a % top) b

/-- Consecutive bytes written from `a`, with wrap. -/
def wrBytes (top : Nat) (m : SMap Byte) (a : Nat) : List Byte → SMap Byte
  | [] => m
  | b :: r => wrBytes top (wrByte top m a b) (a + 1) r

/-- The size of platform memory (R90, R96). -/
def pmTop : Nat := 0x100000

/-- A little-endian number of `n` bytes in platform memory (R21, R96). -/
def pmRd (m : SMap Byte) (a n : Nat) : Nat := leNat (rdBytes pmTop m a n)

/-- A little-endian number of `n` bytes written to platform memory. -/
def pmWr (m : SMap Byte) (a n v : Nat) : SMap Byte := wrBytes pmTop m a (leBytes n v)

/-- The size of the signal box local store (R102). -/
def lsTop : Nat := 0x10000

/-- A masked write of one byte of platform memory: address, mask, value. -/
abbrev MaskedByte := Nat × Byte × Byte

/-- Masked bytes written in order to platform memory, addresses modulo its size (R96). -/
def pmApply (m : SMap Byte) (ws : List MaskedByte) : SMap Byte :=
  ws.foldl (fun p w =>
    let old := mget byte0 p (w.1 % pmTop)
    wrByte pmTop p w.1 ((old &&& ~~~w.2.1) ||| (w.2.2 &&& w.2.1))) m

/-- Whole bytes as masked writes from an address. -/
def whole (a : Nat) (bs : List Byte) : List MaskedByte :=
  ((List.range bs.length).zip bs).map (fun p => (a + p.1, 0xFF, p.2))

/-- A list as a sparse map keyed by position, without entries equal to the default. -/
def smapOf {α : Type} [DecidableEq α] (d : α) (l : List α) : SMap α :=
  ((List.range l.length).zip l).filter (fun p => decide (p.2 ≠ d))

/-- A saturating 32-bit count (R46). -/
def satAdd (w : Word) (k : Nat) : Word := BitVec.ofNat 32 (min (w.toNat + k) 0xFFFFFFFF)

/-- The least k with n at most 2^k, for the sizes of R60. -/
def clog2 (n : Nat) : Nat := ((List.range 12).find? (fun k => decide (n ≤ 2 ^ k))).getD 12

end Sys2Proof.Machine
end

