-- ==== Sys2Proof/Machine/Exact.lean ====
section
/-! DEFINITION. Exact values and the rounding and exponent rules of spec/02_number_formats.md (R38 to R45). -/
namespace Sys2Proof.Machine

/-- An exponent limited to ±16,384. Every exponent that a code, a scale or a table can give lies inside, but for EXP2 of a huge input and a carry between far apart REFs; beyond it, every rounding of R38 to R45 gives what the exact power would give. DEDUCED, log entry 20. -/
def boundExp (t : Int) : Int := max (-16384) (min 16384 t)

/-- 2^t as an exact value, its exponent limited by `boundExp`. -/
def pow2 (t : Int) : Rat :=
  let b := boundExp t
  if 0 ≤ b then ((2 ^ b.toNat : Nat) : Rat) else mkRat 1 (2 ^ (-b).toNat)

/-- Round to nearest, ties to even (R39). -/
def rne (x : Rat) : Int :=
  let f := x.floor
  let d := x - f
  if d < mkRat 1 2 then f
  else if mkRat 1 2 < d then f + 1
  else if f % 2 = 0 then f else f + 1

/-- The least of a list of exact values, 0 when it is empty. -/
def minRat : List Rat → Rat
  | [] => 0
  | a :: r => r.foldl (fun x y => if y < x then y else x) a

/-- The greatest of a list of exact values, 0 when it is empty. -/
def maxRat : List Rat → Rat
  | [] => 0
  | a :: r => r.foldl (fun x y => if x < y then y else x) a

/-- All values, rounded to multiples of 2^t, lie from `cmin` to `cmax`; rounding is monotone, so the two ends decide. -/
def fitsAt (cmin cmax : Int) (lo hi : Rat) (t : Int) : Bool :=
  decide (cmin ≤ rne (lo * pow2 (-t))) && decide (rne (hi * pow2 (-t)) ≤ cmax)

/-- The floor of the binary logarithm of the larger magnitude, to within 1: where a search for an exponent may begin. -/
def magFloor (lo hi : Rat) : Int :=
  let x := if hi < -lo then -lo else hi
  (Nat.log2 x.num.natAbs : Int) - (Nat.log2 x.den : Int)

/-- The first of `fuel` exponents from `t` that passes a test. -/
def firstFit (p : Int → Bool) : Nat → Int → Option Int
  | 0, _ => none
  | f + 1, t => if p t then some t else firstFit p f (t + 1)

/-- The tile exponent of R38: the least T from -1,024 to 1,023 at which every value fits an L32 code; -1,024 for zeros. -/
def tileExp (vs : List Rat) : Option Int :=
  let lo := minRat vs
  let hi := maxRat vs
  if lo = 0 ∧ hi = 0 then some (-1024)
  else
    let start := max (-1024) (magFloor lo hi - 34)
    firstFit (fun t => fitsAt (-(2 ^ 31)) (2 ^ 31 - 1) lo hi t) (1024 - start).toNat start

/-- A code limited to a range, with the count of codes saturated (R43). -/
def clampCode (cmin cmax : Int) (c : Int) : Int × Nat :=
  if c > cmax then (cmax, 1) else if c < cmin then (cmin, 1) else (c, 0)

/-- Conversion into a signed format at a fixed exponent (R43): codes and the count of saturated codes. -/
def convSignedFixed (bits e : Nat) (vs : List Rat) : List Int × Nat :=
  if e = 0 ∨ e = 255 then (vs.map (fun _ => 0), 0)
  else
    let rs := vs.map (fun v => clampCode (-(2 ^ (bits - 1))) (2 ^ (bits - 1) - 1) (rne (v * pow2 (127 - e))))
    (rs.map (·.1), (rs.map (·.2)).sum)

/-- The exponent of R40, if one from 1 to 254 fits. -/
def autoExp (bits : Nat) (vs : List Rat) : Option Nat :=
  let lo := minRat vs
  let hi := maxRat vs
  ((List.range 254).map (· + 1)).find? (fun e =>
    fitsAt (-(2 ^ (bits - 1))) (2 ^ (bits - 1) - 1) lo hi ((e : Int) - 127))

/-- Conversion into a signed format with automatic exponent (R40, R42, R44): exponent, codes and saturated codes. -/
def convSigned (bits : Nat) (vs : List Rat) : Nat × List Int × Nat :=
  match autoExp bits vs with
  | some e =>
    let rs := vs.map (fun v => rne (v * pow2 (127 - e)))
    if rs.all (fun r => decide (r = 0)) then (0, rs, 0) else (e, rs, 0)
  | none =>
    let (cs, k) := convSignedFixed bits 254 vs
    (254, cs, k)

/-- Conversion into U4 or U8 at a fixed exponent and zero point (R43). -/
def convUnsignedFixed (bits e z : Nat) (vs : List Rat) : List Int × Nat :=
  if e = 0 ∨ e = 255 then (vs.map (fun _ => 0), 0)
  else
    let rs := vs.map (fun v => clampCode 0 (2 ^ bits - 1) (rne (v * pow2 (127 - e)) + z))
    (rs.map (·.1), (rs.map (·.2)).sum)

/-- Conversion into U4 or U8 with automatic exponent and zero point (R41, R42, R44): exponent, zero point, codes, saturated codes. -/
def convUnsigned (bits : Nat) (vs : List Rat) : Nat × Nat × List Int × Nat :=
  let lo0 := minRat vs
  let hi0 := maxRat vs
  let lo (e : Nat) : Int := min 0 (rne (lo0 * pow2 (127 - e)))
  let hi (e : Nat) : Int := max 0 (rne (hi0 * pow2 (127 - e)))
  match ((List.range 254).map (· + 1)).find? (fun e => decide (hi e - lo e ≤ 2 ^ bits - 1)) with
  | some e =>
    let rs := vs.map (fun v => rne (v * pow2 (127 - e)))
    if rs.all (fun r => decide (r = 0)) then (0, 0, rs, 0)
    else (e, (-(lo e)).toNat, rs.map (fun r => r - lo e), 0)
  | none =>
    let z := min (2 ^ bits - 1) (-(lo 254)).toNat
    let (cs, k) := convUnsignedFixed bits 254 z vs
    (254, z, cs, k)

end Sys2Proof.Machine
end

