-- ==== Sys2Proof/Machine/RegMap.lean ====
section
/-! DEFINITION. The BAR0 map of spec/19_register_map.md: which addresses are registers, which bits a write sets, and every reset value. -/
namespace Sys2Proof.Machine

/-- Base address of a station's register page (R476). -/
def pageBase (s : Nat) : Nat := 0x02000000 + s * 0x10000

/-- A station page offset that holds registers (R476). -/
def stnMask (o : Nat) : Option Word :=
  if o = 0x0000 then some 0
  else if o = 0x0004 then some 0x3
  else if 0x0120 ≤ o ∧ o ≤ 0x0138 then some 0xFFFFFFFF
  else if o = 0x0140 ∨ o = 0x0144 then some 0xFFFFFFFF
  else if 0x0148 ≤ o ∧ o ≤ 0x0158 then some 0xFFFFFFFF
  else if o = 0x015C ∨ o = 0x0160 then some 0
  else if o = 0x0164 then some 0x00FFFDFF
  else if o = 0x0168 then some 0
  else if o = 0x0170 then some 0x1
  else if 0x0180 ≤ o ∧ o ≤ 0x01BC then some 0x3F3F3F3F
  else if 0x0200 ≤ o ∧ o ≤ 0x023C then some 0x000FFFC0
  else if 0x0300 ≤ o ∧ o ≤ 0x033C then some 0
  else if 0x1000 ≤ o ∧ o ≤ 0x1FFF then
    let p := o % 128
    if p = 0 then some 0xFFFFFFFF
    else if p = 4 then some 0x1FFFFFFF
    else if p < 0x40 then none
    else if p % 8 = 0 then some 0xFFFFFFFF
    else some 0xFFFF07FF
  else if 0x2000 ≤ o ∧ o ≤ 0x2FFF then some 0x0FFFFFFF
  else if 0x8000 ≤ o ∧ o ≤ 0xFFFF then some 0
  else none

/-- A MESH block offset that holds registers (R476). -/
def meshMask (o : Nat) : Option Word :=
  if o = 0x0010 then some 0xFFFFFFFF
  else if 0x1000 ≤ o ∧ o ≤ 0x17FF then
    let p := o % 0x20
    if p = 0 then some 0x7FFF else if p ≤ 0x10 then some 0xFFFFFFFF else none
  else if 0x2000 ≤ o ∧ o ≤ 0x27FF then some 0xFFFFFFFF
  else if 0x4000 ≤ o ∧ o ≤ 0x41FF then some 0xFFFFFFFF
  else if 0x6000 ≤ o ∧ o ≤ 0x6FFF then
    let p := o % 0x40
    if p = 0 then some 0x001FFFFF
    else if p = 4 then some 0xFFFFFFFF
    else if p ≤ 0x18 then some 0x000FFFC0
    else if p = 0x1C then some 0xFFFFFFFF
    else none
  else if 0x8000 ≤ o ∧ o ≤ 0x83FF then
    if o % 0x10 = 8 then some 0 else some 0xFFFFFFFF
  else if 0xA000 ≤ o ∧ o ≤ 0x29FFF then
    let p := (o - 0xA000) % 0x400
    if p = 0 then some 0x7F else if 0x20 ≤ p ∧ p ≤ 0x21C then some 0 else none
  else none

/-- A GOV block offset that holds registers (R381). -/
def govMask (o : Nat) : Option Word :=
  if o = 0x00 then some 0
  else if o = 0x04 then some 0x7
  else if o = 0x08 ∨ o = 0x0C then some 0x1FF
  else if o = 0x10 then some 0x7F
  else if o = 0x14 then some 0x3F
  else if o = 0x18 then some 0xFFFF
  else if o = 0x1C then some 0x07FFFFFF
  else if o = 0x20 then some 0x01FF01FF
  else if o = 0x24 then some 0x7F
  else if o = 0x28 then some 0x7
  else if o = 0x2C then some 0xFFFF
  else if o = 0x30 ∨ o = 0x34 ∨ o = 0x38 ∨ o = 0x40 ∨ o = 0x44 then some 0
  else if 0x88 ≤ o ∧ o < 0xD0 then some 0
  else if o = 0x100 then some 0xFFFFFFFF
  else if 0x400 ≤ o ∧ o < 0x800 then some 0xF
  else if 0x800 ≤ o ∧ o < 0xC00 then some 0xFFFF
  else none

/-- A HOSTQ block offset that holds registers (R445, R441). -/
def hostqMask (o : Nat) : Option Word :=
  if o < 0x1000 then
    let p := o % 0x100
    if p = 0x00 then some 0x00FFFFFB
    else if p = 0x04 then some 0xFFFFF000
    else if p = 0x0C then some 0xFFFFFFF8
    else if p ≤ 0x10 then some 0xFFFFFFFF
    else if p = 0x14 then some 0xFFFF
    else if p = 0x18 then some 0
    else if p = 0x1C then some 0x07FFFFFF
    else if p = 0x20 then some 0x0007FFFF
    else if p ≤ 0x28 then some 0xFFFFFFFF
    else none
  else if o = 0x4000 then some 0x3FF
  else if o = 0x4004 then some 0xFFFFFFFF
  else if o = 0x4008 then some 0
  else if 0x8000 ≤ o ∧ o < 0x8400 then some (if o % 16 = 12 then 0x1 else 0xFFFFFFFF)
  else if o = 0x9000 ∨ o = 0x9004 then some 0
  else none

/-- A LINK block offset that holds registers (R344). -/
def linkMask (o : Nat) : Option Word :=
  let p := o % 0x1000
  if p = 0 ∨ p = 8 then some 0
  else if p = 4 then some 0x1
  else if 0x10 ≤ p ∧ p ≤ 0x1C then some 0xFFFFFFFF
  else if o < 0x800 ∨ 0x840 ≤ o then none
  else if o = 0x800 then some 0x7FFF
  else if o = 0x804 then some 0x3FFFF
  else if o = 0x808 then some 0x3FFF
  else if o = 0x80C then some 0x7FFF
  else if o = 0x810 then some 0xFFFFFFFF
  else if o = 0x814 then some 0x00FFFFFF
  else if o = 0x818 then some 0x01FFFFFF
  else if o = 0x81C then some 0xFFFFFFFF
  else if o = 0x820 then some 0x7
  else if o = 0x83C then some 0xFFFFFFFF
  else some 0

/-- A MEM block offset that holds registers (R297). -/
def memMask (o : Nat) : Option Word :=
  let p := o % 0x1000
  if p = 0 then some 0
  else if 0x10 ≤ p ∧ p ≤ 0x20 then some 0xFFFFFFFF
  else if o = 0x800 ∨ o = 0x80C then some 0
  else if o = 0x804 then some 0x7F
  else if o = 0x808 then some 0xFFFFFFFF
  else if 0x810 ≤ o ∧ o ≤ 0x82C then some 0x3FF
  else none

/-- The bits of dword `k` of a session descriptor that a host write sets: not the reserved ones, and not BERTH, which is 0 while the session is not BERTHED (R229, R231). -/
def sessMask (k : Nat) : Word :=
  match k with
  | 0 => 0x000F00FF
  | 5 => 0x3
  | 7 => 0x3
  | 9 => 0x7
  | _ => if k < 12 then 0xFFFFFFFF else 0

/-- The bits of a BAR0 register that a plain write sets; `none` for a reserved address (R469). Addresses are multiples of 4. -/
def rwMask (a : Nat) : Option Word :=
  if a % 4 ≠ 0 then none
  else if a < 0x28 then (if a = 0x20 ∨ a = 0x24 then some 0xFFFFFFFF else some 0)
  else if 0x10000 ≤ a ∧ a ≤ 0x1001C then (if a = 0x10014 then some 0x01FFFFFF else some 0)
  else if 0x11000 ≤ a ∧ a ≤ 0x11FFF then some 0xFFFFFFFF
  else if 0x20000 ≤ a ∧ a ≤ 0x20010 then some 0
  else if 0x30000 ≤ a ∧ a ≤ 0x3FFFF then govMask (a - 0x30000)
  else if 0x40000 ≤ a ∧ a ≤ 0x40038 then
    (if a = 0x40004 then some 0x1 else if a = 0x4001C then some 0x1F
     else if 0x40030 ≤ a then some 0xFFFFFFFF else some 0)
  else if 0x50000 ≤ a ∧ a ≤ 0x5FFFF then hostqMask (a - 0x50000)
  else if 0x60000 ≤ a ∧ a ≤ 0x6003C then
    (if a = 0x60004 then some 0x3 else if a = 0x60008 then some 0x7FF
     else if a = 0x60010 ∨ a = 0x60014 then some 0xFFFFFFFF
     else if 0x60020 ≤ a ∧ a ≤ 0x60038 then some 0xFFFFFFFF
     else if a = 0x60018 ∨ a = 0x6001C then none else some 0)
  else if 0x68000 ≤ a ∧ a ≤ 0x6FFFF then some 0
  else if 0x80000 ≤ a ∧ a ≤ 0x8BFFF then linkMask (a - 0x80000)
  else if 0x100000 ≤ a ∧ a ≤ 0x113FFF then memMask (a - 0x100000)
  else if 0x200000 ≤ a ∧ a ≤ 0x3FFFFF then meshMask (a - 0x200000)
  else if 0x400000 ≤ a ∧ a ≤ 0x49FFFF then some (sessMask (a % 64 / 4))
  else if a = 0x4F0000 then some 0xFF
  else if a = 0x4F0004 ∨ a = 0x4F000C ∨ a = 0x4F0010 then some 0xFFFFFFFF
  else if a = 0x4F0008 then some 0
  else if 0x2000000 ≤ a ∧ a ≤ 0x27FFFFF then stnMask (a % 0x10000)
  else none

/-- A register whose fields are RWO (R8, R344, R297). -/
def isRwo (a : Nat) : Bool :=
  a = 0x80800 || a = 0x80804 || a = 0x80808 || a = 0x8080C || a = 0x80820 ||
  a = 0x100804 || (0x100810 ≤ a && a ≤ 0x10082C)

/-- The reset value of a BAR0 register (R480). -/
def regReset (a : Nat) : Word :=
  if a = 0x30000 then 0x12
  else if a = 0x30004 then 0x4
  else if a = 0x30008 then 0x17C
  else if a = 0x3000C then 0x1CC
  else if a = 0x30010 then 0x19
  else if a = 0x30014 then 0x8
  else if a = 0x30018 then 0x64
  else if a = 0x3001C then 0x02000FA0
  else if a = 0x30020 then 0x012C019A
  else if a = 0x30024 then 0x69
  else if a = 0x30028 then 0x7
  else if a = 0x3002C then 0x200
  else if a = 0x30034 then 0x4000
  else if 0x30400 ≤ a ∧ a < 0x30800 then 0x6
  else if a = 0x40004 then 0x1
  else if a = 0x4001C then 0x14
  else if 0x50000 ≤ a ∧ a < 0x51000 ∧ a % 0x100 = 0 then 0x30
  else if a = 0x60004 then 0x3
  else if a = 0x60008 then 0xA
  else if 0x80000 ≤ a ∧ a ≤ 0x8BFFF ∧ a % 0x1000 = 4 then 0x1
  else if a = 0x80804 then 0x1041
  else if a = 0x80814 then 0x1B7740
  else if a = 0x80820 then 0x7
  else if 0x202000 ≤ a ∧ a ≤ 0x2027FF then
    let s := (a - 0x202000) / 0x10
    if (a % 0x10) / 4 = s / 32 then BitVec.ofNat 32 (2 ^ (s % 32)) else 0
  else if 0x58000 ≤ a ∧ a < 0x58400 ∧ a % 16 = 12 then 1
  else if a = 0x4F0000 then 0x80
  else if 0x2000000 ≤ a ∧ a ≤ 0x27FFFFF ∧ 0x180 ≤ a % 0x10000 ∧ a % 0x10000 ≤ 0x1BC then
    let i := (a % 0x10000 - 0x180) / 4
    BitVec.ofNat 32 (4 * i + (4 * i + 1) * 0x100 + (4 * i + 2) * 0x10000 + (4 * i + 3) * 0x1000000)
  else 0

end Sys2Proof.Machine
end

