-- ==== Sys2Proof/Machine/Ops.lean ====
section
/-! DEFINITION. The named operations over registers, stations, memories, fault records and interrupts. -/
namespace Sys2Proof.Machine

/-- The outcome of every meaning that goes on. -/
abbrev Result := Host.Outcome State Fault Refusal

/-- BAR0 blocks in the always-on domain (R469). -/
def alwaysOn (a : Nat) : Bool :=
  decide (a < 0x30000) || (decide (0x40000 ≤ a) && decide (a < 0x50000)) || (decide (0x60000 ≤ a) && decide (a < 0x70000))

/-- A BAR0 register as stored. -/
def State.reg (s : State) (a : Nat) : Word :=
  if alwaysOn a then mget regReset s.aoReg a else mget regReset s.die.reg a

/-- A BAR0 register set. -/
def State.setReg (s : State) (a : Nat) (v : Word) : State :=
  if alwaysOn a then { s with aoReg := mset regReset s.aoReg a v }
  else { s with die := { s.die with reg := mset regReset s.die.reg a v } }

/-- A counter raised by `k`, stopping at 0xFFFF_FFFF (R46). -/
def State.bump (s : State) (a k : Nat) : State := s.setReg a (satAdd (s.reg a) k)

/-- A field of a register replaced. -/
def State.setFld (s : State) (a lo len v : Nat) : State := s.setReg a (putFld (s.reg a) lo len v)

/-- A station. -/
def State.stn (s : State) (i : Nat) : Station := mget (fun _ => Station.reset) s.die.stns i

/-- A station replaced. -/
def State.setStn (s : State) (i : Nat) (x : Station) : State :=
  { s with die := { s.die with stns := mset (fun _ => Station.reset) s.die.stns i x } }

/-- A register of a station's page. -/
def State.preg (s : State) (i o : Nat) : Word := s.reg (pageBase i + o)

/-- A station page counter raised. -/
def State.pbump (s : State) (i o k : Nat) : State := s.bump (pageBase i + o) k

/-- The next arbitrary value (R6), of which nothing is known. Log entry 13. -/
def State.fresh (s : State) : Nat × State := (Config.freeNat s.free, { s with free := s.free + 1 })

/-- An output appended to the log of outputs. -/
def State.emit (s : State) (o : Out) : State := { s with out := s.out ++ [o] }

/-- Traffic on the PCIe link ends L1 (R429). -/
def State.leaveL1 (s : State) : State := { s with die := { s.die with pcie := { s.die.pcie with l1 := false } } }

/-- MSI-X vector `v` signalled: pending while masked, sent otherwise (R441). -/
def State.signal (s : State) (v : Nat) : State :=
  let base := 0x58000 + 16 * v
  if s.die.pcie.msixEn then
    if s.die.pcie.msixMask || bitAt (s.reg (base + 12)) 0 then
      { s with die := { s.die with pcie := { s.die.pcie with pba := putBit s.die.pcie.pba v true } } }
    else
      s.leaveL1.emit (.msix v ((s.reg (base + 4)).toNat * 2 ^ 32 + (s.reg base).toNat) (s.reg (base + 8)))
  else s

/-- BOOT_STATUS.STATE (R402). -/
def State.mstate (s : State) : Nat := fld (s.reg 0x10000) 0 3

/-- A change of BOOT_STATUS.STATE signals vector 1 (R402, R441). -/
def State.enter (s : State) (n : Nat) : State :=
  let t := s.setReg 0x10000 (putFld (s.reg 0x10000) 0 3 n)
  if s.mstate = n then t else t.signal 1

/-- BOOT_GOLDEN.VALID set or cleared; a change signals vector 1 (R294, R441). -/
def State.setGolden (s : State) (b : Bool) : State :=
  let t := s.setReg 0x1001C (if b then 1 else 0)
  if s.reg 0x1001C = t.reg 0x1001C then t else t.signal 1

/-- LINK_ISEQ (R344). -/
def State.iseq (s : State) : Word := s.reg 0x80830

/-- The words of a fault record (R446). -/
def faultWords (s : State) (code step unit : Nat) (d0 : Word) (d1 : BitVec 64) : List Word :=
  [BitVec.ofNat 32 (code + step * 0x10000), BitVec.ofNat 32 unit,
   BitVec.ofNat 32 s.uptime, BitVec.ofNat 32 (s.uptime / 2 ^ 32), s.iseq, d0,
   BitVec.ofNat 32 d1.toNat, BitVec.ofNat 32 (d1.toNat / 2 ^ 32)]

/-- Words written to consecutive registers. -/
def State.setRegs (s : State) (a : Nat) : List Word → State
  | [] => s
  | w :: r => State.setRegs (s.setReg a w) (a + 4) r

/-- One fault record logged: its place in the ring, FAULT_WR, the overwrite count, vector 0, and the UART in BRINGUP or HELD (R446, R447). -/
def State.logFault (s : State) (code step unit : Nat) (d0 : Word) (d1 : BitVec 64) : State :=
  let wr := s.reg 0x6000C
  let ws := faultWords s code step unit d0 d1
  let s1 := s.setRegs (0x68000 + 32 * (wr.toNat % 1024)) ws
  let s2 := if 1024 ≤ (wr - s.reg 0x60010).toNat then s1.bump 0x60014 1 else s1
  let s3 := s2.setReg 0x6000C (wr + 1)
  let s4 := if s.mstate = 0 ∨ s.mstate = 1 then s3.emit (.uart ws) else s3
  s4.signal 0

/-- A ladder step taken: its counter and its record (R449). -/
def State.ladder (s : State) (code step unit : Nat) (d0 : Word) (d1 : BitVec 64) : State :=
  (s.bump (0x60020 + 4 * (step - 1)) 1).logFault code step unit d0 d1

/-! ### LPDDR5X -/

/-- The fitted capacity in MiB (R281). -/
def State.capMib (s : State) : Nat := if s.l480 then 491520 else 327680

/-- The fitted capacity in bytes. -/
def State.capBytes (s : State) : Nat := s.capMib * 0x100000

/-- MEM_SNAPSZ.N in GiB; 65 to 127 act as 64 (R286, R297). -/
def State.snapN (s : State) : Nat := min (fld (s.reg 0x100804) 0 7) 64

/-- USERTOP in MiB (R286). -/
def State.userTop (s : State) : Nat :=
  s.capMib - 680 - 1088 * s.snapN -
    64 * ((List.range 4).map (fun n => fld (s.reg (0x100814 + 8 * n)) 0 10)).sum

/-- The regions of R286. -/
inductive Region where
  | user | golden | spill | snapshot | store | beyond
  deriving DecidableEq, Repr

/-- The region of a byte address (R286). -/
def State.region (s : State) (a : Nat) : Region :=
  let mib := a / 0x100000
  let t := s.capMib
  if t ≤ mib then .beyond
  else if t - 480 ≤ mib then .spill
  else if t - 640 ≤ mib then .golden
  else if t - 680 ≤ mib then .store
  else if t - 680 - 1024 * s.snapN ≤ mib then .snapshot
  else if s.userTop ≤ mib then .store
  else .user

/-- A line range a station instruction may reach: user and golden copy only (R126, R287). -/
def State.stnMayReach (s : State) (line len : Nat) : Bool :=
  (List.range len).all (fun i =>
    match s.region ((line + i) * 64) with
    | .user => true
    | .golden => true
    | _ => false)

/-- The 64 bytes of a line. -/
def State.line (s : State) (l : Nat) : List Byte := (List.range 64).map (fun i => mget byte0 s.lpddr (l * 64 + i))

/-- Bytes of LPDDR5X from a byte address. -/
def State.memBytes (s : State) (a n : Nat) : List Byte := (List.range n).map (fun i => mget byte0 s.lpddr (a + i))

/-- Bytes written to LPDDR5X from a byte address. -/
def putBytes (m : SMap Byte) (a : Nat) : List Byte → SMap Byte
  | [] => m
  | b :: r => putBytes (mset byte0 m a b) (a + 1) r

/-- A whole line written; it then reads with good data and code (R289). -/
def State.setLine (s : State) (l : Nat) (bs : List Byte) : State :=
  { s with lpddr := putBytes s.lpddr (l * 64) bs, poison := s.poison.filter (fun x => decide (x ≠ l)) }

/-- Part of a line written: the enabled bytes; a poisoned line stays poisoned (R289). -/
def State.setPart (s : State) (a : Nat) (bs : List Byte) : State := { s with lpddr := putBytes s.lpddr a bs }

/-- The controller of a line (R281, R284). -/
def ctrlOf (l : Nat) : Nat := ((l * 64 / 4096) % 80) / 4

/-! ### Multicast sets and masks -/

/-- The members of multicast set `d`, in increasing index (R302). -/
def State.members (s : State) (d : Nat) : List Nat :=
  let c := s.reg (0x201000 + 0x20 * d)
  (List.range 128).filter (fun t =>
    if bitAt c 0 then bitAt (s.reg (0x201004 + 0x20 * d + 4 * (t / 32))) (t % 32)
    else decide (fld c 1 4 ≤ t % 16) && decide (t % 16 ≤ fld c 5 4) &&
      decide (fld c 9 3 ≤ t / 16) && decide (t / 16 ≤ fld c 12 3))

/-- Station `i` may send to station `t` (R305). -/
def State.maySend (s : State) (i t : Nat) : Bool :=
  decide (i = t) || bitAt (s.reg (0x202000 + 0x10 * i + 4 * (t / 32))) (t % 32)

/-! ### Tokens, flights and stops -/

/-- The flights of a station. -/
def Station.setFlight (x : Station) (f : Flight) : Station :=
  { x with iss := { x.iss with flight := x.iss.flight.map (fun g => if g.seq = f.seq then f else g) } }

/-- The flight of a given number. -/
def Station.flightOf (x : Station) (seq : Nat) : Option Flight := x.iss.flight.find? (fun f => f.seq = seq)

/-- The station waits at an interlock that it has posted (R139). -/
def Station.atPost (x : Station) : Bool :=
  match x.iss.posted with
  | some p => p.waits
  | none => false

/-- A stopping station with nothing queued or in flight enters STOPPED (R108). -/
def Station.settle (x : Station) : Station :=
  if x.ctl.stopping && x.iss.queue.isEmpty && x.iss.flight.isEmpty && !x.atPost then
    { x with ctl := { x.ctl with run := .stopped, stopping := false } }
  else x

/-- The DONE bit of a guarded instruction whose effect has landed (R269). -/
def Station.guardDone (x : Station) (g : Option (Nat × Nat)) : Station :=
  match g with
  | none => x
  | some (e, k) =>
    { x with ledger := { x.ledger with entries := x.ledger.entries.map (fun le =>
        if le.seq = e then { le with done := putBit le.done k true } else le) } }

/-- An instruction completes: its guarded effect is recorded and it leaves flight (R148, R269). -/
def Station.complete (x : Station) (seq : Nat) : Station :=
  match x.flightOf seq with
  | none => x
  | some f =>
    let y := x.guardDone f.guard
    Station.settle { y with iss := { y.iss with
      flight := y.iss.flight.filter (fun g => decide (g.seq ≠ seq)) } }

/-- A token made present; a token already present is counted (R273). -/
def State.giveToken (s : State) (i t : Nat) : State :=
  let x := s.stn i
  if bitAt x.tokens t then s.pbump i 0x154 1
  else s.setStn i { x with tokens := putBit x.tokens t true }

/-- The stop of R113: STOPPED, STN_CTRL.RUN reads 0, the queue issues nothing, ILLEGAL_OP is logged. -/
def State.illegalOp (s : State) (i : Nat) (w : PWord) : State :=
  let x := s.stn i
  let s1 := s.setStn i { x with ctl := { x.ctl with run := .stopped, stopping := false, issueOff := true, sleepReq := false } }
  (s1.setFld (pageBase i + 4) 0 1 0).logFault 0x0503 0 i (BitVec.ofNat 32 (fld w 0 8)) (BitVec.ofNat 64 w.toNat)

/-- A station asks for wake (R107): it joins the governor's queue once. -/
def State.requestWake (s : State) (i : Nat) : State :=
  let x := s.stn i
  if x.ctl.run = .asleep ∧ ¬ x.ctl.wakeReq ∧ ¬ x.ctl.admitted then
    let s1 := s.setStn i { x with ctl := { x.ctl with wakeReq := true } }
    { s1 with die := { s1.die with wakeQ := s1.die.wakeQ ++ [i] } }
  else s

/-- Link crossings added to those that the governor has still to count (R301, R354). -/
def State.addHops (s : State) (n : Nat) : State := { s with die := { s.die with hops := s.die.hops + n } }

/-- The mesh replaced. -/
def State.setMesh (s : State) (m : List Flit) : State := { s with die := { s.die with mesh := m } }

/-- Flits put into the mesh, each on its unicast route. -/
def State.sendAll (s : State) (fs : List Flit) : State :=
  (s.setMesh (s.die.mesh ++ fs)).addHops (fs.map (fun f => hopsOf f.src f.dst)).sum

/-- A flit put into the mesh. -/
def State.sendFlit (s : State) (f : Flit) : State := s.sendAll [f]

/-- Flits of one source multicast to a set: a copy for every member, each link crossed once by each flit (R302). `fs` gives the flits for one member. -/
def State.multicast (s : State) (src : Nat) (dests : List Nat) (fs : Nat → List Flit) : State :=
  (s.setMesh (s.die.mesh ++ dests.flatMap fs)).addHops (treeHops src dests * (fs (dests.headD 0)).length)

/-- The first flit that passes a test, and the mesh without it. -/
def takeFlit (p : Flit → Bool) : List Flit → Option (Flit × List Flit)
  | [] => none
  | f :: r => if p f then some (f, r) else (takeFlit p r).map (fun (g, q) => (g, f :: q))

end Sys2Proof.Machine
end

