-- ==== Sys2Proof/Machine/Chain.lean ====
section
/-! DEFINITION. Chain descriptors: their fields and when one is invalid (R180 to R183). -/
namespace Sys2Proof.Machine

/-- A stage word (R181). -/
structure StageWord where
  op : Nat
  bsrc : Nat
  csrc : Nat
  sub : Nat
  negb : Bool
  imm : Nat
  iexp : Int
  fixE : Nat
  boff : Nat
  coff : Nat
  deriving DecidableEq, Repr

/-- A chain descriptor (R180). -/
structure Desc where
  valid : Bool
  nstg : Nat
  sfmt : Nat
  pair : Bool
  sfin : Bool
  ofmt : Nat
  emode : Nat
  oz : Nat
  rtap : Nat
  rsn : Bool
  rmx : Bool
  rmn : Bool
  csn : Bool
  cmx : Bool
  mv : Bool
  topk : Nat
  stat : Bool
  carry : Bool
  rslot : Nat
  stslot : Nat
  mask : Bool
  moff : Nat
  stages : List StageWord
  deriving DecidableEq, Repr

/-- A stage word read from its two registers (R181). -/
def stageOf (l h : Word) : StageWord where
  op := fld l 0 4
  bsrc := fld l 4 4
  csrc := fld l 8 4
  sub := fld l 12 3
  negb := bitAt l 15
  imm := fld l 16 16
  iexp := sx 11 (fld h 0 11)
  fixE := fld h 0 8
  boff := fld h 16 8
  coff := fld h 24 8

/-- The stages of a list of register pairs. -/
def stagesOf : List Word → List StageWord
  | l :: h :: r => stageOf l h :: stagesOf r
  | _ => []

/-- A descriptor read from its 18 registers: the header pair, then eight stage pairs. -/
def descOf (ws : List Word) : Desc :=
  let l := ws.getD 0 0
  let h := ws.getD 1 0
  { valid := bitAt l 0, nstg := fld l 1 4, sfmt := fld l 5 3, pair := bitAt l 8, sfin := bitAt l 9
    ofmt := fld l 10 4, emode := fld l 14 2, oz := fld l 16 8, rtap := fld l 24 4
    rsn := bitAt l 28, rmx := bitAt l 29, rmn := bitAt l 30, csn := bitAt l 31
    cmx := bitAt h 0, mv := bitAt h 1, topk := fld h 2 4, stat := bitAt h 6, carry := bitAt h 7
    rslot := fld h 8 6, stslot := fld h 14 6, mask := bitAt h 20, moff := fld h 21 8
    stages := stagesOf (ws.drop 2) }

/-- The registers of descriptor `d` of station `i` (R205). -/
def State.descWords (s : State) (i d : Nat) : List Word :=
  let b := pageBase i + 0x1000 + 128 * d
  s.reg b :: s.reg (b + 4) :: (List.range 16).map (fun j => s.reg (b + 0x40 + 4 * j))

/-- The stages within NSTG. -/
def Desc.used (d : Desc) : List StageWord := d.stages.take d.nstg

/-- An operation that takes operand b (R191). -/
def takesB (op : Nat) : Bool := (1 ≤ op && op ≤ 7) || op = 10

/-- The operand bytes of one source (R182). -/
def srcBytes (pair : Bool) (src : Nat) : Nat :=
  match src with
  | 2 => if pair then 512 else 256
  | 3 => 64
  | 4 => if pair then 8192 else 4096
  | 5 => if pair then 512 else 256
  | 8 => 384
  | _ => 0

/-- The (source, offset) pairs that a stage names; CARRY is named by both its offsets (R182). -/
def stagePairs (g : StageWord) : List (Nat × Nat) :=
  let off (src own : Nat) := if src = 8 then g.boff * 256 + g.coff else own
  let b := if takesB g.op then [(g.bsrc, off g.bsrc g.boff)] else []
  let c := if g.op = 3 then [(g.csrc, off g.csrc g.coff)] else []
  (b ++ c).filter (fun p => decide (0 < srcBytes false p.1))

/-- The distinct operand pairs of a chain that have operand bytes (R182). -/
def Desc.pairs (d : Desc) : List (Nat × Nat) := (d.used.flatMap stagePairs).dedup

/-- The operand bytes of a chain (R182). -/
def Desc.operandBytes (d : Desc) : Nat :=
  (d.pairs.map (fun p => srcBytes d.pair p.1)).sum
    + (if d.mask then (if d.pair then 256 else 128) else 0)
    + (if d.emode = 2 then (if d.pair then 128 else 64) else 0)

/-- A stage has a reserved encoding or operands that its operation does not take (R183). -/
def badStage (g : StageWord) : Bool :=
  g.op = 0 || 11 ≤ g.op || 9 ≤ g.bsrc || 9 ≤ g.csrc
  || (g.op = 4 && 6 ≤ g.sub) || (g.op = 8 && 4 ≤ g.sub)
  || (takesB g.op && g.bsrc = 0) || (!takesB g.op && g.bsrc ≠ 0)
  || (g.op ≠ 3 && g.csrc ≠ 0) || (g.op = 3 && g.csrc = 0)

/-- A side record is enabled (R196). -/
def Desc.side (d : Desc) : Bool := d.carry || d.rsn || d.rmx || d.rmn || d.csn || d.cmx || d.topk ≠ 0

/-- The output is one of the formats without a scale stream: S8, S4, S2. -/
def Desc.bare (d : Desc) : Bool := 5 ≤ d.ofmt && d.ofmt ≤ 7

/-- The descriptor is invalid (R183). -/
def Desc.invalid (d : Desc) : Bool :=
  !d.valid || 8 < d.nstg
  || d.used.any badStage
  || 8 ≤ d.ofmt || 5 ≤ d.sfmt || d.emode = 3
  || (d.used.dropLast).any (fun g => g.op = 10)
  || 1 < (d.used.filter (fun g => g.op = 9)).length
  || (d.used.any (fun g => g.op = 9) != d.stat)
  || (d.carry && !d.stat)
  || d.nstg < d.rtap || 8 < d.topk
  || (d.sfin && d.pair)
  || (d.pair && d.pairs.any (fun p => p.1 = 4) && 1 < d.pairs.length)
  || 8192 < d.operandBytes
  || (d.ofmt = 0 && d.emode ≠ 0)
  || (d.bare && d.emode = 0)
  || (d.emode = 2 && !d.bare)
  || (d.stslot = d.rslot && d.mv && d.stat)

/-- The chain reads SRC2 (R498). -/
def Desc.readsSrc2 (d : Desc) : Bool :=
  d.mask || d.emode = 2 || d.used.any (fun g => [2, 3, 4, 5, 8].contains g.bsrc || [2, 3, 4, 5, 8].contains g.csrc)

end Sys2Proof.Machine
end

