-- ==== Sys2Proof/Machine/Torus.lean ====
section
/-! DEFINITION. The torus of the interlock domain: coordinates, ways round the rings, member boxes (R323, R324, R326, R334). -/
namespace Sys2Proof.Machine

/-- Module mode: solo (R15, R427). -/
def State.solo (s : State) : Bool := bitAt (s.reg 0x10000) 5

/-- MODID of this module (R344). -/
def State.modid (s : State) : Nat := fld (s.reg 0x80808) 16 14

/-- The size of dimension `d` (R323); in solo mode the domain is the one module (R15). -/
def State.dim (s : State) (d : Nat) : Nat := if s.solo then 1 else max 1 (fld (s.reg 0x80804) (6 * d) 6)

/-- The domain base (R323). -/
def State.dbase (s : State) : Nat := fld (s.reg 0x80808) 0 14

/-- The coordinate of a module in dimension `d` (R323): its own as LINK_COORD holds it. -/
def State.coordOf (s : State) (m d : Nat) : Nat :=
  let k := m - s.dbase
  if m = s.modid then fld (s.reg 0x80800) (5 * d) 5
  else match d with
  | 0 => k % s.dim 0
  | 1 => k / s.dim 0 % s.dim 1
  | _ => k / (s.dim 0 * s.dim 1) % s.dim 2

/-- The module at coordinates given by dimension (R323). -/
def State.modAt (s : State) (c : Nat → Nat) : Nat := s.dbase + c 0 + s.dim 0 * (c 1 + s.dim 1 * c 2)

/-- The shorter way round a ring of `n`, + when equal; `none` when there (R324). -/
def ringWay (n a b : Nat) : Option Bool :=
  let f := (b + n - a % n) % n
  if f = 0 then none else some (decide (2 * f ≤ n))

/-- The coordinate one step round a ring. -/
def ringStep (n a : Nat) (plus : Bool) : Nat := if plus then (a + 1) % n else (a + n - 1) % n

/-- The module next to `m` in dimension `d`. -/
def State.stepFrom (s : State) (m d : Nat) (plus : Bool) : Nat :=
  s.modAt (fun e => if e = d then ringStep (s.dim d) (s.coordOf m d) plus else s.coordOf m e)

/-- The first dimension in which two modules differ and the way round it (R324). -/
def State.nextWay (s : State) (a b : Nat) : Option (Nat × Bool) :=
  (List.range 3).findSome? (fun d => (ringWay (s.dim d) (s.coordOf a d) (s.coordOf b d)).map (fun w => (d, w)))

/-- The next module on the route from `a` to `b` (R324). -/
def State.nextMod (s : State) (a b : Nat) : Nat :=
  match s.nextWay a b with
  | none => a
  | some (d, w) => s.stepFrom a d w

/-- A direction: 0 +X, 1 -X, 2 +Y, 3 -Y, 4 +Z, 5 -Z (R314, R344). -/
def dirOf (d : Nat) (plus : Bool) : Nat := 2 * d + (if plus then 0 else 1)

/-- The modules on the route from `a` to `b`, `a` left out. -/
def State.routeMods (s : State) (b : Nat) : Nat → Nat → List Nat
  | 0, _ => []
  | n + 1, a => if a = b then [] else s.nextMod a b :: s.routeMods b n (s.nextMod a b)

/-- A module lies on the route from `a` to `b` or is `a`. -/
def State.onRoute (s : State) (a b m : Nat) : Bool := a = m || (s.routeMods b 48 a).contains m

/-- The module identifiers of the sender's domain: DBASE up by the product of the dimension sizes (R326). -/
def State.inDomain (s : State) (m : Nat) : Bool :=
  decide (s.dbase ≤ m) && decide (m < s.dbase + s.dim 0 * s.dim 1 * s.dim 2)

/-- The coordinate of member k of a box in dimension `d` (R334). -/
def State.memberAt (s : State) (c : CollDef) (d k : Nat) : Nat := (c.start.getD d 0 + k * c.stride.getD d 1) % s.dim d

/-- The index of a coordinate among the members of a box. -/
def State.memberIdx (s : State) (c : CollDef) (d x : Nat) : Option Nat :=
  (List.range (c.count.getD d 1)).find? (fun k => decide (s.memberAt c d k = x))

/-- This module is a member (R334, R335). -/
def State.isMember (s : State) (c : CollDef) : Bool :=
  (List.range 3).all (fun d => (s.memberIdx c d (s.coordOf s.modid d)).isSome)

end Sys2Proof.Machine
end

