-- ==== Sys2Proof/Machine/Porix.lean ====
section
/-! DEFINITION. The Porix word: its opcodes and fields, the checks made when it reaches the head of the queue, zero extents, slots named (R109 to R144, R498). -/
namespace Sys2Proof.Machine

/-- OPC (R109). -/
def opc (w : PWord) : Nat := fld w 0 8
/-- PHASE (R111). -/
def phaseOf (w : PWord) : Byte := BitVec.ofNat 8 (fld w 8 8)
/-- TAG (R112). -/
def tagOf (w : PWord) : Nat := fld w 16 4

/-- The units of R110. -/
inductive PUnit where
  | issue | mac | mover | acc | consist | sync
  deriving DecidableEq, Repr

/-- The unit that executes an opcode; `none` outside the opcode table (R110). -/
def unitOf (o : Nat) : Option PUnit :=
  match o with
  | 0x00 => some .issue
  | 0x01 => some .mac
  | 0x02 => some .mac
  | 0x03 => some .mac
  | 0x08 => some .mover
  | 0x09 => some .mover
  | 0x0A => some .mover
  | 0x10 => some .acc
  | 0x11 => some .acc
  | 0x12 => some .acc
  | 0x13 => some .acc
  | 0x20 => some .consist
  | 0x21 => some .consist
  | 0x30 => some .sync
  | 0x31 => some .sync
  | 0x32 => some .sync
  | 0x38 => some .sync
  | 0x40 => some .mover
  | 0x41 => some .mover
  | _ => none

/-- The input buffer depth of a unit (R148). -/
def depthOf : PUnit → Nat
  | .issue => 1
  | .mac => 4
  | .mover => 8
  | .acc => 2
  | .consist => 2
  | .sync => 4

/-- Lines of a data block, by DFMT; 1 for RAW (R123). -/
def blockLines (d : Nat) : Nat :=
  match d with
  | 1 => 2
  | 3 => 2
  | 5 => 2
  | 6 => 3
  | _ => 1

/-- Bytes of a scale item, by DFMT (R123). -/
def itemBytes (d : Nat) : Nat :=
  match d with
  | 1 => 2
  | 2 => 2
  | 3 => 8
  | 4 => 8
  | 5 => 1
  | 6 => 1
  | _ => 0

/-- Lines of the scale stream of `len` data lines (R123). -/
def scaleLines (d len : Nat) : Nat := ((len / blockLines d) * itemBytes d + 63) / 64

/-- The channel count of a weight format: 0 S4, 1 S8, 2 S2 (R49, R114). -/
def channels (f : Nat) : Nat :=
  match f with
  | 0 => 64
  | 1 => 32
  | _ => 128

/-- The width of a weight format (R49). -/
def wbits (f : Nat) : Nat :=
  match f with
  | 0 => 4
  | 1 => 8
  | _ => 2

/-- The macros a word of the macro class names (R114). -/
def mgrp (w : PWord) : List Nat := (List.range 64).filter (fun i => bitAt w (64 + i))

/-- BANK of a word of the macro class. -/
def bankOf (w : PWord) : Nat := if opc w = 3 then fld w 36 2 else fld w 57 2

/-- A bank of a station. -/
def Station.bank (x : Station) (i k : Nat) : Bank := mget (fun _ => Bank.reset) x.banks (4 * i + k)

/-- A bank replaced. -/
def Station.setBank (x : Station) (i k : Nat) (b : Bank) : Station :=
  { x with banks := mset (fun _ => Bank.reset) x.banks (4 * i + k) b }

/-- A slot of a station. -/
def Station.slot (x : Station) (a : Nat) : Slot := mget (fun _ => Slot.clear) x.slots a

/-- A slot replaced. -/
def Station.setSlot (x : Station) (a : Nat) (v : Slot) : Station :=
  { x with slots := mset (fun _ => Slot.clear) x.slots a v }

/-- The named banks whose ZERO flag is clear. -/
def Station.liveBanks (x : Station) (w : PWord) : List Bank :=
  ((mgrp w).map (fun i => x.bank i (bankOf w))).filter (fun b => !b.zero)

/-- Named banks with a WLOAD in flight: such a bank is judged when the pass begins. DEDUCED, log entry 18. -/
def Station.loading (x : Station) (i k : Nat) : Bool :=
  x.iss.flight.any (fun f => opc f.word = 3 && bankOf f.word = k && bitAt f.word (64 + i))

/-- The bank checks of R66, R74 and R119 that are made at the head. A ZERO bank is not looked at, for PASSR as R117 has it for PASS, so that NEXT may be up to 64 when every named bank has ZERO set: DESIGN CHOICE, log entry 81. -/
def Station.bankFault (x : Station) (w : PWord) : Bool :=
  (mgrp w).any (fun i =>
    let b := x.bank i (bankOf w)
    if x.loading i (bankOf w) || b.zero then false
    else if opc w = 1 then bitAt w 59 && b.sparse
    else b.fmt = 2 || b.sparse || channels b.fmt.toNat < fld w 49 8)

/-- The bits that a word's layout marks as reserved (R110 to R139). -/
def reservedClear (w : PWord) : Bool :=
  match opc w with
  | 0x00 => fld w 20 108 = 0
  | 0x01 => true
  | 0x02 => true
  | 0x03 => fld w 55 9 = 0
  | 0x08 => fld w 119 9 = 0
  | 0x09 => fld w 123 5 = 0
  | 0x0A => fld w 125 3 = 0
  | 0x10 => fld w 52 76 = 0
  | 0x11 => fld w 52 76 = 0
  | 0x12 => fld w 26 102 = 0
  | 0x13 => fld w 70 58 = 0
  | 0x20 => fld w 123 5 = 0
  | 0x21 => fld w 28 100 = 0
  | 0x30 => fld w 26 102 = 0
  | 0x31 => fld w 28 100 = 0
  | 0x32 => fld w 37 91 = 0
  | 0x38 => fld w 29 99 = 0
  | 0x40 => fld w 84 44 = 0
  | 0x41 => fld w 84 44 = 0
  | _ => false

/-- DFMT of a word of the mover class. -/
def dfmtOf (w : PWord) : Nat :=
  match opc w with
  | 0x08 => fld w 116 3
  | 0x09 => fld w 118 3
  | 0x0A => fld w 116 3
  | 0x40 => fld w 81 3
  | 0x41 => fld w 81 3
  | _ => 0

/-- LEN of LD, ST and MCAST. -/
def lenOf (w : PWord) : Nat := if opc w = 0x09 then fld w 104 14 else fld w 102 14

/-- The word carries a scale stream (R110, R112, R133). -/
def carriesScale (w : PWord) : Bool :=
  match opc w with
  | 0x01 => true
  | 0x02 => true
  | 0x03 => true
  | 0x08 => dfmtOf w ≠ 0
  | 0x09 => dfmtOf w ≠ 0
  | 0x0A => dfmtOf w ≠ 0
  | 0x20 => bitAt w 31
  | 0x40 => true
  | 0x41 => true
  | _ => false

/-- MEXT, where a word has it (R114). -/
def mextOf (w : PWord) : Nat :=
  match opc w with
  | 0x01 => fld w 44 5
  | 0x02 => fld w 44 5
  | 0x10 => fld w 26 5
  | 0x11 => fld w 26 5
  | 0x13 => fld w 49 5
  | 0x20 => fld w 111 5
  | 0x40 => fld w 62 5
  | 0x41 => fld w 62 5
  | _ => 16

/-- NEXT, where a word has it (R114). -/
def nextOf (w : PWord) : Nat :=
  match opc w with
  | 0x01 => fld w 49 8
  | 0x02 => fld w 49 8
  | 0x03 => fld w 28 8
  | 0x10 => fld w 31 7
  | 0x11 => fld w 31 7
  | 0x13 => fld w 54 7
  | 0x20 => fld w 116 7
  | _ => 64

/-- KEXT, where a word has it (R114). -/
def kextOf (w : PWord) : Nat :=
  match opc w with
  | 0x01 => fld w 36 8
  | 0x02 => fld w 36 8
  | 0x03 => fld w 20 8
  | _ => 128

/-- The largest NEXT that the head check allows; for PASS the bank's format decides later (R117). -/
def nextLimit (w : PWord) : Nat :=
  match opc w with
  | 0x01 => 128
  | 0x02 => 64
  | 0x03 => channels (fld w 38 2)
  | _ => 64

/-- A word of zero extent (R144). -/
def zeroExtent (w : PWord) : Bool :=
  match opc w with
  | 0x01 => kextOf w = 0 || mextOf w = 0 || nextOf w = 0 || (mgrp w).isEmpty
  | 0x02 => kextOf w = 0 || mextOf w = 0 || nextOf w = 0 || (mgrp w).isEmpty
  | 0x03 => kextOf w = 0 || nextOf w = 0 || (mgrp w).isEmpty
  | 0x08 => lenOf w = 0
  | 0x09 => lenOf w = 0
  | 0x0A => lenOf w = 0
  | 0x10 => mextOf w = 0 || nextOf w = 0
  | 0x11 => mextOf w = 0 || nextOf w = 0
  | 0x13 => mextOf w = 0 || nextOf w = 0
  | 0x20 => mextOf w = 0 || nextOf w = 0
  | 0x40 => mextOf w = 0 || fld w 67 8 = 0
  | 0x41 => mextOf w = 0 || fld w 67 8 = 0
  | _ => false

/-- The stations of this die that a word sends to (R125, R133, R138, R305, R127). -/
def State.destsOf (s : State) (w : PWord) : List Nat :=
  match opc w with
  | 0x09 => if fld w 121 2 = 1 then [fld w 48 7] else []
  | 0x0A => s.members (fld w 119 6)
  | 0x13 => if bitAt w 61 then [] else [fld w 32 7]
  | 0x20 => if fld w 102 2 = 1 then [fld w 104 7] else if fld w 102 2 = 2 then s.members (fld w 104 6) else []
  | 0x32 => if fld w 28 2 = 1 then [fld w 30 7] else if fld w 28 2 = 2 then s.members (fld w 30 6) else []
  | _ => []

/-- The word names a multicast set (R303). -/
def namesSet (w : PWord) : Bool :=
  opc w = 0x0A || (opc w = 0x20 && fld w 102 2 = 2) || (opc w = 0x32 && fld w 28 2 = 2)

/-- Fields reserved by mode that hold 0, descriptor aside (R498). -/
def modeClear (w : PWord) : Bool :=
  match opc w with
  | 0x08 => dfmtOf w ≠ 0 || fld w 68 34 = 0
  | 0x0A => dfmtOf w ≠ 0 || fld w 68 34 = 0
  | 0x09 =>
    (dfmtOf w ≠ 0 || fld w 69 35 = 0)
    && (fld w 121 2 ≠ 0 || (!bitAt w 68 && !bitAt w 103))
    && (fld w 121 2 ≠ 1 || (fld w 55 14 = 0 && fld w 90 14 = 0))
  | 0x13 => if bitAt w 61 then fld w 26 15 = 0 && fld w 41 8 = 0 else fld w 62 8 = 0
  | 0x20 =>
    (!bitAt w 31 || fld w 25 6 = 0) && (bitAt w 31 || fld w 32 28 = 0)
    && ((fld w 102 2 ≠ 0 && fld w 102 2 ≠ 3) || fld w 104 7 = 0)
    && (fld w 102 2 ≠ 2 || !bitAt w 110)
  | 0x21 => fld w 26 2 ≠ 0 || fld w 20 6 = 0
  | 0x32 => (fld w 28 2 ≠ 0 || fld w 30 7 = 0) && (fld w 28 2 ≠ 2 || !bitAt w 36)
  | _ => true

/-- Reserved encodings of shared fields and the static cases stated under each instruction (R114, R123, R130, R134, R138, R140). -/
def encodingsLegal (i : Nat) (w : PWord) : Bool :=
  kextOf w ≤ 128 && mextOf w ≤ 16 && nextOf w ≤ nextLimit w
  && (match opc w with
      | 0x01 => fld w 26 2 ≠ 3
      | 0x02 => fld w 26 2 ≠ 3 && !bitAt w 59
      | 0x03 => fld w 38 2 ≠ 3
      | 0x08 => dfmtOf w ≠ 7 && lenOf w % blockLines (dfmtOf w) = 0
      | 0x0A => dfmtOf w ≠ 7 && lenOf w % blockLines (dfmtOf w) = 0
      | 0x09 => dfmtOf w ≠ 7 && lenOf w % blockLines (dfmtOf w) = 0 && fld w 121 2 ≠ 3
      | 0x13 => bitAt w 61 || (fld w 39 2 ≠ 3 && !(fld w 32 7 = i && fld w 26 6 = fld w 20 6))
      | 0x21 => fld w 26 2 ≤ 1
      | 0x32 => fld w 28 2 ≠ 3
      | 0x40 => dfmtOf w ≠ 7 && dfmtOf w ≠ 0
      | 0x41 => dfmtOf w ≠ 7 && dfmtOf w ≠ 0
      | _ => true)

/-- The LPDDR5X line ranges of a word: start and count (R123, R126). The scale stream has an address only where there is one. -/
def lineRanges (w : PWord) : List (Nat × Nat) :=
  let scale (a : Nat) : List (Nat × Nat) := if dfmtOf w = 0 then [] else [(fld w a 34, scaleLines (dfmtOf w) (lenOf w))]
  match opc w with
  | 0x08 => (fld w 34 34, lenOf w) :: scale 68
  | 0x0A => (fld w 34 34, lenOf w) :: scale 68
  | 0x09 => if fld w 121 2 = 0 then (fld w 34 34, lenOf w) :: scale 69 else []
  | _ => []

/-- The LPDDR5X addresses of a word lie below the fitted capacity, whatever LEN holds, and its ranges where a station may reach (R114, R126, R287). -/
def State.rangesLegal (s : State) (w : PWord) : Bool :=
  (lineRanges w).all (fun r => decide (r.1 * 64 < s.capBytes) && s.stnMayReach r.1 r.2)

/-- A descriptor and a CONSIST word that go together (R183, R498). -/
def consistLegal (d : Desc) (w : PWord) : Bool :=
  let slotSrc := !bitAt w 31
  let acc := fld w 25 6
  let dk3 := fld w 102 2 = 3
  !d.invalid && !(d.sfin && !slotSrc)
  && !(slotSrc && ((d.mv && acc = d.stslot) || (d.stat && acc = d.rslot)))
  && (d.readsSrc2 || fld w 60 14 = 0)
  && (!(dk3 || (d.bare && !d.side)) || fld w 88 14 = 0)
  && (!(dk3 && !d.side) || fld w 74 14 = 0)

/-- The valid entries of an expert map name distinct queues (R217). An entry with REMOTE 1 and this module's own identifier names a queue of this module. -/
def mapDistinct (own : Nat) (m : List Word) : Bool :=
  let vs := (m.filter (fun e => bitAt e 0)).map (fun e =>
    (if bitAt e 1 && decide (fld e 14 14 ≠ own) then fld e 14 14 + 1 else 0, fld e 2 6))
  vs.dedup.length = vs.length

/-- The expert map `x` of a station (R234). -/
def State.xmapWords (s : State) (i x : Nat) : List Word :=
  (List.range 128).map (fun n => s.preg i (0x2000 + 0x200 * x + 4 * n))

/-- The DISPATCH with which a GATHER pairs: the earliest not yet paired (R221). -/
def Station.pairFor (x : Station) : Option DispRec := x.disp.find? (fun d => d.gather.isNone)

/-- An expert queue of this module. -/
def State.xq (s : State) (q : Nat) : XQueue := mget (fun _ => XQueue.reset) s.die.xqs q

/-- VOUT in effect of a queue of this module (R218, R234). -/
def State.xqVout (s : State) (q : Nat) : Nat := fld ((s.xq q).cfg.getD 1 0) 8 8

/-- In a replay, the next guarded instruction has landed and will retire without effect (R270). -/
def Station.nextSkips (x : Station) : Bool :=
  x.ledger.replay && (match x.ledger.entries.find? (fun e => e.seq + 1 = x.ledger.rpos) with
    | some e => !e.isOver && decide (x.ledger.rguard < 32) && bitAt e.done x.ledger.rguard
    | none => false)

/-- VLEN equals VOUT of a queue that returns a result (R221): of this module as it stands, of another as its last opening told; before one has, the check is made on the result itself. Log entry 86. -/
def State.voutFits (s : State) (i vlen : Nat) (r : Routed) : Bool :=
  match r.mod with
  | none => decide (s.xqVout r.q = vlen)
  | some m =>
    match (s.stn i).xopen.find? (fun o => decide (o.mod = some m) && decide (o.q = r.q)) with
    | some o => decide (o.share = 0) || decide (o.vout = vlen)
    | none => true

/-- A GATHER that fits the DISPATCH it pairs with: XMAP, KSEL, MEXT, RSRC equal, VLEN equal to VOUT of every queue that returns to it (R221). -/
def State.gatherFits (s : State) (i : Nat) (w : PWord) : Bool :=
  match (s.stn i).pairFor with
  | none => false
  | some d =>
    fld d.word 75 3 = fld w 75 3 && fld d.word 78 3 = fld w 78 3 && fld d.word 62 5 = fld w 62 5
    && fld d.word 48 14 = fld w 48 14
    && d.routes.all (s.voutFits i (fld w 67 8))

/-- The ledger in effect names one counter; a TICKET on any other raises ILLEGAL_OP (R267). A write to CTR takes effect at once: DESIGN CHOICE, log entry 85. -/
def State.ledgerCtr (s : State) (i : Nat) : Nat := fld (s.reg (0x20A000 + 0x400 * i)) 1 6

/-- A collective definition; KIND 0 where none is loaded. -/
def State.coll (s : State) (c : Nat) : CollDef := mget (fun _ => (⟨0, 0, 0, [], [], [], [], 0⟩ : CollDef)) s.die.colls c

/-- The station that contributes to a collective: STN of a member module, or in solo mode every station of SMASK (R335). -/
def State.collAllows (s : State) (i c : Nat) : Bool :=
  let d := s.coll c
  d.kind ≠ 0 && (if s.solo then bitAt d.smask i else decide (d.stn = i) && s.isMember d)

/-- Every check made when a word reaches the head of the queue (R113). -/
def State.legal (s : State) (i : Nat) (w : PWord) : Bool :=
  let x := s.stn i
  let own := opc w = 0x09 && fld w 121 2 = 2 && fld w 55 14 = s.modid
  let dests := if own then [fld w 48 7] else s.destsOf w
  let det := s.preg i 0x164
  (unitOf (opc w)).isSome && reservedClear w && (carriesScale w || tagOf w = 0)
  && modeClear w && encodingsLegal i w
  && s.rangesLegal w
  && (!namesSet w || !dests.isEmpty) && dests.all (fun t => s.maySend i t)
  && (match opc w with
      | 0x01 => !x.bankFault w
      | 0x02 => !x.bankFault w
      | 0x09 => fld w 121 2 ≠ 2 || s.inDomain (fld w 55 14)
      | 0x13 => !bitAt w 61 || s.collAllows i (fld w 62 8)
      | 0x20 => consistLegal (descOf (s.descWords i (fld w 20 5))) w
      | 0x30 => !x.ledger.en || fld w 20 6 = s.ledgerCtr i
      | 0x40 => mapDistinct s.modid (s.xmapWords i (fld w 75 3))
      | 0x41 => mapDistinct s.modid (s.xmapWords i (fld w 75 3)) && (x.nextSkips || s.gatherFits i w)
      | _ => true)
  && !((opc w = 1 || opc w = 2 || opc w = 3) && bitAt det 0 && bitAt w (64 + fld det 1 6)
        && bankOf w = fld det 7 2)

/-! ### Slots -/

/-- A slot that an instruction names, with its chain id when it writes it in AMODE chain. -/
abbrev Named := Nat × Option Nat

/-- The slots a word names for the scoreboard (R89, R98, R130, R134, R184). A REDUCE only reads its source. -/
def namedSlots (i : Nat) (w : PWord) (s2 : Bool) (d : Desc) : List Named :=
  let acc := fld w 20 6
  let ch := if fld w 26 2 = 2 then some (fld w 28 8) else none
  match opc w with
  | 0x01 => if s2 then [(acc, ch), ((acc + 1) % 64, ch)] else [(acc, ch)]
  | 0x02 => [(acc, ch), ((acc + 1) % 64, ch)]
  | 0x10 => [(acc, none)]
  | 0x11 => [(acc, none)]
  | 0x12 => [(acc, none)]
  | 0x13 =>
    (acc, none) ::
      (if !bitAt w 61 && fld w 32 7 = i then
        [(fld w 26 6, if fld w 39 2 = 2 then some (fld w 41 8) else none)] else [])
  | 0x20 =>
    let src := fld w 25 6
    (if bitAt w 31 then [] else if d.pair then [(src, none), ((src + 1) % 64, none)] else [(src, none)])
    ++ (if d.stat then [(d.rslot, none)] else []) ++ (if d.mv then [(d.stslot, none)] else [])
  | 0x21 => if fld w 26 2 = 1 then [(acc, none)] else []
  | _ => []

/-- The slots on which an instruction is still in flight (R98, R130, R134). `own` counts a local REDUCE as in flight on its destination. -/
def Flight.slots (i : Nat) (own : Bool) (f : Flight) : List Named :=
  let all := namedSlots i f.word f.cap.s2 (descOf f.cap.desc)
  if opc f.word = 0x13 then
    (if f.stage = .issued then all.take 1 else []) ++ (if own then all.drop 1 else [])
  else if opc f.word = 0x20 then (if f.stage = .sent then [] else all)
  else all

/-- A contribution being added is in flight on its slots (R131). -/
def Tile.named (t : Tile) : List Named :=
  t.slots.map (fun a => (a, if t.amode = 2 then some t.chain.toNat else none))

/-- R98 lets a newcomer name a slot beside one in flight: both in AMODE chain with one CHAIN. -/
def compatible (a b : Named) : Bool := a.1 ≠ b.1 || (a.2.isSome && a.2 = b.2)

/-- What is in flight on the slots of a station. -/
def Station.inFlight (i : Nat) (own : Bool) (x : Station) : List Named :=
  x.iss.flight.flatMap (Flight.slots i own) ++ (x.redq.filter (fun t => t.seq.isNone)).flatMap Tile.named

/-- The scoreboard lets an instruction that names these slots proceed (R98). -/
def Station.slotsFree (i : Nat) (own : Bool) (x : Station) (ns : List Named) : Bool :=
  ns.all (fun a => (x.inFlight i own).all (fun b => compatible a b))

end Sys2Proof.Machine
end

