-- ==== Sys2Proof/Machine/Accum.lean ====
section
/-! DEFINITION. Accumulator slots: wrap and RANGE, exponents, contributions, images, row statistics (spec/06_accumulation.md). -/
namespace Sys2Proof.Machine

/-- A cleared entry. -/
def entry0 (_ : Nat) : Entry := ⟨0, 0⟩

/-- Entry (m, n) of a slot. -/
def Slot.entry (s : Slot) (m n : Nat) : Entry := mget entry0 s.ent (64 * m + n)

/-- Entry (m, n) replaced. -/
def Slot.setEntry (s : Slot) (m n : Nat) (e : Entry) : Slot := { s with ent := mset entry0 s.ent (64 * m + n) e }

/-- Ra[m]. -/
def Slot.raOf (s : Slot) (m : Nat) : Nat := (mget (fun _ => 0) s.ra m).toNat

/-- Cw[n]. -/
def Slot.cwOf (s : Slot) (n : Nat) : Nat := (mget (fun _ => 0) s.cw n).toNat

/-- Ra[m] set. -/
def Slot.setRa (s : Slot) (m e : Nat) : Slot := { s with ra := mset (fun _ => 0) s.ra m (BitVec.ofNat 8 e) }

/-- Cw[n] set. -/
def Slot.setCw (s : Slot) (n e : Nat) : Slot := { s with cw := mset (fun _ => 0) s.cw n (BitVec.ofNat 8 e) }

/-- MAX[m] as a signed code; the most negative code when never set (R97). -/
def Slot.maxOf (s : Slot) (m : Nat) : Int := (mget (fun _ => 0x80000000) s.maxc m).toInt

/-- SUM[m] as a signed code. -/
def Slot.sumOf (s : Slot) (m : Nat) : Int := (mget (fun _ => 0) s.sumc m).toInt

/-- REF[m] of a started row (R169). -/
def Slot.refOf (s : Slot) (m : Nat) : Int := mget (fun _ => 0) s.ref m

/-- An exponent from 1 to 254 reaches a row or column (R155). -/
def isReached (e : Nat) : Bool := 1 ≤ e && e ≤ 254

/-- The row and column of an entry are both reached (R155). -/
def Slot.reached (s : Slot) (m n : Nat) : Bool := isReached (s.raOf m) && isReached (s.cwOf n)

/-- W from the exact result and the new code (R153). -/
def wrapCount (lost : Bool) (u : Int) (a : BitVec 48) : Int :=
  let k := (u - a.toInt) / 2 ^ 48
  if lost || k < -7 || 7 < k then -8 else k

/-- One operation on one entry (R152 to R154): the entry afterwards and whether it wrapped. -/
def applyOp (op : Int → Int) (e : Entry) : Entry × Bool :=
  let t := op e.a.toInt
  let u := op (e.a.toInt + e.w * 2 ^ 48)
  let a := BitVec.ofInt 48 t
  (⟨a, wrapCount (e.w = -8) u a⟩, t < -(2 ^ 47) || 2 ^ 47 - 1 < t)

/-- Row m set to 0 in code and W, and reached with exponent e (R156 step 1). -/
def Slot.reachRow (s : Slot) (m e : Nat) : Slot :=
  if isReached (s.raOf m) then s
  else Slot.setRa { s with ent := s.ent.filter (fun p => decide (p.1 / 64 ≠ m)) } m e

/-- Column n set to 0 in code and W, and reached with exponent e (R156 step 1). -/
def Slot.reachCol (s : Slot) (n e : Nat) : Slot :=
  if isReached (s.cwOf n) then s
  else Slot.setCw { s with ent := s.ent.filter (fun p => decide (p.1 % 64 ≠ n)) } n e

/-- Row m lowered by dr and column n by dc (R156 step 2): every reached entry of either is multiplied once. -/
def Slot.lower (s : Slot) (m n dr dc : Nat) : Slot :=
  if dr = 0 ∧ dc = 0 then s
  else
    let step (p : Nat × Entry) : (Nat × Entry) × Bool :=
      let d := (if p.1 / 64 = m then dr else 0) + (if p.1 % 64 = n then dc else 0)
      if d = 0 || !s.reached (p.1 / 64) (p.1 % 64) then (p, false)
      else
        let r := applyOp (fun x => x * 2 ^ d) p.2
        ((p.1, r.1), r.2)
    let rs := s.ent.map step
    let s1 := { s with ent := rs.map (·.1), range := s.range || rs.any (·.2) }
    Slot.setCw (Slot.setRa s1 m (s.raOf m - dr)) n (s.cwOf n - dc)

/-- One contribution added to its entry (R156, R162). -/
def Slot.addOne (s : Slot) (c : Contrib) : Slot :=
  if !isReached c.ea || !isReached c.ew then s
  else
    let s1 := (s.reachRow c.m c.ea).reachCol c.n c.ew
    let s2 := s1.lower c.m c.n (s1.raOf c.m - c.ea) (s1.cwOf c.n - c.ew)
    let sh := (c.ea - s2.raOf c.m) + (c.ew - s2.cwOf c.n)
    let r := applyOp (fun x => x + c.p * 2 ^ sh) (s2.entry c.m c.n)
    let e := if c.lost then { r.1 with w := -8 } else r.1
    { s2.setEntry c.m c.n e with range := s2.range || r.2 }

/-- A slot of a sparse file of slots. -/
def slotOf (ss : SMap Slot) (a : Nat) : Slot := mget (fun _ => Slot.clear) ss a

/-- A slot of the file changed. -/
def modSlot (ss : SMap Slot) (a : Nat) (f : Slot → Slot) : SMap Slot :=
  mset (fun _ => Slot.clear) ss a (f (slotOf ss a))

/-- The entries within an extent cleared by AMODE overwrite (R115, R153). -/
def zeroEntries (ss : SMap Slot) (zs : List (Nat × Nat × Nat)) : SMap Slot :=
  zs.foldl (fun t z => modSlot t z.1 (fun s => s.setEntry z.2.1 z.2.2 ⟨0, 0⟩)) ss

/-- A tile or contribution added to its slots (R87, R115, R131, R162). -/
def addTile (ss : SMap Slot) (t : Tile) : SMap Slot :=
  let s1 := zeroEntries ss t.zero
  let s2 := t.adds.foldl (fun u c => modSlot u c.slot (fun s => s.addOne c)) s1
  let s3 := if t.amode = 2 then t.slots.foldl (fun u a => modSlot u a (fun s => { s with chain := t.chain })) s2 else s2
  if t.range then t.slots.foldl (fun u a => modSlot u a (fun s => { s with range := true })) s3 else s3

/-- Changes of RANGE from 0 to 1 between two files of slots (R154). -/
def rangeRises (slots : List Nat) (a b : SMap Slot) : Nat :=
  (slots.dedup.filter (fun i => !(slotOf a i).range && (slotOf b i).range)).length

/-- An entry, its row and its column as a result that has not reached them leaves them (R338). -/
def Slot.unreach (s : Slot) (m n : Nat) : Slot := ((s.setEntry m n ⟨0, 0⟩).setRa m 0).setCw n 0

/-- A result's entry written with its exponents (R338). -/
def Slot.putResult (s : Slot) (c : Contrib) : Slot :=
  let a := BitVec.ofInt 48 c.p
  ((s.setEntry c.m c.n ⟨a, if c.lost then -8 else (c.p - a.toInt) / 2 ^ 48⟩).setRa c.m c.ea).setCw c.n c.ew

/-- A collective result written into its slot (R338): `zero` names its extent. -/
def writeResult (ss : SMap Slot) (t : Tile) : SMap Slot :=
  let s0 := t.zero.foldl (fun u z => modSlot u z.1 (fun s => s.unreach z.2.1 z.2.2)) ss
  let s1 := t.adds.foldl (fun u c => modSlot u c.slot (fun s => s.putResult c)) s0
  if t.range then t.slots.foldl (fun u a => modSlot u a (fun s => { s with range := true })) s1 else s1

/-- The exact value of an entry (R155): code alone, as ACCRD and CONSIST use it, 0 when unreached. -/
def Slot.value (s : Slot) (m n : Nat) : Rat :=
  if s.reached m n then ((s.entry m n).a.toInt : Rat) * pow2 ((s.raOf m : Int) + s.cwOf n - 254) else 0

/-- An entry fails the final range check (R159). -/
def Slot.noFit (s : Slot) (m n : Nat) : Bool := s.reached m n && (s.entry m n).w ≠ 0

/-- A row is started: SUM is not 0 (R169). -/
def Slot.started (s : Slot) (m : Nat) : Bool := s.sumOf m ≠ 0

/-- The value of SUM[m] (R169). -/
def Slot.sumValue (s : Slot) (m : Nat) : Rat := (s.sumOf m : Rat) * pow2 s.ts

/-- The smallest integer not below a value. -/
def ratCeil (x : Rat) : Int := -((-x).floor)

/-- REF of each started row set to the ceiling of MAX as loaded (R169). -/
def Slot.refFromMax (s : Slot) : Slot :=
  { s with ref := (List.range 16).filterMap (fun m =>
      let r := ratCeil ((s.maxOf m : Rat) * pow2 s.ts)
      if s.started m && r ≠ 0 then some (m, r) else none) }

/-! ### Slot images (R128, R129) -/

/-- The metadata record of a slot: 256 bytes at offset 0x2000 of the image. -/
def Slot.record (s : Slot) : List Byte :=
  (List.range 16).map (fun m => BitVec.ofNat 8 (s.raOf m))
  ++ (List.range 64).map (fun n => BitVec.ofNat 8 (s.cwOf n))
  ++ (List.range 16).flatMap (fun m => leBytes 4 (ofS 32 (s.maxOf m)))
  ++ (List.range 16).flatMap (fun m => leBytes 4 (ofS 32 (s.sumOf m)))
  ++ leBytes 2 (ofS 16 s.ts)
  ++ leBytes 2 (if s.range then 1 else 0)
  ++ leBytes 2 s.empty.toNat
  ++ [s.chain] ++ List.replicate 41 0

/-- The metadata of a slot replaced from a record of 256 bytes (R129). -/
def Slot.loadRecord (s : Slot) (r : List Byte) : Slot :=
  let at' (o n : Nat) : Nat := leNat ((r.drop o).take n)
  Slot.refFromMax { s with
    ra := smapOf 0 ((List.range 16).map (fun m => BitVec.ofNat 8 (at' m 1)))
    cw := smapOf 0 ((List.range 64).map (fun n => BitVec.ofNat 8 (at' (0x10 + n) 1)))
    maxc := smapOf 0x80000000 ((List.range 16).map (fun m => BitVec.ofNat 32 (at' (0x50 + 4 * m) 4)))
    sumc := smapOf 0 ((List.range 16).map (fun m => BitVec.ofNat 32 (at' (0x90 + 4 * m) 4)))
    ts := sx 11 (at' 0xD0 2)
    range := at' 0xD2 2 % 2 = 1
    empty := BitVec.ofNat 16 (at' 0xD4 2)
    chain := BitVec.ofNat 8 (at' 0xD6 1) }

/-- ACCRD: the image of a slot written to platform memory (R128), and the entries that fail the final range check. -/
def accrdImage (pm : SMap Byte) (s : Slot) (dst mext next : Nat) : SMap Byte × Nat :=
  let cells := (List.range mext).flatMap (fun m => (List.range next).map (fun n => (m, n)))
  let pm1 := cells.foldl (fun p c =>
    pmWr p (dst + 512 * c.1 + 8 * c.2) 8
      (if s.reached c.1 c.2 then ofS 64 (s.entry c.1 c.2).a.toInt else 0)) pm
  (wrBytes pmTop pm1 (dst + 0x2000) s.record, (cells.filter (fun c => s.noFit c.1 c.2)).length)

/-- ACCWR: a slot loaded from an image (R129). -/
def accwrSlot (pm : SMap Byte) (s : Slot) (src mext next : Nat) : Slot :=
  let cells := (List.range mext).flatMap (fun m => (List.range next).map (fun n => (m, n)))
  let s1 := cells.foldl (fun t c =>
    t.setEntry c.1 c.2 ⟨BitVec.ofNat 48 (pmRd pm (src + 512 * c.1 + 8 * c.2) 6), 0⟩) s
  s1.loadRecord (rdBytes pmTop pm (src + 0x2000) 256)

/-- The contribution of a REDUCE: reached entries within the extent, exact values, exponents (R162). An entry whose W is lost contributes its code alone, since its exact value is not known: DESIGN CHOICE, log entry 78. -/
def reduceAdds (s : Slot) (dacc mext next : Nat) : List Contrib :=
  (List.range mext).flatMap (fun m => (List.range next).filterMap (fun n =>
    if s.reached m n then
      let e := s.entry m n
      some ⟨dacc, m, n, e.a.toInt + (if e.w = -8 then 0 else e.w * 2 ^ 48), s.raOf m, s.cwOf n, e.w = -8⟩
    else none))

/-- The entries an instruction writes, for AMODE overwrite (R115). -/
def extent (slot mext next : Nat) : List (Nat × Nat × Nat) :=
  (List.range mext).flatMap (fun m => (List.range next).map (fun n => ((slot + n / 64) % 64, m, n % 64)))

end Sys2Proof.Machine
end

