-- ==== Sys2Proof/Machine/SignalBox.lean ====
section
/-! DEFINITION. The signal box: RV32IM, the ports, sleep requests (R101 to R105, R457). -/
namespace Sys2Proof.Machine

/-- The supply state: 0 NORMAL, 1 HALTING, 2 HOLD, 3 RESUMING (R401). -/
def State.supState (s : State) : Nat := fld (s.reg 0x40000) 0 2

/-- The die is powered, the module is READY or RUNNING and no halt is in progress: stations and the host interfaces work (R385, R402, R405). -/
def State.live (s : State) : Bool := s.powered && decide (5 ≤ s.mstate) && decide (s.supState = 0)

/-- As `live`, and in the first 170 µs of a halt, in which work already issued completes (R384, R386). -/
def State.works (s : State) : Bool :=
  s.powered && decide (5 ≤ s.mstate) && (decide (s.supState = 0) || (decide (s.supState = 1) && decide (s.sup.ticks < 680)))

/-- The ports and the collectives service work: as `live`, from LINKS on (R405, R465). -/
def State.linked (s : State) : Bool := s.powered && decide (4 ≤ s.mstate) && decide (s.supState = 0)

/-- The signal box executes: AWAKE, not stopping, not waiting on SB_SLEEP (R101, R105, R108). -/
def Station.sbRuns (x : Station) : Bool := decide (x.ctl.run = .awake) && !x.ctl.stopping && !x.ctl.sleepReq

/-- Register s`r`; s0 reads as 0 (R101). -/
def SignalBox.get (b : SignalBox) (r : Nat) : Word := if r = 0 then 0 else mget (fun _ => 0) b.regs r

/-- Register s`r` written; s0 discards writes. -/
def SignalBox.put (b : SignalBox) (r : Nat) (v : Word) : SignalBox :=
  if r = 0 then b else { b with regs := mset (fun _ => 0) b.regs r v }

/-- Registers s1 to s31 in order. -/
def SignalBox.file (b : SignalBox) : List Word := (List.range 31).map (fun k => b.get (k + 1))

/-- The 32-bit word of the local store at an address. -/
def SignalBox.word (b : SignalBox) (a : Nat) : Word := BitVec.ofNat 32 (leNat (rdBytes lsTop b.store a 4))

/-- Bytes written to the local store. -/
def SignalBox.wr (b : SignalBox) (a n v : Nat) : SignalBox := { b with store := wrBytes lsTop b.store a (leBytes n v) }

/-- The signal box of a station replaced. -/
def State.setSb (s : State) (i : Nat) (b : SignalBox) : State := s.setStn i { s.stn i with sb := b }

/-- Summaries waiting: the posted ones at the front of the FIFO (R102, R104). -/
def Station.posted (x : Station) : List (BitVec 64) := (x.iss.fifo.takeWhile (fun e => e.val.isSome)).filterMap (·.val)

/-- Free entries of the issue queue (R103). -/
def Station.qfree (x : Station) : Nat := 32 - x.iss.queue.length

/-- The stop of R101: STOPPED, RUN reads 0, SB_TRAP logged. Words in the queue still issue. -/
def State.sbTrap (s : State) (i : Nat) (pc : Word) (ins : Nat) : State :=
  let x := s.stn i
  let s1 := s.setStn i { x with ctl := { x.ctl with run := .stopped, stopping := false, sleepReq := false } }
  (s1.setFld (pageBase i + 4) 0 1 0).logFault 0x0504 0 i pc (BitVec.ofNat 64 ins)

/-- The assembled word pushed by a write of `v` to SB_ISSUE3; an INTERLOCK records its restart point (R102, R457). -/
def State.pushWord (s : State) (i : Nat) (v pcNext : Word) : State :=
  let x := s.stn i
  let w : PWord := BitVec.ofNat 128 (x.sb.issue0.toNat + x.sb.issue1.toNat * 2 ^ 32 + x.sb.issue2.toNat * 2 ^ 64 + v.toNat * 2 ^ 96)
  s.setStn i { x with
    iss := { x.iss with queue := x.iss.queue ++ [w] }
    nextRestart := if opc w = 0x38 then x.nextRestart ++ [⟨pcNext, x.sb.file⟩] else x.nextRestart }

/-- The preferred point of the station's current PHASE permits sleep (R105, R381). -/
def State.phaseSleeps (s : State) (i : Nat) : Bool := !bitAt (s.reg (0x30400 + 4 * (s.stn i).iss.phase.toNat)) 3

/-- A write to SB_SLEEP (R105): the request stands until SLEEP_COMMIT, or the write has no effect. -/
def State.sleepWrite (s : State) (i : Nat) (v : Word) : State :=
  let x := s.stn i
  if bitAt v 0 && bitAt (s.preg i 4) 1 && s.phaseSleeps i then
    s.setStn i { x with ctl := { x.ctl with sleepReq := true } }
  else s

/-- The head summary popped (R104). -/
def State.popSummary (s : State) (i : Nat) : State :=
  let x := s.stn i
  s.setStn i { x with iss := { x.iss with fifo := x.iss.fifo.drop 1 } }

/-- The pc of the signal box set. -/
def State.setPc (s : State) (i : Nat) (pc : Word) : State := s.setSb i { (s.stn i).sb with pc := pc }

/-- What one instruction does: retire with a result and a next pc, stall, or trap. -/
inductive SbStep where
  | retire (s : State) (rd : Nat) (v : Word) (pc : Word)
  | stall
  | trap (ins : Nat)

/-- The column and row of station i with its index, as SB_STATION gives them (R102, R298). -/
def stationWord (i : Nat) : Word := BitVec.ofNat 32 (i % 128 + (i % 16) * 2 ^ 8 + (i / 16 % 8) * 2 ^ 12)

/-- A 32-bit load from a port register (R102): the value and the state after it, `none` outside the map; the inner `none` is a stall. -/
def State.portLoad (s : State) (i a : Nat) : Option (Option (Word × State)) :=
  let x := s.stn i
  let mc := x.sb.mc8 / 8
  if a = 0x10010 then some (some (BitVec.ofNat 32 x.qfree, s))
  else if a = 0x10020 then some (x.posted.head?.map (fun (v : BitVec 64) => (v.setWidth 32, s)))
  else if a = 0x10024 then some (x.posted.head?.map (fun (v : BitVec 64) => ((v >>> 32).setWidth 32, s.popSummary i)))
  else if a = 0x10028 then some (some (BitVec.ofNat 32 x.posted.length, s))
  else if a = 0x10030 then some (some (BitVec.ofNat 32 mc, s))
  else if a = 0x10034 then some (some (BitVec.ofNat 32 (mc / 2 ^ 32), s))
  else if a = 0x10040 then some (some (stationWord i, s))
  else if a = 0x10000 ∨ a = 0x10004 ∨ a = 0x10008 ∨ a = 0x1000C ∨ a = 0x10050 then some (some (0, s))
  else none

/-- A 32-bit store to a port register (R102): the state after it, `none` outside the map; the inner `none` is a stall. -/
def State.portStore (s : State) (i a : Nat) (v pcNext : Word) : Option (Option State) :=
  let b := (s.stn i).sb
  if a = 0x10000 then some (some (s.setSb i { b with issue0 := v }))
  else if a = 0x10004 then some (some (s.setSb i { b with issue1 := v }))
  else if a = 0x10008 then some (some (s.setSb i { b with issue2 := v }))
  else if a = 0x1000C then some (if (s.stn i).qfree = 0 then none else some (s.pushWord i v pcNext))
  else if a = 0x10050 then some (some (s.sleepWrite i v))
  else if a = 0x10010 ∨ a = 0x10020 ∨ a = 0x10024 ∨ a = 0x10028 ∨ a = 0x10030 ∨ a = 0x10034 ∨ a = 0x10040 then some (some s)
  else none

/-- The result of an OP or OP-IMM instruction of RV32I; `alt` selects SUB and SRA. -/
def aluOp (f3 : Nat) (alt : Bool) (a b : Word) : Word :=
  let sh := b.toNat % 32
  match f3 with
  | 0 => if alt then a - b else a + b
  | 1 => a <<< sh
  | 2 => if a.slt b then 1 else 0
  | 3 => if a.ult b then 1 else 0
  | 4 => a ^^^ b
  | 5 => if alt then a.sshiftRight sh else a >>> sh
  | 6 => a ||| b
  | _ => a &&& b

/-- The result of an instruction of the M extension. -/
def mulOp (f3 : Nat) (a b : Word) : Word :=
  match f3 with
  | 0 => a * b
  | 1 => BitVec.ofInt 32 (a.toInt * b.toInt / 2 ^ 32)
  | 2 => BitVec.ofInt 32 (a.toInt * (b.toNat : Int) / 2 ^ 32)
  | 3 => BitVec.ofNat 32 (a.toNat * b.toNat / 2 ^ 32)
  | 4 => if b = 0 then BitVec.allOnes 32 else BitVec.ofInt 32 (a.toInt.tdiv b.toInt)
  | 5 => if b = 0 then BitVec.allOnes 32 else BitVec.ofNat 32 (a.toNat / b.toNat)
  | 6 => if b = 0 then a else BitVec.ofInt 32 (a.toInt.tmod b.toInt)
  | _ => if b = 0 then a else BitVec.ofNat 32 (a.toNat % b.toNat)

/-- The condition of a branch; `none` for a reserved one. -/
def branchTaken (f3 : Nat) (a b : Word) : Option Bool :=
  match f3 with
  | 0 => some (a = b)
  | 1 => some (a ≠ b)
  | 4 => some (a.slt b)
  | 5 => some (!a.slt b)
  | 6 => some (a.ult b)
  | 7 => some (!a.ult b)
  | _ => none

/-- A load of `n` bytes (R101): local store, or a port register in 32 bits. -/
def State.sbLoad (s : State) (i : Nat) (ins rd n : Nat) (signed : Bool) (a : Nat) (pcn : Word) : SbStep :=
  let b := (s.stn i).sb
  if a % n ≠ 0 then .trap ins
  else if a + n ≤ lsTop then
    let v := leNat (rdBytes lsTop b.store a n)
    .retire s rd (if signed then BitVec.ofInt 32 (sx (8 * n) v) else BitVec.ofNat 32 v) pcn
  else if n ≠ 4 then .trap ins
  else
    match s.portLoad i a with
    | none => .trap ins
    | some none => .stall
    | some (some (v, t)) => .retire t rd v pcn

/-- A store of `n` bytes (R101). -/
def State.sbStore (s : State) (i : Nat) (ins n : Nat) (a : Nat) (v pcn : Word) : SbStep :=
  let b := (s.stn i).sb
  if a % n ≠ 0 then .trap ins
  else if a + n ≤ lsTop then .retire (s.setSb i (b.wr a n v.toNat)) 0 0 pcn
  else if n ≠ 4 then .trap ins
  else
    match s.portStore i a v pcn with
    | none => .trap ins
    | some none => .stall
    | some (some t) => .retire t 0 0 pcn

/-- A taken branch or jump: a target that is not a multiple of 4 traps (R101). -/
def jumpTo (s : State) (ins rd : Nat) (link target : Word) : SbStep :=
  if target.toNat % 4 ≠ 0 then .trap ins else .retire s rd link target

/-- The instruction at the pc decoded and executed (R101). -/
def State.sbExec (s : State) (i : Nat) : SbStep :=
  let b := (s.stn i).sb
  let pc := b.pc
  if lsTop < pc.toNat + 4 then .trap 0
  else
    let ins := b.word pc.toNat
    let rd := fld ins 7 5
    let f3 := fld ins 12 3
    let f7 := fld ins 25 7
    let a := b.get (fld ins 15 5)
    let v := b.get (fld ins 20 5)
    let immI : Word := BitVec.ofInt 32 (sx 12 (fld ins 20 12))
    let immS : Word := BitVec.ofInt 32 (sx 12 (fld ins 25 7 * 32 + fld ins 7 5))
    let immB : Word := BitVec.ofInt 32 (sx 13 (fld ins 31 1 * 4096 + fld ins 7 1 * 2048 + fld ins 25 6 * 32 + fld ins 8 4 * 2))
    let immU : Word := BitVec.ofNat 32 (fld ins 12 20 * 4096)
    let immJ : Word := BitVec.ofInt 32 (sx 21 (fld ins 31 1 * 2 ^ 20 + fld ins 12 8 * 4096 + fld ins 20 1 * 2048 + fld ins 21 10 * 2))
    let nxt := pc + 4
    let bad : SbStep := .trap ins.toNat
    match fld ins 0 7 with
    | 0x37 => .retire s rd immU nxt
    | 0x17 => .retire s rd (pc + immU) nxt
    | 0x6F => jumpTo s ins.toNat rd nxt (pc + immJ)
    | 0x67 => if f3 = 0 then jumpTo s ins.toNat rd nxt ((a + immI) &&& ~~~1) else bad
    | 0x63 =>
      match branchTaken f3 a v with
      | none => bad
      | some false => .retire s 0 0 nxt
      | some true => jumpTo s ins.toNat 0 0 (pc + immB)
    | 0x03 =>
      let at' := (a + immI).toNat
      match f3 with
      | 0 => s.sbLoad i ins.toNat rd 1 true at' nxt
      | 1 => s.sbLoad i ins.toNat rd 2 true at' nxt
      | 2 => s.sbLoad i ins.toNat rd 4 false at' nxt
      | 4 => s.sbLoad i ins.toNat rd 1 false at' nxt
      | 5 => s.sbLoad i ins.toNat rd 2 false at' nxt
      | _ => bad
    | 0x23 =>
      let at' := (a + immS).toNat
      match f3 with
      | 0 => s.sbStore i ins.toNat 1 at' v nxt
      | 1 => s.sbStore i ins.toNat 2 at' v nxt
      | 2 => s.sbStore i ins.toNat 4 at' v nxt
      | _ => bad
    | 0x13 =>
      if f3 = 1 then (if f7 = 0 then .retire s rd (aluOp 1 false a immI) nxt else bad)
      else if f3 = 5 then
        (if f7 = 0 then .retire s rd (aluOp 5 false a immI) nxt
         else if f7 = 0x20 then .retire s rd (aluOp 5 true a immI) nxt else bad)
      else .retire s rd (aluOp f3 false a immI) nxt
    | 0x33 =>
      if f7 = 0 then .retire s rd (aluOp f3 false a v) nxt
      else if f7 = 0x20 ∧ (f3 = 0 ∨ f3 = 5) then .retire s rd (aluOp f3 true a v) nxt
      else if f7 = 1 then .retire s rd (mulOp f3 a v) nxt
      else bad
    | 0x0F => if f3 = 0 ∨ f3 = 1 then .retire s 0 0 nxt else bad
    | _ => bad

/-- A retirement: the destination register and the pc written. -/
def State.sbRetire (s : State) (i rd : Nat) (v pc : Word) : State :=
  s.setSb i { (s.stn i).sb.put rd v with pc := pc }

/-- SB_INSTRUCTION (R101, R102). -/
def execSbInstruction (i : Stn) (s : State) : Result :=
  if s.live && (s.stn i).sbRuns then
    match s.sbExec i with
    | .stall => .next s
    | .trap ins => .next (s.sbTrap i (s.stn i).sb.pc ins)
    | .retire t rd v pc => .next (t.sbRetire i rd v pc)
  else .next s

/-- SB_ISSUE3: the store that pushes the assembled word retires, or stalls on a full queue (R102). Log entry 21. -/
def execSbIssue3 (i : Stn) (v : Word) (s : State) : Result :=
  let pcn := (s.stn i).sb.pc + 4
  if s.live && (s.stn i).sbRuns && decide (0 < (s.stn i).qfree) then
    .next ((s.pushWord i v pcn).setPc i pcn)
  else .next s

/-- SB_SUM_HI: the load that returns the high word of the head summary and pops it retires into s`rd`, or stalls while none waits (R102, R104). -/
def execSbSumHi (i : Stn) (rd : Fin 32) (s : State) : Result :=
  match (s.stn i).posted.head? with
  | some v =>
    if s.live && (s.stn i).sbRuns then
      .next ((s.popSummary i).sbRetire i rd ((v >>> 32).setWidth 32) ((s.stn i).sb.pc + 4))
    else .next s
  | none => .next s

/-- SB_SLEEP: the store to SB_SLEEP takes effect when enabled and permitted (R105). The pc already names the instruction after the write. -/
def execSbSleep (i : Stn) (v : Word) (s : State) : Result :=
  if s.live && (s.stn i).sbRuns then
    .next ((s.setPc i ((s.stn i).sb.pc + 4)).sleepWrite i v)
  else .next s

end Sys2Proof.Machine
end

