-- ==== Sys2Proof/Machine/Issue.lean ====
section
/-! DEFINITION. The issue queue and the tile ledger: stalls, ILLEGAL_OP, captures at issue, guarded instructions (R98, R103, R113, R144, R148, R267 to R270). -/
namespace Sys2Proof.Machine

/-! ### The tile ledger -/

/-- The open entry of the current tile interval (R267); in a replay, that of the last replayed TICKET (R270). -/
def Station.curEntry (x : Station) : Option LedgerEntry :=
  if x.ledger.replay then x.ledger.entries.find? (fun e => e.seq + 1 = x.ledger.rpos)
  else (x.ledger.entries.filter (fun e => !e.ended)).getLast?

/-- An entry of the ledger changed. -/
def Station.modEntry (x : Station) (k : Nat) (f : LedgerEntry → LedgerEntry) : Station :=
  { x with ledger := { x.ledger with entries := x.ledger.entries.map (fun e => if e.seq = k then f e else e) } }

/-- The tile interval ends (R267). -/
def Station.endInterval (x : Station) : Station :=
  { x with ledger := { x.ledger with entries := x.ledger.entries.map (fun e => { e with ended := true }) } }

/-- A slot is owned by the interval (R268). -/
def owns (e : LedgerEntry) (a : Nat) : Bool := bitAt e.owned a

/-- An instruction is guarded in the interval of entry `e` (R268). -/
def isGuarded (i : Nat) (w : PWord) (s2 : Bool) (d : Desc) (e : LedgerEntry) : Bool :=
  match opc w with
  | 0x31 => true
  | 0x32 => true
  | 0x13 => true
  | 0x40 => true
  | 0x41 => true
  | 0x01 => fld w 26 2 ≠ 0 && (namedSlots i w s2 d).any (fun a => !owns e a.1)
  | 0x02 => fld w 26 2 ≠ 0 && (namedSlots i w s2 d).any (fun a => !owns e a.1)
  | 0x20 => (d.stat && !owns e d.rslot) || (d.mv && !owns e d.stslot)
  | _ => false

/-- Slots that an interval's instruction has written join its OWNED (R268); an entry in STATE OVER records nothing more (R269). -/
def Station.own (x : Station) (entry : Option Nat) (slots : List Nat) : Station :=
  match entry with
  | none => x
  | some k => x.modEntry k (fun e => if e.isOver then e else { e with owned := slots.foldl (fun o a => putBit o a true) e.owned })

/-- The guarded number an instruction takes in its interval (R268, R269): the station with the number taken, the entry and number, and in a replay whether its effect has landed (R270). -/
def Station.takeGuard (x : Station) (guarded : Bool) : Station × Option (Nat × Nat) × Bool :=
  match x.curEntry with
  | none => (x, none, false)
  | some e =>
    if !guarded || e.isOver then (x, none, false)
    else
      let k := if x.ledger.replay then x.ledger.rguard else e.nguard
      if 32 ≤ k then (x.modEntry e.seq (fun e => { e with isOver := true }), none, false)
      else
        let y := x.modEntry e.seq (fun e => { e with nguard := max e.nguard (k + 1) })
        ({ y with ledger := { y.ledger with rguard := if x.ledger.replay then k + 1 else y.ledger.rguard } },
          some (e.seq, k), x.ledger.replay && bitAt e.done k)

/-! ### Capture -/

/-- KMAP entries of a station (R84, R108). -/
def State.kmapOf (s : State) (i : Nat) : List Nat :=
  (List.range 64).map (fun m => fld (s.preg i (0x180 + 4 * (m / 4))) (8 * (m % 4)) 6)

/-- STN_MACRO_WORK (R82). -/
def State.workOf (s : State) (i : Nat) : BitVec 64 :=
  BitVec.ofNat 64 ((s.preg i 0x140).toNat + (s.preg i 0x144).toNat * 2 ^ 32)

/-- A PASS has a tile 128 columns wide: a named bank holds S2 when it runs, as the last WLOAD in flight on it decides, else its FMT (R89); or NEXT exceeds 64, which only S2 banks and banks all with ZERO set allow (R117). -/
def Station.namesS2 (x : Station) (w : PWord) : Bool :=
  decide (64 < nextOf w) || (mgrp w).any (fun m =>
    match (x.iss.flight.filter (fun f => opc f.word = 3 && bankOf f.word = bankOf w && bitAt f.word (64 + m))).getLast? with
    | some f => fld f.word 38 2 = 2
    | none => let b := x.bank m (bankOf w); !b.zero && b.fmt = 2)

/-- What a word captures at its issue (R79, R84, R151, R178, R182, R303, R234). -/
def State.capture (s : State) (i : Nat) (w : PWord) : Capture where
  data := (s.preg i (0x200 + 8 * fld w 61 3)).toNat
  scl := (s.preg i (0x204 + 8 * fld w 61 3)).toNat
  kmap := if opc w = 1 ∨ opc w = 2 then s.kmapOf i else []
  work := s.workOf i
  dests := s.destsOf w
  desc := if opc w = 0x20 then s.descWords i (fld w 20 5) else []
  xmap := if opc w = 0x40 ∨ opc w = 0x41 then s.xmapWords i (fld w 75 3) else []
  s2 := opc w = 1 && (s.stn i).namesS2 w
  rsum := if opc w = 0x20 then
      let a := (s.stn i).slot (descOf (s.descWords i (fld w 20 5))).rslot
      (List.range 16).map (fun m => (mget (fun _ => (0 : Word)) a.sumc m).toInt * pow2 a.ts)
    else []

/-! ### Issue -/

/-- An instruction of the station is being replayed or waits for its replay, and no new word issues (R450). -/
def Station.recovering (x : Station) : Bool :=
  x.iss.flight.any (fun f => decide (0 < f.attempts) || (match f.stage with | .recover _ => true | _ => false))

/-- The queue may issue: clock running, no stop under R113, no interlock posted, no replay, no departure stagger pending (R103, R105, R113, R139, R361, R450). -/
def Station.mayIssue (x : Station) : Bool :=
  (decide (x.ctl.run = .awake) || decide (x.ctl.run = .stopped)) && !x.ctl.issueOff
    && !x.atPost && !x.recovering && !x.iss.stagger

/-- Words in the input buffer of a unit, against its depth (R148, R150). A word leaves the buffer of the macro and consist units when it begins, and of the others when it completes. Log entry 22. -/
def Station.unitRoom (x : Station) (u : PUnit) : Bool :=
  let mine := x.iss.flight.filter (fun f => unitOf (opc f.word) = some u)
  let held := if u = .mac ∨ u = .consist then mine.filter (fun f => f.stage = .issued) else mine
  decide (held.length < depthOf u)

/-- A TICKET on the counter of the ledger in effect (R267). -/
def State.isLedgerTicket (s : State) (i : Nat) (w : PWord) : Bool :=
  opc w = 0x30 && (s.stn i).ledger.en && fld w 20 6 = s.ledgerCtr i

/-- In a replay, the open entry whose value the next TICKET on the ledger counter receives (R270): the open one of least SEQ not yet passed. Log entry 23. -/
def Station.replayEntry (x : Station) : Option LedgerEntry :=
  if x.ledger.replay then x.ledger.entries.find? (fun e => decide (x.ledger.rpos ≤ e.seq)) else none

/-- What holds a legal word at the head: scoreboard, unit, summary FIFO, ledger, and for a GATHER a paired DISPATCH that has not started (R98, R104, R148, R269, R221). -/
def State.stalled (s : State) (i : Nat) (w : PWord) : Bool :=
  let x := s.stn i
  let cap := s.capture i w
  !x.slotsFree i true (namedSlots i w cap.s2 (descOf cap.desc))
  || (match unitOf (opc w) with | some u => !x.unitRoom u | none => true)
  || ((opc w = 0x30 || opc w = 0x21) && 16 ≤ x.iss.fifo.length)
  || (s.isLedgerTicket i w && x.replayEntry.isNone && 16 ≤ x.ledger.entries.length)

/-- A GATHER at the head whose paired DISPATCH has not recorded its routing waits for it. Log entry 24. -/
def Station.awaitsRouting (x : Station) (w : PWord) : Bool :=
  opc w = 0x41 && (match x.pairFor with | some d => !d.started | none => false)

/-- The summary a TICKET posts (R136). -/
def ticketSummary (ctr : Nat) (v : Word) : BitVec 64 := BitVec.ofNat 64 (v.toNat + ctr * 2 ^ 32 + 0x30 * 2 ^ 56)

/-- A flight as it leaves the queue. -/
def newFlight (seq : Nat) (w : PWord) (cap : Capture) (guard : Option (Nat × Nat)) (entry : Option Nat) : Flight where
  seq := seq
  word := w
  stage := .issued
  cap := cap
  acks := 0
  moved := 0
  skipped := []
  landed := 0
  tile := none
  pend := []
  fails := 0
  prevFails := 0
  attempts := 0
  owed := 0
  guard := guard
  entry := entry
  result := emptyResult
  why := ⟨0, 0, 0⟩
  ueLine := none
  toReload := []
  toFault := []
  reloaded := []

/-- The word at the head taken off the queue: its number given, its PHASE current (R348). -/
def Station.popHead (x : Station) (w : PWord) : Station :=
  { x with iss := { x.iss with queue := x.iss.queue.drop 1, next := x.iss.next + 1, phase := phaseOf w } }

/-- A flight added. -/
def Station.addFlight (x : Station) (f : Flight) : Station := { x with iss := { x.iss with flight := x.iss.flight ++ [f] } }

/-- A TICKET on the ledger counter outside a replay opens an entry (R267). -/
def Station.openEntry (x : Station) : Station :=
  let y := x.endInterval
  { y with ledger := { y.ledger with
      entries := y.ledger.entries ++ [⟨none, y.ledger.next, 0, 0, false, 0, false⟩]
      next := y.ledger.next + 1
      replay := false } }

/-- TICKETs whose value is back and whose summary is posted, every earlier one being posted, complete (R136, R148). -/
def Station.postTickets (x : Station) : Station :=
  let ready := (x.iss.fifo.takeWhile (fun e => e.val.isSome)).map (·.seq)
  (x.iss.flight.filter (fun f => decide (opc f.word = 0x30) && decide (f.stage = .computed) && ready.contains f.seq)).foldl
    (fun (y : Station) f => y.complete f.seq) x

/-- A TICKET issues: it reserves its summary entry; in a replay it posts the recorded value and touches no counter (R104, R136, R270). -/
def State.issueTicket (s : State) (i : Nat) (w : PWord) (x : Station) (seq : Nat) (cap : Capture) : Station :=
  let led := s.isLedgerTicket i w
  match if led then x.replayEntry else none with
  | some e =>
    let y := match x.curEntry with
      | some c => x.modEntry c.seq (fun c => { c with ended := true })
      | none => x
    let z : Station := { y with
      iss := { y.iss with fifo := y.iss.fifo ++ [⟨seq, some (ticketSummary (fld w 20 6) (e.value.getD 0))⟩] }
      ledger := { y.ledger with rpos := e.seq + 1, rguard := 0 } }
    (z.addFlight { newFlight seq w cap none (some e.seq) with stage := .computed }).postTickets
  | none =>
    let y : Station := if led then x.openEntry else x
    let z : Station := { y with iss := { y.iss with fifo := y.iss.fifo ++ [⟨seq, none⟩] } }
    z.addFlight (newFlight seq w cap none (z.curEntry.map (·.seq)))

/-- A DISPATCH or GATHER issues: a DISPATCH is recorded, a GATHER pairs with the earliest unpaired one (R216, R221). -/
def Station.recordRouting (x : Station) (w : PWord) (seq : Nat) : Station :=
  if opc w = 0x40 then { x with disp := x.disp ++ [⟨seq, w, zeroExtent w, [], [], [], [], [], [], [], none⟩] }
  else if opc w = 0x41 then
    match x.pairFor with
    | none => x
    | some d =>
      if zeroExtent w then { x with disp := x.disp.filter (fun e => decide (e.seq ≠ d.seq)) }
      else { x with disp := x.disp.map (fun e => if e.seq = d.seq then { e with gather := some seq } else e) }
  else x

/-- The named banks agree with each other and suit the word, as a pass finds them when it begins (R66, R74, R117, R119, R212). `live` are the named banks whose ZERO flag is clear. -/
def passAgrees (w : PWord) (live : List Bank) : Bool :=
  match live with
  | [] => true
  | b :: r =>
    let one := decide (nextOf w ≤ channels b.fmt.toNat)
    if opc w = 1 then
      one && r.all (fun c => decide (c.fmt = b.fmt) && (c.sparse == b.sparse)) && !(bitAt w 59 && (b :: r).any (·.sparse))
    else (b :: r).all (fun c => decide (c.fmt ≠ 2) && !c.sparse && decide (nextOf w ≤ channels c.fmt.toNat))

/-- The checks that a pass makes when it begins hold for a word of zero extent too, which begins nowhere: they are made as it issues, on the banks that no WLOAD in flight is still to write (R117, R144). Log entry 18. -/
def Station.zeroFits (x : Station) (w : PWord) : Bool :=
  !(zeroExtent w && (opc w = 1 || opc w = 2))
    || passAgrees w ((((mgrp w).filter (fun m => !x.loading m (bankOf w))).map (fun m => x.bank m (bankOf w))).filter (fun b => !b.zero))

/-- A word that no check refuses and nothing stalls issues (R103, R144, R148, R270). A SUMMARY starts with the reducer results as they stand (R134). -/
def State.issueWord (s : State) (i : Nat) (w : PWord) : State :=
  let x := s.stn i
  let cap := s.capture i w
  let d := descOf cap.desc
  let seq := x.iss.next
  let x1 := x.popHead w
  if opc w = 0 then s.setStn i x1.settle
  else if opc w = 0x30 then s.setStn i (s.issueTicket i w x1 seq cap)
  else
    let guarded := match x1.curEntry with | some e => isGuarded i w cap.s2 d e | none => false
    let (x2, g, skip) := x1.takeGuard guarded
    if skip then s.setStn i x2.settle
    else
      let x3 := x2.recordRouting w seq
      let f := newFlight seq w cap g (x3.curEntry.map (·.seq))
      if zeroExtent w then
        if opc w = 0x20 then s.setStn i (x3.addFlight { f with stage := .sent })
        else s.setStn i (x3.guardDone g).settle
      else if opc w = 0x21 then
        s.setStn i (Station.addFlight { x3 with iss := { x3.iss with fifo := x3.iss.fifo ++ [⟨seq, none⟩] } } { f with result := x3.result })
      else s.setStn i (x3.addFlight f)

/-- WORD_ISSUE (R103, R113). TAKE and INTERLOCK leave the head by commands of their own once they pass their checks. -/
def execWordIssue (i : Stn) (s : State) : Result :=
  match (s.stn i).iss.queue with
  | [] => .next s
  | w :: _ =>
    if s.live && (s.stn i).mayIssue && !(s.stn i).awaitsRouting w then
      if !s.legal i w || !(s.stn i).zeroFits w then .next (s.illegalOp i w)
      else if opc w = 0x31 ∨ opc w = 0x38 then .next s
      else if s.stalled i w then .next s
      else .next (s.issueWord i w)
    else .next s

/-- NOP: a NOP at the head retires with no other effect (R110). -/
def execNop (i : Stn) (s : State) : Result :=
  match (s.stn i).iss.queue with
  | [] => .next s
  | w :: _ =>
    if s.live && (s.stn i).mayIssue && decide (opc w = 0) && s.legal i w then .next (s.issueWord i w)
    else .next s

end Sys2Proof.Machine
end

