-- ==== Sys2Proof/Machine/Macro.lean ====
section
/-! DEFINITION. The compute-in-memory macro: codes, passes, checks, reverse passes and the writing of a bank (spec/03_cim_macro.md). -/
namespace Sys2Proof.Machine

/-- A row of the data cells. -/
def Bank.row (b : Bank) (r : Nat) : RowBits := mget (fun _ => 0) b.rows r

/-- The signed code of channel `n` in row `r` (R49). -/
def Bank.code (b : Bank) (r n : Nat) : Int := sx (wbits b.fmt.toNat) (fld (b.row r) (n * wbits b.fmt.toNat) (wbits b.fmt.toNat))

/-- The sum of all channel codes of a row. -/
def Bank.rowCodes (b : Bank) (r : Nat) : Int :=
  ((List.range (channels b.fmt.toNat)).map (fun n => b.code r n)).sum

/-- A sum item of the correction table. -/
def corr (m : SMap (BitVec 16)) (k : Nat) : Int := (mget (fun _ => 0) m k).toInt

/-- The weight exponent of a channel (R100). -/
def Bank.wexpOf (b : Bank) (n : Nat) : Nat := (mget (fun _ => 0) b.wexp n).toNat

/-- Zw of a channel: 0 unless ZWEN, and 0 in 2:4 mode (R26, R33). -/
def Bank.zw (b : Bank) (n : Nat) : Int :=
  let c := mget (fun _ => 0) b.crec n
  if b.sparse || !bitAt c 24 then 0 else sx 8 (fld c 16 8)

/-- An exponent that scales: 1 to 254 (R23). -/
def scales (e : Nat) : Bool := 1 ≤ e && e ≤ 254

/-- A quarter of one token as the macro sees it: exponent, zero point and the active rows with their non-zero codes. -/
structure Quarter where
  e : Nat
  z : Nat
  k : Nat
  codes : List (Nat × Nat)
  deriving DecidableEq, Repr

/-- Everything a pass reads besides the banks: platform memory, tile and scale addresses, formats, extents. -/
structure PassIn where
  pm : SMap Byte
  data : Nat
  scl : Nat
  u4 : Bool
  fine : Bool
  kext : Nat
  mext : Nat
  next : Nat
  kmap : List Nat

/-- The width of the activation codes. -/
def PassIn.abits (p : PassIn) : Nat := if p.u4 then 4 else 8

/-- The code of row `r` of block `b` of token `m` (R21, R84). -/
def PassIn.code (p : PassIn) (b m r : Nat) : Nat :=
  if p.u4 then
    let v := (mget byte0 p.pm ((p.data + (16 * b + m) * 64 + r / 2) % pmTop)).toNat
    if r % 2 = 0 then v % 16 else v / 16
  else (mget byte0 p.pm ((p.data + (16 * b + m) * 128 + r) % pmTop)).toNat

/-- The exponent and zero point of quarter `j` of block `b` of token `m` (R26, R116). -/
def PassIn.scale (p : PassIn) (b m j : Nat) : Nat × Nat :=
  if p.fine then
    let a := p.scl + (16 * b + m) * 8
    (pmRd p.pm (a + j) 1, pmRd p.pm (a + 4) 1)
  else
    let a := p.scl + (16 * b + m) * 2
    (pmRd p.pm a 1, pmRd p.pm (a + 1) 1)

/-- The logical input of a physical row: the row itself, or by the index field in 2:4 mode (R64): block offset and row. -/
def Bank.input (b : Bank) (r : Nat) : Nat × Nat :=
  if b.sparse then
    let l := 4 * (r / 2) + fld b.idx (2 * r) 2
    (l / 128, l % 128)
  else (0, r)

/-- Quarter `j` of token `m` for macro `i`, with rows beyond KEXT, tokens beyond MEXT and absent quarters forced to 0 (R85, R211). -/
def PassIn.quarter (p : PassIn) (b : Bank) (i m j : Nat) : Quarter :=
  let blk := p.kmap.getD i 0
  let blkOf (o : Nat) := (blk + o) % 64
  let (e, z) := p.scale (blkOf (if b.sparse then j / 2 else 0)) m j
  let rows := (List.range 32).map (fun r => 32 * j + r) |>.filter (fun r => decide (r < p.kext))
  let live := scales e && decide (m < p.mext)
  { e := e, z := z, k := rows.length
    codes := if live then
        (rows.map (fun r => let (o, l) := b.input r; (r, p.code (blkOf o) m l))).filter (fun c => decide (c.2 ≠ 0))
      else [] }

/-- The four quarters of every token within MEXT. -/
def PassIn.quarters (p : PassIn) (b : Bank) (i : Nat) : List (List Quarter) :=
  (List.range p.mext).map (fun m => (List.range 4).map (fun j => p.quarter b i m j))

/-- The quarter of a list of four. -/
def qAt (qs : List Quarter) (j : Nat) : Quarter := qs.getD j ⟨0, 0, 0, []⟩

/-- The smallest scaling exponent of a token over some quarters (R32). -/
def qMin (qs : List Quarter) (js : List Nat) : Option Nat :=
  ((js.map (fun j => (qAt qs j).e)).filter scales).min?

/-- The spread of a token over some quarters (R28, R66). -/
def qSpread (qs : List Quarter) (js : List Nat) : Nat :=
  let es := (js.map (fun j => (qAt qs j).e)).filter scales
  es.max?.getD 0 - es.min?.getD 0

/-- Rows of some quarters below KEXT. -/
def rowsIn (kext : Nat) (js : List Nat) : Nat := (js.map (fun j => min 32 (kext - 32 * j))).sum

/-- A pass or sub-pass may run as it stands (R60). -/
def runs (abits w kext : Nat) (toks : List (List Quarter)) (js : List Nat) : Bool :=
  let spread := (toks.map (fun qs => qSpread qs js)).foldl max 0
  clog2 (rowsIn kext js) + abits + w + spread + 1 ≤ 28 && spread ≤ 7

/-- A half is dropped: no row below KEXT, or no scaling quarter in any token (R61). -/
def dropped (kext : Nat) (toks : List (List Quarter)) (js : List Nat) : Bool :=
  rowsIn kext js = 0 || toks.all (fun qs => js.all (fun j => !scales (qAt qs j).e))

/-- The sub-passes of a pass and the number of divisions (R61). Three levels end the splitting. -/
def splits (abits w kext : Nat) (toks : List (List Quarter)) : Nat → List Nat → List (List Nat) × Nat
  | 0, js => ([js], 0)
  | f + 1, js =>
    if runs abits w kext toks js then ([js], 0)
    else
      let half := js.length / 2
      let part (h : List Nat) : List (List Nat) × Nat :=
        if dropped kext toks h then ([], 0) else splits abits w kext toks f h
      let a := part (js.take half)
      let b := part (js.drop half)
      (a.1 ++ b.1, a.2 + b.2 + 1)

/-- The planes of a token that a sub-pass applies: those with a 1 on some row (R54). -/
def planesOf (abits : Nat) (qs : List Quarter) (js : List Nat) : List Nat :=
  (List.range abits).filter (fun p => js.any (fun j => (qAt qs j).codes.any (fun c => c.2.testBit p)))

/-- The weight s_b * 2^b of a data column (R52). -/
def colWeight (w col : Nat) : Int := if col % w = w - 1 then -(2 ^ (col % w)) else 2 ^ (col % w)

/-- What an upset adds to L minus R of its plane (R67). -/
def checkShift (w : Nat) (u : Upset) : Int :=
  if 256 ≤ u.col then u.delta * 2 ^ (u.col - 256) else -(u.delta * colWeight w u.col)

/-- A sub-pass of one token fails the check of some applied plane (R67). -/
def tokenFails (b : Bank) (w : Nat) (ups : List Upset) (i m : Nat) (planes : List Nat) (qs : List Quarter) (js : List Nat) : Bool :=
  let diffs := js.flatMap (fun j => (qAt qs j).codes.map (fun c =>
    (c.2, ((mget (fun _ => 0) b.chk c.1).toNat : Int) - b.rowCodes c.1)))
  planes.any (fun p =>
    let d := ((diffs.filter (fun x => x.1.testBit p)).map (·.2)).sum
    let u := ((ups.filter (fun u => u.mac = i && u.m = m && u.plane = p && js.contains u.quarter)).map (checkShift w)).sum
    decide ((d + u) % 256 ≠ 0))

/-- P of one token and channel over the quarters of a sub-pass (R29, R32, R66), with what upsets in applied planes add (R52). -/
def blockSum (b : Bank) (w : Nat) (ups : List Upset) (i m n : Nat) (planes : List Nat) (emin : Nat) (qs : List Quarter) (js : List Nat) : Int :=
  let zw := b.zw n
  (js.map (fun j =>
    let q := qAt qs j
    if !scales q.e then 0
    else
      let qw := (q.codes.map (fun c => (c.2 : Int) * b.code c.1 n)).sum
      let sq := ((q.codes.map (·.2)).sum : Nat)
      let up := ((ups.filter (fun u => u.mac = i && u.m = m && u.quarter = j && u.col < 256 && u.col / w = n
          && planes.contains u.plane)).map (fun u => u.delta * colWeight w u.col * 2 ^ u.plane)).sum
      let p := qw + up - q.z * corr b.qsum (4 * n + j) - zw * sq + q.k * q.z * zw
      p * 2 ^ (q.e - emin))).sum

/-- What one macro gives a pass: contributions in their order, a check failure, planes applied, divisions. -/
structure MacroOut where
  adds : List Contrib
  fail : Bool
  credits : Nat
  splits : Nat

/-- A PASS on one macro (R51 to R66, R87, R89). -/
def passMacro (p : PassIn) (b : Bank) (acc i : Nat) (ups : List Upset) : MacroOut :=
  if b.zero then ⟨[], false, 0, 0⟩
  else
    let w := wbits b.fmt.toNat
    let toks := p.quarters b i
    let (subs, nsplit) := splits p.abits w p.kext toks 3 [0, 1, 2, 3]
    let per := subs.flatMap (fun js => (List.range p.mext).map (fun m =>
      let qs := toks.getD m []
      let planes := planesOf p.abits qs js
      let adds := match qMin qs js with
        | none => []
        | some e => (List.range p.next).map (fun n =>
            ({ slot := (acc + n / 64) % 64, m := m, n := n % 64,
               p := blockSum b w ups i m n planes e qs js, ea := e, ew := b.wexpOf n, lost := false } : Contrib))
      (adds, tokenFails b w ups i m planes qs js, planes.length)))
    ⟨per.flatMap (·.1), per.any (·.2.1), (per.map (·.2.2)).sum + 2, nsplit⟩

/-- A PASSR on one macro (R73 to R77, R119). -/
def passrMacro (p : PassIn) (b : Bank) (acc i : Nat) (ups : List Upset) : MacroOut :=
  if b.zero then ⟨[], false, 0, 0⟩
  else
    let w := wbits b.fmt.toNat
    let nch := channels b.fmt.toNat
    let blk := p.kmap.getD i 0
    let per := (List.range p.mext).map (fun m =>
      let (e, z) := p.scale blk m 0
      let gs : List (Nat × Nat) := if scales e then
          ((List.range (min p.next nch)).map (fun n => (n, p.code blk m n))).filter (fun c => decide (c.2 ≠ 0))
        else []
      let planes := (List.range p.abits).filter (fun k => gs.any (fun (g : Nat × Nat) => g.2.testBit k))
      let mine := ups.filter (fun (u : Upset) => u.mac = i && u.m = m && planes.contains u.plane && u.col % 8 < w)
      let weight (u : Upset) : Int := u.delta * (if u.col % 8 = w - 1 then -(2 ^ (u.col % 8)) else 2 ^ (u.col % 8))
      let adds := if scales e then (List.range p.kext).map (fun r =>
          let z0 := (gs.map (fun (g : Nat × Nat) => (g.2 : Int) * b.code r g.1)).sum
          let up := ((mine.filter (fun (u : Upset) => u.col / 8 = r)).map (fun u => weight u * 2 ^ u.plane)).sum
          ({ slot := (acc + r / 64) % 64, m := m, n := r % 64, p := z0 + up - z * corr b.rsum r,
             ea := e, ew := 127, lost := false } : Contrib))
        else []
      let diff (n : Nat) : Int := ((List.range 128).map (fun r => b.code r n)).sum
        - ((fld (mget (fun _ => 0) b.crow (n / 32)) (8 * (n % 32)) 8 : Nat) : Int)
      let ds := gs.map (fun (g : Nat × Nat) => (g.2, diff g.1))
      let fail := planes.any (fun k =>
        let d := ((ds.filter (fun (x : Nat × Int) => x.1.testBit k)).map (fun (x : Nat × Int) => x.2)).sum
        let u := ((mine.filter (fun (u : Upset) => u.plane = k)).map weight).sum
        decide ((d + u) % 256 ≠ 0))
      (adds, fail, 4 * planes.length))
    ⟨per.flatMap (·.1), per.any (·.2.1), (per.map (·.2.2)).sum + 2, 0⟩

/-! ### Writing a bank -/

/-- A 256-bit word of platform memory. -/
def pmWord (pm : SMap Byte) (a : Nat) : RowBits := BitVec.ofNat 256 (pmRd pm a 32)

/-- A bank with its check columns, check rows and correction sums computed from the rows as written (R68, R72, R77). -/
def Bank.withSums (b : Bank) : Bank :=
  let nch := channels b.fmt.toNat
  let q (n j : Nat) : Int := ((List.range 32).map (fun r => b.code (32 * j + r) n)).sum
  let qs := (List.range nch).flatMap (fun n => (List.range 4).map (fun j => q n j))
  let cs := (List.range nch).map (fun n => qs.getD (4 * n) 0 + qs.getD (4 * n + 1) 0 + qs.getD (4 * n + 2) 0 + qs.getD (4 * n + 3) 0)
  let rs := (List.range 128).map (fun r => b.rowCodes r)
  let rn (n : Nat) : Nat := (cs.getD n 0 % 256).toNat
  let chkv (k : Nat) : Nat := if b.fmt = 2 then (rn (2 * k) + rn (2 * k + 1)) % 256 else if k < nch then rn k else 0
  let crow (h : Nat) : RowBits := BitVec.ofNat 256 (leNat ((List.range 32).map (fun k => BitVec.ofNat 8 (chkv (32 * h + k)))))
  { b with
    chk := smapOf 0 (rs.map (fun v => BitVec.ofInt 8 v))
    crow := smapOf 0 [crow 0, crow 1]
    sumw := smapOf 0 (cs.map (fun v => BitVec.ofInt 16 v))
    qsum := smapOf 0 (qs.map (fun v => BitVec.ofInt 16 v))
    rsum := smapOf 0 (if b.fmt = 2 then [] else rs.map (fun v => BitVec.ofInt 16 v)) }

/-- Lines of exponents of a scale item (R121). -/
def expLines (f : Nat) : Nat := (channels f + 63) / 64

/-- Bytes of a scale item (R121). -/
def itemSize (f : Nat) : Nat := (expLines f + channels f / 16) * 64

/-- Whether every channel below NEXT has exponent 0 or 255 (R59). -/
def allAbsent (next : Nat) (wexp : List Byte) : Bool := (wexp.take next).all (fun e => e = 0 || e = 255)

/-- The bank that a WLOAD of an image leaves (R71, R72): rows, index, exponents and records are given as read. -/
def loadBank (old : Bank) (row : Nat → RowBits) (idx : RowBits) (wexp : List Byte) (crec : List Word) (f : Nat) (sparse : Bool) (kext next : Nat) : Bank :=
  let nch := channels f
  let w := wbits f
  let ex := (List.range nch).map (fun n => if next ≤ n then 255 else wexp.getD n 0)
  if allAbsent next ex then
    { old with zero := true, wexp := smapOf 0 ex, crec := smapOf 0 crec }
  else
    let keep : RowBits := BitVec.ofNat 256 (((List.range nch).map (fun n =>
      if scales (ex.getD n 0).toNat then (2 ^ w - 1) * 2 ^ (n * w) else 0)).sum)
    Bank.withSums { old with
      rows := smapOf 0 ((List.range 128).map (fun r => if r < kext then row r &&& keep else 0))
      idx := if sparse then idx else old.idx
      fmt := BitVec.ofNat 2 f, sparse := sparse, zero := false
      wexp := smapOf 0 ex, crec := smapOf 0 crec }

/-- The bank that an image and a scale item in platform memory leave (R120, R121). -/
def bankAt (pm : SMap Byte) (old : Bank) (img scl f : Nat) (sparse : Bool) (kext next : Nat) : Bank :=
  loadBank old (fun r => pmWord pm (img + 32 * r)) (pmWord pm (img + 0x1000))
    ((List.range (channels f)).map (fun n => BitVec.ofNat 8 (pmRd pm (scl + n) 1)))
    ((List.range (channels f)).map (fun n => BitVec.ofNat 32 (pmRd pm (scl + expLines f * 64 + 4 * n) 4)))
    f sparse kext next

/-- The bank that image `j` of a WLOAD word with `njobs` named macros leaves (R120, R121). -/
def wloadImage (pm : SMap Byte) (old : Bank) (w : PWord) (njobs j : Nat) : Bank :=
  let src := fld w 41 14 * 64
  bankAt pm old (src + j * 0x1020) ((src + njobs * 0x1020 + 63) / 64 * 64 + j * itemSize (fld w 38 2))
    (fld w 38 2) (bitAt w 40) (fld w 20 8) (fld w 28 8)

end Sys2Proof.Machine
end

