-- ==== Sys2Proof/Machine/Memory.lean ====
section
/-! DEFINITION. LPDDR5X lines as the engines see them: uncorrectable lines, the golden copy, the inline-ECC regions (R284 to R293). -/
namespace Sys2Proof.Machine

/-- The edge id of controller `c` (R298). -/
def ctrlEdge (c : Nat) : Nat := if c < 10 then c + 19 else c + 25

/-- The first line of the golden copy (R286). -/
def State.goldenLine (s : State) : Nat := (s.capMib - 640) * 16384

/-- The first line of the golden slot of bank `k` of macro `m` of station `i` (R292). -/
def State.slotLine (s : State) (i m k : Nat) : Nat := s.goldenLine + ((64 * i + m) * 4 + k) * 80

/-- Station, macro and bank of a golden line, in the form in which DETAIL0 names them: station * 2^16 + macro * 2^8 + bank. DESIGN CHOICE, log entry 25. -/
def State.goldenId (s : State) (line : Nat) : Nat :=
  let b := (line - s.goldenLine) / 80
  b / 256 * 65536 + (b / 4 % 64) * 256 + b % 4

/-- A line lies under inline ECC (R286, R289). -/
def State.inEcc (s : State) (line : Nat) : Bool :=
  match s.region (line * 64) with
  | .user => (List.range 4).any (fun n =>
      let base := fld (s.reg (0x100810 + 8 * n)) 0 10 * 1024
      let size := fld (s.reg (0x100814 + 8 * n)) 0 10 * 1024
      decide (base ≤ line / 16384) && decide (line / 16384 < base + size))
  | .beyond => false
  | _ => true

/-- A read finds the line uncorrectable: its code says so, or the error is found now. Outside inline ECC no read does (R288 to R290). -/
def State.lineBad (s : State) (line : Nat) (now : Bool) : Bool := (s.poison.contains line || now) && s.inEcc line

/-- The channel of a line (R284). -/
def channelOf (l : Nat) : Nat := (l * 64 / 4096) % 80

/-- A counter of a controller raised. -/
def State.mbump (s : State) (c o : Nat) : State := s.bump (0x100000 + 0x1000 * c + o) 1

/-- A request for a line ends the power-down of its channel (R283). -/
def State.wakeChannel (s : State) (l : Nat) : State :=
  { s with die := { s.die with pdown := putBit s.die.pdown (channelOf l) false } }

/-- A corrected read is counted (R289). -/
def State.corrected (s : State) (line : Nat) (ce : Bool) : State :=
  if ce && s.inEcc line then s.mbump (ctrlOf line) 0x14 else s

/-- Requests for lines: channels in power-down end it, and the lines found correctable are counted (R283, R289). -/
def State.useLines (s : State) (ls ce : List Nat) : State :=
  ls.foldl (fun (t : State) l => (t.wakeChannel l).corrected l (ce.contains l)) s

/-- An error in the array of a line outside inline ECC: the line holds other data, and no reader is told (R288). Log entry 80. -/
def State.arrayError (s : State) (l : Nat) : State :=
  if s.inEcc l || decide (s.capBytes ≤ l * 64) then s
  else
    let (v, t) := s.fresh
    { t with lpddr := putBytes t.lpddr (l * 64) (leBytes 64 v) }

/-- What a read of an uncorrectable line does: the counter and the record (R290, R293). -/
def State.readUe (s : State) (line : Nat) : State :=
  let c := ctrlOf line
  let s1 := { s with poison := if s.poison.contains line then s.poison else s.poison ++ [line] }
  let s2 := s1.bump (0x100018 + c * 0x1000) 1
  if s.region (line * 64) = .golden then
    s2.logFault 0x0202 0 (0x100 + ctrlEdge c) (BitVec.ofNat 32 (s.goldenId line)) (BitVec.ofNat 64 line)
  else s2.logFault 0x0201 0 (0x100 + ctrlEdge c) (BitVec.ofNat 32 c) (BitVec.ofNat 64 line)

/-- Writes of whole bytes to the platform memory of a station (R96). -/
def State.pmPut (s : State) (i a : Nat) (bs : List Byte) : State :=
  let x := s.stn i
  s.setStn i { x with pm := wrBytes pmTop x.pm (a % pmTop) bs }

/-- Masked writes to the platform memory of a station. -/
def State.pmMask (s : State) (i : Nat) (ws : List MaskedByte) : State :=
  let x := s.stn i
  s.setStn i { x with pm := pmApply x.pm ws }

/-! ### Refused requests and collisions -/

/-- Refused requests counted in STN_CNT_BCONF, by master (R93). -/
def State.countRefused (s : State) (i : Nat) (rs : List (Fin 5 × Nat)) : State :=
  rs.foldl (fun (t : State) p => if p.2 = 0 then t else t.pbump i (0x128 + 4 * p.1.val) p.2) s

/-- Assertions of BUSY counted (R95). -/
def State.countBusy (s : State) (i n : Nat) : State := if n = 0 then s else s.bump (0x204000 + 4 * i) n

/-- The masked bytes with which a flit in transit writes a word of a station's platform memory: the first such flit. -/
def State.clashWrite (s : State) (i wd : Nat) : Option (List MaskedByte) :=
  s.die.mesh.findSome? (fun f =>
    match f.body with
    | .wr bs _ _ _ =>
      let mine := bs.filter (fun b => decide (b.1 % pmTop / 32 = wd))
      if f.dst = i ∧ !mine.isEmpty then some mine else none
    | _ => none)

/-- A byte each bit of which is that of the old one or of the new one, as `pick` chooses (R94). -/
def mixByte (old new pick : Byte) : Byte := (old &&& ~~~pick) ||| (new &&& pick)

/-- A word of which each bit is that of the old word or of the one being written, as `r` chooses (R94). -/
def mixWord (pm : SMap Byte) (ws : List MaskedByte) (r : Nat) : SMap Byte :=
  ws.foldl (fun m w =>
    let old := mget byte0 m (w.1 % pmTop)
    let new := (old &&& ~~~w.2.1) ||| (w.2.2 &&& w.2.1)
    let pick : Byte := BitVec.ofNat 8 (r >>> (8 * (w.1 % 32)))
    wrByte pmTop m w.1 (mixByte old new pick)) pm

/-- Platform memory as the station port reads it when a mesh write of a flit in transit meets the words `clash` in the same mc (R94, R95): BUSY is counted, the memory itself is not changed by the read. -/
def State.seen (s : State) (i : Nat) (clash : List Nat) : SMap Byte × State :=
  clash.dedup.foldl (fun (a : SMap Byte × State) wd =>
    match a.2.clashWrite i wd with
    | none => a
    | some ws =>
      let (r, t) := a.2.fresh
      (mixWord a.1 ws r, t.countBusy i 1)) ((s.stn i).pm, s)

/-! ### Detour and faulted macros -/

/-- STN_MACRO_FAULT of a station (R455). -/
def State.faultBits (s : State) (i : Nat) : BitVec 64 :=
  BitVec.ofNat 64 ((s.preg i 0x15C).toNat + (s.preg i 0x160).toNat * 2 ^ 32)

/-- The reload buffer's platform address (R453). -/
def State.reloadAddr (s : State) (i : Nat) : Nat := fld (s.preg i 0x164) 10 14 * 64

/-- What the descriptor bytes of a golden slot give (R292): WFMT, SPARSE, KEXT, NEXT. -/
structure SlotDesc where
  valid : Bool
  wfmt : Nat
  sparse : Bool
  kext : Nat
  next : Nat
  deriving DecidableEq, Repr

/-- The descriptor bytes of a golden slot. -/
def State.slotDesc (s : State) (i m k : Nat) : SlotDesc :=
  let b := s.memBytes (s.slotLine i m k * 64 + 0x13C0) 5
  let at' (n : Nat) : Nat := (b.getD n 0).toNat
  ⟨at' 0 = 1, at' 1, bitAt (b.getD 2 0) 0, at' 3, at' 4⟩

/-- WLOAD can take the descriptor bytes (R453). -/
def SlotDesc.ok (d : SlotDesc) : Bool := decide (d.wfmt < 3) && decide (d.kext ≤ 128) && decide (d.next ≤ channels d.wfmt)

/-- The credits of a WLOAD of one bank (R350). -/
def bankCredits (b : Bank) : Nat := if b.zero then 2 else 34

/-- A reload of golden bank (m, k) of station `i` into bank `dk` of macro `dm` by the two operations of R453. `found` is a line of the slot that the read finds uncorrectable and `ce` are lines found correctable, counted from its first. The second component says that the reload was made; when it was not, GOLDEN_UE is logged. -/
def State.reload (s : State) (i m k dm dk : Nat) (found : Option Nat) (ce : List Nat) : State × Bool :=
  let base := s.slotLine i m k
  let lines := (List.range 75).map (fun j => base + j) ++ [base + 79]
  let s0 := s.useLines lines (ce.map (base + ·))
  match lines.find? (fun l => s.lineBad l (found = some (l - base))) with
  | some l => (s0.readUe l, false)
  | none =>
    let d := s0.slotDesc i m k
    if d.ok then
      let a := s0.reloadAddr i
      let s1 := s0.pmPut i a (s0.memBytes (base * 64) 0x12C0)
      let x := s1.stn i
      let b := bankAt x.pm (x.bank dm dk) a (a + 0x1040) d.wfmt d.sparse d.kext d.next
      (s1.setStn i { x.setBank dm dk b with reloadBuf := some (m, k) }, true)
    else (s0.logFault 0x0202 0 i (BitVec.ofNat 32 (s.goldenId base)) (BitVec.ofNat 64 (base + 79)), false)

/-- What a reload that cannot be made leads to (R453). -/
def goldenWhy (s : State) (i m k : Nat) : FaultInfo :=
  ⟨0x0202, BitVec.ofNat 32 (s.goldenId (s.slotLine i m k)), BitVec.ofNat 64 (s.slotLine i m k)⟩

end Sys2Proof.Machine
end

