-- ==== Sys2Proof/Machine/Passes.lean ====
section
/-! DEFINITION. The macro unit and the reduction path: PASS, PASSR, WLOAD, handover, addition, slips and check failures (R70, R81, R87, R117 to R122, R147, R451, R456). -/
namespace Sys2Proof.Machine

/-- A flight of a station replaced. -/
def State.setFlight (s : State) (i : Nat) (f : Flight) : State := s.setStn i ((s.stn i).setFlight f)

/-- A credit draw (R350, R351): what the account holds is paid, the rest is owed, with what the instruction owes for its reloads. Work after a halt begins draws none (R386). -/
def State.draw (s : State) (i cost : Nat) (f : Flight) : State :=
  let x := s.stn i
  let need := (if s.supState = 0 then cost else 0) + f.owed
  let pay := min x.iss.account need
  s.setStn i ({ x with iss := { x.iss with account := x.iss.account - pay, spent := x.iss.spent + pay } }.setFlight
    { f with owed := need - pay })

/-! ### Slips (R145 to R147) -/

/-- The engines that take tagged streams (R146): 0 none, 1 serialiser, 2 WLOAD reader, 3 consist engine, 4 a mesh port. An ST to LPDDR5X goes to none. -/
def engineOf (w : PWord) : Nat :=
  match opc w with
  | 0x01 => 1
  | 0x02 => 1
  | 0x03 => 2
  | 0x20 => 3
  | 0x08 => 4
  | 0x09 => if fld w 121 2 = 0 then 0 else 4
  | 0x0A => 4
  | 0x40 => 4
  | 0x41 => 4
  | _ => 0

/-- The nodes at which the engine of an instruction of station `i` takes its stream: the station itself, the mesh ports of its destinations, the sync hub for the vectors of a DISPATCH (R146). -/
def Flight.enginesAt (i : Nat) (f : Flight) : List Nat :=
  match opc f.word with
  | 0x09 => if fld f.word 121 2 = 2 then [] else f.cap.dests
  | 0x0A => f.cap.dests
  | 0x40 => [142]
  | _ => [i]

/-- Two instructions of a station feed one engine. -/
def sameEngine (i : Nat) (f g : Flight) : Bool :=
  decide (engineOf f.word ≠ 0) && decide (engineOf f.word = engineOf g.word)
    && (f.enginesAt i).any (fun n => (g.enginesAt i).contains n)

/-- An earlier instruction of the engine has slipped and its replay has not completed: the items of a later one stay queued (R147 step 4). -/
def Station.slipHolds (i : Nat) (x : Station) (g : Flight) : Bool :=
  x.iss.flight.any (fun f => decide (f.seq < g.seq) && decide (f.why.code = 0x0102) && sameEngine i f g)

/-- The first word of a unit that has not begun and that no slip holds (R147, R148). -/
def State.headOf (s : State) (i : Nat) (u : PUnit) : Option Flight :=
  let x := s.stn i
  match x.iss.flight.find? (fun f => decide (unitOf (opc f.word) = some u) && decide (f.stage = .issued)) with
  | some f => if x.slipHolds i f then none else some f
  | none => none

/-- The distinct activation blocks a pass reads (R84, R211). -/
def Station.passBlocks (x : Station) (f : Flight) : List Nat :=
  ((mgrp f.word).flatMap (fun m =>
    let b := f.cap.kmap.getD m 0
    let bk := x.bank m (bankOf f.word)
    if opc f.word = 1 && bk.sparse && !bk.zero then [b, (b + 1) % 64] else [b])).dedup

/-- The data blocks of an instruction's stream (R121, R123, R145, R186). -/
def Station.blocksOf (x : Station) (f : Flight) : Nat :=
  match opc f.word with
  | 0x01 => 16 * (x.passBlocks f).length
  | 0x02 => 16 * (x.passBlocks f).length
  | 0x03 => (mgrp f.word).length
  | 0x20 =>
    let d := descOf f.cap.desc
    if d.sfmt = 0 then 1 else if d.pair && 3 ≤ d.sfmt then 32 else 16
  | 0x08 => lenOf f.word / blockLines (dfmtOf f.word)
  | 0x09 => lenOf f.word / blockLines (dfmtOf f.word)
  | 0x0A => lenOf f.word / blockLines (dfmtOf f.word)
  | 0x40 => mextOf f.word * (fld f.word 78 3 + 1) * (fld f.word 67 8 / blockLines (dfmtOf f.word))
  | 0x41 => mextOf f.word * (fld f.word 78 3 + 1) * (fld f.word 67 8 / blockLines (dfmtOf f.word))
  | _ => 0

/-- The instructions after a slipped one that lost blocks: those whose first data block stands before the next TAG-zero block (R147 step 3). -/
def slipVictims (x : Station) : List Flight → List Nat
  | [] => []
  | o :: r =>
    let first := (16 - tagOf o.word) % 16
    if first = 0 then []
    else if first < x.blocksOf o then [o.seq] else o.seq :: slipVictims x r

/-- Every instruction of station `i` that a slip of `f` at a block sends to its replay: those whose blocks the same engine takes. -/
def Station.slipped (i : Nat) (x : Station) (f : Flight) (block : Nat) : List Nat :=
  let e := (tagOf f.word + block) % 16
  let later := x.iss.flight.filter (fun o => decide (f.seq < o.seq) && sameEngine i f o && carriesScale o.word)
  f.seq :: (if x.blocksOf f ≤ block + (16 - e) % 16 then slipVictims x later else [])

/-- An observed slip concerns the instruction: a block of its stream, and a TAG other than the expected one. -/
def slipAt (x : Station) (f : Flight) (sl : Option Slip) : Option Slip :=
  match sl with
  | none => none
  | some q =>
    if carriesScale f.word && decide (q.block < x.blocksOf f) && decide (q.found.toNat ≠ (tagOf f.word + q.block) % 16) then some q else none

/-- SCALE_SLIP (R147, R451): the record, and the replay of every instruction that lost blocks, or step 4 on a replay. -/
def State.slip (s : State) (i : Nat) (f : Flight) (q : Slip) : State :=
  let x := s.stn i
  let d1 := (tagOf f.word + q.block) % 16 + q.found.toNat * 16
  let d0 : Word := BitVec.ofNat 32 (opc f.word)
  let ks := Station.slipped i x f q.block
  let why : FaultInfo := ⟨0x0102, d0, BitVec.ofNat 64 d1⟩
  let mark (o : Flight) : Flight :=
    if o.seq = f.seq then { f with stage := .recover (if f.attempts = 0 then 1 else 4), why := why, tile := none, owed := 0 }
    else if ks.contains o.seq then { o with stage := .recover 1, why := why, tile := none, owed := 0 }
    else o
  (s.setStn i { x with iss := { x.iss with flight := x.iss.flight.map mark } }).logFault 0x0102 0 i d0 (BitVec.ofNat 64 d1)

/-- ILLEGAL_OP detected after issue (R113): the instruction is abandoned and the station stops. -/
def State.abandon (s : State) (i : Nat) (f : Flight) : State :=
  let x := s.stn i
  (s.setStn i { x with iss := { x.iss with flight := x.iss.flight.filter (fun g => decide (g.seq ≠ f.seq)) } }).illegalOp i f.word

/-! ### PASS and PASSR -/

/-- What a pass reads, from its word and capture (R84, R116, R119). -/
def passIn (pm : SMap Byte) (f : Flight) : PassIn where
  pm := pm
  data := f.cap.data
  scl := f.cap.scl
  u4 := bitAt f.word 60
  fine := opc f.word = 1 && bitAt f.word 59
  kext := kextOf f.word
  mext := mextOf f.word
  next := nextOf f.word
  kmap := f.cap.kmap

/-- One macro's part of a pass. -/
def passPart (pm : SMap Byte) (f : Flight) (b : Bank) (m blk : Nat) (ups : List Upset) : MacroOut :=
  let p := { passIn pm f with kmap := f.cap.kmap.set m blk }
  if opc f.word = 1 then passMacro p b (fld f.word 20 6) m ups else passrMacro p b (fld f.word 20 6) m ups

/-- The detour bank holds the golden image of bank `k` of macro `m`, loaded now where it does not (R456): the state, whether it does, the credits of the load. -/
def State.detourReady (s : State) (i m k : Nat) (found : Option Nat) (ce : List Nat) : State × Bool × Nat :=
  let det := s.preg i 0x164
  if (s.stn i).detour = some (m, k, true) then (s, true, 0)
  else
    let (s1, ok) := s.reload i m k (fld det 1 6) (fld det 7 2) found ce
    if ok then
      (s1.setStn i { s1.stn i with detour := some (m, k, true) }, true, bankCredits ((s1.stn i).bank (fld det 1 6) (fld det 7 2)))
    else (s1, false, 0)

/-- What the passes of faulted macros on the detour bank give: the state, the parts, their banks, the credits of loads, and the macro whose image is not to be had. -/
structure DetourOut where
  state : State
  outs : List (Nat × MacroOut)
  banks : List Bank
  loads : Nat
  lost : Option Nat

/-- The passes of faulted macros on the detour bank, one after another (R456). -/
def detourParts (i : Nat) (f : Flight) (o : Obs) : List Nat → State → DetourOut
  | [], s => ⟨s, [], [], 0, none⟩
  | m :: r, s =>
    let (s1, ok, n) := s.detourReady i m (bankOf f.word) (o.ue.map (·.1)) o.ce
    if !ok then ⟨s1, [], [], 0, some m⟩
    else
      let det := s1.preg i 0x164
      let x := s1.stn i
      let d := fld det 1 6
      let b := x.bank d (fld det 7 2)
      let q := passPart x.pm f b d (f.cap.kmap.getD m 0) o.upsets
      let z := detourParts i f o r s1
      { z with outs := (d, q) :: z.outs, banks := b :: z.banks, loads := n + z.loads }

/-- The slots of the tile of a pass (R89). -/
def passSlots (w : PWord) (wide : Bool) : List Nat := if wide then [fld w 20 6, (fld w 20 6 + 1) % 64] else [fld w 20 6]

/-- The entries an overwriting pass sets to 0: its extent, which for NEXT above 64 goes on in the next slot (R89, R115, R117). With every bank ZERO the manual does not name that slot: DESIGN CHOICE, log entry 82. -/
def passZero (w : PWord) : List (Nat × Nat × Nat) :=
  if fld w 26 2 ≠ 0 then []
  else extent (fld w 20 6) (mextOf w) (if opc w = 2 then kextOf w else nextOf w)

/-- The tile of a pass (R87, R115, R117). A pass whose banks all have ZERO set adds nothing: only overwrite changes the slot, and then only its extent. -/
def passTile (i : Nat) (f : Flight) (live : List Bank) (adds : List Contrib) : Tile :=
  let w := f.word
  let wide := opc w = 2 || live.any (fun b => b.fmt = 2) || decide (64 < nextOf w)
  { seq := some f.seq, src := i, txn := f.seq, slots := passSlots w wide
    amode := if live.isEmpty && fld w 26 2 = 2 then 1 else fld w 26 2
    chain := BitVec.ofNat 8 (fld w 28 8), zero := passZero w, adds := adds
    range := false, write := false, rtok := none, guard := none }

/-- The passes of the macros themselves. -/
def mainParts (x : Station) (pm : SMap Byte) (f : Flight) (ups : List Upset) (ms : List Nat) : List (Nat × MacroOut) :=
  ms.map (fun m => (m, passPart pm f (x.bank m (bankOf f.word)) m (f.cap.kmap.getD m 0) ups))

/-- A PASS or PASSR runs on its macros (R51 to R77, R93, R94, R117 to R119, R456). -/
def State.runPass (s : State) (i : Nat) (f : Flight) (o : Obs) : State :=
  match slipAt (s.stn i) f o.slip with
  | some q => s.slip i f q
  | none =>
    let (pm, s0) := (s.countRefused i o.refused).seen i o.clash
    let x := s0.stn i
    let w := f.word
    let faulty := s0.faultBits i
    let main := (mgrp w).filter (fun m => !bitAt faulty m)
    let det := detourParts i f o ((mgrp w).filter (fun m => bitAt faulty m)) s0
    match det.lost with
    | some m => det.state.setFlight i { f with stage := .recover 5, why := goldenWhy s0 i m (bankOf w) }
    | none =>
      let live := (main.map (fun m => x.bank m (bankOf w)) ++ det.banks).filter (fun b => !b.zero)
      if !passAgrees w live then det.state.abandon i f
      else
        let outs := mainParts x pm f o.upsets main ++ det.outs
        let bad := outs.foldl (fun (b : BitVec 64) p => if p.2.fail then putBit b p.1 true else b) 0
        let g := { f with stage := .computed, tile := some (passTile i f live (outs.flatMap (·.2.adds))), fails := bad }
        let nsplit := (outs.map (·.2.splits)).sum
        (if nsplit = 0 then det.state else det.state.pbump i 0x124 nsplit).draw i ((outs.map (·.2.credits)).sum + det.loads) g

/-- An earlier WLOAD that has not committed holds a pass on the same bank (R81). -/
def Station.bankPending (x : Station) (f : Flight) : Bool :=
  x.iss.flight.any (fun g => decide (g.seq < f.seq) && decide (opc g.word = 3) && decide (bankOf g.word = bankOf f.word)
    && (mgrp g.word).any (fun m => bitAt f.word (64 + m)))

/-- PASS (R117). -/
def execPass (i : Stn) (o : Obs) (s : State) : Result :=
  match s.headOf i .mac with
  | some f => if s.works && decide (opc f.word = 1) && !(s.stn i).bankPending f then .next (s.runPass i f o) else .next s
  | none => .next s

/-- PASSR (R73 to R77, R119). -/
def execPassr (i : Stn) (o : Obs) (s : State) : Result :=
  match s.headOf i .mac with
  | some f => if s.works && decide (opc f.word = 2) && !(s.stn i).bankPending f then .next (s.runPass i f o) else .next s
  | none => .next s

/-! ### WLOAD -/

/-- A WLOAD reads its images and writes the rows; the banks become as read at commit (R71, R72, R120 to R122, R456). -/
def State.runWload (s : State) (i : Nat) (f : Flight) (o : Obs) : State :=
  match slipAt (s.stn i) f o.slip with
  | some q => s.slip i f q
  | none =>
    let (pm, s) := (s.countRefused i o.refused).seen i o.clash
    let x := s.stn i
    let w := f.word
    let faulty := s.faultBits i
    let named := mgrp w
    let jobs := ((List.range named.length).zip named).filter (fun p => !bitAt faulty p.2)
    let pend := jobs.map (fun p => (4 * p.2 + bankOf w, wloadImage pm (x.bank p.2 (bankOf w)) w named.length p.1))
    let need := (pend.map (fun p => bankCredits p.2)).sum
    let stale := match x.detour with
      | some (m, k, _) => bitAt faulty m && bitAt w (64 + m) && decide (k = bankOf w)
      | none => false
    let s1 := if stale then s.setStn i { x with detour := x.detour.map (fun d => (d.1, d.2.1, false)) } else s
    s1.draw i need { f with stage := .written, pend := pend }

/-- An earlier pass on a bank of the WLOAD has still to begin, or waits for its replay; or an earlier WLOAD on the bank has not committed (R81). Log entry 26. -/
def Station.wloadWaits (x : Station) (f : Flight) : Bool :=
  x.bankPending f || x.iss.flight.any (fun g => decide (g.seq < f.seq) && (decide (opc g.word = 1) || decide (opc g.word = 2))
    && decide (bankOf g.word = bankOf f.word) && (mgrp g.word).any (fun m => bitAt f.word (64 + m))
    && (match g.stage with | .issued => true | .recover _ => true | _ => false))

/-- WLOAD (R71, R120 to R122). -/
def execWload (i : Stn) (o : Obs) (s : State) : Result :=
  match s.headOf i .mac with
  | some f => if s.works && decide (opc f.word = 3) && !(s.stn i).wloadWaits f then .next (s.runWload i f o) else .next s
  | none => .next s

/-- WLOAD_COMMIT (R72): the earliest written WLOAD commits its banks and completes. A pass on the bank that is not yet handed over comes first. -/
def execWloadCommit (i : Stn) (s : State) : Result :=
  let x := s.stn i
  match x.iss.flight.find? (fun f => f.stage = .written) with
  | none => .next s
  | some f =>
    let busy := x.iss.flight.any (fun g => decide (g.seq < f.seq) && (decide (opc g.word = 1) || decide (opc g.word = 2))
      && decide (bankOf g.word = bankOf f.word) && (mgrp g.word).any (fun m => bitAt f.word (64 + m)) && decide (g.stage ≠ .handed))
    if s.works && decide (f.owed = 0) && !busy then
      let y := f.pend.foldl (fun y p => y.setBank (p.1 / 4) (p.1 % 4) p.2) x
      .next (s.setStn i (y.complete f.seq))
    else .next s

/-! ### Handover and addition -/

/-- Reloads of a macro within the last 24 h of service (R454). -/
def State.recentReloads (s : State) (i m : Nat) : Nat :=
  ((mget (fun _ => []) (s.stn i).reloads m).filter (fun t => decide (s.uptime - t < 345600000000))).length

/-- The next action after a failed check (R451, R454). A macro is working or resident as declared when the instruction issued (R79). -/
def State.afterCheck (s : State) (i : Nat) (f : Flight) : Flight :=
  let again := (List.range 64).filter (fun m => bitAt f.fails m && bitAt f.prevFails m)
  let resident := again.filter (fun m => !bitAt f.cap.work m)
  let faulted := resident.filter (fun m => f.reloaded.contains m || decide (2 ≤ s.recentReloads i m))
  let reload := resident.filter (fun m => !faulted.contains m)
  let step :=
    if 4 ≤ f.attempts then 4
    else if f.attempts = 0 ∨ again.isEmpty then 1
    else if resident.length < again.length then 4
    else if faulted.isEmpty then 2 else 3
  { f with stage := .recover step, tile := none, toFault := if step = 3 then faulted else []
           toReload := if step = 2 ∨ step = 3 then reload else [], reloaded := [] }

/-- A tile handed over (R70, R87): a mismatch discards it and orders the next action. -/
def State.handOver (s : State) (i : Nat) (f : Flight) : State :=
  let d0 : Word := BitVec.ofNat 32 (opc f.word + bankOf f.word * 256)
  if f.fails = 0 then
    let x := s.stn i
    match f.tile with
    | none => s
    | some t => s.setStn i ({ x with redq := x.redq ++ [t] }.setFlight { f with stage := .handed })
  else
    let why : FaultInfo := ⟨0x0101, d0, f.fails⟩
    (s.setFlight i (s.afterCheck i { f with why := why })).logFault 0x0101 0 i d0 f.fails

/-- An earlier pass with a slot in common is not yet handed over (R98, R99). -/
def Station.chainBefore (i : Nat) (x : Station) (f : Flight) : Bool :=
  x.iss.flight.any (fun g => decide (g.seq < f.seq) && (decide (opc g.word = 1) || decide (opc g.word = 2)) && decide (g.stage ≠ .handed)
    && (namedSlots i g.word g.cap.s2 (descOf [])).any (fun a => (namedSlots i f.word f.cap.s2 (descOf [])).any (fun b => decide (a.1 = b.1))))

/-- TILE_HANDOVER (R53, R70, R87). -/
def execTileHandover (i : Stn) (seq : Nat) (s : State) : Result :=
  match (s.stn i).flightOf seq with
  | none => .next s
  | some f =>
    if s.works && decide (f.stage = .computed) && decide (f.owed = 0) && !(s.stn i).chainBefore i f then .next (s.handOver i f)
    else .next s

/-- A tile or contribution reaches its slots; RANGE rises are counted (R87, R131, R154, R156, R162). -/
def State.addToSlots (s : State) (i : Nat) (t : Tile) : State :=
  let x := s.stn i
  let after := if t.write then writeResult x.slots t else addTile x.slots t
  let k := rangeRises t.slots x.slots after
  let s1 := s.setStn i { x with slots := after }
  if k = 0 then s1 else s1.pbump i 0x14C k

/-- A reduced contribution is in its destination slot: the source learns of it (R130, R148, R307). -/
def State.ackSource (s : State) (i src txn : Nat) : State :=
  if src = i then s.setStn i ((s.stn i).complete txn) else s.sendFlit ⟨i, src, src, txn, none, .ack⟩

/-- The head of the arrival buffer reaches its slots once R98 lets it (R131), which the ledger of its source records in the same step (R269); `result` says that it is a collective result (R338). -/
def State.addArrived (s : State) (i : Nat) (result : Bool) : State :=
  let x := s.stn i
  match x.arrive with
  | [] => s
  | t :: r =>
    if t.write = result ∧ x.slotsFree i false t.named then
      let y : Station := { x with arrive := r }
      let y := if !t.write && decide (t.amode = 0) then y.own (y.curEntry.map (·.seq)) t.slots else y
      let s1 := (s.setStn i y).addToSlots i t
      match t.rtok with
      | some tok => s1.giveToken i tok
      | none => if t.write then s1 else (s1.setStn t.src ((s1.stn t.src).guardDone t.guard)).ackSource i t.src t.txn
    else s

/-- The head of the handed tiles is added and its instruction completes (R87, R148). -/
def State.addHanded (s : State) (i : Nat) : State :=
  let x := s.stn i
  match x.redq with
  | [] => s
  | t :: r =>
    let y : Station := { x with redq := r }
    let entry := t.seq.bind (fun k => (x.flightOf k).bind (·.entry))
    let s1 := (s.setStn i (if t.amode = 0 then y.own entry t.slots else y)).addToSlots i t
    match t.seq with
    | some k => s1.setStn i ((s1.stn i).complete k)
    | none => s1

/-- The station's reduction path works: it is awake or stopped. -/
def State.adds (s : State) (i : Nat) : Bool :=
  s.works && decide ((s.stn i).ctl.run ≠ .asleep) && decide ((s.stn i).ctl.run ≠ .waking)

/-- REDUCTION_ADD (R87, R131, R156): `arr` takes the head of the arrival buffer, otherwise the head of the handed tiles. -/
def execReductionAdd (i : Stn) (arr : Bool) (s : State) : Result :=
  if s.adds i then .next (if arr then s.addArrived i false else s.addHanded i) else .next s

end Sys2Proof.Machine
end

