-- ==== Sys2Proof/Machine/AccUnit.lean ====
section
/-! DEFINITION. The accumulator unit: ACCRD, ACCWR, ACCCLR, REDUCE and its arrival (R97, R128 to R132, R159, R162, R500). -/
namespace Sys2Proof.Machine

/-- The accumulator unit takes its instructions one at a time (R500): the first not yet begun. -/
def State.accHead (s : State) (i o : Nat) : Option Flight :=
  match s.headOf i .acc with
  | some f => if s.works && decide (opc f.word = o) then some f else none
  | none => none

/-- ACCRD writes the slot image, and its final range check counts failures (R128, R159). -/
def State.runAccrd (s : State) (i : Nat) (f : Flight) : State :=
  let x := s.stn i
  let w := f.word
  let (pm, bad) := accrdImage x.pm (x.slot (fld w 20 6)) (fld w 38 14 * 64) (mextOf w) (nextOf w)
  let s1 := s.setStn i ({ x with pm := pm }.complete f.seq)
  if bad = 0 then s1 else s1.pbump i 0x148 bad

/-- ACCRD (R128). -/
def execAccrd (i : Stn) (s : State) : Result :=
  match s.accHead i 0x10 with
  | some f => .next (s.runAccrd i f)
  | none => .next s

/-- ACCWR (R129): entries within the extent and the whole metadata; its slot joins OWNED (R268). A change of RANGE so made is not counted (R154). -/
def execAccwr (i : Stn) (s : State) : Result :=
  match s.accHead i 0x11 with
  | some f =>
    let x := s.stn i
    let w := f.word
    let a := fld w 20 6
    .next (s.setStn i (((x.own f.entry [a]).setSlot a (accwrSlot x.pm (x.slot a) (fld w 38 14 * 64) (mextOf w) (nextOf w))).complete f.seq))
  | none => .next s

/-- ACCCLR (R97); its slot joins OWNED (R268). -/
def execAccclr (i : Stn) (s : State) : Result :=
  match s.accHead i 0x12 with
  | some f =>
    let a := fld f.word 20 6
    .next (s.setStn i ((((s.stn i).own f.entry [a]).setSlot a Slot.clear).complete f.seq))
  | none => .next s

/-- The contribution of a REDUCE of scope 0 (R130, R162). -/
def reduceTile (x : Station) (i : Nat) (f : Flight) : Tile :=
  let w := f.word
  let sl := x.slot (fld w 20 6)
  { seq := none, src := i, txn := f.seq, slots := [fld w 26 6], amode := fld w 39 2, chain := BitVec.ofNat 8 (fld w 41 8)
    zero := if fld w 39 2 = 0 then extent (fld w 26 6) (mextOf w) (nextOf w) else []
    adds := reduceAdds sl (fld w 26 6) (mextOf w) (nextOf w), range := sl.range, write := false, rtok := none, guard := f.guard }

/-- The contribution of a REDUCE of scope 1, as the collectives service reads it (R132, R334). -/
def collTile (x : Station) (i : Nat) (f : Flight) : Tile :=
  let w := f.word
  let sl := x.slot (fld w 20 6)
  { seq := none, src := i, txn := f.seq, slots := [fld w 20 6], amode := 1, chain := 0, zero := []
    adds := reduceAdds sl (fld w 20 6) (mextOf w) (nextOf w), range := sl.range, write := false, rtok := none, guard := none }

/-- The head of the arrival buffer has room for a contribution (R131). -/
def Station.arriveRoom (x : Station) : Bool := decide (x.arrive.length < 2)

end Sys2Proof.Machine
end

