-- ==== Sys2Proof/Machine/Tables.lean ====
section
/-! DEFINITION. The LUT tables of R192: each entry is the mathematical value times its power of two, rounded by R39. -/
namespace Sys2Proof.Machine

/-- E[j] = 2^(29 + j/64) (R192). -/
def exp2Table : List Int :=
  [536870912, 542717053, 548626854, 554601009, 560640218, 566745190, 572916640, 579155293] ++
  [585461881, 591837143, 598281827, 604796689, 611382493, 618040012, 624770026, 631573326] ++
  [638450708, 645402981, 652430958, 659535466, 666717336, 673977412, 681316545, 688735596] ++
  [696235434, 703816941, 711481005, 719228525, 727060411, 734977579, 742980960, 751071493] ++
  [759250125, 767517817, 775875538, 784324269, 792865000, 801498734, 810226483, 819049271] ++
  [827968132, 836984114, 846098274, 855311680, 864625413, 874040567, 883558244, 893179563] ++
  [902905651, 912737649, 922676710, 932724001, 942880699, 953147997, 963527098, 974019220] ++
  [984625594, 995347464, 1006186087, 1017142735, 1028218693, 1039415261, 1050733751, 1062175491] ++
  [1073741824]

/-- C[j] = 2^30 / (1 + j/64) (R192). -/
def recipTable : List Int :=
  [1073741824, 1057222719, 1041204193, 1025663832, 1010580540, 995934445, 981706811, 967879954] ++
  [954437177, 941362695, 928641578, 916259690, 904203641, 892460737, 881018933, 869866794] ++
  [858993459, 848388602, 838042399, 827945503, 818089009, 808464432, 799063683, 789879043] ++
  [780903145, 772128952, 763549742, 755159085, 746950834, 738919105, 731058263, 723362913] ++
  [715827883, 708448214, 701219150, 694136129, 687194767, 680390859, 673720360, 667179386] ++
  [660764199, 654471207, 648296950, 642238100, 636291451, 630453915, 624722516, 619094385] ++
  [613566757, 608136962, 602802428, 597560667, 592409282, 587345955, 582368447, 577474594] ++
  [572662306, 567929560, 563274399, 558694933, 554189329, 549755814, 545392673, 541098242] ++
  [536870912]

/-- Q[j] = 2^30 / sqrt(u_j), u_j = 1 + j/32 up to j = 32 and 2 + (j - 32)/16 above (R192). -/
def rsqrtTable : List Int :=
  [1073741824, 1057347856, 1041682578, 1026693558, 1012333500, 998559613, 985333074, 972618566] ++
  [960383883, 948599586, 937238702, 926276469, 915690104, 905458609, 895562589, 885984104] ++
  [876706528, 867714429, 858993459, 850530263, 842312387, 834328203, 826566842, 819018128] ++
  [811672525, 804521086, 797555404, 790767575, 784150157, 777696137, 771398898, 765252196] ++
  [759250125, 747657839, 736580814, 725981977, 715827883, 706088274, 696735698, 687745184] ++
  [679093957, 670761200, 662727842, 654976372, 647490682, 640255922, 633258380, 626485368] ++
  [619925131, 613566757, 607400100, 601415717, 595604800, 589959130, 584471019, 579133272] ++
  [573939147, 568882316, 563956835, 559157115, 554477894, 549914212, 545461392, 541115017] ++
  [536870912]

/-- G[j] = 2^24 times g(-8 + j/4), g(v) = v times the standard normal distribution function of v (R192). -/
def geluTable : List Int :=
  [0, 0, 0, 0, 0, 0, 0, 0] ++
  [0, 0, -2, -7, -24, -81, -257, -762] ++
  [-2125, -5563, -13660, -31463, -67943, -137478, -260452, -461458] ++
  [-763368, -1176142, -1681258, -2215636, -2661793, -2851632, -2588200, -1683148] ++
  [0, 2511156, 5800408, 9731280, 14115423, 18755884, 23484566, 28183986] ++
  [32791064, 37287278, 41682588, 45999866, 50263705, 54494489, 58706596, 62908997] ++
  [67106739, 71302406, 75497215, 79691695, 83886056, 88080377, 92274686, 96468992] ++
  [100663296, 104857600, 109051904, 113246208, 117440512, 121634816, 125829120, 130023424] ++
  [134217728]

/-- Linear interpolation between two entries of a table (R192). -/
def interp (tab : List Int) (j : Nat) (t : Rat) : Rat :=
  let a := tab.getD j 0
  (a : Rat) + ((tab.getD (j + 1) 0 - a : Int) : Rat) * t

/-- The table EXP2 (R192). -/
def lutExp2 (x : Rat) : Rat :=
  let i := x.floor
  let f := x - i
  let j := (64 * f).floor.toNat
  interp exp2Table j (64 * f - j) * pow2 (i - 29)

/-- The floor of the binary logarithm of a positive value. -/
def ilog2 (x : Rat) : Int :=
  let k : Int := (Nat.log2 x.num.natAbs : Int) - (Nat.log2 x.den : Int)
  if x < pow2 k then k - 1 else k

/-- The table RECIP; none at 0, where the result is the largest code (R192). -/
def lutRecip (x : Rat) : Option Rat :=
  if x = 0 then none
  else
    let a := if x < 0 then -x else x
    let k := ilog2 a
    let u := a * pow2 (-k)
    let y := 64 * (u - 1)
    let j := y.floor.toNat
    let r := interp recipTable j (y - j) * pow2 (-k - 30)
    some (if x < 0 then -r else r)

/-- The table RSQRT of the magnitude; none at 0 (R192). -/
def lutRsqrt (x : Rat) : Option Rat :=
  if x = 0 then none
  else
    let a := if x < 0 then -x else x
    let k := ilog2 a / 2
    let u := a * pow2 (-(2 * k))
    let y := if u < 2 then 32 * (u - 1) else 16 * (u - 2)
    let f := y.floor.toNat
    some (interp rsqrtTable (if u < 2 then f else 32 + f) (y - f) * pow2 (-k - 30))

/-- The table GELU (R192). -/
def lutGelu (x : Rat) : Rat :=
  if 8 ≤ x then x
  else if x < -8 then 0
  else
    let y := 4 * (x + 8)
    let j := y.floor.toNat
    interp geluTable j (y - j) * pow2 (-24)

end Sys2Proof.Machine
end

