-- ==== Sys2Proof/Machine/Consist.lean ====
section
/-! DEFINITION. The consist engine: sources, stages, output conversion, reducers, records, row statistics (spec/07_consist_engine.md, R165 to R173). -/
namespace Sys2Proof.Machine

/-- A tile of exact values by row and column. -/
abbrev Grid := List (List Rat)

/-- An element of a tile, 0 outside it. -/
def gat (g : Grid) (m n : Nat) : Rat := (g.getD m []).getD n 0

/-- A tile formed element by element. -/
def grid (rows cols : Nat) (f : Nat → Nat → Rat) : Grid :=
  (List.range rows).map (fun m => (List.range cols).map (fun n => f m n))

/-- What a CONSIST works on: platform memory, slots, word, descriptor, and the values of SUM of RSLOT as at issue (R182). -/
structure ConsistIn where
  pm : SMap Byte
  slots : SMap Slot
  w : PWord
  d : Desc
  rsum : List Rat

/-- Valid rows. -/
def ConsistIn.rows (c : ConsistIn) : Nat := fld c.w 111 5

/-- Valid columns (R184). -/
def ConsistIn.cols (c : ConsistIn) : Nat := if c.d.pair then 64 + fld c.w 116 7 else fld c.w 116 7

/-- The slot and column of column n of a slot source (R184). -/
def ConsistIn.slotCol (c : ConsistIn) (n : Nat) : Nat × Nat := ((fld c.w 25 6 + n / 64) % 64, n % 64)

/-- The statistics finish of one row (R168): mean, variance, count, formed exactly from the entries' values by R155 (R185). -/
def sfinRow (s : Slot) (m : Nat) : Rat × Rat × Rat :=
  let s1 := s.value m 0
  let s2 := s.value m 1
  let n := s.value m 2
  if n = 0 then (0, 0, 0) else (s1 / n, (n * s2 - s1 * s1) / (n * n), n)

/-- A source value and whether its element takes part as far as the source decides (R185, R186, R188). Of an L32 image all 16 bits of T are read as a signed number, also outside -1,024 to 1,023, where the manual says nothing: DESIGN CHOICE, log entry 77. -/
def ConsistIn.source (c : ConsistIn) (m n : Nat) : Rat × Bool :=
  if !bitAt c.w 31 then
    let (a, k) := c.slotCol n
    let s := slotOf c.slots a
    if c.d.sfin then
      let (mean, var, cnt) := sfinRow s m
      (if n = 0 then mean else if n = 1 then var else 0, cnt ≠ 0)
    else (s.value m k, true)
  else
    let src := fld c.w 32 14 * 64
    let scl := fld c.w 46 14 * 64
    let two := if c.d.pair then 2 else 1
    let entry (o : Nat) : Nat := pmRd c.pm (scl + o) 1
    match c.d.sfmt with
    | 0 =>
      let t := sx 16 (pmRd c.pm scl 2)
      ((sx 32 (pmRd c.pm (src + 256 * two * m + 4 * n) 4) : Rat) * pow2 t, true)
    | 1 =>
      let e := entry (2 * m)
      if scales e then (((pmRd c.pm (src + 128 * m + n) 1 : Int) - entry (2 * m + 1) : Int) * pow2 (e - 127), true)
      else (0, e ≠ 255)
    | 2 =>
      let e := entry (2 * m)
      let b := pmRd c.pm (src + 64 * m + n / 2) 1
      let q : Int := if n % 2 = 0 then b % 16 else b / 16
      if scales e then ((q - entry (2 * m + 1) : Int) * pow2 (e - 127), true) else (0, e ≠ 255)
    | 3 =>
      let e := entry (two * m + n / 64)
      if scales e then ((sx 16 (pmRd c.pm (src + 128 * two * m + 2 * n) 2) : Rat) * pow2 (e - 127), true)
      else (0, e ≠ 255)
    | _ =>
      let e := entry (two * m + n / 64)
      if scales e then ((sx 24 (pmRd c.pm (src + 192 * two * m + 3 * n) 3) : Rat) * pow2 (e - 127), true)
      else (0, e ≠ 255)
where
  /-- An exponent that scales a block. -/
  scales (e : Nat) : Bool := isReached e

/-- The mask bitmap masks an element (R182). -/
def ConsistIn.masked (c : ConsistIn) (m n : Nat) : Bool :=
  c.d.mask &&
    (let base := fld c.w 60 14 * 64 + c.d.moff * 64
     let row := base + (if c.d.pair then 16 else 8) * m
     (pmRd c.pm (row + n / 8) 1).testBit (n % 8))

/-- A tile on an L32 grid: exponent, codes as exact values, saturated codes (R38, R189). `none` lanes take the largest code and are counted. -/
structure L32Tile where
  t : Int
  g : Grid
  sat : Nat

/-- Values rounded onto the tile exponent chosen for them (R189, R192). -/
def toL32 (z : List (List (Option Rat))) : L32Tile :=
  let vs := z.flatten.filterMap id
  let t := (tileExp vs).getD 1023
  let one (x : Option Rat) : Rat × Nat :=
    match x with
    | none => (((2 ^ 31 - 1 : Int) : Rat) * pow2 t, 1)
    | some v =>
      let (q, k) := clampCode (-(2 ^ 31)) (2 ^ 31 - 1) (rne (v * pow2 (-t)))
      ((q : Rat) * pow2 t, k)
  let rs := z.map (fun r => r.map one)
  ⟨t, rs.map (fun r => r.map (·.1)), ((rs.map (fun r => (r.map (·.2)).sum)).sum)⟩

/-- The condition of a CMP (R181). -/
def cmpHolds (sub : Nat) (x b : Rat) : Bool :=
  match sub with
  | 0 => decide (x = b)
  | 1 => decide (x ≠ b)
  | 2 => decide (x < b)
  | 3 => decide (x ≤ b)
  | 4 => decide (b < x)
  | _ => decide (b ≤ x)

/-- RECIP of a statistic, 0 for 0 (R182). -/
def recip0 (x : Rat) : Rat := (lutRecip x).getD 0

/-- What a chain carries from stage to stage: chain input, current values and exponent, predicates, slots, saturations, tap, final products, empties of CARRY, EXPR done. -/
structure ChainState where
  x0 : Grid
  x : Grid
  t : Int
  p : List (List Bool)
  slots : SMap Slot
  sat : Nat
  satf : Bool
  tap : Int × Grid
  final : Option Grid
  noscale : BitVec 16
  refs : List Int
  exprDone : Bool
  ranges : Nat

/-- The value of an operand for an element (R182). -/
def ConsistIn.operand (c : ConsistIn) (st : ChainState) (g : StageWord) (src off : Nat) (m n : Nat) : Rat :=
  let base := fld c.w 60 14 * 64
  let at' := base + off * 64
  let two := if c.d.pair then 2 else 1
  match src with
  | 1 => (sx 16 g.imm : Rat) * pow2 g.iexp
  | 2 => (sx 32 (pmRd c.pm (at' + 4 * n) 4) : Rat) * pow2 (sx 16 (pmRd c.pm (at' + 256 * two) 2))
  | 3 => (sx 32 (pmRd c.pm (at' + 256 * two * m + 4 * g.sub) 4) : Rat) * pow2 (sx 16 (pmRd c.pm (at' + 4096 * two) 2))
  | 4 => (sx 32 (pmRd c.pm (at' + 256 * two * m + 4 * n) 4) : Rat) * pow2 (sx 16 (pmRd c.pm (at' + 4096 * two) 2))
  | 5 => mkRat (pmRd c.pm (at' + 4 * n) 2) (2 ^ 15)
  | 6 => gat st.x0 m n
  | 7 =>
    let v := if c.d.stat && st.exprDone then (slotOf st.slots c.d.rslot).sumValue m else c.rsum.getD m 0
    if v = 0 then 0 else recip0 v
  | 8 =>
    let ri := base + g.boff * 64
    let rl := base + g.coff * 64
    let sl := sx 32 (pmRd c.pm (rl + 0x40 + 4 * m) 4)
    if sl = 0 then 0
    else pow2 (sx 32 (pmRd c.pm (ri + 4 * m) 4) - sx 32 (pmRd c.pm (rl + 4 * m) 4))
      * recip0 ((sl : Rat) * pow2 (sx 16 (pmRd c.pm (rl + 0x80) 2)))
  | _ => 0

/-! ### Row statistics (R169, R170) -/

/-- An entry divided by 2^r (R170 step 2). -/
def divEntry (r : Nat) (e : Entry) : Entry :=
  if e.w = -8 then ⟨BitVec.ofInt 48 (rne ((e.a.toInt : Rat) * pow2 (-(r : Int)))), -8⟩
  else
    let u := rne (((e.a.toInt + e.w * 2 ^ 48 : Int) : Rat) * pow2 (-(r : Int)))
    let a := BitVec.ofInt 48 u
    ⟨a, wrapCount false u a⟩

/-- The accumulated row m rescaled by 2^(-k) (R170 step 2). -/
def Slot.rescaleRow (s : Slot) (m k : Nat) : Slot :=
  let ra := s.raOf m
  if !isReached ra then s
  else if k < ra then s.setRa m (ra - k)
  else
    let r := k - (ra - 1)
    let ents := s.ent.map (fun p => if p.1 / 64 = m ∧ s.reached m (p.1 % 64) then (p.1, divEntry r p.2) else p)
    let s1 : Slot := { s with ent := ents.filter (fun p => decide (p.2 ≠ entry0 p.1)) }
    s1.setRa m 1

/-- One row of R170 and R198: `xs` are its values with their participation. The new running maximum is the greater of MAX as held and the tile row's; the slot comes with its row rescaled and REF set, and beside it the exact new MAX and SUM and the outputs. -/
structure RowUpd where
  maxv : Rat
  sumv : Rat
  slot : Slot
  ref : Int
  out : List Rat

/-- The exact update of one row, before any rounding to TS (R170). -/
def exprRow (s : Slot) (m : Nat) (xs : List (Rat × Bool)) : RowUpd :=
  let nm := maxRat [(s.maxOf m : Rat) * pow2 s.ts, maxRat ((xs.filter (·.2)).map (·.1))]
  let ref := ratCeil nm
  let k := (ref - s.refOf m).toNat
  let up := s.started m && decide (0 < k)
  let s1 := if up then s.rescaleRow m k else s
  let sum0 := if up then s.sumValue m * pow2 (-(k : Int)) else s.sumValue m
  let out := xs.map (fun x => if x.2 then lutExp2 (x.1 - ref) else 0)
  ⟨nm, sum0 + out.foldl (· + ·) 0, { s1 with ref := mset (fun _ => (0 : Int)) s1.ref m ref }, ref, out⟩

/-- TS chosen at the end of the update of row `m` over its exact new MAX and SUM and the held values of the other started rows, and every code rounded to it (R169). A row whose SUM becomes 0 is unstarted. -/
def Slot.restat (s : Slot) (m : Nat) (mx sm : Rat) : Slot :=
  let hs := pow2 s.ts
  let vals := (List.range 16).map (fun r =>
    if r = m then (mx, sm, true) else ((s.maxOf r : Rat) * hs, s.sumValue r, s.started r))
  let live := vals.filter (fun x => x.2.2)
  let ts := (tileExp (live.map (·.1) ++ live.map (fun x => x.2.1))).getD 1023
  let code (v : Rat) : Int := (clampCode (-(2 ^ 31)) (2 ^ 31 - 1) (rne (v * pow2 (-ts)))).1
  let codes := ((List.range 16).zip vals).map (fun p =>
    if !p.2.2.2 then (s.maxOf p.1, (0 : Int))
    else if code p.2.2.1 = 0 then (-(2 ^ 31), 0)
    else (code p.2.1, code p.2.2.1))
  { s with
    ts := ts
    maxc := smapOf 0x80000000 (codes.map (fun c => BitVec.ofInt 32 c.1))
    sumc := smapOf 0 (codes.map (fun c => BitVec.ofInt 32 c.2))
    ref := s.ref.filter (fun p => decide ((codes.getD p.1 (0, 0)).2 ≠ 0)) }

/-- The EXPR stage on row `m` of its slot: the slot, the outputs and the REF used (R169, R170, R198). A row without a participating element only sets EMPTY. -/
def exprStep (s : Slot) (m : Nat) (xs : List (Rat × Bool)) : Slot × List Rat × Int :=
  if xs.all (fun x => !x.2) then
    ({ s with empty := putBit s.empty m true }, xs.map (fun _ => (0 : Rat)), s.refOf m)
  else
    let u := exprRow s m xs
    let s1 := u.slot.restat m u.maxv u.sumv
    ({ s1 with empty := putBit s1.empty m false }, u.out, u.ref)

/-- The EXPR stage over a tile, row after row: the slot, the outputs, and REF used per row, 0 for a row that is unstarted after the tile (R169, R170, R172, R198). -/
def exprSlot (s : Slot) (rows : List (List (Rat × Bool))) : Slot × Grid × List Int :=
  let (s1, outs, refs) := (List.range 16).foldl (fun (acc : Slot × Grid × List Int) m =>
    let (t, o, r) := exprStep acc.1 m (rows.getD m [])
    (t, acc.2.1 ++ [o], acc.2.2 ++ [r])) (s, [], [])
  (s1, outs, ((List.range 16).zip refs).map (fun p => if s1.started p.1 then p.2 else 0))

/-! ### Stages -/

/-- One stage of a chain (R189 to R193, R198). `k` is its number from 1. -/
def ConsistIn.stage (c : ConsistIn) (part : List (List Bool)) (st : ChainState) (k : Nat) (g : StageWord) : ChainState :=
  let rows := c.rows
  let cols := c.cols
  let neg (v : Rat) : Rat := if g.negb then -v else v
  let bOf (m n : Nat) : Rat := neg (c.operand st g g.bsrc g.boff m n)
  let cOf (m n : Nat) : Rat := c.operand st g g.csrc g.coff m n
  let pAt (m n : Nat) : Bool := (st.p.getD m []).getD n true
  let carryEmpty : BitVec 16 :=
    if g.bsrc = 8 then BitVec.ofNat 16 (((List.range 16).map (fun m =>
      if pmRd c.pm (fld c.w 60 14 * 64 + g.coff * 64 + 0x40 + 4 * m) 4 = 0 then 2 ^ m else 0)).sum) else 0
  let put (st : ChainState) (r : L32Tile) : ChainState :=
    { st with x := r.g, t := r.t, sat := st.sat + r.sat, satf := st.satf || 0 < r.sat,
              tap := if c.d.rtap = k then (r.t, r.g) else st.tap, noscale := st.noscale ||| carryEmpty }
  let lift (f : Nat → Nat → Rat) : L32Tile := toL32 ((grid rows cols f).map (fun r => r.map some))
  match g.op with
  | 1 => put st (lift (fun m n => gat st.x m n + bOf m n))
  | 2 => put st (lift (fun m n => gat st.x m n * bOf m n))
  | 3 => put st (lift (fun m n => gat st.x m n * bOf m n + cOf m n))
  | 4 =>
    { st with p := (List.range rows).map (fun m => (List.range cols).map (fun n => cmpHolds g.sub (gat st.x m n) (bOf m n))),
              tap := if c.d.rtap = k then (st.t, st.x) else st.tap }
  | 5 => put st (lift (fun m n => if pAt m n then gat st.x m n else bOf m n))
  | 6 => put st (lift (fun m n => minRat [gat st.x m n, bOf m n]))
  | 7 => put st (lift (fun m n => maxRat [gat st.x m n, bOf m n]))
  | 8 => put st (toL32 ((grid rows cols (gat st.x)).map (fun r => r.map (fun v =>
      match g.sub with
      | 0 => some (lutExp2 v)
      | 1 => lutRecip v
      | 2 => lutRsqrt v
      | _ => some (lutGelu v)))))
  | 9 =>
    let (sl, outs, refs) := exprSlot (slotOf st.slots c.d.rslot)
      ((List.range rows).map (fun m => (List.range cols).map (fun n => (gat st.x m n, (part.getD m []).getD n false))))
    put { st with slots := modSlot st.slots c.d.rslot (fun _ => sl), refs := refs, exprDone := true }
      (toL32 (outs.map (fun r => r.map some)))
  | _ =>
    let mult (m n : Nat) : Rat := if g.bsrc = 1 then neg (mkRat g.imm (2 ^ 15)) else bOf m n
    let z := grid rows cols (fun m n => gat st.x m n * mult m n)
    let r := toL32 (z.map (fun r => r.map some))
    { st with final := some z, noscale := st.noscale ||| carryEmpty,
              tap := if c.d.rtap = k then (r.t, r.g) else st.tap,
              satf := st.satf || (c.d.rtap = k && 0 < r.sat) }

/-! ### Output conversion (R193, R194) -/

/-- A signed code of `b` bits at bit offset `o` of a row, as masked bytes. -/
def codeWrites (row b o : Nat) (c : Int) : List MaskedByte :=
  if 8 ≤ b then whole (row + o / 8) (leBytes (b / 8) (ofS b c))
  else [(row + o / 8, BitVec.ofNat 8 ((2 ^ b - 1) * 2 ^ (o % 8)), BitVec.ofNat 8 (ofS b c * 2 ^ (o % 8)))]

/-- The codes of a row, element n at bit b*n. -/
def rowWrites (row b : Nat) (cs : List Int) : List MaskedByte :=
  ((List.range cs.length).zip cs).flatMap (fun p => codeWrites row b (b * p.1) p.2)

/-- The conversion of a block with automatic or fixed exponent into a signed format: exponent, codes, saturations. -/
def convBlock (auto : Bool) (bits e : Nat) (vs : List Rat) : Nat × List Int × Nat :=
  if auto then convSigned bits vs
  else
    let (cs, k) := convSignedFixed bits e vs
    (e, cs, k)

/-- The output conversion: masked writes of codes and scale entries, saturations (R193, R194). -/
def ConsistIn.output (c : ConsistIn) (final : Grid) : List MaskedByte × Nat :=
  let rows := c.rows
  let cols := c.cols
  let dst := fld c.w 74 14 * 64
  let scl := fld c.w 88 14 * 64
  let two := if c.d.pair then 2 else 1
  let conv := c.d.used.find? (fun g => g.op = 10)
  let fixE := (conv.map (·.fixE)).getD 127
  let auto := c.d.emode = 0
  let row (m : Nat) : List Rat := (List.range cols).map (fun n => gat final m n)
  match c.d.ofmt with
  | 0 =>
    let r := toL32 ((List.range rows).map (fun m => (row m).map some))
    ((List.range rows).flatMap (fun m => rowWrites (dst + 256 * two * m) 32
        ((r.g.getD m []).map (fun v => rne (v * pow2 (-r.t))))) ++ whole scl (leBytes 2 (ofS 16 r.t)), r.sat)
  | 1 => unsignedRows rows row (fun m => dst + 128 * m) scl auto fixE c.d.oz 8
  | 2 => unsignedRows rows row (fun m => dst + 64 * m) scl auto fixE c.d.oz 4
  | 3 => signedRows rows row (fun m => dst + 128 * two * m) scl two auto fixE 16
  | 4 => signedRows rows row (fun m => dst + 192 * two * m) scl two auto fixE 24
  | f =>
    let bits := if f = 5 then 8 else if f = 6 then 4 else 2
    let ev := fld c.w 60 14 * 64 + ((conv.map (·.coff)).getD 0) * 64
    let eAt (n : Nat) : Nat := if c.d.emode = 2 then pmRd c.pm (ev + n) 1 else fixE
    let per := (List.range rows).map (fun m =>
      let rs := (List.range cols).map (fun n => convSignedFixed bits (eAt n) [gat final m n])
      (rowWrites (dst + 8 * bits * two * m) bits (rs.map (fun r => r.1.getD 0 0)), (rs.map (·.2)).sum))
    (per.flatMap (·.1), (per.map (·.2)).sum)
where
  /-- U8 and U4 rows with their activation scale entries. -/
  unsignedRows (rows : Nat) (row : Nat → List Rat) (at' : Nat → Nat) (scl : Nat) (auto : Bool) (fixE oz bits : Nat) : List MaskedByte × Nat :=
    let per := (List.range rows).map (fun m =>
      let (e, z, cs, k) := if auto then convUnsigned bits (row m)
        else
          let (cs, k) := convUnsignedFixed bits fixE oz (row m)
          (fixE, if fixE = 0 ∨ fixE = 255 then 0 else oz, cs, k)
      (rowWrites (at' m) bits cs ++ whole (scl + 2 * m) [BitVec.ofNat 8 e, BitVec.ofNat 8 z], k))
    (per.flatMap (·.1), (per.map (·.2)).sum)
  /-- S16 and S24 rows in blocks of 64 columns with their storage exponents. -/
  signedRows (rows : Nat) (row : Nat → List Rat) (at' : Nat → Nat) (scl two : Nat) (auto : Bool) (fixE bits : Nat) : List MaskedByte × Nat :=
    let per := (List.range rows).flatMap (fun m => (List.range two).map (fun h =>
      let vs := ((row m).drop (64 * h)).take 64
      if vs.isEmpty then ([], 0)
      else
        let (e, cs, k) := convBlock auto bits fixE vs
        (rowWrites (at' m + 8 * bits * h) bits cs ++ whole (scl + two * m + h) [BitVec.ofNat 8 e], k)))
    (per.flatMap (·.1), (per.map (·.2)).sum)

/-! ### Reducers and records (R165 to R167, R195 to R197) -/

/-- The codes of the participating elements of a row at the tap, with their columns. -/
def tapRow (tap : Int × Grid) (part : List (List Bool)) (m : Nat) : List (Nat × Int) :=
  let row := tap.2.getD m []
  ((List.range row.length).zip row).filterMap (fun p =>
    if (part.getD m []).getD p.1 false then some (p.1, rne (p.2 * pow2 (-tap.1))) else none)

/-- The greatest of a list of integers, with a value for the empty list. -/
def maxOr (d : Int) (l : List Int) : Int := match l with | [] => d | a :: r => r.foldl max a

/-- The least of a list of integers, with a value for the empty list. -/
def minOr (d : Int) (l : List Int) : Int := match l with | [] => d | a :: r => r.foldl min a

/-- An element goes before another in top-k order: greater value, then lower column (R195). -/
def insTop (x : Nat × Int) : List (Nat × Int) → List (Nat × Int)
  | [] => [x]
  | y :: r => if y.2 < x.2 then x :: y :: r else y :: insTop x r

/-- The k first elements of a row in top-k order. -/
def topK (k : Nat) (row : List (Nat × Int)) : List (Nat × Int) :=
  (row.foldl (fun acc x => insTop x acc) []).take k

/-- The narrowing and sums of MV for one row: contributions to STSLOT and saturations (R166, R167). -/
def mvRow (slot m : Nat) (vs : List Rat) : List Contrib × Nat :=
  if vs.isEmpty then ([], 0)
  else
    let e := match autoExp 16 vs with
      | some e => if e < 64 then 64 else if 190 < e then 190 else e
      | none => 190
    let (cs, k) := convSignedFixed 16 e vs
    let n : Contrib := ⟨slot, m, 2, vs.length, 127, 127, false⟩
    if cs.all (fun x => decide (x = 0)) then ([n], k)
    else ([⟨slot, m, 0, cs.sum, 127, e, false⟩, ⟨slot, m, 1, (cs.map (fun x => x * x)).sum, 127, 2 * e - 127, false⟩, n], k)

/-- The 56 bits of the reducer summary (R197). -/
def packResult (empty count : Nat) (nofit sat : Bool) (maxc : Int) (maxe : Nat) : BitVec 56 :=
  BitVec.ofNat 56 (empty + count * 2 ^ 16 + (if nofit then 2 ^ 28 else 0) + (if sat then 2 ^ 29 else 0)
    + (if !nofit && !sat then 2 ^ 30 else 0) + ofS 16 maxc * 2 ^ 32 + maxe * 2 ^ 48)

/-- What a CONSIST gives: masked writes, slots, counts for STN_CNT_SAT, STN_CNT_NOFIT, STN_CNT_RANGE, reducer results. -/
structure ConsistOut where
  writes : List MaskedByte
  slots : SMap Slot
  sat : Nat
  nofit : Nat
  ranges : Nat
  result : BitVec 56

/-- The row scale carry record (R172). -/
def carryRecord (s : Slot) (refs : List Int) : List Byte :=
  (List.range 16).flatMap (fun m => leBytes 4 (ofS 32 (if s.started m then refs.getD m (s.refOf m) else 0)))
  ++ (List.range 16).flatMap (fun m => leBytes 4 (ofS 32 (s.sumOf m)))
  ++ leBytes 2 (ofS 16 s.ts) ++ leBytes 2 s.empty.toNat ++ List.replicate 60 0

/-- A CONSIST from its inputs (R133, R185 to R200). -/
def ConsistIn.run (c : ConsistIn) : ConsistOut :=
  let rows := c.rows
  let cols := c.cols
  let src := (List.range rows).map (fun m => (List.range cols).map (fun n => c.source m n))
  let part := (List.range rows).map (fun m => (List.range cols).map (fun n =>
    ((src.getD m []).getD n (0, false)).2 && !c.masked m n))
  let slotSrc := !bitAt c.w 31
  let nofit := if !slotSrc then 0
    else if c.d.sfin then
      ((List.range rows).map (fun m => ((List.range 3).filter (fun n => (slotOf c.slots (fld c.w 25 6)).noFit m n)).length)).sum
    else ((List.range rows).map (fun m => ((List.range cols).filter (fun n =>
      (slotOf c.slots (c.slotCol n).1).noFit m (c.slotCol n).2)).length)).sum
  let inp := toL32 (src.map (fun r => r.map (fun v => some v.1)))
  let st0 : ChainState := ⟨inp.g, inp.g, inp.t, [], c.slots, inp.sat, 0 < inp.sat, (inp.t, inp.g), none, 0, [], false, 0⟩
  let st := ((List.range c.d.nstg).zip c.d.used).foldl (fun s p => c.stage part s (p.1 + 1) p.2) st0
  let final := st.final.getD st.x
  let (ows, osat) := c.output final
  let tr := st.tap.1
  let trow (m : Nat) : List (Nat × Int) := tapRow st.tap part m
  let emptyBits := ((List.range 16).map (fun m => if (trow m).isEmpty then 2 ^ m else 0)).sum
  let emptyRes := emptyBits ||| st.noscale.toNat
  let count := ((List.range rows).map (fun m => (trow m).length)).sum
  let width := if c.d.pair then 128 else 64
  let colCodes (n : Nat) : List Int := (List.range rows).flatMap (fun m => ((trow m).filter (fun p => p.1 = n)).map (·.2))
  let cmxRaw (n : Nat) : Int := maxOr 0 ((colCodes n).map (fun x => (x.natAbs : Int)))
  let cmxSat := if c.d.cmx then ((List.range width).filter (fun n => decide (2 ^ 31 - 1 < cmxRaw n))).length else 0
  let mvs := if c.d.mv then (List.range rows).map (fun m =>
      mvRow c.d.stslot m ((trow m).map (fun p => (p.2 : Rat) * pow2 tr))) else []
  let mvAdds := mvs.flatMap (·.1)
  let slots2 := mvAdds.foldl (fun u a => modSlot u a.slot (fun s => s.addOne a)) st.slots
  let allCodes := (List.range rows).flatMap (fun m => (trow m).map (·.2))
  let (maxe, maxcs, msat) := convSigned 16 [((maxOr 0 allCodes : Int) : Rat) * pow2 tr]
  let maxc := if allCodes.isEmpty then -(2 ^ 15) else maxcs.getD 0 0
  let sat := st.sat + osat + cmxSat + (mvs.map (·.2)).sum + (if allCodes.isEmpty then 0 else msat)
  let satf := st.satf || 0 < osat || 0 < cmxSat
  let dk3 := fld c.w 102 2 = 3
  let base := if dk3 then fld c.w 74 14 * 64 else if c.d.bare then fld c.w 88 14 * 64 else fld c.w 88 14 * 64 + 64
  let rslot := slotOf slots2 c.d.rslot
  let carryB := if c.d.carry then carryRecord rslot st.refs else []
  let redB := if c.d.rsn || c.d.rmx || c.d.rmn || c.d.csn || c.d.cmx then
      (leBytes 2 (ofS 16 tr) ++ leBytes 2 emptyBits ++ leBytes 2 count
        ++ [BitVec.ofNat 8 ((if 0 < nofit then 1 else 0) + (if satf then 2 else 0))] ++ List.replicate 57 0)
      ++ (if c.d.rsn then (List.range 16).flatMap (fun m => leBytes 8 (ofS 64 ((trow m).map (·.2)).sum)) else [])
      ++ (if c.d.rmx then (List.range 16).flatMap (fun m => leBytes 4 (ofS 32 (maxOr (-(2 ^ 31)) ((trow m).map (·.2))))) else [])
      ++ (if c.d.rmn then (List.range 16).flatMap (fun m => leBytes 4 (ofS 32 (minOr (2 ^ 31 - 1) ((trow m).map (·.2))))) else [])
      ++ (if c.d.csn then (List.range width).flatMap (fun n => leBytes 8 (ofS 64 (colCodes n).sum)) else [])
      ++ (if c.d.cmx then (List.range width).flatMap (fun n => leBytes 4 (ofS 32 (min (cmxRaw n) (2 ^ 31 - 1)))) else [])
    else []
  let topB := if c.d.topk = 0 then []
    else (leBytes 2 (ofS 16 tr) ++ leBytes 2 emptyBits ++ [BitVec.ofNat 8 c.d.topk] ++ List.replicate 59 0)
      ++ (List.range 16).flatMap (fun m =>
        let l := topK c.d.topk (trow m)
        (List.range 8).flatMap (fun i => leBytes 4 (ofS 32 ((l[i]?.map (·.2)).getD (-(2 ^ 31)))))
        ++ (List.range 8).flatMap (fun i => leBytes 2 ((l[i]?.map (·.1)).getD 0xFFFF))
        ++ [BitVec.ofNat 8 l.length] ++ List.replicate 15 0)
  { writes := (if dk3 then [] else ows) ++ whole base (carryB ++ redB ++ topB)
    slots := slots2
    sat := sat
    nofit := nofit
    ranges := rangeRises [c.d.stslot, c.d.rslot] c.slots slots2
    result := packResult emptyRes count (0 < nofit) satf maxc (if allCodes.isEmpty then 0xFF else maxe) }

end Sys2Proof.Machine
end

