-- ==== Sys2Proof/Machine/ConsistUnit.lean ====
section
/-! DEFINITION. The consist unit: CONSIST, its completion, SUMMARY (R133 to R135, R178, R179, R197). -/
namespace Sys2Proof.Machine

/-- The lines that masked writes touch, in increasing address. -/
def lineGroups (ws : List MaskedByte) : List (List MaskedByte) :=
  let keys := ((ws.map (fun w => w.1 % pmTop / 64)).dedup).mergeSort
  keys.map (fun k => ws.filter (fun w => decide (w.1 % pmTop / 64 = k)))

/-- The WR flits of masked writes of a requester to one station, numbered, with their TOTAL (R299, R307). -/
def wrFlits (src dst txn : Nat) (ws : List MaskedByte) : List Flit :=
  let gs := lineGroups ws
  ((List.range gs.length).zip gs).map (fun p => ⟨src, dst, src, txn, none, .wr p.2 [p.1] gs.length none⟩)

/-- What a CONSIST reads: the copied descriptor, platform memory as seen, slots, SUM as at issue (R178, R182). -/
def consistIn (pm : SMap Byte) (x : Station) (f : Flight) : ConsistIn := ⟨pm, x.slots, f.word, descOf f.cap.desc, f.cap.rsum⟩

/-- An uncorrectable tile buffer word (R179, R451). -/
def State.tileBufUe (s : State) (i : Nat) (f : Flight) (u : Nat × Nat) : State :=
  let d0 : Word := BitVec.ofNat 32 u.1
  let d1 : BitVec 64 := BitVec.ofNat 64 u.2
  (s.setFlight i { f with stage := .recover (if f.attempts = 0 then 1 else 4), why := ⟨0x0103, d0, d1⟩ }).logFault 0x0103 0 i d0 d1

/-- The counters that a CONSIST raises: STN_CNT_SAT, STN_CNT_NOFIT, STN_CNT_RANGE. -/
def State.consistCounts (s : State) (i : Nat) (out : ConsistOut) : State :=
  let s1 := if out.sat = 0 then s else s.pbump i 0x120 out.sat
  let s2 := if out.nofit = 0 then s1 else s1.pbump i 0x148 out.nofit
  if out.ranges = 0 then s2 else s2.pbump i 0x14C out.ranges

/-- A CONSIST runs: slots, counters and local writes now; writes to other stations travel as flits (R93, R94, R133, R178, R194, R195). -/
def State.runConsist (s : State) (i : Nat) (f : Flight) (o : Obs) : State :=
  match slipAt (s.stn i) f o.slip, o.ue with
  | some q, _ => s.slip i f q
  | none, some u => s.tileBufUe i f u
  | none, none =>
    let (pm, s0) := (s.countRefused i o.refused).seen i o.clash
    let x := s0.stn i
    let c := consistIn pm x f
    let out := c.run
    let d := c.d
    let kind := fld f.word 102 2
    let far := kind = 1 || kind = 2
    let dests := if out.writes.isEmpty then [] else f.cap.dests
    let y := if d.stat || d.mv then x.guardDone f.guard else x
    let g := { f with stage := .sent, acks := if far then dests.length else 0, result := out.result }
    let y := ({ y with slots := out.slots, pm := if far then y.pm else pmApply y.pm out.writes }).setFlight g
    let s1 := s0.setStn i y
    let s2 := if far then s1.multicast i dests (fun t => wrFlits i t f.seq out.writes) else s1
    (s2.consistCounts i out).draw i ((d.nstg + 2) * (if d.pair then 2 * mextOf f.word else mextOf f.word)) g

/-- CONSIST (R133). -/
def execConsist (i : Stn) (o : Obs) (s : State) : Result :=
  match s.headOf i .consist with
  | some f => if s.works && decide (opc f.word = 0x20) then .next (s.runConsist i f o) else .next s
  | none => .next s

/-- The reducer results of a CONSIST that completes: the station's, and those of every SUMMARY issued after it (R134, R197). -/
def Station.setResult (x : Station) (f : Flight) : Station :=
  { x with
    result := f.result
    iss := { x.iss with flight := x.iss.flight.map (fun g =>
      if opc g.word = 0x21 ∧ f.seq < g.seq then { g with result := f.result } else g) } }

/-- CONSIST_COMPLETE (R144, R148, R197): the earliest CONSIST not complete, with every write acknowledged and its credits paid, sets the reducer results. -/
def execConsistComplete (i : Stn) (s : State) : Result :=
  let x := s.stn i
  match x.iss.flight.find? (fun f => opc f.word = 0x20) with
  | none => .next s
  | some f =>
    if s.works && decide (f.stage = .sent) && decide (f.acks = 0) && decide (f.owed = 0) then
      .next (s.setStn i ((x.setResult f).complete f.seq))
    else .next s

/-- SUMMARY: the consist unit takes the word, which then waits for earlier CONSISTs (R134). -/
def execSummary (i : Stn) (s : State) : Result :=
  match s.headOf i .consist with
  | some f => if s.works && decide (opc f.word = 0x21) then .next (s.setFlight i { f with stage := .held }) else .next s
  | none => .next s

/-- A posted summary in its reserved entry (R104). -/
def Station.post (x : Station) (seq : Nat) (v : BitVec 64) : Station :=
  { x with iss := { x.iss with fifo := x.iss.fifo.map (fun e => if e.seq = seq then { e with val := some v } else e) } }

/-- The row statistics summary of a slot (R197). -/
def rowSummary (a : Slot) : BitVec 64 :=
  BitVec.ofNat 64 (ofS 11 a.ts + (if a.range then 2 ^ 11 else 0)
    + ((List.range 16).map (fun m => if a.started m then 2 ^ (16 + m) else 0)).sum
    + a.empty.toNat * 2 ^ 32 + a.chain.toNat * 2 ^ 48 + 0x21 * 2 ^ 56)

/-- The reducer summary (R197). -/
def reducerSummary (r : BitVec 56) : BitVec 64 := BitVec.ofNat 64 (r.toNat + 0x21 * 2 ^ 56)

/-- SUMMARY_POST (R134, R135, R197). -/
def execSummaryPost (i : Stn) (s : State) : Result :=
  let x := s.stn i
  match x.iss.flight.find? (fun f => opc f.word = 0x21 && f.stage = .held) with
  | none => .next s
  | some f =>
    let waits := x.iss.flight.any (fun g => decide (g.seq < f.seq) && decide (opc g.word = 0x20))
    if s.works && !waits then
      let v := if fld f.word 26 2 = 1 then rowSummary (x.slot (fld f.word 20 6)) else reducerSummary f.result
      .next (s.setStn i ((x.post f.seq v).complete f.seq).postTickets)
    else .next s

end Sys2Proof.Machine
end

