-- ==== Sys2Proof/Machine/Ecdsa.lean ====
section
/-! DEFINITION. ECDSA on the 384-bit random-parameter curve of RFC 5639 with SHA-384, the signature scheme that R5, R411 and R422 name. -/
namespace Sys2Proof.Machine

/-- The prime of the curve's field. -/
def curveP : Nat := 0x8CB91E82A3386D280F5D6F7E50E641DF152F7109ED5456B412B1DA197FB71123ACD3A729901D1A71874700133107EC53

/-- The coefficients of the curve y² = x³ + a·x + b. -/
def curveA : Nat := 0x7BC382C63D8C150C3C72080ACE05AFA0C2BEA28E4FB22787139165EFBA91F90F8AA5814A503AD4EB04A8C7DD22CE2826

/-- The second coefficient. -/
def curveB : Nat := 0x04A8C7DD22CE28268B39B55416F0447C2FB77DE107DCD2A62E880EA53EEB62D57CB4390295DBC9943AB78696FA504C11

/-- The base point. -/
def curveG : Nat × Nat :=
  (0x1D1C64F068CF45FFA2A63A81B7C13F6B8847A3E77EF14FE3DB7FCAFE0CBD10E8E826E03436D646AAEF87B2E247D4AF1E,
   0x8ABE1D7520F9C2A45CB1EB8E95CFD55262B70B29FEEC5864E19C054FF99129280E4646217791811142820341263C5315)

/-- The order of the base point, a prime. -/
def curveN : Nat := 0x8CB91E82A3386D280F5D6F7E50E641DF152F7109ED5456B31F166E6CAC0425A7CF3AB6AF6B7FC3103B883202E9046565

/-- b to the power e modulo p, for an exponent of at most `fuel` bits. -/
def powMod (p : Nat) : Nat → Nat → Nat → Nat
  | 0, _, _ => 1
  | fuel + 1, b, e =>
    let h := powMod p fuel (b * b % p) (e / 2)
    if e % 2 = 1 then h * b % p else h

/-- The inverse modulo a prime. -/
def invMod (p a : Nat) : Nat := powMod p 384 (a % p) (p - 2)

/-- The difference modulo the field's prime. -/
def subP (a b : Nat) : Nat := (a + curveP - b % curveP) % curveP

/-- A point of the curve; none is the point at infinity. -/
abbrev Point := Option (Nat × Nat)

/-- The third point on the line of slope `l` through two points, mirrored. -/
def chord (l x1 y1 x2 : Nat) : Point :=
  let x := subP (l * l) (x1 + x2)
  some (x, subP (l * subP x1 x) y1)

/-- The sum of two points. -/
def addPt (a b : Point) : Point :=
  match a, b with
  | none, q => q
  | q, none => q
  | some (x1, y1), some (x2, y2) =>
    if x1 = x2 then
      if (y1 + y2) % curveP = 0 then none
      else chord ((3 * x1 * x1 + curveA) * invMod curveP (2 * y1) % curveP) x1 y1 x2
    else chord (subP y2 y1 * invMod curveP (subP x2 x1) % curveP) x1 y1 x2

/-- A multiple of a point, for a factor of at most `fuel` bits. -/
def mulPt : Nat → Nat → Point → Point
  | 0, _, _ => none
  | fuel + 1, k, q =>
    let h := mulPt fuel (k / 2) (addPt q q)
    if k % 2 = 1 then addPt h q else h

/-- A public key as an uncompressed point (R410): the byte 4, then x and y; none where it is no point of the curve. -/
def readKey (key : List Byte) : Option (Nat × Nat) :=
  let x := beNat ((key.drop 1).take 48)
  let y := beNat (key.drop 49)
  if key.length = 97 ∧ key.head? = some 4 ∧ x < curveP ∧ y < curveP ∧ y * y % curveP = (x * x * x + curveA * x + curveB) % curveP then some (x, y)
  else none

/-- ECDSA verification (R5, R411, R422): public key, SHA-384 digest, signature r, s. The integers stand with their most significant byte first: PRESUMED, log entry 8. -/
def ecdsaVerify (key digest sig : List Byte) : Bool :=
  let r := beNat (sig.take 48)
  let t := beNat ((sig.drop 48).take 48)
  match readKey key with
  | none => false
  | some q =>
    if 0 < r ∧ r < curveN ∧ 0 < t ∧ t < curveN then
      let w := invMod curveN t
      let u := mulPt 384 (beNat digest * w % curveN) (some curveG)
      match addPt u (mulPt 384 (r * w % curveN) (some q)) with
      | none => false
      | some (x, _) => decide (x % curveN = r)
    else false

end Sys2Proof.Machine
end

