-- ==== Sys2Proof/Machine/Links.lean ====
section
/-! DEFINITION. The torus, its routes, and what a port controller does to send a frame (R314 to R324). -/
namespace Sys2Proof.Machine

/-! ### Ports -/

/-- The page of a port (R344). -/
def portBase (p : Nat) : Nat := 0x80000 + 0x1000 * p

/-- LINK_p_STATUS.STATE: 0 down, 1 training, 2 up, 3 failed. -/
def State.portState (s : State) (p : Nat) : Nat := fld (s.reg (portBase p)) 0 2

/-- A port is up. -/
def State.portUp (s : State) (p : Nat) : Bool := s.portState p = 2

/-- A direction has a port that is up. -/
def State.dirUp (s : State) (d : Nat) : Bool := s.portUp (2 * d) || s.portUp (2 * d + 1)

/-- LINK_p_CTRL.EN. -/
def State.portEn (s : State) (p : Nat) : Bool := bitAt (s.reg (portBase p + 4)) 0

/-- A port that counts as failed: failed, or held down (R319). -/
def State.portFailed (s : State) (p : Nat) : Bool := decide (s.portState p = 3) || !s.portEn p

/-- The port of a direction that carries traffic for a sibling choice: the sibling takes over when that port is not up (R322, R324). With neither up, traffic waits at one that may still come up. -/
def State.portFor (s : State) (d pick : Nat) : Option Nat :=
  let a := 2 * d + pick % 2
  let b := 2 * d + (pick + 1) % 2
  [a, b].find? s.portUp <|> [a, b].find? (fun p => !s.portFailed p)

/-- The edge id of a port (R314). -/
def portEdge (p : Nat) : Nat := if p < 6 then p else p + 2

/-- A port controller's state. -/
def State.port (s : State) (p : Nat) : Port := mget (fun _ => Port.reset) s.die.net.ports p

/-- A port controller's state replaced. -/
def State.setPort (s : State) (p : Nat) (q : Port) : State :=
  { s with die := { s.die with net := { s.die.net with ports := mset (fun _ => Port.reset) s.die.net.ports p q } } }

/-- The collectives service replaced. -/
def State.setNet (s : State) (n : Net) : State := { s with die := { s.die with net := n } }

/-- The class of a frame body: NOTICE, ILK and LINKCTL control, answers response, the rest request (R299, R316). -/
def bodyClass (b : FrameBody) : Nat :=
  match b with
  | .data fs =>
    (match fs with
     | f :: _ => (match f.body with | .ack => 1 | .tktval _ => 1 | .nack _ _ => 1 | _ => 0)
     | [] => 0)
  | .linkctl _ => 2
  | .ilk _ _ _ _ _ _ _ => 2
  | .notice _ _ _ _ _ _ _ _ => 2
  | .coll _ _ _ _ _ _ _ => 0
  | .snap _ _ _ _ => 0
  | .snapAck _ => 1

/-- FTYPE of a frame body (R316). -/
def bodyType (b : FrameBody) : Nat :=
  match b with
  | .data _ => 0
  | .ilk _ _ _ _ _ _ _ => 1
  | .notice _ _ _ _ _ _ _ _ => 2
  | .coll _ _ _ _ _ _ _ => 3
  | .linkctl _ => 4
  | .snap _ _ _ _ => 0
  | .snapAck _ => 0

/-- The lines of a slot image of MEXT rows and NEXT columns (R299, R339). -/
def imageLines (mext next : Nat) : Nat := 2 + mext * ((next + 7) / 8)

/-- NLINES of a frame body (R316). -/
def bodyLines (b : FrameBody) : Nat :=
  match b with
  | .data fs => (fs.filter (fun f => match f.body with | .wr bs _ _ _ => !bs.isEmpty | _ => false)).length
  | .coll _ _ _ part mext next _ => min 8 (imageLines mext next - part)
  | .snap _ _ _ _ => 8
  | _ => 0

/-- A frame that waits, of a class that has credit (R317). -/
def Port.pick (q : Port) (cls : Nat) : Option Waiting :=
  q.wait.find? (fun f => decide (f.frame.cls = cls) && decide (0 < q.credit.getD (3 * f.frame.vc + f.frame.cls) 0))

/-- The next frame to send: control before response before request (R318), within the 128 kept (R317). -/
def Port.nextFrame (q : Port) : Option Waiting :=
  if 128 ≤ q.sent.length then none
  else match q.pick 2 with
    | some f => some f
    | none => match q.pick 1 with
      | some f => some f
      | none => q.pick 0

/-- A LINKCTL frame with the acknowledgement and a credit (R316, R317). -/
def State.sendCtl (s : State) (p : Nat) (nak : Bool) (cr : Option (Nat × Nat × Nat)) : State :=
  let f : Frame := ⟨4, 2, 0, 0, (s.port p).rxLast, nak, fld (s.reg (portBase p + 8)) 0 14, s.modid, 0, 0, none, cr, .linkctl none⟩
  s.emit (.frame p f)

/-- The input buffer that a forwarded frame filled is free again, and its credit goes back (R317). -/
def State.freeBuffer (s : State) (origin : Option (Nat × Nat × Nat)) : State :=
  match origin with
  | none => s
  | some (p, c, v) => s.sendCtl p false (some (c, v, 1))

/-- One frame sent: its SEQ, the acknowledgement it carries, the credit it takes (R316, R317). -/
def State.sendNext (s : State) (p : Nat) (w : Waiting) : State :=
  let q := s.port p
  let f := w.frame
  let g := { f with seq := q.txNext, ackseq := q.rxLast }
  let k := 3 * f.vc + f.cls
  let q1 := { q with
    txNext := (q.txNext + 1) % 4096
    sent := q.sent ++ [g]
    wait := q.wait.erase w
    credit := q.credit.set k (q.credit.getD k 0 - 1) }
  ((s.setPort p q1).emit (.frame p g)).freeBuffer w.origin

/-- The frames of a port that may go, sent in order; a halted neighbour holds them (R326). -/
def State.flushPort (p : Nat) : Nat → State → State
  | 0, s => s
  | n + 1, s =>
    let peer := fld (s.reg (portBase p + 8)) 0 14
    if !s.portUp p || s.die.net.halts.any (fun h => h.1 = peer) then s
    else match (s.port p).nextFrame with
      | none => s
      | some w => State.flushPort p n (s.sendNext p w)

/-- A frame given to a port. -/
def State.toPort (s : State) (p : Nat) (w : Waiting) : State :=
  let q := s.port p
  State.flushPort p (q.wait.length + 1) (s.setPort p { q with wait := q.wait ++ [w] })

/-- The port by which a frame leaves for a module: the route of R324 or, where its direction is lost, the other way round the ring. -/
def State.exitPort (s : State) (dmod pick : Nat) : Option Nat :=
  match s.nextWay s.modid dmod with
  | none => none
  | some (d, plus) =>
    match s.portFor (dirOf d plus) pick with
    | some p => some p
    | none => s.portFor (dirOf d !plus) pick

/-- A frame to another module; without a route it is not sent (R324). -/
def State.routeWaiting (s : State) (w : Waiting) : State :=
  match s.exitPort w.frame.dmod w.frame.pick with
  | some p => s.toPort p w
  | none => s.freeBuffer w.origin

/-- A frame of this module's own to another. -/
def State.routeFrame (s : State) (f : Frame) : State := s.routeWaiting ⟨f, none⟩

/-- A frame with a body, as this module makes it. -/
def State.mkFrame (s : State) (dmod pick : Nat) (b : FrameBody) : Frame :=
  ⟨bodyType b, bodyClass b, 0, 0, 0, false, dmod, s.modid, bodyLines b, pick, none, none, b⟩

/-- A message to another module. -/
def State.sendTo (s : State) (dmod pick : Nat) (b : FrameBody) : State := s.routeFrame (s.mkFrame dmod pick b)

/-- The line address that a WR flit begins with. -/
def Flit.lineAddr (f : Flit) : Option Nat :=
  match f.body with
  | .wr bs _ _ _ => bs.head?.map (fun b => b.1 / 64)
  | _ => none

/-- Lines of one transaction grouped into frames of at most 8 at consecutive addresses (R316). -/
def frameGroups : List Flit → List (List Flit)
  | [] => []
  | f :: r =>
    match frameGroups r with
    | [] => [[f]]
    | g :: gs =>
      match g with
      | [] => [f] :: gs
      | h :: _ =>
        if g.length < 8 ∧ f.lineAddr.map (· + 1) = h.lineAddr ∧ f.lineAddr.isSome then (f :: g) :: gs else [f] :: g :: gs

/-- Flits of a node to another module: across the mesh to the port of their route, and on in frames (R316, R326). -/
def State.sendOut (s : State) (node dmod pick : Nat) (fs : List Flit) : State :=
  let n := match s.exitPort dmod pick with
    | some p => hopsOf node (128 + portEdge p)
    | none => 0
  (frameGroups fs).foldl (fun (t : State) g => t.sendTo dmod pick (.data g)) (s.addHops (fs.length * n))

/-- A notice on every up port but one (R332). -/
def State.flood (s : State) (from' : Option Nat) (b : FrameBody) : State :=
  (List.range 12).foldl (fun (t : State) p =>
    if t.portUp p && decide (from' ≠ some p) then
      t.toPort p ⟨t.mkFrame (fld (t.reg (portBase p + 8)) 0 14) 0 b, none⟩
    else t) s

/-- A node as R324 counts it: a station by its index, an edge block as 0. -/
def stnIdx (n : Nat) : Nat := if n < 128 then n else 0

/-- A response to the requester of a transaction: over the mesh, or by Slora when it is another module (R307, R326). -/
def State.respond (s : State) (node : Nat) (f : Flit) (b : FlitBody) : State :=
  let g : Flit := ⟨node, f.req, f.req, f.txn, none, b⟩
  match f.mod with
  | none => s.sendFlit g
  | some m => s.sendOut node m (stnIdx node + stnIdx f.req) [g]

end Sys2Proof.Machine
end

