-- ==== Sys2Proof/Machine/Mover.lean ====
section
/-! DEFINITION. The mover and the mesh port: LD, ST, MCAST, arrivals of lines, acknowledgements, and the REDUCE of the accumulator unit (R94, R123 to R127, R130, R132, R146, R290, R304 to R310, R386). -/
namespace Sys2Proof.Machine

/-! ### Streams -/

/-- The codes of a block are moved: not every exponent of its item is 0 or 255 (R22, R124). -/
def itemLive (fmt : Nat) (item : List Byte) : Bool :=
  let n := if fmt = 3 ∨ fmt = 4 then 4 else 1
  (item.take n).any (fun e => decide (e ≠ 0) && decide (e ≠ 255))

/-- The units in which a transfer is made: blocks, or the lines of a RAW transfer (R123, R304). -/
def unitsOf (w : PWord) : Nat := if dfmtOf w = 0 then lenOf w else lenOf w / blockLines (dfmtOf w)

/-- The units that the mover moves now: from the first not moved, as many as there is room for and `upto` allows, all that have room when it is none (R149, R304, R386). Log entry 27. -/
def Flight.chunk (f : Flight) (room : Nat) (upto : Option Nat) : List Nat :=
  let left := min room (unitsOf f.word - f.moved)
  (List.range (min left (upto.getD left))).map (f.moved + ·)

/-- Lines of a transfer are counted from the first data line; the scale stream stands at `len`. The lines of a unit are read in this order, with the item first (R124), and those marked true are moved: the scale line with the first block of which it holds the item. -/
def unitReads (fmt len j : Nat) (live : Bool) : List (Nat × Bool) :=
  if fmt = 0 then [(j, true)]
  else
    let b := blockLines fmt
    let n := itemBytes fmt
    (len + j * n / 64, decide (j * n % 64 = 0)) :: (if live then (List.range b).map (fun k => (j * b + k, true)) else [])

/-- The lines of a unit that are passed over (R124). -/
def unitSkips (fmt j : Nat) (live : Bool) : List Nat :=
  if fmt = 0 ∨ live then [] else (List.range (blockLines fmt)).map (fun k => j * blockLines fmt + k)

/-- The item of a unit, in the scale stream that `scale` gives, lets its codes move. -/
def unitLive (fmt j : Nat) (scale : Nat → Byte) : Bool :=
  itemLive fmt ((List.range (itemBytes fmt)).map (fun k => scale (j * itemBytes fmt + k)))

/-- The stream of a word of the mover, as its lines' headers tell it (R299). -/
def streamOf (w : PWord) : Option Stream := if dfmtOf w = 0 then none else some ⟨dfmtOf w, lenOf w, tagOf w⟩

/-- TOTAL of a transfer: its data and scale lines (R304). -/
def totalOf (w : PWord) : Nat := lenOf w + scaleLines (dfmtOf w) (lenOf w)

/-- The LPDDR5X line of line `r` of a transfer. -/
def farLine (data scl len r : Nat) : Nat := if r < len then data + r else scl + (r - len)

/-- Platform memory bytes of a line. -/
def pmLine (pm : SMap Byte) (line : Nat) : List Byte := rdBytes pmTop pm (line * 64 % pmTop) 64

/-- The mover is past some units (R386): with the last one the instruction waits for `n` acknowledgements. -/
def Flight.advance (f : Flight) (units skips : List Nat) (n : Nat) : Flight :=
  let m := f.moved + units.length
  { f with
    moved := m
    skipped := f.skipped ++ skips
    stage := if unitsOf f.word ≤ m then .sent else f.stage
    acks := if unitsOf f.word ≤ m then n else f.acks }

/-! ### Transactions in transit -/

/-- A request class flit: WR, TOKEN and RED keep their order (R306). -/
def isRequest (f : Flit) : Bool :=
  match f.body with
  | .wr _ _ _ _ => true
  | .token _ => true
  | .red _ => true
  | _ => false

/-- A flit of one of the instructions `back` of station `i`: a line, or an acknowledgement to it. -/
def ofTxns (i : Nat) (back : List Nat) (h : Flit) : Bool :=
  h.mod.isNone && decide (h.req = i) && back.contains h.txn &&
    (match h.body with
     | .wr _ _ _ _ => true
     | .ack => true
     | _ => false)

/-- What a station holds of the transactions `back` of station `i` forgotten: lines at its router, lines counted (R147). -/
def Station.forget (i : Nat) (back : List Nat) (x : Station) : Station :=
  { x with
    routerHeld := x.routerHeld.filter (fun h => !ofTxns i back h)
    got := x.got.filter (fun a => !(decide (a.req = i) && a.mod.isNone && back.contains a.txn)) }

/-- The flits of the instructions of a station that wait for their replay leave the mesh, and their lines are counted from none (R147). -/
def State.dropFlits (s : State) (i : Nat) : State :=
  let back := ((s.stn i).iss.flight.filter (fun f => match f.stage with | .recover _ => true | _ => false)).map (·.seq)
  (List.range 128).foldl (fun (t : State) d => t.setStn d ((t.stn d).forget i back))
    (s.setMesh (s.die.mesh.filter (fun h => !ofTxns i back h)))

/-! ### LD and MCAST -/

/-- SRC and SSRC of LD and MCAST. -/
def ldFar (w : PWord) : Nat × Nat := (fld w 34 34, fld w 68 34)

/-- The LPDDR5X line of line `r` of an LD or MCAST. -/
def ldLine (w : PWord) (r : Nat) : Nat := farLine (ldFar w).1 (ldFar w).2 (lenOf w) r

/-- Whether the codes of a unit of an LD or MCAST move, as its item stands in LPDDR5X now (R124). -/
def State.ldLive (s : State) (w : PWord) (j : Nat) : Bool :=
  unitLive (dfmtOf w) j (fun k => mget byte0 s.lpddr ((ldFar w).2 * 64 + k))

/-- The lines that units of an LD or MCAST read, in order (R124). -/
def State.ldReads (s : State) (w : PWord) (us : List Nat) : List (Nat × Bool) :=
  us.flatMap (fun j => unitReads (dfmtOf w) (lenOf w) j (s.ldLive w j))

/-- The lines that units of an LD or MCAST pass over. -/
def State.ldSkips (s : State) (w : PWord) (us : List Nat) : List Nat :=
  us.flatMap (fun j => unitSkips (dfmtOf w) j (s.ldLive w j))

/-- The lines of a transaction counted at a destination so far: requester, its module, TXN. -/
def Station.gotOf (x : Station) (req : Nat) (mod : Option Nat) (txn : Nat) : List Nat :=
  match x.got.find? (fun a => decide (a.req = req) && decide (a.mod = mod) && decide (a.txn = txn)) with
  | some a => a.lines
  | none => []

/-- Block `j` of a stream is complete: its lines and the line of its item are counted (R309). -/
def Stream.blockIn (t : Stream) (ls : List Nat) (j : Nat) : Bool :=
  decide ((j + 1) * blockLines t.fmt ≤ t.len) && ls.contains (t.len + j * itemBytes t.fmt / 64)
    && (List.range (blockLines t.fmt)).all (fun k => ls.contains (j * blockLines t.fmt + k))

/-- A unit has arrived: a block with its item, or a RAW line. -/
def unitIn (t : Option Stream) (ls : List Nat) (j : Nat) : Bool :=
  match t with
  | some t => t.blockIn ls j
  | none => ls.contains j

/-- The units of an LD or MCAST that the mover may still put in flight: 32 blocks, or 64 RAW lines, less those that some destination has still to receive (R304). -/
def State.ldRoom (s : State) (i : Nat) (f : Flight) (dests : List Nat) : Nat :=
  (if dfmtOf f.word = 0 then 64 else 32)
    - ((List.range f.moved).filter (fun j => dests.any (fun d => !unitIn (streamOf f.word) ((s.stn d).gotOf i none f.seq) j))).length

/-- A line that a read finds uncorrectable as observed. -/
def namesLine (ue : Option (Nat × Nat)) (l : Nat) : Bool :=
  match ue with
  | some u => decide (u.1 = l)
  | none => false

/-- Where the ladder goes after an uncorrectable line (R451). -/
def State.ueStage (s : State) (f : Flight) (l : Nat) : Stage :=
  if 4 ≤ f.attempts then .recover 4
  else if 0 < f.attempts ∧ f.ueLine = some l ∧ s.region (l * 64) ≠ .golden then .recover 5
  else .recover 1

/-- LPDDR_UE or GOLDEN_UE met by a mover: counted, logged, the instruction aborted before the line is written (R290, R450). -/
def State.moverUe (s : State) (i : Nat) (f : Flight) (l : Nat) : State :=
  let why : FaultInfo := ⟨if s.region (l * 64) = .golden then 0x0202 else 0x0201, BitVec.ofNat 32 (ctrlOf l), BitVec.ofNat 64 l⟩
  ((s.readUe l).setFlight i { f with stage := s.ueStage f l, ueLine := some l, why := why }).dropFlits i

/-- One line of an LD or MCAST: its RD to the controller that holds it, and its WR flits from there to every destination (R299, R304). -/
def State.sendLine (s : State) (i : Nat) (f : Flight) (dests : List Nat) (skips : List Nat) (r : Nat) : State :=
  let w := f.word
  let l := ldLine w r
  let node := 128 + ctrlEdge (ctrlOf l)
  let bytes := whole ((fld w 20 14 + r) * 64 % pmTop) (s.line l)
  (s.addHops (hopsOf i node)).multicast node dests (fun t => [⟨node, t, i, f.seq, none, .wr bytes (r :: skips) (totalOf w) (streamOf w)⟩])

/-- Blocks passed over with no line to tell of them: the destinations learn of them without one. Log entry 83. -/
def State.sendSkips (s : State) (i : Nat) (f : Flight) (dests skips : List Nat) : State :=
  if skips.isEmpty then s
  else s.setMesh (s.die.mesh ++ dests.map (fun t => ⟨i, t, i, f.seq, none, .wr [] skips (totalOf f.word) (streamOf f.word)⟩))

/-- The lines `rs` of an LD or MCAST leave; the first tells of the blocks passed over. -/
def State.sendLines (s : State) (i : Nat) (f : Flight) (dests skips : List Nat) : List Nat → State
  | [] => s.sendSkips i f dests skips
  | r :: rs => rs.foldl (fun (t : State) q => t.sendLine i f dests [] q) (s.sendLine i f dests skips r)

/-- An LD or MCAST runs: it reads its lines in order, each once, and each goes from its controller to every destination. An uncorrectable line aborts it after the lines before (R123, R124, R127, R290, R304). -/
def State.runLd (s : State) (i : Nat) (f : Flight) (dests : List Nat) (o : Obs) : State :=
  let w := f.word
  let us := f.chunk (s.ldRoom i f dests) o.upto
  let s0 := match o.ue with
    | some u => if (s.ldReads w us).any (fun p => decide (ldLine w p.1 = u.1)) then s.arrayError u.1 else s
    | none => s
  let rs := s0.ldReads w us
  let bad (p : Nat × Bool) : Bool := s0.lineBad (ldLine w p.1) (namesLine o.ue (ldLine w p.1))
  let good := rs.takeWhile (fun p => !bad p)
  let s1 := s0.useLines (good.map (fun p => ldLine w p.1)) o.ce
  let skips := s0.ldSkips w us
  let s2 := s1.sendLines i f dests skips ((good.filter (·.2)).map (·.1))
  match rs.find? bad with
  | some p => s2.moverUe i f (ldLine w p.1)
  | none => s2.setFlight i (f.advance us skips dests.length)

/-- LD (R123). -/
def execLd (i : Stn) (o : Obs) (s : State) : Result :=
  match s.headOf i .mover with
  | some f => if s.live && decide (opc f.word = 0x08) then .next (s.runLd i f [i.val] o) else .next s
  | none => .next s

/-- MCAST (R127). -/
def execMcast (i : Stn) (o : Obs) (s : State) : Result :=
  match s.headOf i .mover with
  | some f => if s.live && decide (opc f.word = 0x0A) then .next (s.runLd i f f.cap.dests o) else .next s
  | none => .next s

/-! ### ST -/

/-- Whether the codes of a unit of an ST move, as its item stands in platform memory (R124). -/
def stLive (pm : SMap Byte) (w : PWord) (j : Nat) : Bool :=
  unitLive (dfmtOf w) j (fun k => mget byte0 pm ((fld w 20 14 * 64 + lenOf w * 64 + k) % pmTop))

/-- The lines that units of an ST move. -/
def stLines (pm : SMap Byte) (w : PWord) (us : List Nat) : List Nat :=
  us.flatMap (fun j => ((unitReads (dfmtOf w) (lenOf w) j (stLive pm w j)).filter (·.2)).map (·.1))

/-- The lines that units of an ST pass over. -/
def stSkips (pm : SMap Byte) (w : PWord) (us : List Nat) : List Nat :=
  us.flatMap (fun j => unitSkips (dfmtOf w) j (stLive pm w j))

/-- The platform memory line of line `r` of an ST. -/
def stLine (pm : SMap Byte) (w : PWord) (r : Nat) : List Byte := pmLine pm (fld w 20 14 + r)

/-- The LPDDR5X line written by line `r` of an ST with DSEL 0b00 (R125). -/
def stFar (w : PWord) (r : Nat) : Nat := farLine (fld w 34 34) (fld w 69 34) (lenOf w) r

/-- The platform address written by line `r` of an ST to a station: DST and SDST in bits 13:0 of their fields (R125). -/
def stNear (w : PWord) (r : Nat) : Nat :=
  (if r < lenOf w then fld w 34 14 + r else fld w 69 14 + (r - lenOf w)) * 64 % pmTop

/-- The WR flits of an ST to a station, the first telling of the blocks passed over (R125, log entry 83). -/
def stFlits (pm : SMap Byte) (i : Nat) (f : Flight) (mod : Option Nat) (rs skips : List Nat) : List Flit :=
  let w := f.word
  let mk (bs : List MaskedByte) (ls : List Nat) : Flit := ⟨i, fld w 48 7, i, f.seq, mod, .wr bs ls (totalOf w) (streamOf w)⟩
  match rs with
  | [] => if skips.isEmpty then [] else [mk [] skips]
  | r :: q => mk (whole (stNear w r) (stLine pm w r)) (r :: skips) :: q.map (fun r => mk (whole (stNear w r) (stLine pm w r)) [r])

/-- The controllers that the lines of an ST go to. -/
def stCtrls (w : PWord) (skipped : List Nat) : List Nat :=
  (((List.range (totalOf w)).filter (fun r => !skipped.contains r)).map (fun r => ctrlOf (stFar w r))).dedup

/-- Platform memory of a station with what its store and consist masters are about to write: the earliest ACCRD and the earliest local CONSIST that have not run. -/
def State.stationWrites (s : State) (i : Nat) : SMap Byte :=
  let x := s.stn i
  let p1 := match x.iss.flight.find? (fun f => decide (opc f.word = 0x10) && decide (f.stage = .issued)) with
    | some f => (accrdImage x.pm (x.slot (fld f.word 20 6)) (fld f.word 38 14 * 64) (mextOf f.word) (nextOf f.word)).1
    | none => x.pm
  match x.iss.flight.find? (fun f => decide (opc f.word = 0x20) && decide (f.stage = .issued)) with
  | some f => if fld f.word 102 2 = 0 then pmApply p1 (consistIn x.pm x f).run.writes else p1
  | none => p1

/-- Words read through the mesh port, twice against a write of the station in the same mc: each bit is that of the old word or of the one about to be written (R94, R95). -/
def State.mixWords (s : State) (i : Nat) (ws : List Nat) : SMap Byte × State :=
  let old := (s.stn i).pm
  let new := s.stationWrites i
  ws.dedup.foldl (fun (a : SMap Byte × State) wd =>
    let (r, t) := a.2.fresh
    ((List.range 32).foldl (fun m k =>
      let at' := (wd * 32 + k) % pmTop
      wrByte pmTop m at' (mixByte (mget byte0 old at') (mget byte0 new at') (BitVec.ofNat 8 (r >>> (8 * k))))) a.1, t)) (old, s)

/-- An ST runs: lines to LPDDR5X, each controller acknowledging its own with the last, or WR flits to a station of this or another module (R125, R307, R326). The words `clash` are those whose read and its retry met a write of the station (R95). Log entry 11. -/
def State.runSt (s : State) (i : Nat) (f : Flight) (o : Obs) : State :=
  let w := f.word
  let dsel := fld w 121 2
  let dmod := fld w 55 14
  let far := decide (dsel = 2) && decide (dmod ≠ s.modid)
  let s0 := s.countRefused i o.refused
  let (pm, s1) := (s0.countBusy i (2 * o.clash.length)).mixWords i o.clash
  let us := f.chunk (unitsOf w) o.upto
  let rs := stLines pm w us
  let skips := stSkips pm w us
  if dsel = 0 then
    let s2 := rs.foldl (fun (t : State) r =>
      ((t.wakeChannel (stFar w r)).setLine (stFar w r) (stLine pm w r)).addHops (hopsOf i (128 + ctrlEdge (ctrlOf (stFar w r))))) s1
    let cs := stCtrls w (f.skipped ++ skips)
    let g := f.advance us skips cs.length
    let s3 := s2.setFlight i g
    if g.stage = .sent then s3.sendAll (cs.map (fun c => ⟨128 + ctrlEdge c, i, i, f.seq, none, .ack⟩)) else s3
  else
    let s2 := s1.setFlight i (f.advance us skips 1)
    if far then s2.sendOut i dmod (i + fld w 48 7) (stFlits pm i f (some s.modid) rs skips)
    else s2.sendAll (stFlits pm i f none rs skips)

/-- ST (R125). -/
def execSt (x : Moving) (s : State) : Result :=
  match s.headOf x.stn .mover with
  | some f => if s.live && decide (opc f.word = 0x09) then .next (s.runSt x.stn f x.obs) else .next s
  | none => .next s

/-! ### REDUCE -/

/-- REDUCE with SCOPE 0: the contribution travels as RED flits, 2 of metadata and the entries by eights; the source slot is read and unchanged (R130, R299). SCOPE 1 waits for the collectives service (R132, R336), which reads the slot in `execReduce` of the collectives family. -/
def State.runReduce (s : State) (i : Nat) (f : Flight) : State :=
  let d := fld f.word 32 7
  ((s.setFlight i { f with stage := .sent, acks := 1 }).sendFlit
    ⟨i, d, i, f.seq, none, .red (reduceTile (s.stn i) i f)⟩).addHops ((imageLines (mextOf f.word) (nextOf f.word) - 1) * hopsOf i d)

/-! ### Arrivals -/

/-- The oldest request flit from a node to a station, and the mesh without it (R306). It gets through when no link of its route has stopped (R299, R301). -/
def State.nextRequest (s : State) (src dst : Nat) : Option (Flit × List Flit) :=
  if s.pathOpen src dst then takeFlit (fun f => decide (f.src = src) && decide (f.dst = dst) && isRequest f) s.die.mesh else none

/-- A station whose router takes the flits for it (R105, R107, R310). -/
def Station.sleeps (x : Station) : Bool := decide (x.ctl.run = .asleep) || decide (x.ctl.run = .waking)

/-- A flit that reaches a sleeping or waking station waits at its router and requests wake; the router holds 128 (R105, R107, R310). -/
def State.holdAtRouter (s : State) (dst : Nat) (f : Flit) (rest : List Flit) : State :=
  let x := s.stn dst
  if x.routerHeld.length < 128 then
    ((s.setMesh rest).setStn dst { x with routerHeld := x.routerHeld ++ [f] }).requestWake dst
  else s.requestWake dst

/-- The lines of a transaction counted at a destination replaced; none when the transaction is over. -/
def Station.setGot (x : Station) (f : Flit) (ls : List Nat) : Station :=
  let rest := x.got.filter (fun a => !(decide (a.req = f.req) && decide (a.mod = f.mod) && decide (a.txn = f.txn)))
  { x with got := if ls.isEmpty then rest else rest ++ [⟨f.req, f.mod, f.txn, ls⟩] }

/-- The slip that a line shows: of a block that it completes, with a TAG other than the expected one (R146, R309). -/
def arrivalSlip (t : Option Stream) (old new : List Nat) (sl : Option Slip) : Option Slip :=
  match t, sl with
  | some t, some q =>
    if t.blockIn new q.block && !t.blockIn old q.block && decide (q.found.toNat ≠ (t.tag + q.block) % 16) then some q else none
  | _, _ => none

/-- One acknowledgement counted off an instruction; LD, ST, MCAST, REDUCE, GIVE and DISPATCH complete with the last (R148). -/
def Station.acked (x : Station) (seq : Nat) : Station :=
  match x.flightOf seq with
  | none => x
  | some f =>
    let g := { f with acks := f.acks - 1 }
    if g.acks = 0 ∧ f.stage = .sent ∧ opc f.word ≠ 0x20 then (x.setFlight g).complete seq else x.setFlight g

/-- A destination has everything of a transaction: its requester learns of it by an ACK, or by its own count when it is the requester (R307). A requester that is no station awaits none. -/
def State.acknowledge (s : State) (dst : Nat) (f : Flit) : State :=
  if decide (f.req = dst) && f.mod.isNone then s.setStn dst ((s.stn dst).acked f.txn)
  else if f.req < 128 then s.respond dst f .ack
  else s

/-- A slip at the mesh port (R146, R147): nothing more of the transaction is written, and its instruction replays. A requester in another module is told. -/
def State.slipArrival (s : State) (dst : Nat) (f : Flit) (q : Slip) : State :=
  let s1 := s.setStn dst ((s.stn dst).setGot f [])
  match f.mod with
  | some _ => s1.respond dst f (.nack q.block q.found.toNat)
  | none =>
    match (s1.stn f.req).flightOf f.txn with
    | some g => (s1.slip f.req g q).dropFlits f.req
    | none => s1

/-- A WR at an awake or stopped station (R307 to R309). -/
def State.serveWr (s : State) (dst : Nat) (f : Flit) (bs : List MaskedByte) (ls : List Nat) (total : Nat) (t : Option Stream) (sl : Option Slip) : State :=
  let old := (s.stn dst).gotOf f.req f.mod f.txn
  let new := (old ++ ls).dedup
  match arrivalSlip t old new sl with
  | some q => s.slipArrival dst f q
  | none =>
    let s1 := s.pmMask dst bs
    if total ≤ new.length then (s1.setStn dst ((s1.stn dst).setGot f [])).acknowledge dst f
    else s1.setStn dst ((s1.stn dst).setGot f new)

/-- MESH_WR_ARRIVAL (R308): BUSY is raised for each of the line's two words that the station port accesses in the same mc (R94, R95), and the mesh port's requests may be refused (R93). -/
def execMeshWrArrival (dst : Stn) (src : Nat) (met : Contended) (sl : Option Slip) (s : State) : Result :=
  if s.works then
    match s.nextRequest src dst with
    | some (f, rest) =>
      match f.body with
      | .wr bs ls total t =>
        if (s.stn dst).sleeps then .next (s.holdAtRouter dst f rest)
        else .next ((((s.setMesh rest).countBusy dst met.busy.val).countRefused dst [(4, met.refused)]).serveWr dst f bs ls total t sl)
      | _ => .next s
    | none => .next s
  else .next s

/-- The token of a GIVE is present at one more destination; with the last one its ledger entry records it (R269). -/
def Station.tokenLanded (x : Station) (txn : Nat) : Station :=
  match x.flightOf txn with
  | none => x
  | some f =>
    let y := x.setFlight { f with landed := f.landed + 1 }
    if f.cap.dests.length ≤ f.landed + 1 then y.guardDone f.guard else y

/-- A token that arrives (R273): a GIVE of a station records it and is acknowledged (R269, R307). -/
def State.serveToken (s : State) (dst : Nat) (f : Flit) (t : Nat) : State :=
  let s1 := s.giveToken dst t
  if decide (f.req < 128) && f.mod.isNone then (s1.setStn f.req ((s1.stn f.req).tokenLanded f.txn)).acknowledge dst f else s1

/-- TOKEN_ARRIVAL (R273). -/
def execTokenArrival (dst : Stn) (src : Nat) (s : State) : Result :=
  if s.works then
    match s.nextRequest src dst with
    | some (f, rest) =>
      match f.body with
      | .token t => if (s.stn dst).sleeps then .next (s.holdAtRouter dst f rest) else .next ((s.setMesh rest).serveToken dst f t)
      | _ => .next s
    | none => .next s
  else .next s

/-- REDUCE_ARRIVAL (R131): a complete contribution enters the arrival buffer, or holds its path while the buffer is full. -/
def execReduceArrival (dst src : Stn) (s : State) : Result :=
  if s.works then
    match s.nextRequest src dst with
    | some (f, rest) =>
      match f.body with
      | .red t =>
        let x := s.stn dst
        if x.sleeps then .next (s.holdAtRouter dst f rest)
        else if x.arriveRoom then .next ((s.setMesh rest).setStn dst { x with arrive := x.arrive ++ [t] })
        else .next s
      | _ => .next s
    | none => .next s
  else .next s

/-! ### Acknowledgements -/

/-- An answer to a transaction: an ACK, or the report of a slip. -/
def isAnswer (f : Flit) : Bool :=
  match f.body with
  | .ack => true
  | .nack _ _ => true
  | _ => false

/-- The oldest answer from a node to a station. -/
def State.nextAck (s : State) (src dst : Nat) : Option (Flit × List Flit) :=
  if s.pathOpen src dst then takeFlit (fun f => decide (f.src = src) && decide (f.dst = dst) && isAnswer f) s.die.mesh else none

/-- An answer at its requester (R147, R307). -/
def State.takeAnswer (s : State) (i : Nat) (f : Flit) : State :=
  match f.body with
  | .nack b k =>
    (match (s.stn i).flightOf f.txn with
     | some g => (s.slip i g ⟨b, BitVec.ofNat 4 k⟩).dropFlits i
     | none => s)
  | _ => s.setStn i ((s.stn i).acked f.txn)

/-- ACK_RECEIPT (R307). -/
def execAckReceipt (i : Stn) (src : Nat) (s : State) : Result :=
  if s.works then
    match s.nextAck src i with
    | some (f, rest) => .next ((s.setMesh rest).takeAnswer i f)
    | none => .next s
  else .next s

end Sys2Proof.Machine
end

