-- ==== Sys2Proof/Machine/Sync.lean ====
section
/-! DEFINITION. The sync unit: TICKET, TAKE, GIVE, INTERLOCK, the ticket counters, the ledger's commits (R136 to R139, R261 to R273, R457). -/
namespace Sys2Proof.Machine

/-! ### Ticket counters -/

/-- The registers of ticket counter `c`: VAL, then LIMIT, EPOCH and EXH (R280). -/
def tktBase (c : Nat) : Nat := 0x208000 + 0x10 * c

/-- The sync hub's node (R298). -/
def syncHub : Nat := 142

/-- TICKET: the request leaves for its counter (R136); one issued before a halt still does (R265). -/
def execTicket (i : Stn) (s : State) : Result :=
  match (s.stn i).iss.flight.find? (fun f => opc f.word = 0x30 && f.stage = .issued) with
  | some f =>
    if s.works then .next ((s.setFlight i { f with stage := .sent }).sendFlit ⟨i, syncHub, i, f.seq, none, .tkt (fld f.word 20 6)⟩)
    else .next s
  | none => .next s

/-- A request served at a counter: the value returned and the counter after it (R262). -/
def State.serveTicket (s : State) (c : Nat) : Word × State :=
  let v := s.reg (tktBase c)
  if v.toNat < (s.reg (tktBase c + 4)).toNat then (v, s.setReg (tktBase c) (v + 1))
  else (0xFFFFFFFF, s.bump (tktBase c + 12) 1)

/-- The value recorded in the ledger entry that its TICKET opened (R267). -/
def Station.recordValue (x : Station) (seq : Nat) (v : Word) : Station :=
  match x.flightOf seq with
  | none => x
  | some f => match f.entry with
    | none => x
    | some e => x.modEntry e (fun le => if le.value.isNone then { le with value := some v } else le)

/-- A ticket request. -/
def isTkt (f : Flit) : Bool :=
  match f.body with
  | .tkt _ => true
  | _ => false

/-- The oldest ticket request of a station: they reach the hub in the order in which they were sent (R306). -/
def State.nextTkt (s : State) (i : Nat) : Option (Flit × List Flit) :=
  if s.pathOpen i syncHub then takeFlit (fun f => decide (f.src = i) && isTkt f) s.die.mesh else none

/-- TKT_REQUEST (R262, R264, R267): the counter serves the station's oldest request when it is for this counter, and the value is recorded for the entry that the TICKET opened. -/
def execTktRequest (c : Fin 64) (i : Stn) (s : State) : Result :=
  if s.works then
    match s.nextTkt i with
    | some (f, rest) =>
      if f.body = .tkt c.val then
        let (v, s1) := (s.setMesh rest).serveTicket c
        .next ((s1.setStn i ((s1.stn i).recordValue f.txn v)).sendFlit ⟨syncHub, i, i, f.txn, none, .tktval v⟩)
      else .next s
    | none => .next s
  else .next s

/-- A value for a station. -/
def isTktval (i : Nat) (f : Flit) : Bool :=
  decide (f.dst = i) && (match f.body with | .tktval _ => true | _ => false)

/-- A value back at its station: it stands in the entry that its TICKET reserved, and the TICKET completes once every earlier summary is posted (R136, R148). -/
def Station.takeValue (x : Station) (f : Flit) : Station :=
  match f.body, x.flightOf f.txn with
  | .tktval v, some g => (((x.post f.txn (ticketSummary (fld g.word 20 6) v)).setFlight { g with stage := .computed })).postTickets
  | _, _ => x

/-- TKTVAL (R136, R264). -/
def execTktval (i : Stn) (s : State) : Result :=
  if s.works && s.pathOpen syncHub i then
    match takeFlit (isTktval i) s.die.mesh with
    | some (f, rest) => .next ((s.setMesh rest).setStn i ((s.stn i).takeValue f))
    | none => .next s
  else .next s

/-- The entry of the ledger that may be dropped: its interval has ended and none of its instructions is in flight (R269). -/
def Station.commitable (x : Station) : Option LedgerEntry :=
  x.ledger.entries.find? (fun e =>
    (if x.ledger.replay then decide (e.seq + 1 < x.ledger.rpos) || (e.ended && decide (e.seq < x.ledger.rpos)) else e.ended)
    && x.iss.flight.all (fun f => decide (f.entry ≠ some e.seq)))

/-- LEDGER_ENTRY_COMMIT (R269). -/
def execLedgerEntryCommit (i : Stn) (s : State) : Result :=
  let x := s.stn i
  match x.commitable with
  | some e =>
    if s.works then
      .next (s.setStn i { x with ledger := { x.ledger with entries := x.ledger.entries.filter (fun g => decide (g.seq ≠ e.seq)) } })
    else .next s
  | none => .next s

/-! ### TAKE and GIVE -/

/-- The word at the head of the queue that passes its checks and may leave it. -/
def State.headWord (s : State) (i o : Nat) : Option PWord :=
  match (s.stn i).iss.queue with
  | [] => none
  | w :: _ => if s.live && (s.stn i).mayIssue && decide (opc w = o) && s.legal i w then some w else none

/-- TAKE (R137, R270). -/
def execTake (i : Stn) (s : State) : Result :=
  match s.headWord i 0x31 with
  | some w =>
    let t := fld w 20 8
    let (x, g, skip) := ((s.stn i).popHead w).takeGuard true
    if skip then .next (s.setStn i x.settle)
    else if bitAt x.tokens t then .next (s.setStn i ({ x with tokens := putBit x.tokens t false }.guardDone g).settle)
    else .next s
  | none => .next s

/-- GIVE: the sync unit holds it (R138). -/
def execGive (i : Stn) (s : State) : Result :=
  match (s.stn i).iss.flight.find? (fun f => opc f.word = 0x32 && f.stage = .issued) with
  | some f => if s.live then .next (s.setFlight i { f with stage := .held }) else .next s
  | none => .next s

/-- An earlier instruction of the station is not complete; a CONSIST of zero extent is complete when it retires (R144, R148). -/
def Station.earlierOpen (x : Station) (seq : Nat) : Bool :=
  x.iss.flight.any (fun g => decide (g.seq < seq) && !(decide (opc g.word = 0x20) && zeroExtent g.word))

/-- A GIVE delivers: at once in this station, by TOKEN flits elsewhere (R138). -/
def State.deliver (s : State) (i : Nat) (f : Flight) : State :=
  let t := fld f.word 20 8
  if fld f.word 28 2 = 0 then
    let s1 := s.giveToken i t
    s1.setStn i ((s1.stn i).complete f.seq)
  else
    (s.setFlight i { f with stage := .sent, acks := f.cap.dests.length, landed := 0 }).multicast i f.cap.dests
      (fun d => [⟨i, d, i, f.seq, none, .token t⟩])

/-- GIVE_DELIVER (R138): the earliest held GIVE. -/
def execGiveDeliver (i : Stn) (s : State) : Result :=
  match (s.stn i).iss.flight.find? (fun f => opc f.word = 0x32 && f.stage = .held) with
  | some f => if s.live && !(s.stn i).earlierOpen f.seq then .next (s.deliver i f) else .next s
  | none => .next s

/-! ### INTERLOCK -/

/-- The job's stations on this die (R139). -/
def State.jobSet (s : State) : List Nat := if s.die.jobStarted then s.die.jobStns else s.die.runSet

/-- What an interlock release does to a station: its restart point, its ledger window, the departure stagger (R139, R267, R280, R361, R457). -/
def State.releaseStn (s : State) (i : Nat) : State :=
  let x := s.stn i
  let y : Station := { x with
    iss := { x.iss with posted := none, stagger := true }
    restart := x.nextRestart.headD x.restart
    nextRestart := x.nextRestart.drop 1
    step4 := false
    ledger := ⟨bitAt (s.reg (0x20A000 + 0x400 * i)) 0, [], 0, false, 0, 0⟩ }
  s.setStn i y.settle

/-- Every station that waits at an interlock is released (R139). One that was restarted since it posted is released when its replay reaches the INTERLOCK again: DESIGN CHOICE, log entry 91. -/
def State.release (s : State) (domain : Bool) (ilk : Nat) : State :=
  (List.range 128).foldl (fun (t : State) i =>
    match (t.stn i).iss.posted with
    | some p =>
      if p.domain = domain ∧ p.ilk = ilk then
        (if p.waits then t.releaseStn i
         else t.setStn i { t.stn i with iss := { (t.stn i).iss with posted := some { p with passed := true } } })
      else t
    | none => t) s

/-- Every station of the job waits at an interlock. -/
def State.allPosted (s : State) (domain : Bool) (ilk : Nat) : Bool :=
  !s.jobSet.isEmpty && s.jobSet.all (fun i =>
    match (s.stn i).iss.posted with
    | some p => (p.domain == domain) && decide (p.ilk = ilk) && !p.passed
    | none => false)

/-- A station of this module waits at another domain interlock (R327). -/
def State.otherIlk (s : State) (ilk : Nat) : Bool :=
  s.jobSet.any (fun i => match (s.stn i).iss.posted with | some p => p.domain && !p.passed && decide (p.ilk ≠ ilk) | none => false)

/-- The arrival of a station at an interlock is posted; with the last one a die interlock releases (R139). -/
def State.postArrival (s : State) (i : Nat) (w : PWord) : State :=
  let x := (s.stn i).popHead w
  let y := x.endInterval
  let ilk := fld w 20 8
  let dom := bitAt w 28
  let s1 := s.setStn i { y with iss := { y.iss with posted := some ⟨dom, ilk, x.iss.next, true, false⟩ } }
  if dom then (if s.otherIlk ilk then s.illegalOp i w else s1)
  else if s1.allPosted false ilk then s1.release false ilk else s1

/-- The station has posted at this interlock before its restart, and it has been released since (R458). -/
def Station.passedPost (x : Station) (w : PWord) : Bool :=
  match x.iss.posted with
  | some p => p.passed && decide (p.ilk = fld w 20 8) && (p.domain == bitAt w 28)
  | none => false

/-- INTERLOCK (R139). A second post at the same interlock counts once (R458). -/
def execInterlock (i : Stn) (s : State) : Result :=
  match s.headWord i 0x38 with
  | some w =>
    if (s.stn i).earlierOpen (s.stn i).iss.next then .next s
    else if (s.stn i).passedPost w then .next ((s.setStn i ((s.stn i).popHead w).endInterval).releaseStn i)
    else .next (s.postArrival i w)
  | none => .next s

end Sys2Proof.Machine
end

