-- ==== Sys2Proof/Machine/Experts.lean ====
section
/-! DEFINITION. Expert routing: DISPATCH, GATHER, the expert queues (R140, R216 to R227), and the retried reads of the sends of a station (R94, R95). -/
namespace Sys2Proof.Machine

/-! ### The queues -/

/-- The registers of a queue: CTRL, VEC, IN, INS, OUT, OUTS, STAT (R234). -/
def State.xqRegs (s : State) (q : Nat) : List Word := (List.range 7).map (fun k => s.reg (0x206000 + 0x40 * q + 4 * k))

/-- A queue replaced. -/
def State.setXq (s : State) (q : Nat) (x : XQueue) : State :=
  { s with die := { s.die with xqs := mset (fun _ => XQueue.reset) s.die.xqs q x } }

/-- A word of the settings in effect. -/
def XQueue.word (x : XQueue) (k : Nat) : Word := x.cfg.getD k 0

/-- Vector format of a queue. -/
def XQueue.dfmt (x : XQueue) : Nat := fld (x.word 0) 18 3

/-- The queue serves (R234). -/
def XQueue.serves (x : XQueue) : Bool := bitAt (x.word 0) 0 && decide (x.dfmt ≠ 0) && decide (x.dfmt ≠ 7)

/-- OWNER. -/
def XQueue.owner (x : XQueue) : Nat := fld (x.word 0) 1 7

/-- SHR. -/
def XQueue.share (x : XQueue) : Nat := fld (x.word 0) 14 4 + 1

/-- The ranks whose markers the present round expects (R220). -/
def XQueue.expected (x : XQueue) : List Nat :=
  if x.round = 1 then List.range (fld (x.word 0) 8 6 + 1) else x.expect

/-- The platform byte address in an address register of a queue. -/
def XQueue.addr (x : XQueue) (k : Nat) : Nat := fld (x.word k) 6 14 * 64

/-- The queue is open for a new dispatch and nothing of it has arrived (R234). -/
def XQueue.idle (x : XQueue) : Bool := decide (x.round = 1) && x.marks.isEmpty && !x.busy

/-- Every marker of the round is in (R220). -/
def XQueue.full (x : XQueue) : Bool := x.expected.all (fun r => x.marks.any (fun k => decide (k.1 = r)))

/-- A register of a queue was written: with the queue idle or not serving the setting takes effect (R234). -/
def State.xqRefresh (s : State) (q : Nat) : State :=
  let x := s.xq q
  if !x.serves || x.idle then s.setXq q { x with cfg := s.xqRegs q } else s

/-- VOUT. -/
def XQueue.vout (x : XQueue) : Nat := fld (x.word 1) 8 8

/-- What a station knows of a queue; at reset every queue is open to it (R220). -/
def Station.known (x : Station) (md : Option Nat) (q : Nat) : XOpen :=
  (x.xopen.find? (fun o => decide (o.mod = md) && decide (o.q = q))).getD ⟨md, q, some 1, 0, 0⟩

/-- What a station knows of a queue replaced. -/
def Station.setKnown (x : Station) (o : XOpen) : Station :=
  { x with xopen := x.xopen.filter (fun p => !(decide (p.mod = o.mod) && decide (p.q = o.q))) ++ [o] }

/-- The queue opens a round to ranks that it knows (R220, R226). A rank that it does not know has sent nothing yet, and the queue is open to it. -/
def State.xqOpenTo (s : State) (q round : Nat) (ranks : List Nat) : State :=
  let x := s.xq q
  ranks.foldl (fun (t : State) r =>
    match x.srcs.find? (fun p => decide (p.1 = r)) with
    | none => t
    | some (_, st, none) => (t.setStn st ((t.stn st).setKnown ⟨none, q, some round, x.share, x.vout⟩)).addHops (hopsOf syncHub st)
    | some (_, st, some m) => t.sendOut syncHub m st [⟨syncHub, st, syncHub, 0, none, .xqOpen q round x.share x.vout⟩]) s

/-- A dispatch closes and the queue opens the next one to every rank (R220). -/
def State.xqClose (s : State) (q : Nat) : State :=
  let x := s.xq q
  let s1 := s.setXq q { x with
    cfg := s.xqRegs q
    disp := x.disp + 1
    round := 1
    expect := []
    marks := []
    vecs := []
    served := []
    busy := false }
  s1.xqOpenTo q 1 ((s1.xq q).expected)

/-! ### DISPATCH -/

/-- The queue an expert map entry names: module (none for this one), queue, rank (R217). -/
def State.entryOf (s : State) (e : Word) : Option Nat × Nat × Nat :=
  (if bitAt e 1 ∧ fld e 14 14 ≠ s.modid then some (fld e 14 14) else none, fld e 2 6, fld e 8 6)

/-- The routing that a record gives (R216). An index of 128 or more names no entry and is not routed: DESIGN CHOICE, log entry 88. -/
def State.routesOf (s : State) (pm : SMap Byte) (f : Flight) : List Routed :=
  let w := f.word
  let base := fld w 48 14 * 64
  let k := pmRd pm (base + 4) 1
  (List.range (mextOf w)).flatMap (fun m =>
    let line := base + 64 * (1 + m)
    (List.range (fld w 78 3 + 1)).filterMap (fun j =>
      let n := pmRd pm (line + 32 + 2 * j) 2
      let e := f.cap.xmap.getD n 0
      if j < k ∧ j < pmRd pm (line + 48) 1 ∧ n < 128 ∧ bitAt e 0 then
        let (md, q, r) := s.entryOf e
        some ⟨m, j, md, q, r⟩
      else none))

/-- The queues that a map names: module, queue, rank. -/
def State.queuesOf (s : State) (f : Flight) : List (Option Nat × Nat × Nat) :=
  (f.cap.xmap.filter (fun e => bitAt e 0)).map (s.entryOf)

/-- A vector of a DISPATCH with its scale items (R140). -/
def dispatchVec (pm : SMap Byte) (w : PWord) (m : Nat) : List Byte × List Byte :=
  let vlen := fld w 67 8
  let fmt := dfmtOf w
  let nb := vlen / blockLines fmt
  (rdBytes pmTop pm ((fld w 20 14 * 64 + m * vlen * 64) % pmTop) (vlen * 64),
   rdBytes pmTop pm ((fld w 34 14 * 64 + m * nb * itemBytes fmt) % pmTop) (nb * itemBytes fmt))

/-- A flit for a queue of this or another module. -/
def State.toQueue (s : State) (i txn : Nat) (md : Option Nat) (b : FlitBody) : State :=
  match md with
  | none => s.sendFlit ⟨i, syncHub, i, txn, none, b⟩
  | some m => s.sendOut i m i [⟨i, syncHub, i, txn, some s.modid, b⟩]

/-- A recorded DISPATCH replaced. -/
def Station.setRec (x : Station) (d : DispRec) : Station :=
  { x with disp := x.disp.map (fun e => if e.seq = d.seq then d else e) }

/-- The round in which a recorded DISPATCH may send to a queue (R220): the first, when no earlier one has still to begin there, or a later one that the queue opened for what it deferred. -/
def Station.roundFor (x : Station) (d : DispRec) (q : Option Nat × Nat) : Option Nat :=
  match (x.known q.1 q.2).round with
  | none => none
  | some r =>
    if r = 1 then
      let earlier := x.disp.any (fun e => decide (e.seq < d.seq) && !zeroExtent e.word && !e.sentTo.contains q
        && (!e.started || e.queues.any (fun k => decide ((k.1, k.2.1) = q))))
      if d.sentTo.contains q || earlier then none else some 1
    else if d.sentTo.contains q && !d.ended.contains q then some r
    else none

/-- The share with which a queue is open: SHR of a queue of this module that serves; that of another as it told, and before it has told, unknown from 1 to 16. Log entry 86. -/
def State.shareFor (s : State) (i : Nat) (q : Option Nat × Nat) : Option (Nat × State) :=
  let k := (s.stn i).known q.1 q.2
  match q.1 with
  | none => if (s.xq q.2).serves then some ((s.xq q.2).share, s) else none
  | some _ =>
    if k.share = 0 then
      let (v, t) := s.fresh
      some (v % 16 + 1, t.setStn i ((t.stn i).setKnown { k with share := v % 16 + 1 }))
    else some (k.share, s)

/-- One queue served by a DISPATCH: the vectors of its share, at most `upto` now, and with the last its marker; what is left at the first round is counted as deferred (R149, R220). -/
def State.sendShare (s : State) (i : Nat) (f : Flight) (upto : Option Nat) (q : Option Nat × Nat × Nat) : State :=
  let qq := (q.1, q.2.1)
  match (s.stn i).disp.find? (fun d => d.seq = f.seq) with
  | none => s
  | some d =>
    match (s.stn i).roundFor d qq with
    | none => s
    | some round =>
      match s.shareFor i qq with
      | none => s
      | some (share, s0) =>
        let x := s0.stn i
        let mine := d.unsent.filter (fun r => decide (r.mod = q.1) && decide (r.q = q.2.1))
        let done := ((d.part.find? (fun p => decide (p.1 = q.1) && decide (p.2.1 = q.2.1))).map (·.2.2)).getD 0
        let due := min (share - done) mine.length
        let now := mine.take (min due (upto.getD due))
        let last := decide (due ≤ now.length)
        let left := mine.length - now.length
        let d1 := { d with
          unsent := d.unsent.filter (fun r => !now.contains r)
          sentTo := if last && !d.sentTo.contains qq then d.sentTo ++ [qq] else d.sentTo
          ended := if last && decide (left = 0) then d.ended ++ [qq] else d.ended
          part := d.part.filter (fun p => !(decide (p.1 = q.1) && decide (p.2.1 = q.2.1))) ++ (if last then [] else [(q.1, q.2.1, done + now.length)]) }
        let y := x.setRec d1
        let s1 := s0.setStn i (if last then y.setKnown { x.known q.1 q.2.1 with round := none } else y)
        let s2 := if last && decide (round = 1) && decide (0 < left) then s1.pbump i 0x150 left else s1
        let s3 := now.foldl (fun (t : State) r =>
          let v := dispatchVec x.pm f.word r.m
          t.toQueue i f.seq q.1 (.xqVec q.2.1 q.2.2 r.m r.j (dfmtOf f.word) v.1 v.2)) s2
        if last then s3.toQueue i f.seq q.1 (.xqMark q.2.1 q.2.2 (done + now.length) (decide (0 < left))) else s3

/-- A DISPATCH starts: the routing is recorded (R216); it completes at once when its map names no queue. -/
def State.startDispatch (s : State) (i : Nat) (f : Flight) : State :=
  let x := s.stn i
  let rs := s.routesOf x.pm f
  let qs := s.queuesOf f
  let ds := x.disp.map (fun (d : DispRec) =>
    if d.seq = f.seq then { d with started := true, queues := qs, routes := rs, unsent := rs, unplaced := rs } else d)
  let y : Station := { x with disp := ds }
  let z := y.setFlight { f with stage := .sent, acks := qs.length, landed := 0 }
  s.setStn i (if qs.isEmpty then z.complete f.seq else z)

/-- A started DISPATCH sends what its queues are open to (R220). -/
def State.runDispatch (s : State) (i : Nat) (f : Flight) (upto : Option Nat) : State :=
  (s.queuesOf f).foldl (fun (t : State) q => t.sendShare i f upto q) s

/-- The DISPATCH that an observed slip concerns: the earliest in flight, as its blocks are checked (R146). -/
def State.dispatchSlip (s : State) (i : Nat) (sl : Option Slip) : Option (Flight × Slip) :=
  match (s.stn i).iss.flight.find? (fun f => decide (opc f.word = 0x40) && (decide (f.stage = .sent) || decide (f.stage = .issued))) with
  | some f => (slipAt (s.stn i) f sl).map (fun q => (f, q))
  | none => none

/-- The queue for which a flit of a DISPATCH of station `i` is still in the mesh. -/
def sentOf (i seq : Nat) (h : Flit) : Option Nat :=
  if h.src = i ∧ h.txn = seq ∧ h.mod = none then
    (match h.body with
     | .xqVec q _ _ _ _ _ _ => some q
     | .xqMark q _ _ _ => some q
     | _ => none)
  else none

/-- A vector flit is that of a routed pair. -/
def isPair (r : Routed) (h : Flit) : Bool :=
  match h.body with
  | .xqVec q _ m j _ _ _ => decide (r.mod = none) && decide (r.q = q) && decide (r.m = m) && decide (r.j = j)
  | _ => false

/-- An aborted DISPATCH loses what no queue has taken: its vectors and markers leave the mesh, and it has them to send again, to queues that are open to it as before (R147, R458). -/
def State.pullBack (s : State) (i : Nat) (f : Flight) : State :=
  let gone := s.die.mesh.filter (fun h => (sentOf i f.seq h).isSome)
  match (s.stn i).disp.find? (fun d => d.seq = f.seq) with
  | none => s
  | some d =>
    let marked := (gone.filter (fun h => match h.body with | .xqMark _ _ _ _ => true | _ => false)).filterMap (sentOf i f.seq)
    let d1 := { d with
      unsent := d.routes.filter (fun r => d.unsent.contains r || gone.any (isPair r))
      sentTo := d.sentTo.filter (fun q => !(q.1.isNone && marked.contains q.2 && decide ((s.xq q.2).round = 1)))
      ended := d.ended.filter (fun q => !(q.1.isNone && marked.contains q.2))
      part := d.part.filter (fun p => p.1.isSome) }
    let x := marked.foldl (fun (y : Station) q => y.setKnown { y.known none q with round := some (s.xq q).round }) ((s.stn i).setRec d1)
    (s.setMesh (s.die.mesh.filter (fun h => (sentOf i f.seq h).isNone))).setStn i x

/-- Every DISPATCH of a station that waits for its replay is pulled back. -/
def State.pullBackAll (s : State) (i : Nat) : State :=
  ((s.stn i).iss.flight.filter (fun f => decide (opc f.word = 0x40) && (match f.stage with | .recover _ => true | _ => false))).foldl
    (fun (t : State) f => t.pullBack i f) s

/-- A DISPATCH replays from its record with what it has still to send, or starts when it had none (R147). -/
def State.redispatch (s : State) (i : Nat) (f : Flight) : State :=
  if (s.stn i).disp.any (fun d => decide (d.seq = f.seq) && d.started) then
    (if f.acks = 0 then s.setStn i ((s.stn i).complete f.seq) else s.setFlight i { f with stage := .sent })
  else s.startDispatch i f

/-- DISPATCH (R140, R216, R220): the next one starts, and every started one sends what its queues are open to. A slip aborts the earliest in flight (R147). -/
def execDispatch (i : Stn) (o : Obs) (s : State) : Result :=
  if s.live then
    match s.dispatchSlip i o.slip with
    | some (f, q) => .next ((s.slip i f q).pullBackAll i)
    | none =>
      let s0 := s.countRefused i o.refused
      let s1 := match s0.headOf i .mover with
        | some f => if opc f.word = 0x40 then s0.startDispatch i f else s0
        | none => s0
      let going := (s1.stn i).iss.flight.filter (fun f => decide (opc f.word = 0x40) && decide (f.stage = .sent))
      .next (going.foldl (fun (t : State) f => t.runDispatch i f o.upto) s1)
  else .next s

/-! ### Markers and rounds -/

/-- A vector flit of a rank for a queue that stands before its marker. -/
def isVecOf (q rank : Nat) (f : Flit) : Bool :=
  match f.body with
  | .xqVec a r _ _ _ _ _ => decide (a = q) && decide (r = rank)
  | _ => false

/-- The marker flit of a rank for a queue. -/
def isMarkOf (q rank : Nat) (f : Flit) : Bool :=
  match f.body with
  | .xqMark a r _ _ => decide (a = q) && decide (r = rank)
  | _ => false

/-- The vectors of a rank with the round's form: format and length as the queue's (R222). -/
def XQueue.takes (x : XQueue) (f : Flit) : Bool :=
  match f.body with
  | .xqVec _ _ _ _ dfmt data _ => decide (dfmt = x.dfmt) && decide (data.length = fld (x.word 1) 0 8 * 64)
  | _ => true

/-- What a queue keeps of a vector flit. -/
def vecOf (f : Flit) : List (Nat × Nat × Nat × List Byte × List Byte) :=
  match f.body with
  | .xqVec _ r m j _ d sc => [(r, m, j, d, sc)]
  | _ => []

/-- The count and MORE of a marker. -/
def markOf (f : Flit) : Nat × Bool :=
  match f.body with
  | .xqMark _ _ c m => (c, m)
  | _ => (0, false)

/-- The queue refuses the first vector of a DISPATCH, which raises ILLEGAL_OP at its station (R222). -/
def State.xqRefused (s : State) (q : Nat) (f : Flit) : State :=
  match f.mod with
  | some _ => s.respond syncHub f (.xqRefuse q)
  | none => match (s.stn f.req).flightOf f.txn with
    | some g => s.abandon f.req g
    | none => s

/-- A queue of this module has accepted the last vector of a DISPATCH of this module; with its last queue the ledger entry records it (R268, R269). -/
def State.dispatchLanded (s : State) (f : Flit) : State :=
  match f.mod, (s.stn f.req).flightOf f.txn with
  | none, some g =>
    let x := (s.stn f.req).setFlight { g with landed := g.landed + 1 }
    s.setStn f.req (if (s.queuesOf g).length ≤ g.landed + 1 then x.guardDone g.guard else x)
  | _, _ => s

/-- A marker with its vectors enters the queue (R220). -/
def State.xqAccept (s : State) (q rank : Nat) (f : Flit) (vs : List Flit) : State :=
  let x := s.xq q
  let (c, more) := markOf f
  let y := { x with
    marks := x.marks.filter (fun k => decide (k.1 ≠ rank)) ++ [(rank, c, more)]
    vecs := x.vecs.filter (fun v => decide (v.1 ≠ rank)) ++ vs.flatMap vecOf
    srcs := mset (fun _ => ((0 : Nat), (none : Option Nat))) x.srcs rank (f.req, f.mod)
    told := if x.round = 1 then mset (fun _ => (0 : Nat)) x.told rank (mget (fun _ => (0 : Nat)) x.told rank + 1) else x.told }
  let s1 := s.setXq q y
  let s2 := if more then s1 else (s1.dispatchLanded f).respond syncHub f .ack
  if y.full && y.marks.all (fun k => decide (k.2.1 = 0)) then s2.xqClose q else s2

/-- XQ_MARKER (R220). -/
def execXqMarker (q : Fin 64) (rank : Nat) (s : State) : Result :=
  let x := s.xq q
  if s.live && x.serves && !x.busy && x.expected.contains rank then
    match takeFlit (isMarkOf q rank) s.die.mesh with
    | none => .next s
    | some (f, rest) =>
      if s.pathOpen f.src syncHub then
        let vs := rest.filter (isVecOf q rank)
        let s1 := s.setMesh (rest.filter (fun g => !isVecOf q rank g))
        if vs.all x.takes then .next (s1.xqAccept q rank f vs) else .next (s1.xqRefused q f)
      else .next s
  else .next s

/-- The scale item of an absent position (R220, R221): E = 255. Its other bytes, which the manual does not give, are 0: DESIGN CHOICE, log entry 87. -/
def absentItem (fmt : Nat) : List Byte :=
  let n := if fmt = 3 ∨ fmt = 4 then 4 else 1
  List.replicate n 255 ++ List.replicate (itemBytes fmt - n) 0

/-- The writes of one position of a region (R219): `v` the vector and its scale items, none for an empty position. -/
def placeWrites (fmt lines base sbase rank slot : Nat) (v : Option (List Byte × List Byte)) : List MaskedByte :=
  let bl := blockLines fmt
  let sz := bl * 64
  let it := itemBytes fmt
  let nb := lines / bl
  let c := (16 * nb * it + 63) / 64
  (List.range nb).flatMap (fun b =>
    let at' := sbase + rank * 64 * c + (16 * b + slot) * it
    match v with
    | none => whole at' (absentItem fmt)
    | some (d, sc) =>
      let item := (sc.drop (b * it)).take it
      (if itemLive fmt item then whole (base + rank * 16 * lines * 64 + (16 * b + slot) * sz) ((d.drop (b * sz)).take sz) else [])
        ++ whole at' item)

/-- The status tile of a round (R223). -/
def statusWrites (base : Nat) (again : Bool) : List MaskedByte :=
  whole base (List.replicate 64 1)
    ++ whole (base + 128) ((if again then [127, 0] else [255, 0]) ++ (List.replicate 31 [(255 : Byte), 0]).flatten)

/-- The writes of a round into the owner's platform memory, and the positions served (R219, R220, R223). -/
def XQueue.roundWrites (x : XQueue) : List MaskedByte × List (Nat × Nat × Nat × Nat) :=
  let vin := fld (x.word 1) 0 8
  let ranks := List.range (fld (x.word 0) 8 6 + 1)
  let cells := ranks.flatMap (fun r =>
    let mine := x.vecs.filter (fun v => decide (v.1 = r))
    (List.range 16).map (fun k => (r, k, mine[k]?)))
  (cells.flatMap (fun c => placeWrites x.dfmt vin (x.addr 2) (x.addr 3) c.1 c.2.1 (c.2.2.map (fun v => (v.2.2.2.1, v.2.2.2.2))))
     ++ statusWrites (x.addr 6) (x.marks.any (fun k => k.2.2)),
   cells.filterMap (fun c => c.2.2.map (fun v => (16 * c.1 + c.2.1, c.1, v.2.1, v.2.2.1))))

/-- XQ_ROUND_START (R220): the round is written as mesh writes of the sync hub, and TIN follows them (R227). -/
def execXqRoundStart (q : Fin 64) (s : State) : Result :=
  let x := s.xq q
  if s.live && x.serves && !x.busy && x.full && x.marks.any (fun k => decide (0 < k.2.1)) then
    let (ws, sv) := x.roundWrites
    let s1 := s.setXq q { x with served := sv, busy := true, vecs := [] }
    let s2 := if 1 < x.round then s1.bump (0x20601C + 0x40 * q.val) 1 else s1
    .next ((s2.sendAll (wrFlits syncHub x.owner q.val ws)).sendFlit ⟨syncHub, x.owner, syncHub, q.val, none, .token (fld (x.word 1) 16 8)⟩)
  else .next s

/-- The result at a position of the output region (R219, R221). -/
def XQueue.result (x : XQueue) (pm : SMap Byte) (rank slot : Nat) : List Byte × List Byte :=
  let fmt := x.dfmt
  let bl := blockLines fmt
  let it := itemBytes fmt
  let vout := fld (x.word 1) 8 8
  let nb := vout / bl
  let c := (16 * nb * it + 63) / 64
  ((List.range nb).flatMap (fun b => rdBytes pmTop pm (x.addr 4 + rank * 16 * vout * 64 + (16 * b + slot) * bl * 64) (bl * 64)),
   (List.range nb).flatMap (fun b => rdBytes pmTop pm (x.addr 5 + rank * 64 * c + (16 * b + slot) * it) it))

/-- The results of a round leave for their ranks (R221). The hub reads them from the owner's platform memory over the mesh. -/
def State.xqReturn (s : State) (q : Nat) : State :=
  let x := s.xq q
  x.served.foldl (fun (t : State) v =>
    let (d, sc) := x.result (t.stn x.owner).pm v.2.1 (v.1 % 16)
    let (st, md) := mget (fun _ => ((0 : Nat), (none : Option Nat))) x.srcs v.2.1
    let b : FlitBody := .xqRes q v.2.2.1 v.2.2.2 d sc
    let u := t.addHops ((x.vout + 1) * hopsOf syncHub x.owner)
    match md with
    | none => u.sendFlit ⟨syncHub, st, syncHub, 0, none, b⟩
    | some m => u.sendOut syncHub m st [⟨syncHub, st, syncHub, 0, some u.modid, b⟩]) s

/-- Every rank with a result of the round has issued the GATHER of this dispatch (R221). -/
def XQueue.awaitedBy (x : XQueue) : Bool :=
  decide (x.vout = 0) || x.served.all (fun v => decide (mget (fun _ => (0 : Nat)) x.told v.2.1 ≤ mget (fun _ => (0 : Nat)) x.want v.2.1))

/-- XQ_TOUT (R220, R221): TOUT is removed, the results go out once their ranks' GATHERs have issued, and the next round or the next dispatch opens. A sleeping owner's wake is requested first (R107). -/
def execXqTout (q : Fin 64) (s : State) : Result :=
  let x := s.xq q
  let o := s.stn x.owner
  let tout := fld (x.word 1) 24 8
  if s.live && x.busy && bitAt o.tokens tout && x.awaitedBy then
    if o.sleeps then .next (s.requestWake x.owner)
    else
      let s1 := (s.setStn x.owner { o with tokens := putBit o.tokens tout false }).xqReturn q
      let again := (x.marks.filter (fun k => k.2.2)).map (·.1)
      if again.isEmpty then .next (s1.xqClose q)
      else
        .next ((s1.setXq q { x with round := x.round + 1, expect := again, marks := [], vecs := [], served := [], busy := false }).xqOpenTo q (x.round + 1) again)
  else .next s

/-! ### GATHER -/

/-- The writes of one place of a GATHER: a result, or absent items (R140, R221). -/
def gatherWrites (w : PWord) (m j : Nat) (v : Option (List Byte × List Byte)) : List MaskedByte :=
  let fmt := dfmtOf w
  let vlen := fld w 67 8
  let bl := blockLines fmt
  let it := itemBytes fmt
  let nb := vlen / bl
  let k := m * (fld w 78 3 + 1) + j
  (List.range nb).flatMap (fun b =>
    let at' := fld w 34 14 * 64 + (k * nb + b) * it
    match v with
    | none => whole at' (absentItem fmt)
    | some (d, sc) =>
      let item := (sc.drop (b * it)).take it
      (if itemLive fmt item then whole (fld w 20 14 * 64 + k * vlen * 64 + b * bl * 64) ((d.drop (b * bl * 64)).take (bl * 64)) else [])
        ++ whole at' item)

/-- A queue learns that a rank has issued a GATHER (R221). -/
def State.xqWanted (s : State) (q rank : Nat) : State :=
  let x := s.xq q
  s.setXq q { x with want := mset (fun _ => (0 : Nat)) x.want rank (mget (fun _ => (0 : Nat)) x.want rank + 1) }

/-- A GATHER asks the queues of its DISPATCH for their results (R221, R226). -/
def State.askQueue (s : State) (i : Nat) (q : Option Nat × Nat × Nat) : State :=
  match q.1 with
  | none => (s.xqWanted q.2.1 q.2.2).addHops (hopsOf i syncHub)
  | some m => s.sendOut i m i [⟨i, syncHub, i, 0, some s.modid, .xqWant q.2.1 q.2.2⟩]

/-- A GATHER starts: its queues are asked, and the places of entries that are not routed get absent items (R221). -/
def State.startGather (s : State) (i : Nat) (f : Flight) : State :=
  let x := s.stn i
  match x.disp.find? (fun d => d.gather = some f.seq) with
  | none => s
  | some d =>
    let w := f.word
    let ws := (List.range (mextOf w)).flatMap (fun m => (List.range (fld w 78 3 + 1)).flatMap (fun j =>
      if d.routes.any (fun r => decide (r.m = m) && decide (r.j = j)) then [] else gatherWrites w m j none))
    d.queues.foldl (fun (t : State) q => t.askQueue i q) ((s.setFlight i { f with stage := .sent }).pmMask i ws)

/-- A result flit that the GATHER awaits. -/
def awaited (i : Nat) (d : DispRec) (f : Flit) : Bool :=
  decide (f.dst = i) && (match f.body with
    | .xqRes q m j _ _ => d.unplaced.any (fun r => decide (r.q = q) && decide (r.m = m) && decide (r.j = j) && decide (r.mod = f.mod))
    | _ => false)

/-- The results at hand placed one by one; with the last the GATHER completes (R140, R148). -/
def placeAll (i seq : Nat) : Nat → State → State
  | 0, s => s
  | n + 1, s =>
    let x := s.stn i
    match x.flightOf seq, x.disp.find? (fun d => d.gather = some seq) with
    | some f, some d =>
      if d.unplaced.isEmpty then
        s.setStn i ({ x with disp := x.disp.filter (fun e => decide (e.seq ≠ d.seq)) }.complete seq)
      else match takeFlit (fun g => awaited i d g && s.pathOpen g.src i) s.die.mesh with
        | none => s
        | some (g, rest) =>
          match g.body with
          | .xqRes q m j dt sc =>
            if dt.length ≠ fld f.word 67 8 * 64 then (s.setMesh rest).abandon i f else
            let d1 := { d with unplaced := d.unplaced.filter (fun r => !(decide (r.q = q) && decide (r.m = m) && decide (r.j = j))) }
            placeAll i seq n (((s.setMesh rest).setStn i (x.setRec d1)).pmMask i (gatherWrites f.word m j (some (dt, sc))))
          | _ => s
    | _, _ => s

/-- GATHER (R140, R150, R221): the next one starts, and every started one places the results at hand. A slip aborts the earliest. -/
def execGather (i : Stn) (o : Obs) (s : State) : Result :=
  if s.live then
    let s1 := match s.headOf i .mover with
      | some f => if opc f.word = 0x41 then s.startGather i f else s
      | none => s
    let going := (s1.stn i).iss.flight.filter (fun f => decide (opc f.word = 0x41) && decide (f.stage = .sent))
    match going.head?.bind (fun f => (slipAt (s1.stn i) f o.slip).map (fun q => (f, q))) with
    | some (f, q) => .next (s1.slip i f q)
    | none => .next (going.foldl (fun (t : State) f => placeAll i f.seq (t.die.mesh.length + 1) t) s1)
  else .next s

/-! ### Reads of a station's sends that meet a write of the station -/

/-- The byte of `r` that stands for an address of a word. -/
def pickAt (r a : Nat) : Byte := BitVec.ofNat 8 (r >>> (8 * (a % 32)))

/-- Bytes sent from platform address `base` on, with the word of `addr` mixed. -/
def mixRun (pm : SMap Byte) (addr r base : Nat) (bs : List Byte) : List Byte :=
  ((List.range bs.length).zip bs).map (fun p =>
    let a := (base + p.1) % pmTop
    if a / 32 = addr % pmTop / 32 then mixByte p.2 (mget byte0 pm a) (pickAt r a) else p.2)

/-- A flit of an ST or DISPATCH with its part of the word of `addr` mixed; none when it carries none of it. -/
def mixFlit (pm : SMap Byte) (addr r : Nat) (f : Flight) (h : Flit) : Option Flit :=
  let w := f.word
  if h.req ≠ h.src ∨ h.txn ≠ f.seq ∨ h.mod.isSome then none
  else match h.body with
    | .wr bs ls total t =>
      let a := (fld w 20 14 + ls.headD 0) * 64
      if opc w = 0x09 ∧ !bs.isEmpty ∧ a % pmTop / 64 = addr % pmTop / 64 then
        some { h with body := .wr (bs.map (fun b =>
          let c := a % pmTop + b.1 % 64
          if c / 32 = addr % pmTop / 32 then (b.1, b.2.1, mixByte b.2.2 (mget byte0 pm c) (pickAt r c)) else b)) ls total t }
      else none
    | .xqVec q k m j fmt d sc =>
      let nb := fld w 67 8 / blockLines fmt
      let d1 := mixRun pm addr r (fld w 20 14 * 64 + m * fld w 67 8 * 64) d
      let s1 := mixRun pm addr r (fld w 34 14 * 64 + m * nb * itemBytes fmt) sc
      if d1 = d ∧ s1 = sc then none else some { h with body := .xqVec q k m j fmt d1 s1 }
    | _ => none

/-- The first flit of the mesh that carries the word, mixed. -/
def mixMesh (pm : SMap Byte) (i addr r : Nat) (fs : List Flight) : List Flit → Option (List Flit)
  | [] => none
  | h :: rest =>
    match if h.src = i then fs.findSome? (fun f => mixFlit pm addr r f h) else none with
    | some g => some (g :: rest)
    | none => (mixMesh pm i addr r fs rest).map (h :: ·)

/-- The LPDDR5X line to which an ST has moved the line of `addr`. -/
def movedFar (addr : Nat) (f : Flight) : Option Nat :=
  let w := f.word
  let r := (addr % pmTop / 64 + pmTop / 64 - fld w 20 14) % (pmTop / 64)
  if opc w = 0x09 ∧ fld w 121 2 = 0 ∧ r < totalOf w ∧ !f.skipped.contains r ∧ f.stage = .sent then some (stFar w r) else none

/-- The word of `addr`, as a send of station `i` read it, becomes one of R94: each bit that of the word read or of the word being written, which stands in platform memory now or is about to. -/
def State.mixSend (s : State) (i addr : Nat) : State :=
  let (r, s1) := s.fresh
  let x := { s.stn i with pm := s.stationWrites i }
  let fs := x.iss.flight.filter (fun f => decide (opc f.word = 0x09) || decide (opc f.word = 0x40))
  match mixMesh x.pm i addr r fs s.die.mesh with
  | some m => s1.setMesh m
  | none =>
    match fs.findSome? (movedFar addr) with
    | some l =>
      let a := addr % pmTop / 32 * 32
      let at' := l * 64 + a % 64
      s1.setPart at' (mixRun x.pm addr r a (s1.memBytes at' 32))
    | none => s

/-- MESH_READ_RETRY (R94, R95): a mesh-port read of the station's own send, of the word at platform address `addr`, meets a station write: BUSY, and one retry. When the retry collides `again`, BUSY is raised once more and the word sent is arbitrary. Log entry 11. -/
def execMeshReadRetry (i : Stn) (addr : Nat) (again : Bool) (s : State) : Result :=
  if s.works then
    let s1 := s.countBusy i (if again then 2 else 1)
    .next (if again then s1.mixSend i addr else s1)
  else .next s

end Sys2Proof.Machine
end

