-- ==== Sys2Proof/Machine/Window.lean ====
section
/-! DEFINITION. The BAR2 station window: platform memory, slot entries and metadata as bytes, and an access served by a station (R430, R431). -/
namespace Sys2Proof.Machine

/-- The edge node of the PCIe endpoint and of the management core (R298). -/
def pcieNode : Nat := 134

/-- The management core's node. -/
def coreNode : Nat := 135

/-- One byte of a station's window (R430). -/
def Station.winByte (x : Station) (o : Nat) : Byte :=
  if o < 0x100000 then mget byte0 x.pm o
  else if o < 0x180000 then
    let e := (x.slot ((o - 0x100000) / 0x2000)).entry (o % 0x2000 / 512) (o % 512 / 8)
    BitVec.ofNat 8 (ofS 64 e.a.toInt >>> (8 * (o % 8)))
  else if o < 0x184000 then ((x.slot ((o - 0x180000) / 0x100)).record).getD (o % 0x100) 0
  else 0

/-- The bytes of a block of the window with a write laid over them. -/
def Station.laid (x : Station) (base n off : Nat) (bs : List Byte) : List Byte :=
  (List.range n).map (fun k =>
    if off ≤ base + k ∧ base + k < off + bs.length then bs.getD (base + k - off) 0 else x.winByte (base + k))

/-- A slot entry written through the window: its code set, its W cleared (R431). -/
def Station.putWinEntry (x : Station) (base off : Nat) (bs : List Byte) : Station :=
  let a := (base - 0x100000) / 0x2000
  let b := x.laid base 8 off bs
  x.setSlot a ((x.slot a).setEntry (base % 0x2000 / 512) (base % 512 / 8) ⟨BitVec.ofNat 48 (leNat (b.take 6)), 0⟩)

/-- A metadata record written through the window, as ACCWR does (R129, R431). -/
def Station.putWinRecord (x : Station) (base off : Nat) (bs : List Byte) : Station :=
  let a := (base - 0x180000) / 0x100
  x.setSlot a ((x.slot a).loadRecord (x.laid base 0x100 off bs))

/-- The blocks of `size` bytes from `lo` up to `hi` that a write touches. -/
def touched (lo hi size off n : Nat) : List Nat :=
  (((List.range n).map (fun i => off + i)).filter (fun o => decide (lo ≤ o) && decide (o < hi))).map (fun o => o / size * size) |>.dedup

/-- The platform bytes of a window write. -/
def Station.putWinPm (x : Station) (off : Nat) (bs : List Byte) : Station :=
  { x with pm := ((List.range bs.length).zip bs).foldl (fun m p => if off + p.1 < 0x100000 then mset byte0 m (off + p.1) p.2 else m) x.pm }

/-- A window write at a STOPPED station: platform memory, entries, metadata. -/
def Station.putWin (x : Station) (off : Nat) (bs : List Byte) : Station :=
  let x1 := x.putWinPm off bs
  let x2 := (touched 0x100000 0x180000 8 off bs.length).foldl (fun (y : Station) b => y.putWinEntry b off bs) x1
  (touched 0x180000 0x184000 0x100 off bs.length).foldl (fun (y : Station) b => y.putWinRecord b off bs) x2

/-- A write reaches slots or metadata. -/
def winSlots (off n : Nat) : Bool := decide (0x100000 < off + n) && decide (off < 0x184000)

/-- A slot that an instruction in flight, or a contribution on its way into it, writes. -/
def Station.slotWritten (x : Station) (a : Nat) : Bool :=
  x.iss.flight.any (fun f =>
    let o := opc f.word
    (o = 0x01 || o = 0x02 || o = 0x11 || o = 0x12 || o = 0x20)
      && (namedSlots 0 f.word f.cap.s2 (descOf f.cap.desc)).any (fun n => decide (n.1 = a)))
    || (x.redq ++ x.arrive).any (fun t => t.slots.contains a)

/-- The bytes that a read returns: platform memory as the mesh port sees it; with `arb`, which says that the read falls while the slot is written, arbitrary bytes of a slot's entries (R94, R95, R431). -/
def Station.winRead (x : Station) (pm : SMap Byte) (off n : Nat) (arb : Option Nat) : List Byte :=
  (List.range n).map (fun k =>
    let o := off + k
    if o < 0x100000 then mget byte0 pm o
    else match arb with
      | some r => if o < 0x180000 ∧ x.slotWritten ((o - 0x100000) / 0x2000) then BitVec.ofNat 8 (r >>> (8 * k)) else x.winByte o
      | none => x.winByte o)

/-- The words of platform memory that a window access covers. -/
def winWords (off n : Nat) : List Nat := (((List.range n).map (fun k => off + k)).filter (fun o => decide (o < 0x100000))).map (fun o => o / 32) |>.dedup

/-- A BAR2 access served by an awake or stopped station (R431). `busy` counts the assertions of BUSY it met: at the second the words read are arbitrary; for a read of slots any says that it falls while they are written. `refused` is for how many mc platform memory refused it (R93). -/
def State.serveBar2 (s : State) (i off n : Nat) (w : Option (List Byte)) (busy refused : Nat) : State :=
  let s1 := if off < 0x100000 then (s.countBusy i busy).countRefused i [(4, refused)] else s
  let x := s1.stn i
  match w with
  | some bs =>
    if winSlots off bs.length && decide (x.ctl.run ≠ .stopped) then (s1.setStn i (x.putWinPm off bs)).bump 0x54004 1
    else s1.setStn i (x.putWin off bs)
  | none =>
    let (pm, s2) := s1.mixWords i (if 2 ≤ busy then winWords off n else [])
    let (arb, s3) := if busy = 0 then ((none : Option Nat), s2) else (some s2.fresh.1, s2.fresh.2)
    s3.emit (.completion 0 false (x.winRead pm off n arb))

end Sys2Proof.Machine
end

