-- ==== Sys2Proof/Machine/Sleep.lean ====
section
/-! DEFINITION. Run, stop, sleep and wake of a station, its tokens and local store window as registers, the departure stagger (R102, R105 to R108, R274, R361, R477). -/
namespace Sys2Proof.Machine

/-- The signal box starts at 0 with cleared registers; words left in the queue by a stop are discarded (R102, R108). -/
def Station.start (x : Station) : Station :=
  { x with
    sb := { x.sb with pc := 0, regs := [] }
    ctl := { x.ctl with run := .awake, stopping := false, issueOff := false, stopHeld := false, sleepReq := false }
    iss := { x.iss with queue := [] }
    nextRestart := [] }

/-- A write of 0 to RUN (R108): an awake signal box stops, one that sleeps holds the stop. So does one that stalls on SB_SLEEP before the commit, whose current instruction has not ended: DESIGN CHOICE, log entry 89. -/
def Station.stop (x : Station) : Station :=
  match x.ctl.run with
  | .awake =>
    if x.ctl.sleepReq then { x with ctl := { x.ctl with stopHeld := true } }
    else Station.settle { x with ctl := { x.ctl with stopping := true } }
  | .asleep => { x with ctl := { x.ctl with stopHeld := true } }
  | .waking => { x with ctl := { x.ctl with stopHeld := true } }
  | .stopped => x

/-- STN_CTRL written (R107, R108). -/
def State.putCtrl (s : State) (i : Nat) (v : Word) : State :=
  let s1 := s.setReg (pageBase i + 4) (v &&& 0x3)
  let x := s1.stn i
  let s2 :=
    if bitAt v 0 then (if x.ctl.run = .stopped then s1.setStn i x.start else s1)
    else s1.setStn i x.stop
  if bitAt v 2 then s2.requestWake i else s2

/-- A host write to STN_CTRL: a station that it starts is one of the stations that the host has run since power-up (R139). -/
def State.ctrlWrite (s : State) (i : Nat) (v : Word) : State :=
  let t := s.putCtrl i v
  if bitAt v 0 && decide ((s.stn i).ctl.run = .stopped) && !s.die.runSet.contains i then
    { t with die := { t.die with runSet := t.die.runSet ++ [i] } }
  else t

/-- A mesh access is pending for a station (R105). One still on its way through the mesh counts: DESIGN CHOICE, log entry 90. -/
def State.accessPending (s : State) (i : Nat) : Bool :=
  s.die.mesh.any (fun f => decide (f.dst = i) && isRequest f) || !(s.stn i).arrive.isEmpty

/-- SLEEP_COMMIT (R105). -/
def execSleepCommit (i : Stn) (s : State) : Result :=
  let x := s.stn i
  if s.live && x.ctl.sleepReq && x.iss.queue.isEmpty && x.iss.flight.isEmpty && !x.atPost && !s.accessPending i then
    .next (s.setStn i { x with ctl := { x.ctl with run := .asleep, sleepReq := false, retention := false, admitted := false, wakeReq := false } })
  else .next s

/-- RETENTION_REACHED (R105): a wake admitted before it begins its 2 µs now. -/
def execRetentionReached (i : Stn) (s : State) : Result :=
  let x := s.stn i
  if s.live && decide (x.ctl.run = .asleep) && !x.ctl.retention then
    .next (s.setStn i { x with ctl := { x.ctl with retention := true, run := if x.ctl.admitted then .waking else .asleep } })
  else .next s

/-- A flit held at the router of a station that has woken, served; none when it is a contribution that finds the arrival buffer full and holds its path (R107, R131). -/
def State.serveHeld (s : State) (i : Nat) (f : Flit) : Option State :=
  match f.body with
  | .wr bs ls total t => some (s.serveWr i f bs ls total t none)
  | .token t => some (s.serveToken i f t)
  | .red t =>
    let x := s.stn i
    if x.arriveRoom then some (s.setStn i { x with arrive := x.arrive ++ [t] }) else none
  | .bar2 off n w => some (s.serveBar2 i off n w 0 0)
  | _ => some s

/-- Held flits served in arrival order; one that holds its path holds those of its source behind it (R107, R306). The flits that stay come back. -/
def State.serveAll (s : State) (i : Nat) (stay : List Flit) : List Flit → State × List Flit
  | [] => (s, stay)
  | f :: r =>
    if stay.any (fun g => decide (g.src = f.src)) then s.serveAll i (stay ++ [f]) r
    else match s.serveHeld i f with
      | some t => t.serveAll i stay r
      | none => s.serveAll i (stay ++ [f]) r

/-- A waking station is awake; a held stop comes before its next instruction (R107, R108). -/
def Station.awaken (x : Station) : Station :=
  let y : Station := { x with
    ctl := { x.ctl with run := .awake, admitted := false, retention := false, wakeReq := false, stopHeld := false, stopping := x.ctl.stopHeld }
    routerHeld := [] }
  y.settle

/-- A BAR2 access that waits in the input buffers of a station's router (R310, R431). -/
def isBar2To (i : Nat) (f : Flit) : Bool :=
  match f.body with
  | .bar2 _ _ _ => decide (f.dst = i)
  | _ => false

/-- WAKE_COMPLETE (R107): what the router holds is served, and the BAR2 accesses for which it had no room (R310, R431). -/
def execWakeComplete (i : Stn) (s : State) : Result :=
  let x := s.stn i
  if s.live && decide (x.ctl.run = .waking) && x.ctl.retention then
    let rest := s.die.mesh.filter (fun f => !isBar2To i f)
    let (t, stay) := ((s.setMesh rest).setStn i x.awaken).serveAll i [] (x.routerHeld ++ s.die.mesh.filter (isBar2To i))
    .next (t.setMesh (stay ++ t.die.mesh))
  else .next s

/-- Admission of a wake request by the governor (R105, R362): 2 µs of WAKING begin now, or at retention. -/
def State.wakeNow (s : State) (i : Nat) : State :=
  let x := s.stn i
  (s.setStn i { x with ctl := { x.ctl with wakeReq := false, admitted := true, run := if x.ctl.retention then .waking else .asleep } }).bump 0x30100 1

/-- Tokens made absent through STN_TOKi (R274). -/
def State.tokClear (s : State) (i k : Nat) (v : Word) : State :=
  let x := s.stn i
  s.setStn i { x with tokens := x.tokens &&& ~~~(BitVec.ofNat 256 (v.toNat <<< (32 * k))) }

/-- Tokens made present through STN_TOKSETi (R274). -/
def State.tokSet (s : State) (i k : Nat) (v : Word) : State :=
  let x := s.stn i
  s.setStn i { x with tokens := x.tokens ||| BitVec.ofNat 256 (v.toNat <<< (32 * k)) }

/-- The return from a coast still holds departures (R361, R375). -/
def State.departuresHeld (s : State) : Bool := s.die.gov.returning

/-- DEPARTURE_STAGGER (R361). -/
def execDepartureStagger (i : Stn) (s : State) : Result :=
  let x := s.stn i
  if s.live && x.iss.stagger && !s.departuresHeld then .next (s.setStn i { x with iss := { x.iss with stagger := false } }) else .next s

end Sys2Proof.Machine
end

