-- ==== Sys2Proof/Machine/Images.lean ====
section
/-! DEFINITION. The spill image and the snapshot images as LPDDR5X holds them (R286, R340, R341, R388). -/
namespace Sys2Proof.Machine

/-- The size of a spill image (R388). -/
def imageSize : Nat := 0x16400000

/-- Where the spill region begins (R286). -/
def State.spillStart (s : State) : Nat := (s.capMib - 480) * 0x100000

/-- Where half `h` of the snapshot region begins (R286, R341). -/
def State.halfStart (s : State) (h : Nat) : Nat := (s.capMib - 680 - 1024 * s.snapN + 512 * s.snapN * h) * 0x100000

/-- The bytes of a spill image whose content the manual names but does not lay out: the header, the records of a station after its platform memory, the edge record (R388). -/
def unlaid (o : Nat) : Bool :=
  if o < 0x100000 then true
  else if o < 0x16100000 then decide (0x100000 ≤ (o - 0x100000) % 0x2C0000) && decide ((o - 0x100000) % 0x2C0000 < 0x2B6000)
  else decide (o < imageSize)

/-- What a byte of LPDDR5X holds of a spill image beside the cells of memory: its cell is kept as the difference from it, so that a whole image is written in one step. Log entry 14. -/
def State.imageBase (s : State) (a : Nat) : Byte :=
  match s.images.find? (fun p => decide (p.1 ≤ a) && decide (a < p.1 + imageSize)) with
  | some p => if unlaid (a - p.1) then Config.imageByte p.2 (a - p.1) else 0
  | none => 0

/-- Bytes of LPDDR5X in any region. -/
def State.rdBytesAt (s : State) (a n : Nat) : List Byte :=
  (List.range n).map (fun i => mget byte0 s.lpddr (a + i) ^^^ s.imageBase (a + i))

/-- Bytes for LPDDR5X in any region, as its cells hold them. -/
def State.asCells (s : State) (a : Nat) (bs : List Byte) : List Byte :=
  ((List.range bs.length).zip bs).map (fun p => p.2 ^^^ s.imageBase (a + p.1))

/-- Cells of a range that a test picks are emptied, and their lines read good again. -/
def State.clearCells (s : State) (start n : Nat) (p : Nat → Bool) : State :=
  { s with
    lpddr := s.lpddr.filter (fun c => !(decide (start ≤ c.1) && decide (c.1 < start + n) && p (c.1 - start)))
    poison := s.poison.filter (fun l => !(decide (start ≤ l * 64) && decide (l * 64 < start + n) && p (l * 64 - start))) }

/-- Cells written at offsets from `start`. -/
def State.putCells (s : State) (start : Nat) (cells : List (Nat × Byte)) : State :=
  { s with lpddr := cells.foldl (fun m c => mset byte0 m (start + c.1) c.2) s.lpddr }

/-- The image that starts at an address is the one of a key. -/
def State.setKey (s : State) (start key : Nat) : State :=
  { s with images := s.images.filter (fun p => decide (p.1 ≠ start)) ++ [(start, key)] }

/-- Platform memory in a spill image (R388). -/
def pmCells (d : Die) : List (Nat × Byte) :=
  d.stns.flatMap (fun p => p.2.pm.map (fun c => (0x100000 + 0x2C0000 * p.1 + c.1, c.2)))

/-- The cells of memory ranges, one range after the other from an offset on (R340). -/
def packRanges (m : SMap Byte) : Nat → List (Nat × Nat) → List (Nat × Byte)
  | _, [] => []
  | o, r :: rs =>
    (m.filter (fun c => decide (r.1 ≤ c.1) && decide (c.1 < r.1 + r.2))).map (fun c => (o + (c.1 - r.1), c.2)) ++ packRanges m (o + r.2) rs

/-- The golden copy as a byte range (R286). -/
def State.goldenRange (s : State) : Nat × Nat := (s.goldenLine * 64, 160 * 0x100000)

/-- The listed user ranges as byte ranges (R340). -/
def State.userRanges (s : State) : List (Nat × Nat) := s.plan.ranges.map (fun r => (r.1 * 0x100000, r.2 * 0x100000))

/-- The cells of a snapshot image: the spill image, the golden copy, the listed ranges (R340, R341). -/
def State.snapCells (s : State) : List (Nat × Byte) :=
  pmCells s.die ++ packRanges s.lpddr (480 * 0x100000) (s.goldenRange :: s.userRanges)

/-- The spill image of the present die state written into the spill region (R340, R388). -/
def State.writeSpill (s : State) : State :=
  let a := s.spillStart
  (((({ s with free := s.free + 1 } : State).clearCells a imageSize (fun _ => true)).putCells a (pmCells s.die)).setKey a s.free)

/-- The key of the image in the spill region. -/
def State.spillKey (s : State) : Nat := ((s.images.find? (fun p => decide (p.1 = s.spillStart))).map (·.2)).getD 0

/-- The lines of an image that go by one sibling: frames of 8 lines alternate (R324). -/
def ofSibling (sib o : Nat) : Bool := decide (o / 512 % 2 = sib % 2)

/-- Lines of a snapshot image written into the half without the committed generation (R340). -/
def State.storeSnap (s : State) (key : Nat) (p : Nat → Bool) (cells : List (Nat × Byte)) : State :=
  let a := s.halfStart (1 - s.snapHalf)
  ((s.clearCells a (512 * s.snapN * 0x100000) p).putCells a (cells.filter (fun c => p c.1))).setKey a key

end Sys2Proof.Machine
end

