-- ==== Sys2Proof/Machine/Interlock.lean ====
section
/-! DEFINITION. Interlocks over the domain: the tree, the three interlocks that run on it, reasons, deadlines and notices (R327 to R333, R340). -/
namespace Sys2Proof.Machine

/-! ### The tree (R328) -/

/-- The interlock root; in solo mode the module itself (R15). -/
def State.rootMod (s : State) : Nat :=
  let r := s.reg 0x8080C
  if s.solo then s.modid else s.modAt (fun d => fld r (5 * d) 5)

/-- This module is the root. -/
def State.isRoot (s : State) : Bool := s.modid = s.rootMod

/-- The parent: the next module on the route to the root. -/
def State.parent (s : State) : Nat := s.nextMod s.modid s.rootMod

/-- The children: neighbours whose parent this module is. -/
def State.children (s : State) : List Nat :=
  ((List.range 3).flatMap (fun d => [true, false].map (fun w => s.stepFrom s.modid d w))).dedup.filter (fun m =>
    decide (m ≠ s.modid) && decide (m ≠ s.rootMod) && decide (s.nextMod m s.rootMod = s.modid))

/-- The size of the domain. -/
def State.domainSize (s : State) : Nat := s.dim 0 * s.dim 1 * s.dim 2

/-- A module lies in the subtree of a child. -/
def State.inSubtree (s : State) (child m : Nat) : Bool := s.onRoute m s.rootMod child

/-! ### The three interlocks -/

/-- Which interlock: of the domain, of a snapshot's commit, of a rollback round. -/
inductive IlkKind where
  | domain | commit | roll
  deriving DecidableEq, Repr

/-- The interlock of a kind. -/
def Net.ilkOf (n : Net) : IlkKind → Ilk
  | .domain => n.ilk
  | .commit => n.snapIlk
  | .roll => n.rollIlk

/-- The interlock of a kind replaced. -/
def Net.setIlk (n : Net) (k : IlkKind) (i : Ilk) : Net :=
  match k with
  | .domain => { n with ilk := i }
  | .commit => { n with snapIlk := i }
  | .roll => { n with rollIlk := i }

/-- The interlock that a message concerns: ILK 0xFF is the rollback's while one runs, then the commit interlock while a snapshot runs (R340, R461). Log entry 28. -/
def State.kindOf (s : State) (ilk : Nat) : IlkKind :=
  if s.die.net.roll.isSome && decide (ilk = 0xFF) then .roll
  else if s.die.net.snap.isSome then .commit
  else .domain

/-- The ISEQ that messages of the interlock in progress bear: the number its release will have; for the rollback, the least generation or G (R329, R461). Log entry 29. -/
def State.ilkSeq (s : State) (k : IlkKind) : Word :=
  match k with
  | .domain => s.iseq + 1
  | .commit => s.iseq
  | .roll => match s.die.net.roll with
    | some r => if r.round = 1 then
        (s.die.net.rollIlk.arrived.map (·.iseq)).foldl (fun a b => if b.toNat < a.toNat then b else a) (s.reg 0x80824)
      else BitVec.ofNat 32 r.g
    | none => 0

/-- LINK_LCE. -/
def State.lce (s : State) : Nat := fld (s.reg 0x80834) 0 16

/-- The module's own reason for the interval (R329, R376). -/
def State.ownReason (s : State) : Nat :=
  if s.die.net.haltedIn then 11
  else if s.die.net.recovered then 10
  else
    let ds := s.die.gov.interval
    let top := ds.foldl max 0
    if top = 0 then 0 else (ds.findIdx (fun d => decide (d = top))) + 1

/-! ### Releases -/

/-- A snapshot follows the release (R340, R463): the image of this module is captured. In solo mode it goes to the own region whatever LINK_PARTNER holds (R15, R341). -/
def State.snapDue (s : State) (ilk iseq : Nat) : Bool :=
  let r := s.reg 0x80818
  let p := max 1 (fld r 9 16)
  decide (fld r 1 8 = ilk) && (bitAt r 0 && decide (iseq % p = 0) || s.die.net.snapForce) && (s.solo || decide (fld (s.reg 0x80820) 0 3 ≠ 7))

/-- The cells of a list of byte ranges. -/
def cellsOf (m : SMap Byte) (rs : List (Nat × Nat)) : SMap Byte :=
  m.filter (fun c => rs.any (fun r => decide (r.1 ≤ c.1) && decide (c.1 < r.1 + r.2)))

/-- The image of the module under a generation (R340). -/
def State.imageOf (s : State) (gen : Nat) : Snapshot :=
  ⟨gen, s.die, cellsOf s.lpddr [s.goldenRange], cellsOf s.lpddr s.userRanges⟩

/-- The direction's neighbour that holds the snapshots, none for the own region, where they go in solo mode (R15, R341). -/
def State.partner (s : State) : Option Nat :=
  let d := fld (s.reg 0x80820) 0 3
  if d < 6 ∧ ¬ s.solo then some (s.stepFrom s.modid (d / 2) (decide (d % 2 = 0))) else none

/-- The copy of the captured image goes to the partner, its frames by both siblings in turn, or into the own region (R324, R340, R341). -/
def State.sendSnap (s : State) (gen : Nat) : State :=
  let cells := s.snapCells
  match s.partner with
  | some m =>
    [0, 1].foldl (fun (t : State) sib => t.sendTo m sib (.snap gen sib s.spillKey (cells.filter (fun c => ofSibling sib c.1)))) s
  | none => s.storeSnap s.spillKey (fun _ => true) cells

/-- The snapshot begins: stations stay at the interlock, the image is captured and its copy starts, which takes the half without the last committed generation (R340). -/
def State.startSnap (s : State) (gen : Nat) : State :=
  let n := { s.die.net with snap := some ⟨gen, 0, false, false⟩, snapIlk := Ilk.reset, snapForce := false }
  ({ s.writeSpill.setNet n with snapOut := some (s.imageOf gen), snaps := s.snaps.take 1 }).sendSnap gen

/-- Lines of the partner's image (R340): stored, and acknowledged when all have come. -/
def State.onSnap (s : State) (smod gen sib key : Nat) (cells : List (Nat × Byte)) : State :=
  let s1 := s.storeSnap key (ofSibling sib) cells
  let got := (s1.die.net.snapGot.filter (fun g => decide (g.2.1 = gen) && decide (g ≠ (smod, gen, sib % 2)))) ++ [(smod, gen, sib % 2)]
  let s2 := s1.setNet { s1.die.net with snapGot := got }
  if got.contains (smod, gen, 0) && got.contains (smod, gen, 1) then s2.sendTo smod 0 (.snapAck gen) else s2

/-- The partner has the whole of this module's image (R340). -/
def State.onSnapAck (s : State) (gen : Nat) : State :=
  match s.die.net.snap with
  | some r => if r.gen = gen then s.setNet { s.die.net with snap := some { r with acked := true } } else s
  | none => s

/-- The outgoing copy is acknowledged and the incoming one complete (R340). -/
def State.copiesDone (s : State) (r : SnapRun) : Bool :=
  s.partner.isNone || (r.acked && s.die.net.snapGot.any (fun g => decide (g.2.1 = r.gen) && s.die.net.snapGot.contains (g.1, r.gen, 1 - g.2.2)))

/-- A halted partner's copies, to it and from it, start again after its RESUME (R342). -/
def State.snapResume (s : State) (mod : Nat) : State :=
  match s.die.net.snap with
  | none => s
  | some r =>
    let s1 := s.setNet { s.die.net with snapGot := s.die.net.snapGot.filter (fun g => decide (g.1 ≠ mod)) }
    if s.partner = some mod then (s1.setNet { s1.die.net with snap := some { r with acked := false } }).sendSnap r.gen else s1

/-- GOV_STATUS.COASTING. -/
def State.coasting (s : State) : Bool := bitAt (s.reg 0x30000) 7

/-- A coast ends (R375); `back` says that departures wait until the working point is restored. -/
def State.endCoast (s : State) (back : Bool) : State :=
  if s.coasting then
    let t := s.setFld 0x30000 7 1 0
    { t with die := { t.die with gov := { t.die.gov with returning := back || t.die.gov.returning } } }
  else s

/-- A module that waits at a domain interlock coasts when R375 lets it. -/
def State.beginCoast (s : State) : State :=
  let c := s.reg 0x30004
  if s.die.net.ilk.own && bitAt c 2 && !bitAt c 0 && bitAt (s.reg 0x80828) 31
      && decide (fld (s.reg 0x3001C) 0 24 ≤ (s.reg 0x8082C).toNat) && !bitAt (s.reg 0x30000) 6 then
    s.setFld 0x30000 7 1 1
  else s

/-- The stations that wait at the domain interlock go on, and the deadline timer starts (R328, R331). -/
def State.releaseDomain (s : State) (ilk : Nat) : State :=
  let n := { s.die.net with
    ilk := Ilk.reset
    arrivedAt := none
    timer := ⟨0, true, []⟩
    lateMods := []
    noNotice := []
    paused := 0
    allowOver := false
    boundary := false }
  ((s.setNet n).endCoast true).release true ilk

/-- A domain interlock is released here (R328, R329): the registers, then a snapshot or the stations. -/
def State.onRelease (s : State) (ilk slow reason : Nat) : State :=
  let wait := match s.die.net.arrivedAt with | some t => s.uptime - t | none => 0
  let old := fld (s.reg 0x80828) 0 14
  let s1 := s.setReg 0x80830 (s.iseq + 1)
  let s2 := s1.setReg 0x80828 (BitVec.ofNat 32 (slow % 2 ^ 14 + reason * 2 ^ 16 + 2 ^ 31))
  let s3 := s2.setReg 0x8082C (BitVec.ofNat 32 wait)
  let s4 := if old = slow % 2 ^ 14 then s3 else s3.signal 5
  let s5 := { s4 with die := { s4.die with gov := { s4.die.gov with interval := List.replicate 9 0 }, net := { s4.die.net with recovered := false, haltedIn := false } } }
  let stop := { s5.die.net with timer := { s5.die.net.timer with running := false } }
  let s6 := s5.setNet stop
  if s6.snapDue ilk s6.iseq.toNat then s6.startSnap s6.iseq.toNat else s6.releaseDomain ilk

/-- The commit interlock is released: the generation is committed, then the stations go on (R340). -/
def State.onCommit (s : State) : State :=
  match s.die.net.snap with
  | none => s
  | some r =>
    let n := { s.die.net with snap := none, snapIlk := Ilk.reset, snapGot := [] }
    let kept := match s.snapOut with | some i => i :: s.snaps.take 1 | none => s.snaps
    let s1 : State := { s.setNet n with snaps := kept, snapOut := none, snapHalf := 1 - s.snapHalf }
    (s1.setReg 0x80824 (BitVec.ofNat 32 r.gen)).releaseDomain s1.die.net.ilk.ilk

/-- A rollback round is released (R461): round 1 gives G; after round 2 the module runs on from interlock G under the departure stagger. -/
def State.onRollRelease (s : State) (iseq : Word) : State :=
  match s.die.net.roll with
  | none => s
  | some r =>
    if r.round = 1 then
      s.setNet { s.die.net with roll := some { r with round := 2, g := iseq.toNat, restored := false }, rollIlk := Ilk.reset }
    else
      let s1 := s.setNet { s.die.net with roll := none, rollIlk := Ilk.reset }
      let s2 := (s1.setReg 0x6003C (BitVec.ofNat 32 r.g)).setFld 0x60000 2 1 0
      let s3 := s2.enter 6
      s3.releaseDomain s3.die.net.ilk.ilk

/-! ### Messages -/

/-- A message to a neighbour on the tree. -/
def State.sendIlk (s : State) (m kind : Nat) (k : IlkKind) (ilk count slow reason : Nat) : State :=
  s.sendTo m 0 (.ilk kind ilk (s.ilkSeq k) s.lce count slow reason)

/-- RELEASE goes to the children, then acts here (R328). -/
def State.doRelease (s : State) (k : IlkKind) (ilk : Nat) (iseq : Word) (slow reason : Nat) : State :=
  let s1 := s.children.foldl (fun (t : State) m => t.sendTo m 0 (.ilk 2 ilk iseq t.lce 0 slow reason)) s
  match k with
  | .domain => s1.onRelease ilk slow reason
  | .commit => s1.onCommit
  | .roll => s1.onRollRelease iseq

/-- With its own arrival and every child's, a module sends ARRIVE to its parent; the root releases once its COUNT is the domain's size (R328). -/
def State.ilkAdvance (s : State) (k : IlkKind) : State :=
  let i := s.die.net.ilkOf k
  let done := s.children.all (fun c => i.arrived.any (fun a => decide (a.child = c)))
  if i.own && !i.sentUp && done then
    let count := 1 + (i.arrived.map (·.count)).sum
    let (slow, reason) := i.last.getD (s.modid, 0)
    let s1 := s.setNet (s.die.net.setIlk k { i with sentUp := true })
    if s.isRoot then (if count = s.domainSize then s1.doRelease k i.ilk (s.ilkSeq k) slow reason else s1)
    else s1.sendIlk s.parent 1 k i.ilk count slow reason
  else s

/-- The module's own arrival at an interlock: PRESENT to the parent, its pair (R328, R329). An ARRIVE already in that bears another ILK is logged and counts as not arrived. -/
def State.ownArrival (s : State) (k : IlkKind) (ilk : Nat) : State :=
  let i := s.die.net.ilkOf k
  let bad := i.arrived.filter (fun a => decide (a.ilk ≠ ilk))
  let s0 := bad.foldl (fun (t : State) a => t.logFault 0x0507 0 0x300 (BitVec.ofNat 32 (a.ilk + t.lce * 256)) (BitVec.ofNat 64 a.iseq.toNat)) s
  let good := i.arrived.filter (fun a => decide (a.ilk = ilk))
  let s1 := s0.setNet (s0.die.net.setIlk k { i with ilk := ilk, own := true, arrived := good, last := some (s.modid, s.ownReason) })
  let s2 := if s.isRoot then s1 else s1.sendIlk s.parent 0 k ilk 0 s.modid s.ownReason
  s2.ilkAdvance k

/-- An LCE older than the module's own (R343). -/
def State.staleLce (s : State) (lce : Nat) : Bool :=
  let d := (s.lce + 65536 - lce % 65536) % 65536
  decide (1 ≤ d) && decide (d < 32768)

/-- An ARRIVE agrees with the receiver's own ILK, ISEQ and LCE (R328); in round 1 of a rollback the ISEQ is not compared (R461). -/
def State.arriveFits (s : State) (k : IlkKind) (ilk lce : Nat) (iseq : Word) : Bool :=
  let i := s.die.net.ilkOf k
  decide (lce = s.lce) && (!i.own || decide (i.ilk = ilk))
    && (match k with
        | .roll => (match s.die.net.roll with | some r => decide (r.round = 1) || decide (iseq.toNat = r.g) | none => false)
        | _ => decide (iseq = s.ilkSeq k))

/-- A PRESENT from a child (R328). -/
def State.onPresent (s : State) (child ilk lce : Nat) : State :=
  let k := s.kindOf ilk
  let i := s.die.net.ilkOf k
  if s.staleLce lce || !s.children.contains child || i.present.contains child then s
  else s.setNet (s.die.net.setIlk k { i with present := i.present ++ [child] })

/-- An ARRIVE from a child (R328, R329); one that does not fit is logged and counts as not arrived. -/
def State.onArrive (s : State) (child ilk lce count slow reason : Nat) (iseq : Word) : State :=
  let k := s.kindOf ilk
  let i := s.die.net.ilkOf k
  if s.staleLce lce || !s.children.contains child || i.arrived.any (fun a => decide (a.child = child)) then s
  else if s.arriveFits k ilk lce iseq then
    let j := { i with
      present := if i.present.contains child then i.present else i.present ++ [child]
      arrived := i.arrived ++ [⟨child, ilk, count, slow, reason, iseq⟩]
      last := some (slow, reason) }
    (s.setNet (s.die.net.setIlk k j)).ilkAdvance k
  else s.logFault 0x0507 0 0x300 (BitVec.ofNat 32 (ilk + lce * 256)) (BitVec.ofNat 64 iseq.toNat)

/-- A RELEASE from the parent (R328). A module in LINKS takes that of round 1 of a rollback as its rejoin (R465). -/
def State.onReleaseMsg (s : State) (ilk lce slow reason : Nat) (iseq : Word) : State :=
  let k := s.kindOf ilk
  let i := s.die.net.ilkOf k
  if decide (s.mstate = 4) && s.die.net.roll.isNone && decide (ilk = 0xFF) then
    (s.setNet { s.die.net with roll := some ⟨2, iseq.toNat, false, ⟨0, 0, 0⟩, 0x300⟩, rollIlk := Ilk.reset }).setReg 0x80834 (BitVec.ofNat 32 (lce % 65536))
  else if s.staleLce lce || !i.own || decide (i.ilk ≠ ilk) then s else s.doRelease k ilk iseq slow reason

/-- The number of the domain interlock at which every station of the job waits. -/
def State.postedIlk (s : State) : Option Nat :=
  match s.jobSet with
  | [] => none
  | i :: _ => match (s.stn i).iss.posted with
    | some p => if s.allPosted true p.ilk then some p.ilk else none
    | none => none

/-- MODULE_ARRIVAL (R327): every station of the job waits and the job runner has acted. -/
def execModuleArrival (s : State) : Result :=
  match s.postedIlk with
  | some ilk =>
    if s.live && !s.die.net.ilk.own && s.die.net.snap.isNone && s.die.net.roll.isNone && (s.die.net.boundary || !s.die.jobStarted) then
      let s0 := { s with die := { s.die with net := { s.die.net with arrivedAt := some s.uptime } } }
      .next ((s0.setFld 0x30000 24 4 s0.ownReason).ownArrival .domain ilk).beginCoast
    else .next s
  | none => .next s

/-- PRESENT (R328). -/
def execPresent (child ilk lce : Nat) (s : State) : Result := if s.linked then .next (s.onPresent child ilk lce) else .next s

/-- ARRIVE (R328). -/
def execArrive (child ilk lce count slow reason : Nat) (iseq : Word) (s : State) : Result :=
  if s.linked then .next (s.onArrive child ilk lce count slow reason iseq) else .next s

/-- RELEASE (R328). -/
def execRelease (ilk lce slow reason : Nat) (iseq : Word) (s : State) : Result :=
  if s.linked then .next (s.onReleaseMsg ilk lce slow reason iseq) else .next s

/-- SNAPSHOT_COPY_DONE (R340): the outgoing copy is acknowledged and the incoming one complete, and the module arrives at the commit interlock. -/
def execSnapshotCopyDone (s : State) : Result :=
  match s.die.net.snap with
  | some r => if s.live && !s.die.net.snapIlk.own && s.copiesDone r then .next (s.ownArrival .commit s.die.net.ilk.ilk) else .next s
  | none => .next s

/-- SNAP_LATE (R340, R448): LINK_SNAPDL is reached before the commit. -/
def execSnapLate (s : State) : Result :=
  match s.die.net.snap with
  | some r =>
    let dl := (s.reg 0x8081C).toNat
    if s.live && decide (dl ≠ 0) && decide (dl ≤ r.ticks) && !r.late then
      .next ((s.setNet { s.die.net with snap := some { r with late := true } }).logFault 0x0603 0 0x300 (BitVec.ofNat 32 r.gen) 0)
    else .next s
  | none => .next s

/-! ### Deadlines and notices -/

/-- The ILK of the interlock next to be passed, as far as a station of the job has posted it; otherwise a free value. Log entry 13. -/
def State.nextIlk (s : State) : Nat × State :=
  match s.jobSet.findSome? (fun i => (s.stn i).iss.posted) with
  | some p => (p.ilk, s)
  | none => let (v, t) := s.fresh; (v % 256, t)

/-- LATE_ARRIVAL raised (R332): record, counter, notice. -/
def State.raiseLate (s : State) (mod cause : Nat) : State :=
  let (ilk, s1) := s.nextIlk
  let reason := s1.ownReason
  let s2 := s1.logFault (if cause = 0 then 0x0601 else 0x0602) 0 0x300 (BitVec.ofNat 32 ilk) (BitVec.ofNat 64 (if cause = 0 then reason else mod))
  let s3 := (s2.bump 0x8083C 1).setNet { s2.die.net with
    seen := s2.die.net.seen ++ [(2, mod, (s2.iseq + 1).toNat, cause)]
    timer := { s2.die.net.timer with named := s2.die.net.timer.named ++ [mod] } }
  s3.flood none (.notice 2 mod 0 (s3.iseq + 1) ilk cause reason s3.modid)

/-- LINK_DEADLINE.TICKS. -/
def State.deadline (s : State) : Nat := (s.reg 0x80810).toNat

/-- DEADLINE_EXPIRY (R331). -/
def execDeadlineExpiry (s : State) : Result :=
  let t := s.die.net.timer
  if s.live && t.running && decide (s.deadline ≠ 0) && decide (s.deadline ≤ t.ticks) && !s.die.net.ilk.own && !t.named.contains s.modid then
    .next (s.raiseLate s.modid 0)
  else .next s

/-- A child without PRESENT that no LATE notice explains (R331). -/
def State.silentChild (s : State) : Option Nat :=
  s.children.find? (fun c => !s.die.net.ilk.present.contains c && !s.die.net.timer.named.contains c
    && !s.die.net.lateMods.any (fun m => s.inSubtree c m))

/-- NO_NOTICE_EXPIRY (R331). -/
def execNoNoticeExpiry (s : State) : Result :=
  let t := s.die.net.timer
  match s.silentChild with
  | some c =>
    if s.live && t.running && decide (s.deadline ≠ 0) && decide (s.deadline + s.deadline / 16 ≤ t.ticks) then
      let s1 := s.raiseLate c 1
      .next (s1.setNet { s1.die.net with noNotice := s1.die.net.noNotice ++ [c] })
    else .next s
  | none => .next s

/-- A LATE notice (R332): counted and flooded once. `port` is where it came in. -/
def State.onLate (s : State) (port : Option Nat) (mod ilk cause reason rep : Nat) (iseq : Word) : State :=
  if s.die.net.seen.contains (2, mod, iseq.toNat, cause) then s
  else
    let s1 := (s.bump 0x8083C 1).setNet { s.die.net with
      seen := s.die.net.seen ++ [(2, mod, iseq.toNat, cause)], lateMods := s.die.net.lateMods ++ [mod] }
    s1.flood port (.notice 2 mod 0 iseq ilk cause reason rep)

/-- LATE_NOTICE (R332). -/
def execLateNotice (p : Fin 12) (mod ilk cause reason rep : Nat) (iseq : Word) (s : State) : Result :=
  if s.linked then .next (s.onLate (some p) mod ilk cause reason rep iseq) else .next s

/-- A HALT notice (R333): timers pause while it is outstanding; it ends a coast (R375). -/
def State.onHalt (s : State) (port : Option Nat) (mod nseq : Nat) : State :=
  if s.die.net.seen.contains (0, mod, nseq, 0) then s
  else
    let s1 := (s.flood port (.notice 0 mod nseq 0 0 0 0 0))
    let s2 := s1.setNet { s1.die.net with
      seen := s1.die.net.seen ++ [(0, mod, nseq, 0)], halts := s1.die.net.halts ++ [(mod, nseq)] }
    s2.endCoast true

/-- HALT_NOTICE (R333). -/
def execHaltNotice (p : Fin 12) (mod nseq : Nat) (s : State) : Result :=
  if s.linked then .next (s.onHalt (some p) mod nseq) else .next s

/-- Every port sends what it may. -/
def State.flushAll (s : State) : State :=
  (List.range 12).foldl (fun (t : State) p => State.flushPort p ((t.port p).wait.length) t) s

/-- A RESUME notice (R326, R333, R342): the halt is over, waiting frames go on, and snapshot copies with that module start again. -/
def State.onResume (s : State) (port : Option Nat) (mod nseq : Nat) : State :=
  if s.die.net.seen.contains (1, mod, nseq, 0) then s
  else
    let s1 := s.setNet { s.die.net with
      seen := s.die.net.seen ++ [(1, mod, nseq, 0)], halts := s.die.net.halts.filter (fun h => decide (h ≠ (mod, nseq))) }
    ((s1.flood port (.notice 1 mod nseq 0 0 0 0 0)).flushAll).snapResume mod

/-- RESUME_NOTICE (R333). -/
def execResumeNotice (p : Fin 12) (mod nseq : Nat) (s : State) : Result :=
  if s.linked then .next (s.onResume (some p) mod nseq) else .next s

/-- HALT_ALLOWANCE_EXPIRY (R333). -/
def execHaltAllowanceExpiry (s : State) : Result :=
  if s.linked && !s.die.net.halts.isEmpty && decide (fld (s.reg 0x80814) 0 24 * 4000 ≤ s.die.net.paused) then
    .next (s.setNet { s.die.net with allowOver := true })
  else .next s

end Sys2Proof.Machine
end

