-- ==== Sys2Proof/Machine/Collectives.lean ====
section
/-! DEFINITION. Collectives over slots: REDUCE with SCOPE 1, the combining and distributing of images, results (R132, R334 to R338). -/
namespace Sys2Proof.Machine

/-! ### Members (R334) -/

/-- The coordinate of the root member. -/
def State.collRoot (s : State) (c : CollDef) (d : Nat) : Nat := s.memberAt c d (c.root.getD d 0)

/-- Steps round a ring of `n` from `a` to `b` one way. -/
def ringDist (n a b : Nat) (plus : Bool) : Nat := if plus then (b + n - a % n) % n else (a + n - b % n) % n

/-- The member coordinate to which the image of member coordinate `x` flows: the next member on its shorter way to the root (R337). -/
def State.downstream (s : State) (c : CollDef) (d x : Nat) : Option Nat :=
  let n := s.dim d
  match ringWay n x (s.collRoot c d) with
  | none => none
  | some w =>
    let far := ringDist n x (s.collRoot c d) w
    let cands := ((List.range (c.count.getD d 1)).map (s.memberAt c d)).filter (fun y =>
      decide (y ≠ x) && decide (ringDist n x y w ≤ far))
    cands.argmin (fun y => ringDist n x y w)

/-- The module with coordinate `x` in dimension `d` and this module's elsewhere. -/
def State.modWith (s : State) (d x : Nat) : Nat := s.modAt (fun e => if e = d then x else s.coordOf s.modid e)

/-- The members whose images flow to this module in dimension `d`. -/
def State.upstream (s : State) (c : CollDef) (d : Nat) : List Nat :=
  let me := s.coordOf s.modid d
  (((List.range (c.count.getD d 1)).map (s.memberAt c d)).filter (fun y => decide (s.downstream c d y = some me))).map (s.modWith d)

/-- This module is at the root's coordinate in dimension `d`. -/
def State.atRoot (s : State) (c : CollDef) (d : Nat) : Bool := decide (s.coordOf s.modid d = s.collRoot c d)

/-! ### Images -/

/-- A contribution combined into an image (R156, R162, R337). -/
def combine (a : Slot) (adds : List Contrib) (range : Bool) : Slot :=
  let b := adds.foldl (fun u k => u.addOne k) a
  { b with range := b.range || range }

/-- Two images combined. -/
def combineImages (a b : Slot) (mext next : Nat) : Slot := combine a (reduceAdds b 0 mext next) b.range

/-- Line of the image of an extent that holds entry (m, n): two of metadata come first (R299). -/
def entryLine (next m n : Nat) : Nat := 2 + m * ((next + 7) / 8) + n / 8

/-- The part of an image in the 8 lines from `part` on; the metadata goes with its first line (R316). -/
def imagePart (a : Slot) (next part : Nat) : Slot :=
  let ents := a.ent.filter (fun e => decide (part ≤ entryLine next (e.1 / 64) (e.1 % 64)) && decide (entryLine next (e.1 / 64) (e.1 % 64) < part + 8))
  if part = 0 then { a with ent := ents } else { Slot.clear with ent := ents }

/-- Parts of an image put together. -/
def joinImages (a b : Slot) : Slot :=
  let c := if a.ra.isEmpty && a.cw.isEmpty && !a.range then { b with ent := a.ent } else a
  { c with ent := b.ent.foldl (fun m e => mset entry0 m e.1 e.2) a.ent }

/-- An image sent to a module, in frames of 8 lines that alternate between the siblings (R316, R324). -/
def State.sendImage (s : State) (m cid k phase mext next : Nat) (a : Slot) : State :=
  (List.range ((imageLines mext next + 7) / 8)).foldl (fun (t : State) p =>
    t.sendTo m p (.coll cid k phase (8 * p) mext next (imagePart a next (8 * p)))) s

/-- An instance, found or new. -/
def Net.inst (n : Net) (c k : Nat) : CollInst :=
  (n.insts.find? (fun i => decide (i.coll = c) && decide (i.inst = k))).getD ⟨c, k, 0, 0, [], [], none, false, false, none, []⟩

/-- An instance put back. -/
def Net.putInst (n : Net) (i : CollInst) : Net :=
  { n with insts := n.insts.filter (fun j => !(decide (j.coll = i.coll) && decide (j.inst = i.inst))) ++ [i] }

/-- An instance replaced in the state. -/
def State.putInst (s : State) (i : CollInst) : State := s.setNet (s.die.net.putInst i)

/-- The image of a slot's contribution alone. -/
def imageOfTile (t : Tile) : Slot := combine Slot.clear (t.adds.map (fun a => { a with slot := 0 })) t.range

/-- The stations whose REDUCE the instance awaits on this module (R335). -/
def State.contributors (s : State) (c : CollDef) : List Nat :=
  if s.solo then (List.range 128).filter (fun i => bitAt c.smask i) else [c.stn]

/-- In solo mode and in the torus: this module is the root member. -/
def State.rootMember (s : State) (c : CollDef) : Bool := s.solo || (List.range 3).all (fun d => s.atRoot c d)

/-- The result of an instance goes on along z, y and x (R337); `d` dimensions are still to be served. -/
def State.distribute (s : State) (c : CollDef) (i : CollInst) (r : Slot) : Nat → State
  | 0 => s
  | d + 1 =>
    let t := s.distribute c i r d
    if s.solo then t
    else (s.upstream c d).foldl (fun (u : State) m => u.sendImage m i.coll i.inst 1 i.mext i.next r) t

/-- The result is known here (R337). -/
def State.setResult (s : State) (i : CollInst) (r : Slot) : State := s.putInst { i with result := some r, sent := true }

/-- Every contribution of this module to a combining instance is in. -/
def State.ownIn (s : State) (c : CollDef) (i : CollInst) : Bool :=
  (s.contributors c).all (fun st => i.own.any (fun o => decide (o.1 = st)))

/-- The first dimension whose images are not all in, or in which this module passes its image on; `none` at the root with everything in (R337). -/
def State.combineAt (s : State) (c : CollDef) (i : CollInst) : Option (Nat × Bool) :=
  (List.range 3).findSome? (fun d =>
    if s.solo || decide (c.count.getD d 1 = 1) then none
    else if !(s.upstream c d).all (fun m => i.images.any (fun g => decide (g.1 = m))) then some (d, false)
    else if s.atRoot c d then none else some (d, true))

/-- The images received combined with this module's own (R337). -/
def CollInst.total (i : CollInst) : Slot :=
  i.images.foldl (fun a g => combineImages a g.2.2 i.mext i.next) (i.acc.getD Slot.clear)

/-- A combining instance moves on when everything due here is in: to the next member, or at the root to its result (R337). -/
def State.collAdvance (s : State) (cid k : Nat) : State :=
  let c := s.coll cid
  let i := s.die.net.inst cid k
  if c.kind = 3 || i.sent || i.bad || !s.ownIn c i then s
  else match s.combineAt c i with
    | some (_, false) => s
    | some (d, true) =>
      let s1 := s.putInst { i with sent := true }
      match s.downstream c d (s.coordOf s.modid d) with
      | some x => s1.sendImage (s.modWith d x) cid k 0 i.mext i.next i.total
      | none => s1
    | none =>
      let r := i.total
      let s1 := s.setResult i r
      if c.kind = 1 then s1.distribute c i r 3 else s1

/-- An instance with nothing left to do here is dropped. -/
def State.collTidy (s : State) (cid k : Nat) : State :=
  let c := s.coll cid
  let i := s.die.net.inst cid k
  if i.bad || (i.sent && i.due.isEmpty && s.ownIn c i && (i.result.isSome || decide (c.kind = 2))) then
    s.setNet { s.die.net with insts := s.die.net.insts.filter (fun j => !(decide (j.coll = cid) && decide (j.inst = k))) }
  else s

/-! ### REDUCE with SCOPE 1 -/

/-- The station's count of REDUCEs on a collective. -/
def instKey (c st : Nat) : Nat := c * 128 + st

/-- The instance that the next REDUCE of a station on a collective joins (R336). -/
def State.nextInst (s : State) (c st : Nat) : Nat := mget (fun _ => (0 : Nat)) s.die.net.instNext (instKey c st)

/-- The limits of R336 let the REDUCE join. -/
def State.collRoom (s : State) (c k : Nat) : Bool :=
  let is := s.die.net.insts
  is.any (fun i => decide (i.coll = c) && decide (i.inst = k))
    || (decide (is.length < 64) && decide ((is.filter (fun i => decide (i.coll = c))).length < 4))

/-- The service reads the slot: the contribution joins its instance (R132, R335 to R337). -/
def State.joinColl (s : State) (i : Nat) (f : Flight) : State :=
  let w := f.word
  let cid := fld w 62 8
  let c := s.coll cid
  let k := s.nextInst cid i
  let slot := fld w 20 6
  let j := s.die.net.inst cid k
  let first := j.own.isEmpty && j.images.isEmpty && j.result.isNone
  let clash := !first && (decide (j.mext ≠ mextOf w) || decide (j.next ≠ nextOf w))
  let reads := decide (c.kind ≠ 3) || (if s.solo then decide (i = c.stn) else s.rootMember c)
  let img := imageOfTile (collTile (s.stn i) i f)
  let takes := decide (c.kind = 1) || decide (c.kind = 3) || (if s.solo then decide (i = c.stn) else s.rootMember c)
  let j1 := { j with
    mext := if first then mextOf w else j.mext
    next := if first then nextOf w else j.next
    own := j.own ++ [(i, slot)]
    bad := j.bad || clash
    acc := if reads then some (match j.acc with | some a => combineImages a img (mextOf w) (nextOf w) | none => img) else j.acc
    due := if takes then j.due ++ [(i, slot)] else j.due }
  let n := { s.die.net with instNext := mset (fun _ => (0 : Nat)) s.die.net.instNext (instKey cid i) (k + 1) }
  let s1 := (s.setNet n).putInst j1
  let s2 := s1.setStn i ((s1.stn i).complete f.seq)
  let s3 := if clash then s2.logFault 0x0508 0 0x300 (BitVec.ofNat 32 cid) (BitVec.ofNat 64 k) else s2
  let s4 :=
    if c.kind = 3 && reads && !j1.bad then
      match j1.acc with
      | some r => (s3.setResult j1 r).distribute c j1 r 3
      | none => s3
    else s3.collAdvance cid k
  s4.collTidy cid k

/-! ### COLL frames and results -/

/-- A COLL frame's image (R337): a partial image is kept until it is combined, a result is taken and passed on. -/
def State.onColl (s : State) (smod cid k phase mext next : Nat) (img : Slot) : State :=
  let c := s.coll cid
  let i := s.die.net.inst cid k
  let first := i.own.isEmpty && i.images.isEmpty && i.result.isNone
  let clash := !first && (decide (i.mext ≠ mext) || decide (i.next ≠ next))
  if clash then
    ((s.putInst { i with bad := true }).logFault 0x0508 0 0x300 (BitVec.ofNat 32 cid) (BitVec.ofNat 64 k)).collTidy cid k
  else
    let i1 := { i with mext := mext, next := next }
    if phase = 0 then ((s.putInst { i1 with images := i1.images ++ [(smod, 0, img)] }).collAdvance cid k).collTidy cid k
    else
      let dim := ((List.range 3).find? (fun d => decide (s.coordOf smod d ≠ s.coordOf s.modid d))).getD 0
      ((s.setResult i1 img).distribute c i1 img (dim + 1)).collTidy cid k

/-- Two COLL frames bring parts of one image. -/
def sameImage (a b : CollPart) : Bool :=
  decide (a.smod = b.smod) && decide (a.coll = b.coll) && decide (a.inst = b.inst) && decide (a.phase = b.phase)

/-- Every line of the image of a COLL frame has come. -/
def Net.imageIn (n : Net) (a : CollPart) : Bool :=
  (List.range ((imageLines a.mext a.next + 7) / 8)).all (fun p => n.parts.any (fun b => sameImage a b && decide (b.part = 8 * p)))

/-- Complete images for which the limits of R336 leave room are acted on, one after another. -/
def State.feedParts (s : State) : Nat → State
  | 0 => s
  | n + 1 =>
    let s := s.feedParts n
    match s.die.net.parts.find? (fun a => s.die.net.imageIn a && s.collRoom a.coll a.inst) with
    | none => s
    | some a =>
      let mine := s.die.net.parts.filter (sameImage a)
      let img := mine.foldl (fun u b => joinImages u b.image) Slot.clear
      (s.setNet { s.die.net with parts := s.die.net.parts.filter (fun b => !sameImage a b) }).onColl a.smod a.coll a.inst a.phase a.mext a.next img

/-- A COLL frame (R316, R337): its lines are kept until the image is whole and has room. -/
def State.onPart (s : State) (a : CollPart) : State :=
  (s.setNet { s.die.net with parts := s.die.net.parts.filter (fun b => !(sameImage a b && decide (a.part = b.part))) ++ [a] }).feedParts 64

/-! ### REDUCE -/

/-- REDUCE (R130, R132, R336). One that has not started when a halt begins waits (R386). -/
def execReduce (i : Stn) (s : State) : Result :=
  match s.accHead i 0x13 with
  | some f =>
    if !s.live then .next s
    else if bitAt f.word 61 then
      (if s.collRoom (fld f.word 62 8) (s.nextInst (fld f.word 62 8) i) then .next ((s.joinColl i f).feedParts 64) else .next s)
    else .next (s.runReduce i f)
  | none => .next s

/-! ### Results -/

/-- COLL (R336, R337). -/
def execColl (smod cid k phase mext next : Nat) (img : Slot) (s : State) : Result :=
  if s.linked && s.collRoom cid k then .next (s.onColl smod cid k phase mext next img) else .next s

/-- The result of an instance as it enters the arrival buffer (R338). -/
def resultTile (c : CollDef) (i : CollInst) (slot : Nat) (r : Slot) : Tile :=
  { seq := none, src := 0, txn := 0, slots := [slot], amode := 1, chain := 0, zero := extent slot i.mext i.next
    adds := (reduceAdds r 0 i.mext i.next).map (fun a => { a with slot := slot }), range := r.range, write := true, rtok := some c.rtok, guard := none }

/-- A result due at a station moves into its arrival buffer; a sleeping station is asked to wake (R107, R338). -/
def State.feedResult (s : State) (st : Nat) : State :=
  match s.die.net.insts.find? (fun i => i.result.isSome && i.due.any (fun d => decide (d.1 = st))) with
  | none => s
  | some i =>
    let x := s.stn st
    if x.ctl.run = .asleep ∨ x.ctl.run = .waking then s.requestWake st
    else if !x.arriveRoom then s
    else match i.due.find? (fun d => decide (d.1 = st)), i.result with
      | some d, some r =>
        let s1 := s.setStn st { x with arrive := x.arrive ++ [resultTile (s.coll i.coll) i d.2 r] }
        (s1.putInst { i with due := i.due.erase d }).collTidy i.coll i.inst
      | _, _ => s

/-- COLLECTIVE_RESULT_WRITE (R338): a result enters the arrival buffer, and at its head it is written once R98 lets it; RTOK follows. -/
def execCollectiveResultWrite (i : Stn) (s : State) : Result :=
  if s.live then
    let s1 := s.feedResult i
    .next ((if s1.adds i then s1.addArrived i true else s1).feedParts 64)
  else .next s

end Sys2Proof.Machine
end

