-- ==== Sys2Proof/Machine/Clear.lean ====
section
/-! DEFINITION. Line clear, retirement and the rollback of the domain (R343, R449, R460 to R465). -/
namespace Sys2Proof.Machine

/-! ### Sessions -/

/-- The address of a word of a session descriptor (R229). -/
def sessAddr (i k : Nat) : Nat := 0x400000 + 64 * i + 4 * k

/-- STATE of a session. -/
def State.sessState (s : State) (i : Nat) : Nat := fld (s.reg (sessAddr i 0)) 0 8

/-- STATE and BERTH of a session written. -/
def State.sessMove (s : State) (i st berth : Nat) : State :=
  (s.setFld (sessAddr i 0) 0 8 st).setFld (sessAddr i 0) 8 8 berth

/-- The session in a berth. -/
def State.berthOf (s : State) (b : Nat) : Option Nat := mget (fun _ => (none : Option Nat)) s.die.sess.berths b

/-- A berth filled or emptied. -/
def State.setBerth (s : State) (b : Nat) (v : Option Nat) : State :=
  { s with die := { s.die with sess := { s.die.sess with berths := mset (fun _ => (none : Option Nat)) s.die.sess.berths b v } } }

/-- BERTHED sessions become READY with their READYSEQ (R230, R343). -/
def State.unberth (s : State) : State :=
  s.die.sess.berths.foldl (fun (t : State) p =>
    match p.2 with
    | some i => (t.sessMove i 2 0).setBerth p.1 none
    | none => t) s

/-! ### Line clear -/

/-- A station after a line clear: STOPPED, nothing queued, in flight or waiting, no token, an empty ledger; storage and registers kept (R343). -/
def Station.cleared (x : Station) : Station :=
  { x with
    ctl := ⟨.stopped, false, false, false, false, false, false, false, false⟩
    iss := { x.iss with
      queue := []
      flight := []
      fifo := []
      posted := none
      stagger := false }
    tokens := 0
    redq := []
    arrive := []
    routerHeld := x.routerHeld.filter (fun (f : Flit) => match f.body with | .bar2 _ _ _ => true | _ => false)
    ledger := { x.ledger with entries := [], next := 0, replay := false, rpos := 0, rguard := 0 }
    disp := []
    nextRestart := []
    xopen := []
    toReload := []
    toFault := []
    step4 := false
    got := [] }

/-- The line clear effects on every station. -/
def State.clearStations (s : State) : State :=
  s.die.stns.foldl (fun (t : State) p => t.setStn p.1 (t.stn p.1).cleared) s

/-- Ticket counters VAL 0 and LIMIT 0 (R343). -/
def State.clearTickets (s : State) : State :=
  (List.range 64).foldl (fun (t : State) c => (t.setReg (0x208000 + 0x10 * c) 0).setReg (0x208004 + 0x10 * c) 0) s

/-- Expert queue dispatches cleared: each queue opens its first dispatch with the registers as they stand. -/
def State.clearQueues (s : State) : State :=
  s.die.xqs.foldl (fun (t : State) p => t.setXq p.1 { XQueue.reset with cfg := t.xqRegs p.1 }) s

/-- Open interlocks, the timer and collective instances cleared. -/
def Net.cleared (n : Net) : Net :=
  { n with
    ilk := Ilk.reset
    arrivedAt := none
    timer := ⟨0, false, []⟩
    paused := 0
    lateMods := []
    insts := []
    instNext := []
    snapIlk := Ilk.reset
    rollIlk := Ilk.reset
    roll := none
    snap := none
    allowOver := false
    boundary := false
    noNotice := []
    parts := []
    snapGot := [] }

/-- The line clear effects of R343 with the new epoch; a coast ends (R375). -/
def State.lineClear (s : State) (lce : Nat) : State :=
  let s1 := s.clearStations.clearTickets.clearQueues.unberth
  let s2 := { s1.setNet s1.die.net.cleared with snapOut := none }
  let s3 := { s2 with die := { s2.die with mesh := [], wakeQ := [] } }
  ((s3.setReg 0x80830 0).setReg 0x80834 (BitVec.ofNat 32 (lce % 65536))).endCoast false

/-- The rollback that follows a line clear begins with round 1 (R461). -/
def State.beginRoll (s : State) (w : FaultInfo) (unit : Nat) : State :=
  let s1 := s.setNet { s.die.net with roll := some ⟨1, 0, false, w, unit⟩, rollIlk := Ilk.reset }
  (s1.setFld 0x60000 2 1 1).setFld 0x60000 3 1 0

/-- A module acts on a line clear: the effects, then the rollback or WAITROLL (R343, R460). -/
def State.actClear (s : State) (lce : Nat) (w : FaultInfo) (unit : Nat) : State :=
  let s1 := s.lineClear lce
  if bitAt (s1.reg 0x60004) 0 then s1.beginRoll w unit
  else (s1.setFld 0x60000 2 1 0).setFld 0x60000 3 1 1

/-- This module starts a line clear: it floods CLEAR with the next epoch and acts (R343). -/
def State.startClear (s : State) (w : FaultInfo) (unit : Nat) : State :=
  let e := (s.lce + 1) % 65536
  (s.flood none (.notice 3 s.modid e 0 0 0 0 0)).actClear e w unit

/-- A CLEAR notice: newer epochs only, forwarded once (R343). -/
def State.onClear (s : State) (port : Option Nat) (mod e : Nat) : State :=
  let d := (e + 65536 - s.lce) % 65536
  if decide (1 ≤ d) && decide (d < 32768) then
    (s.flood port (.notice 3 mod e 0 0 0 0 0)).actClear (e % 65536) ⟨0, 0, 0⟩ 0x300
  else s

/-- CLEAR_NOTICE (R343). -/
def execClearNotice (p : Fin 12) (mod e : Nat) (s : State) : Result :=
  if s.linked then .next (s.onClear (some p) mod e) else .next s

/-! ### Step 5 and retirement -/

/-- A ladder step makes RECOVERY the reason of the interval (R329, R449). -/
def State.recovery (s : State) : State := s.setNet { s.die.net with recovered := true }

/-- Step 5 taken: counted, recorded, the line clear started (R449, R460). -/
def State.takeStep5 (s : State) (w : FaultInfo) (unit : Nat) : State :=
  ((s.ladder w.code 5 unit w.d0 w.d1).recovery).startClear w unit

/-- RETIRED reads 1. -/
def State.isRetired (s : State) : Bool := bitAt (s.reg 0x60000) 0

/-- Retirement: RETIRED, the record of step 6 and its counter, then step 5 (R460, R464). -/
def State.retire (s : State) (w : FaultInfo) (unit : Nat) : State :=
  if s.isRetired then s
  else
    let s1 := ((s.setFld 0x60000 0 1 1).bump 0x60034 1).logFault w.code 6 unit w.d0 w.d1
    s1.takeStep5 w unit

/-- Ticks of 24 h (R454, R464). -/
def day : Nat := 345600000000

/-- Step 5 reached; `own` says that a fault of this module's own leads to it, which retires the module the second time within 24 h (R464). -/
def State.step5 (s : State) (w : FaultInfo) (unit : Nat) (own : Bool) : State :=
  if own then
    let recent := s.ownSteps.any (fun t => decide (s.uptime - t < day))
    let s1 := { s with ownSteps := s.ownSteps ++ [s.uptime] }
    if recent && !s1.isRetired then s1.retire w unit else s1.takeStep5 w unit
  else s.takeStep5 w unit

/-! ### The two rounds -/

/-- The registers that restoring an image leaves as they are: the state and peer of each port, LINK_SNAPGEN, LINK_LCE, the state of the PCIe link. Log entry 30. -/
def liveReg (a : Nat) : Bool :=
  (decide (0x80000 ≤ a) && decide (a < 0x8C000) && (decide (a % 0x1000 = 0) || decide (a % 0x1000 = 8)))
    || a == 0x80824 || a == 0x80834 || a == 0x54008

/-- A register map with the live registers of another. -/
def mergeRegs (image now : SMap Word) : SMap Word :=
  now.foldl (fun m p => if liveReg p.1 then mset regReset m p.1 p.2 else m) (image.filter (fun p => !liveReg p.1))

/-- Memory cells with the ranges taken from an image (R340, R461). -/
def mergeCells (now image : SMap Byte) (rs : List (Nat × Nat)) : SMap Byte :=
  image.foldl (fun m c => mset byte0 m c.1 c.2)
    (now.filter (fun c => !rs.any (fun r => decide (r.1 ≤ c.1) && decide (c.1 < r.1 + r.2))))

/-- Correction sums recomputed from the rows (R72, R388). -/
def Station.resum (x : Station) : Station :=
  { x with banks := x.banks.map (fun p =>
      let c : Bank := p.2.withSums
      (p.1, { p.2 with sumw := c.sumw, qsum := c.qsum, rsum := c.rsum })) }

/-- The image of generation G restored: die state, golden copy, listed ranges; LINK_ISEQ becomes G and VALID is set (R294, R461). -/
def State.restoreImage (s : State) (i : Snapshot) (r : Roll) : State :=
  let rs := s.goldenRange :: s.userRanges
  let net := { s.die.net with
    ilk := i.die.net.ilk
    instNext := i.die.net.instNext
    insts := i.die.net.insts
    roll := some { r with restored := true } }
  let die := { i.die with
    reg := mergeRegs i.die.reg s.die.reg
    stns := i.die.stns.map (fun p => (p.1, p.2.resum))
    net := net
    pcie := s.die.pcie
    links := s.die.links
    eids := s.die.eids }
  let s1 := { s with
    die := die
    lpddr := mergeCells s.lpddr (i.golden ++ i.user) rs
    poison := s.poison.filter (fun l => !rs.any (fun q => decide (q.1 ≤ l * 64) && decide (l * 64 < q.1 + q.2))) }
  (s1.setReg 0x80830 (BitVec.ofNat 32 r.g)).setGolden true

/-- The record of a job restart (R461): the code of the fault that called for the rollback here, or a free value where there was none. -/
def State.logRestart (s : State) (r : Roll) : State :=
  if r.why.code = 0 then
    let (c, t) := s.fresh
    t.logFault (c % 65536) 7 r.unit 0 0
  else s.logFault r.why.code 7 r.unit r.why.d0 r.why.d1

/-- G is 0: the job runner starts the job again by JOB_START, once VALID is 1 (R294, R461). -/
def State.restartJob (s : State) (r : Roll) : State :=
  let s1 := s.setNet { s.die.net with roll := none, rollIlk := Ilk.reset }
  let s2 := ((s1.setReg 0x6003C 0).setFld 0x60000 2 1 0).bump 0x60038 1
  let t := s2.logRestart r
  let s3 := { t with die := { t.die with job := ⟨0, 0, false⟩, jobStarted := false } }
  if bitAt (s3.reg 0x1001C) 0 && decide (s3.mstate = 6) then s3 else s3.enter 5

/-- Round 2 at this module (R461, R464): a retired module serves its region and becomes RELEASABLE; any other restores generation G, or starts the job again. -/
def State.roundTwo (s : State) (r : Roll) : State :=
  if s.isRetired then s.setFld 0x60000 1 1 1
  else if r.g = 0 then s.restartJob r
  else match s.snaps.find? (fun (i : Snapshot) => decide (i.gen = r.g)) with
    | some i => s.restoreImage i r
    | none => s

/-- The next station with an instruction that waits for step 5. -/
def State.climbing (s : State) : Option (Nat × Flight) :=
  s.die.stns.findSome? (fun p => (p.2.iss.flight.find? (fun f => decide (f.stage = .recover 5))).map (fun f => (p.1, f)))

/-- A module that came up with LOST or TRIP set takes step 5 once it is in LINKS (R460), or in READY in solo mode, which passes LINKS over: DEDUCED, log entry 56. -/
def State.cameUpLost (s : State) : Bool :=
  (bitAt (s.reg 0x10000) 7 || bitAt (s.reg 0x10000) 8) && s.die.net.roll.isNone && !bitAt (s.reg 0x60000) 3
    && (decide (s.mstate = 4) || (s.solo && decide (s.mstate = 5) && s.die.job.noStart))

/-- ROLLBACK (R460, R461): step 5 begins where an instruction or a lost state calls for it, and a rollback in progress does what its round asks of this module. -/
def execRollback (s : State) : Result :=
  if s.linked then
    match s.climbing with
    | some (i, f) => .next (s.step5 f.why i true)
    | none =>
      if s.cameUpLost then
        .next (s.step5 ⟨if bitAt (s.reg 0x10000) 8 then 0x0407 else 0x040D, 0, 0⟩ 0x300 true)
      else match s.die.net.roll with
        | none => .next s
        | some r =>
          if s.die.net.rollIlk.own then .next s
          else if r.round = 1 then .next (s.ownArrival .roll 0xFF)
          else if r.restored then .next (s.ownArrival .roll 0xFF)
          else .next (s.roundTwo r)
  else .next s

/-- NO_NOTICE_ROLLBACK_EXPIRY (R460): the timer reaches twice the deadline and a child named under LATE_NO_NOTICE is still silent. -/
def execNoNoticeRollbackExpiry (s : State) : Result :=
  let t := s.die.net.timer
  match s.die.net.noNotice.find? (fun c => !s.die.net.ilk.present.contains c) with
  | some c =>
    if s.live && t.running && decide (s.deadline ≠ 0) && decide (2 * s.deadline ≤ t.ticks) then
      let (ilk, s1) := s.nextIlk
      .next (s1.step5 ⟨0x0602, BitVec.ofNat 32 ilk, BitVec.ofNat 64 c⟩ 0x300 false)
    else .next s
  | none => .next s

end Sys2Proof.Machine
end

