-- ==== Sys2Proof/Machine/Ladder.lean ====
section
/-! DEFINITION. Steps 1 to 4 of the recovery ladder and the scrub (R449 to R459, R466). -/
namespace Sys2Proof.Machine

/-! ### Replay -/

/-- The earliest instruction that waits for a step of the ladder (R466). -/
def Station.climber (x : Station) : Option Flight :=
  x.iss.flight.find? (fun f => match f.stage with | .recover _ => true | _ => false)

/-- A replay is running in the station (R450, R466). -/
def Station.replaying (x : Station) : Bool :=
  x.iss.flight.any (fun f => decide (0 < f.attempts) && (match f.stage with | .recover _ => false | _ => true))

/-- The instruction at step `n`, when no replay runs. -/
def State.atStep (s : State) (i n : Nat) : Option Flight :=
  match (s.stn i).climber with
  | some f => if s.live && decide (f.stage = .recover n) && !(s.stn i).replaying then some f else none
  | none => none

/-- The golden line of a failed instruction still awaits its rebuild (R451). -/
def State.awaitsRebuild (s : State) (f : Flight) : Bool :=
  match f.ueLine with
  | some l => decide (s.region (l * 64) = .golden) && s.poison.contains l
  | none => false

/-- The instruction re-executed from its inputs by its unit (R450). -/
def State.rerun (s : State) (i : Nat) (f : Flight) (o : Obs) : State :=
  match opc f.word with
  | 0x01 => s.runPass i f o
  | 0x02 => s.runPass i f o
  | 0x03 => s.runWload i f o
  | 0x08 => s.runLd i f [i] o
  | 0x09 => s.runSt i f o
  | 0x0A => s.runLd i f f.cap.dests o
  | 0x20 => s.runConsist i f o
  | 0x40 => s.redispatch i f
  | 0x41 => s.setFlight i { f with stage := .sent }
  | _ => s.setFlight i f

/-- One replay: counted in the module and the station, recorded under step 1, and run, a mover's from its first line (R449, R450). A DISPATCH keeps what its queues have accepted. -/
def State.replay (s : State) (i : Nat) (f : Flight) (o : Obs) : State :=
  let g := { f with
    stage := .issued
    attempts := f.attempts + 1
    prevFails := f.fails
    fails := 0
    tile := none
    moved := 0
    skipped := []
    acks := if opc f.word = 0x40 then f.acks else 0 }
  let s1 := ((s.ladder f.why.code 1 i f.why.d0 f.why.d1).pbump i 0x158 1).recovery
  (s1.setFlight i g).rerun i g o

/-- TILE_REPLAY (R449 to R451). -/
def execTileReplay (i : Stn) (o : Obs) (s : State) : Result :=
  match s.atStep i 1 with
  | some f => if s.awaitsRebuild f then .next s else .next (s.replay i f o)
  | none => .next s

/-! ### Reload -/

/-- The bank that a golden slot describes, as a WLOAD of it would leave it (R72, R120, R453). -/
def State.goldenBank (s : State) (i m k : Nat) : Bank :=
  let d := s.slotDesc i m k
  let pm : SMap Byte := wrBytes pmTop [] 0 (s.memBytes (s.slotLine i m k * 64) 0x12C0)
  bankAt pm ((s.stn i).bank m k) 0 0x1040 d.wfmt d.sparse d.kext d.next

/-- The credits that the reload of a bank draws (R350). -/
def State.reloadCost (s : State) (i m k : Nat) : Nat := bankCredits (s.goldenBank i m k)

/-- A reload noted for the limit of R454. -/
def State.noteReload (s : State) (i m : Nat) : State :=
  let x := s.stn i
  let old := mget (fun _ => ([] : List Nat)) x.reloads m
  s.setStn i { x with reloads := mset (fun _ => ([] : List Nat)) x.reloads m (old ++ [s.uptime]) }

/-- Step 2 taken for bank `k` of macro `m` (R449, R453): counted, recorded, the reload made. -/
def State.stepTwo (s : State) (i m k : Nat) (w : FaultInfo) (found : Option Nat) (ce : List Nat) : State × Bool :=
  let s1 := (s.ladder w.code 2 i w.d0 w.d1).recovery
  let (s2, ok) := s1.reload i m k m k found ce
  (if ok then s2.noteReload i m else s2, ok)

/-- The reloads that a failed instruction waits for, the first of them made; the instruction owes what the account does not hold of its credits (R350, R451). -/
def State.reloadFor (s : State) (i : Nat) (f : Flight) (found : Option Nat) (ce : List Nat) : State :=
  match f.toReload with
  | [] => s.setFlight i { f with stage := .recover 1 }
  | m :: r =>
    let (s1, ok) := s.stepTwo i m (bankOf f.word) f.why found ce
    if ok then s1.draw i (s.reloadCost i m (bankOf f.word))
      { f with toReload := r, reloaded := f.reloaded ++ [m], stage := .recover (if r.isEmpty then 1 else 2) }
    else s1.setFlight i { f with stage := .recover 5, why := goldenWhy s i m (bankOf f.word) }

/-- The reload of a bank that a scrub found wrong: it draws its credits, and is made once it has them all (R350, R351, R453). -/
def State.reloadBank (s : State) (i m k : Nat) (w : FaultInfo) (paid : Nat) (r : List (Nat × Nat × FaultInfo × Nat)) (found : Option Nat) (ce : List Nat) : State :=
  let x := s.stn i
  let need := s.reloadCost i m k - paid
  let pay := min x.iss.account need
  let y : Station := { x with iss := { x.iss with account := x.iss.account - pay, spent := x.iss.spent + pay } }
  if pay < need then s.setStn i { y with toReload := (m, k, w, paid + pay) :: r }
  else
    let (s1, ok) := (s.setStn i { y with toReload := r }).stepTwo i m k w found ce
    if ok then s1 else s1.step5 (goldenWhy s i m k) i true

/-- MACRO_RELOAD (R453): for the instruction at step 2, else for a bank that a scrub found wrong. `found` says which lines of the golden slot the read finds bad. -/
def execMacroReload (i : Stn) (found : SlotRead) (s : State) : Result :=
  match s.atStep i 2 with
  | some f => .next (s.reloadFor i f found.ue found.ce)
  | none =>
    let x := s.stn i
    match x.toReload with
    | [] => .next s
    | (m, k, w, paid) :: r =>
      if s.live && x.climber.isNone && !x.replaying then .next (s.reloadBank i m k w paid r found.ue found.ce) else .next s

/-! ### Route around -/

/-- STN_DETOUR: EN, detour macro, detour bank (R455). -/
def State.detourOf (s : State) (i : Nat) : Bool × Nat × Nat :=
  let d := s.preg i 0x164
  (bitAt d 0, fld d 1 6, fld d 7 2)

/-- R455 lets a macro be routed around. -/
def State.canRoute (s : State) (i m : Nat) : Bool :=
  let (en, d, _) := s.detourOf i
  let faulty := s.faultBits i
  en && bitAt (s.workOf i) d && !bitAt faulty d && decide (d ≠ m) && !bitAt (s.workOf i) m
    && decide (((List.range 64).filter (fun k => bitAt faulty k)).length < 8)

/-- A bit of STN_MACRO_FAULT set. -/
def State.setFaulty (s : State) (i m : Nat) : State :=
  s.setFld (pageBase i + (if m < 32 then 0x15C else 0x160)) (m % 32) 1 1

/-- A macro becomes faulted (R454, R455): MACRO_FAULTED, then step 3, or retirement. -/
def State.faultMacro (s : State) (i m : Nat) : State :=
  let (_, d, db) := s.detourOf i
  let w : FaultInfo := ⟨0x0106, BitVec.ofNat 32 m, BitVec.ofNat 64 (d + db * 256)⟩
  let s1 := s.logFault w.code 0 i w.d0 w.d1
  if s.canRoute i m then ((s1.ladder w.code 3 i w.d0 w.d1).recovery).setFaulty i m
  else s1.retire w i

/-- ROUTE_AROUND (R454, R455): for the instruction at step 3, else for a macro that a scrub sent there. -/
def execRouteAround (i : Stn) (s : State) : Result :=
  match s.atStep i 3 with
  | some f =>
    match f.toFault with
    | [] => .next (s.setFlight i { f with stage := .recover (if f.toReload.isEmpty then 1 else 2) })
    | m :: r =>
      let stage : Stage := if r.isEmpty then .recover (if f.toReload.isEmpty then 1 else 2) else .recover 3
      .next ((s.setFlight i { f with toFault := r, stage := stage }).faultMacro i m)
  | none =>
    let x := s.stn i
    match x.toFault with
    | [] => .next s
    | m :: r =>
      if s.live && x.climber.isNone && !x.replaying then .next ((s.setStn i { x with toFault := r }).faultMacro i m) else .next s

/-! ### Station restart -/

/-- The restart of a station is refused (R459). -/
def State.unreplayable (s : State) (i : Nat) : Bool :=
  let x := s.stn i
  !x.ledger.en || x.ledger.entries.any (·.isOver) || x.step4

/-- The ledger STATE that UNREPLAYABLE names: 2 OVER, 1 open, 0 free. -/
def ledgerState (x : Station) : Nat :=
  if x.ledger.entries.any (·.isOver) then 2 else if x.ledger.entries.isEmpty then 0 else 1

/-- The station after step 4 (R270, R458): queue, FIFO and flights emptied; the signal box at its restart point, from where it runs unless a stop by the host was under way; the open entries whose value was returned replay, each with an empty OWNED, as its first run began, and one without a value is dropped, with the SEQ of later entries as it stands: DESIGN CHOICE, log entry 92. -/
def Station.restarted (x : Station) : Station :=
  let gone := x.iss.flight.map (·.seq)
  let ds := (x.disp.filter (fun (d : DispRec) => !gone.contains d.seq)).map (fun (d : DispRec) =>
    match d.gather with
    | some g => if gone.contains g then { d with gather := none } else d
    | none => d)
  let es := (x.ledger.entries.filter (fun e => e.value.isSome)).map (fun e => { e with ended := false, owned := 0 })
  Station.settle { x with
    sb := { x.sb with pc := x.restart.pc, regs := smapOf 0 (0 :: x.restart.regs) }
    ctl := { x.ctl with run := .awake, issueOff := false, sleepReq := false }
    iss := { x.iss with
      queue := []
      flight := []
      fifo := []
      posted := x.iss.posted.map (fun p => { p with waits := false }) }
    redq := []
    disp := ds
    nextRestart := []
    step4 := true
    ledger := { x.ledger with entries := es, replay := !es.isEmpty, rpos := 0, rguard := 0 } }

/-- A flit of one of the instructions `gone` of station `i`, or an answer to it (R458). -/
def ofInstrs (i : Nat) (gone : List Nat) (h : Flit) : Bool :=
  h.mod.isNone && decide (h.req = i) && gone.contains h.txn &&
    (match h.body with
     | .wr _ _ _ _ => true
     | .red _ => true
     | .token _ => true
     | .tkt _ => true
     | .xqVec _ _ _ _ _ _ _ => true
     | .xqMark _ _ _ _ => true
     | .ack => true
     | .nack _ _ => true
     | .tktval _ => true
     | _ => false)

/-- What a station holds of abandoned instructions of station `i`: flits at its router, lines counted, contributions not yet added (R458). -/
def Station.forgetInstrs (i : Nat) (gone : List Nat) (x : Station) : Station :=
  { x with
    routerHeld := x.routerHeld.filter (fun h => !ofInstrs i gone h)
    got := x.got.filter (fun a => !(decide (a.req = i) && a.mod.isNone && gone.contains a.txn))
    arrive := x.arrive.filter (fun t => t.write || !(decide (t.src = i) && gone.contains t.txn)) }

/-- The instructions in flight at a station are abandoned: what of them has not landed leaves the mesh and the stations that hold it, and their DISPATCHes are pulled back (R458). -/
def State.dropStation (s : State) (i : Nat) : State :=
  let fs := (s.stn i).iss.flight
  let gone := fs.map (·.seq)
  let s1 := (fs.filter (fun f => decide (opc f.word = 0x40))).foldl (fun (t : State) f => t.pullBack i f) s
  (List.range 128).foldl (fun (t : State) d => t.setStn d ((t.stn d).forgetInstrs i gone))
    (s1.setMesh (s1.die.mesh.filter (fun h => !ofInstrs i gone h)))

/-- STATION_RESTART (R458, R459): step 4, or UNREPLAYABLE and step 5. -/
def execStationRestart (i : Stn) (s : State) : Result :=
  match s.atStep i 4 with
  | none => .next s
  | some f =>
    if s.unreplayable i then
      let w : FaultInfo := ⟨0x050A, BitVec.ofNat 32 i.val, BitVec.ofNat 64 (ledgerState (s.stn i))⟩
      .next ((s.setFlight i { f with stage := .recover 5, why := w }).logFault w.code 0 i w.d0 w.d1)
    else
      let s1 := ((s.ladder f.why.code 4 i f.why.d0 f.why.d1).recovery).dropStation i
      let s2 := if (s1.stn i).ctl.stopping then s1 else s1.setFld (pageBase i + 4) 0 1 1
      .next (s2.setStn i (s2.stn i).restarted)

/-! ### Scrub -/

/-- The first row in which two banks differ: data and check bits, the check rows as 128 and 129 (R452). -/
def rowDiffers (a b : Bank) : Option Nat :=
  (List.range 130).find? (fun r =>
    if r < 128 then decide (a.row r ≠ b.row r) || decide (mget (fun _ => (0 : Byte)) a.chk r ≠ mget (fun _ => 0) b.chk r)
    else decide (mget (fun _ => (0 : RowBits)) a.crow (r - 128) ≠ mget (fun _ => 0) b.crow (r - 128)))

/-- The first channel whose correction entries differ (R100, R452). Row sums count under their row. -/
def corrDiffers (a b : Bank) : Option Nat :=
  (List.range 128).find? (fun n =>
    decide (corr a.sumw n ≠ corr b.sumw n) || decide (corr a.rsum n ≠ corr b.rsum n)
      || (List.range 4).any (fun j => decide (corr a.qsum (4 * n + j) ≠ corr b.qsum (4 * n + j))))

/-- A bank that a scrub found wrong goes to step 2, or its macro to step 3 where it would be the third reload (R452, R454). -/
def State.scrubFound (s : State) (i m k code d1 : Nat) : State :=
  let w : FaultInfo := ⟨code, BitVec.ofNat 32 (m + k * 256), BitVec.ofNat 64 d1⟩
  let s1 := s.logFault w.code 0 i w.d0 w.d1
  let x := s1.stn i
  if 2 ≤ s.recentReloads i m then s1.setStn i { x with toFault := x.toFault ++ [m] }
  else s1.setStn i { x with toReload := x.toReload ++ [(m, k, w, 0)] }

/-- The golden line that a scrub of the slot finds uncorrectable. -/
def State.slotBad (s : State) (i m k : Nat) (found : Option Nat) : Option Nat :=
  let base := s.slotLine i m k
  ((List.range 80).map (fun j => base + j)).find? (fun l => s.lineBad l (found = some (l - base)))

/-- A scrub of one bank (R452), which reads the whole golden slot. -/
def State.scrubBank (s : State) (i m k : Nat) (found : Option Nat) (ce : List Nat) : State :=
  let base := s.slotLine i m k
  match s.slotBad i m k found with
  | some l => (s.useLines ((List.range (l - base)).map (base + ·)) (ce.map (base + ·))).readUe l
  | none =>
    let s := s.useLines ((List.range 80).map (base + ·)) (ce.map (base + ·))
    let g := s.goldenBank i m k
    let b := (s.stn i).bank m k
    match rowDiffers b g, corrDiffers b g with
    | some r, _ => s.scrubFound i m k 0x0104 r
    | none, some n => s.scrubFound i m k 0x0105 n
    | none, none => s

/-- A pass or load of the station names a macro (R81). -/
def Station.macroUsed (x : Station) (m : Nat) : Bool :=
  x.iss.flight.any (fun f => (decide (opc f.word = 1) || decide (opc f.word = 2) || decide (opc f.word = 3)) && bitAt f.word (64 + m))

/-- What ranks before a scrub at a station (R14): a step of the ladder there, a rollback. -/
def State.scrubYields (s : State) (i : Nat) : Bool :=
  let x := s.stn i
  s.die.net.roll.isSome || x.climber.isSome || x.replaying || !x.toReload.isEmpty || !x.toFault.isEmpty

/-- SCRUB (R78, R452, R456): bank `k` of macro `m`. It yields to passes and loads on the macro and to the claims that rank before it, and skips working and faulted macros. A slot whose descriptor bytes no WLOAD takes is not scrubbed, since nothing can be recomputed from it: DESIGN CHOICE, log entry 94. -/
def execScrub (i : Stn) (m : Fin 64) (k : Fin 4) (found : SlotRead) (s : State) : Result :=
  if s.live && bitAt (s.reg 0x60004) 1 && (s.slotDesc i m k).valid && (s.slotDesc i m k).ok
      && !bitAt (s.workOf i) m && !bitAt (s.faultBits i) m && !(s.stn i).macroUsed m && !s.scrubYields i then
    .next (s.scrubBank i m k found.ue found.ce)
  else .next s

end Sys2Proof.Machine
end

