-- ==== Sys2Proof/Machine/Ports.lean ====
section
/-! DEFINITION. The Slora port controllers: frames received, training, lane and port failure, failover, lost directions; and the mesh links (R299, R316 to R324, R464, R465). -/
namespace Sys2Proof.Machine

/-! ### States of a port -/

/-- A port changes STATE, which signals vector 5 (R344, R441). -/
def State.setPortState (s : State) (p st : Nat) : State :=
  let t := s.setFld (portBase p) 0 2 st
  if s.portState p = st then t else t.signal 5

/-- The dimension of a port (R314). -/
def portDim (p : Nat) : Nat := p / 4

/-- The other port of a port's direction (R314). -/
def sibling (p : Nat) : Nat := if p % 2 = 0 then p + 1 else p - 1

/-- The port is used: its dimension is larger than 1 and the module is not in solo mode (R15, R319). -/
def State.portUsed (s : State) (p : Nat) : Bool := !s.solo && decide (1 < s.dim (portDim p))

/-- Both siblings of a direction count as failed (R321). -/
def State.dirLost (s : State) (d : Nat) : Bool := s.portFailed (2 * d) && s.portFailed (2 * d + 1)

/-- Every port of every dimension larger than 1 is up, failed or held down (R402). -/
def State.linksSettled (s : State) : Bool :=
  (List.range 12).all (fun p => !s.portUsed p || s.portUp p || s.portFailed p)

/-- LINKS is left for READY once the links have settled (R402); a module with LOST or TRIP set, or one that rejoins a rollback, stays for it. -/
def State.settleLinks (s : State) : State :=
  if decide (s.mstate = 4) && s.linksSettled && s.die.net.roll.isNone && !bitAt (s.reg 0x10000) 7 && !bitAt (s.reg 0x10000) 8 then s.enter 5
  else s

/-! ### Failure -/

/-- A port with no frame and no credit taken, which keeps what it knows of its lanes and the last SEQ received (R317, R322). -/
def Port.emptied (q : Port) : Port := { Port.reset with badLanes := q.badLanes, rxLast := q.rxLast }

/-- The frames of a port that leaves service, unacknowledged ones first, each of these with the SEQ that it bears there (R322). -/
def Port.leftover (q : Port) : List Waiting := q.sent.map (fun f => ⟨{ f with orig := some f.seq }, none⟩) ++ q.wait

/-- The instruction whose transaction a frame carries, when a station of this module issued it (R324). -/
def frameOwner (s : State) (f : Frame) : Option (Nat × Nat) :=
  match f.body with
  | .data (g :: _) =>
    if decide (f.smod = s.modid) && decide (f.cls = 0) && decide (g.src < 128) && decide (g.src = g.req) then
      ((s.stn g.src).flightOf g.txn).map (fun _ => (g.src, g.txn))
    else none
  | _ => none

/-- The frame carries lines of an ST, which its replay writes again. -/
def carriesLines (f : Frame) : Bool :=
  match f.body with
  | .data (g :: _) => (match g.body with | .wr _ _ _ _ => true | _ => false)
  | _ => false

/-- An aborted instruction waits for its replay (R450). -/
def State.abortFlight (s : State) (w : FaultInfo) (k : Nat × Nat) : State :=
  match (s.stn k.1).flightOf k.2 with
  | some f => s.setStn k.1 ((s.stn k.1).setFlight { f with stage := .recover 1, why := w })
  | none => s

/-- A direction is lost (R324): the transactions of this module that wait on it abort, what their replays do not send again and every other frame goes round the other way, and a ring that has lost both directions is split. Log entry 73. -/
def State.loseDirection (s : State) (d : Nat) : State :=
  let ws := [2 * d, 2 * d + 1].flatMap (fun p => (s.port p).leftover)
  let owners := (ws.filterMap (fun k => frameOwner s k.frame)).dedup
  let w : FaultInfo := ⟨0x0305, BitVec.ofNat 32 d, BitVec.ofNat 64 owners.length⟩
  let s1 := [2 * d, 2 * d + 1].foldl (fun (t : State) p => t.setPort p (t.port p).emptied) s
  let s2 := owners.foldl (fun (t : State) k => t.abortFlight w k) (s1.logFault w.code 0 0x300 w.d0 w.d1)
  let stay := ws.filter (fun k => !(carriesLines k.frame && (frameOwner s k.frame).isSome))
  let s3 := stay.foldl (fun (t : State) k => t.routeWaiting { k with frame := { k.frame with orig := none } }) s2
  if s3.dirLost (2 * (d / 2)) && s3.dirLost (2 * (d / 2) + 1) then
    let v : FaultInfo := ⟨0x0306, BitVec.ofNat 32 (d / 2), 0⟩
    (s3.logFault v.code 0 0x300 v.d0 v.d1).step5 v 0x300 false
  else s3

/-- The traffic of a port that has left service moves to its sibling, unacknowledged frames first (R322); with the sibling failed too, the direction is lost; while the sibling may still come up, it waits. -/
def State.failOver (s : State) (p : Nat) : State :=
  if s.portUp (sibling p) then
    let a := s.port p
    let s1 := (s.setPort p a.emptied).setFld (portBase p) 6 1 1
    a.leftover.foldl (fun (t : State) w => t.toPort (sibling p) w) s1
  else if s.dirLost (p / 2) && s.portUsed p then s.loseDirection (p / 2)
  else s

/-- A port fails (R321): counted, recorded, its traffic moved. -/
def State.portFail (s : State) (p : Nat) : State :=
  let s1 := (s.setFld (portBase p) 2 4 0).setPortState p 3
  let s2 := (s1.bump (portBase p + 0x1C) 1).logFault 0x0303 0 (0x100 + portEdge p) (BitVec.ofNat 32 p) 0
  (s2.failOver p).settleLinks

/-! ### Lanes and training -/

/-- The lanes a port runs on (R321): all four, the half without a failed lane, or none. -/
def lanesFor (bad : BitVec 4) : BitVec 4 :=
  if bad = 0 then 0xF
  else if bad &&& 0x3 = 0 then 0x3
  else if bad &&& 0xC = 0 then 0xC
  else 0

/-- A port runs on half its lanes (R321). -/
def State.downshift (s : State) (p : Nat) (lanes : BitVec 4) : State :=
  ((s.setFld (portBase p) 2 4 lanes.toNat).bump (portBase p + 0x1C) 1).logFault 0x0302 0 (0x100 + portEdge p)
    (BitVec.ofNat 32 p) 2

/-- LANE_FAIL (R321): an active lane loses FEC lock for 1 ms. -/
def execLaneFail (p : Fin 12) (lane : Fin 4) (s : State) : Result :=
  if s.linked && s.portUp p && bitAt (s.reg (portBase p)) (2 + lane) then
    let q := s.port p
    let bad := putBit q.badLanes lane true
    let s1 := s.setPort p { q with badLanes := bad }
    let lanes := lanesFor bad
    .next (if lanes = 0 then s1.portFail p else s1.downshift p lanes)
  else .next s

/-- The neighbour that R314 and R323 require at a port: module and port number. -/
def State.wantedPeer (s : State) (p : Nat) : Nat × Nat :=
  let plus := p % 4 < 2
  (s.stepFrom s.modid (portDim p) plus, if plus then p + 2 else p - 2)

/-- A port comes up (R319, R321, R322, R465): identity held, lanes set, its own waiting frames and those of a sibling out of service sent; a module in round 2 of a rollback sends the release of round 1. -/
def State.portComesUp (s : State) (p pm pp : Nat) (bad : BitVec 4) : State :=
  let lanes := lanesFor bad
  let s1 := s.setPort p { s.port p with badLanes := bad }
  let s2 := s1.setReg (portBase p + 8) (BitVec.ofNat 32 (pm % 2 ^ 14 + pp % 16 * 2 ^ 14 + 2 ^ 18))
  let s3 := (((s2.setFld (portBase p) 2 4 lanes.toNat).setFld (portBase p) 6 1 0).setFld (portBase p) 7 1 0).setPortState p 2
  let s4 := if lanes = 0xF then s3 else s3.downshift p lanes
  let s5 := State.flushPort p (s4.port p).wait.length s4
  let s6 := if s5.portFailed (sibling p) && !(s5.port (sibling p)).leftover.isEmpty then s5.failOver (sibling p) else s5
  let s7 := match s6.die.net.roll with
    | some r => if r.round = 2 ∧ 4 < s6.mstate then
        (s6.setNet { s6.die.net with snapForce := true }).toPort p ⟨s6.mkFrame pm 0 (.ilk 2 0xFF (BitVec.ofNat 32 r.g) s6.lce 0 s6.modid 0), none⟩
      else s6
    | none => s6
  s7.settleLinks

/-- The LINKCTL identity frame of training (R316, R319): module, coordinates, port. -/
def State.sendIdent (s : State) (p : Nat) : State :=
  s.emit (.frame p ⟨4, 2, 0, 0, 4095, false, (s.wantedPeer p).1, s.modid, 0, 0, none, none, .linkctl (some (s.modid, fld (s.reg 0x80800) 0 15, p))⟩)

/-- PORT_TRAINING (R319): lane training and alignment of a port end with lanes `bad` failed, and identities are exchanged: the peer gave module and port. -/
def execPortTraining (p : Fin 12) (bad : BitVec 4) (pm pp : Nat) (s : State) : Result :=
  if s.linked && s.portUsed p && decide (s.portState p = 1) then
    if lanesFor bad = 0 then .next ((s.setPort p { s.port p with badLanes := bad }).portFail p)
    else
      let t := s.sendIdent p
      if s.wantedPeer p = (pm, pp) then .next (t.portComesUp p pm pp bad)
      else
        let s1 := (t.setFld (portBase p) 7 1 1).setPortState p 0
        .next (s1.logFault 0x0304 0 (0x100 + portEdge p) (BitVec.ofNat 32 p) (BitVec.ofNat 64 (pm + pp * 2 ^ 14)))
  else .next s

/-- Training of the port has begun and it is not up: it trains, or its identity check failed (R319). -/
def State.inTraining (s : State) (p : Nat) : Bool :=
  decide (s.portState p = 1) || (decide (s.portState p = 0) && bitAt (s.reg (portBase p)) 7 && s.portEn p)

/-- TRAINING_TIMEOUT (R319): a port not up 500 ms after the start of its training fails. -/
def execTrainingTimeout (p : Fin 12) (s : State) : Result :=
  if s.linked && s.portUsed p && s.inTraining p then .next (s.portFail p) else .next s

/-- A port before it trains: one that was out of service starts its link anew and keeps the frames it has to send; log entry 84. -/
def Port.toTrain (q : Port) (up : Bool) : Port :=
  if up then { q with badLanes := 0, fails := 0, naks := 0 }
  else { Port.reset with wait := q.leftover.map (fun w => { w with frame := { w.frame with orig := none } }) }

/-- A port begins to train (R319, R321). -/
def State.trainPort (s : State) (p : Nat) : State :=
  if s.linked && s.portUsed p && s.portEn p then
    let s1 := s.setPort p ((s.port p).toTrain (s.portUp p))
    ((s1.setFld (portBase p) 2 4 0).setFld (portBase p) 7 1 0).setPortState p 1
  else s

/-- A write to LINK_p_CTRL (R319, R321, R344). -/
def State.linkCtrlWrite (s : State) (p : Nat) (v : Word) : State :=
  let was := s.portEn p
  let s1 := s.setReg (portBase p + 4) (v &&& 1)
  let s2 :=
    if was && !bitAt v 0 then (((s1.setFld (portBase p) 2 4 0).setPortState p 0).failOver p).settleLinks
    else if !was && bitAt v 0 then s1.trainPort p
    else s1
  if bitAt v 1 then s2.trainPort p else s2

/-! ### Frames received -/

/-- The link of a port joins coordinate n - 1 and coordinate 0 (R318). -/
def State.dateline (s : State) (p : Nat) : Bool :=
  let c := s.coordOf s.modid (portDim p)
  if p % 4 < 2 then decide (c + 1 = s.dim (portDim p)) else decide (c = 0)

/-- The virtual channel on which a frame that came in at port `p` goes on (R318). -/
def State.nextVc (s : State) (p : Nat) (f : Frame) : Nat :=
  match s.nextWay s.modid f.dmod with
  | none => 0
  | some (d, _) => if d ≠ portDim p then 0 else if s.dateline p then 1 else f.vc

/-- A flit of a mesh transaction that ends here (R326): it goes on over the mesh from the port. -/
def State.deliverFlit (s : State) (p smod : Nat) (g : Flit) : State :=
  let at' := 128 + portEdge p
  match g.body with
  | .xqOpen q round share vout => (s.setStn g.dst ((s.stn g.dst).setKnown ⟨some smod, q, some round, share, vout⟩)).addHops (hopsOf at' g.dst)
  | .xqWant q rank => (s.xqWanted q rank).addHops (hopsOf at' syncHub)
  | .xqRefuse _ =>
    (match (s.stn g.dst).flightOf g.txn with
     | some f => (s.abandon g.dst f).addHops (hopsOf at' g.dst)
     | none => s)
  | _ => s.sendFlit { g with src := at', mod := some smod }

/-- A frame whose destination is this module (R316). -/
def State.deliverFrame (s : State) (p : Nat) (f : Frame) : State :=
  match f.body with
  | .data fs => fs.foldl (fun (t : State) g => t.deliverFlit p f.smod g) s
  | .linkctl _ => s
  | .ilk kind ilk iseq lce count slow reason =>
    if kind = 0 then s.onPresent f.smod ilk lce
    else if kind = 1 then s.onArrive f.smod ilk lce count slow reason iseq
    else if kind = 2 then s.onReleaseMsg ilk lce slow reason iseq
    else s
  | .notice k m n iseq ilk cause reason rep =>
    if k = 0 then s.onHalt (some p) m n
    else if k = 1 then s.onResume (some p) m n
    else if k = 2 then s.onLate (some p) m ilk cause reason rep iseq
    else if k = 3 then s.onClear (some p) m n
    else s
  | .coll c k ph part m n img => s.onPart ⟨f.smod, c, k, ph, m, n, part, img⟩
  | .snap gen sib key cells => s.onSnap f.smod gen sib key cells
  | .snapAck gen => s.onSnapAck gen

/-- Frames of the peer's acknowledgement leave the kept ones (R317). -/
def ackedAway (ack : Nat) (sent : List Frame) : List Frame :=
  match sent with
  | [] => []
  | f :: r => if (ack + 4096 - f.seq) % 4096 < 2048 then ackedAway ack r else f :: r

/-- The acknowledgement, NAK and credit that a frame carries (R317): the frames after ACKSEQ are sent again, each counted; the eighth NAK for one frame fails the port. -/
def State.takeAck (s : State) (p : Nat) (f : Frame) : State :=
  let q := s.port p
  let left := ackedAway f.ackseq q.sent
  let naks := if f.nak then (if left.length = q.sent.length then q.naks + 1 else 1) else (if left.length = q.sent.length then q.naks else 0)
  let credit := match f.cr with
    | some (c, v, n) => q.credit.set (3 * v + c) (min 32 (q.credit.getD (3 * v + c) 0 + n))
    | none => q.credit
  let s1 := s.setPort p { q with sent := left, naks := naks, credit := credit }
  if f.nak then
    if 8 ≤ naks then s1.portFail p
    else left.foldl (fun (t : State) g => (t.bump (portBase p + 0x18) 1).emit (.frame p { g with ackseq := q.rxLast })) s1
  else State.flushPort p q.wait.length s1

/-- FTYPE, CLASS and NLINES of a frame are not reserved (R316, R317). -/
def Frame.legal (f : Frame) : Bool := decide (f.ftype < 5) && decide (f.cls < 3) && decide (f.nlines < 9)

/-- The frame that the port awaits (R317). -/
def State.isAwaited (s : State) (p : Nat) (f : Frame) : Bool := decide (f.seq = ((s.port p).rxLast + 1) % 4096)

/-- A frame was received before: its SEQ here, or the one it had on the sibling that failed, is not after the last received in order (R317, R322). -/
def notAfter (last seq : Nat) : Bool := decide ((last + 4096 - seq) % 4096 < 2048)

/-- A frame is discarded, and every later one until the awaited one arrives intact (R317): the peer gets a NAK; the eighth failure in succession of the awaited frame fails the port. -/
def State.badFrame (s : State) (p : Nat) (f : Frame) : State :=
  let q := s.port p
  let n := if s.isAwaited p f then q.fails + 1 else q.fails
  let s1 := s.setPort p { q with fails := n, dropping := true }
  if 8 ≤ n then s1.portFail p else s1.sendCtl p true none

/-- A frame in sequence (R317, R318, R322, R324): acted on, or forwarded, and then its buffer and its credit are free when it has left; one that came by the failed sibling before is only acknowledged. -/
def State.takeFrame (s : State) (p : Nat) (f : Frame) : State :=
  let s1 := s.setPort p { s.port p with rxLast := f.seq, fails := 0, dropping := false }
  let back := some (f.cls, f.vc, 1)
  if f.orig.any (notAfter (s.port (sibling p)).rxLast) then s1.sendCtl p false back
  else if f.dmod = s.modid then (s1.deliverFrame p f).sendCtl p false back
  else (s1.sendCtl p false none).routeWaiting ⟨{ f with vc := s.nextVc p f, cr := none, orig := none }, some (p, f.cls, f.vc)⟩

/-- A legal frame that passes its CRC: the awaited one is taken; one received before is acknowledged again; a later one shows a gap and is discarded. In a halt frames are left to the sender (R326). -/
def State.goodFrame (s : State) (p : Nat) (f : Frame) : State :=
  if (match f.body with | .linkctl _ => true | _ => false) || !s.linked then s
  else if s.isAwaited p f then s.takeFrame p f
  else if notAfter (s.port p).rxLast f.seq then s.sendCtl p false none
  else if (s.port p).dropping then s
  else s.badFrame p f

/-- FRAME_RECEIVE (R316 to R318): `good` says that header and payload pass the CRC, `ce` and `ue` how many codewords were corrected and how many could not be. In the first part of a halt the ports still take acknowledgements and credits (R326, R384). -/
def execFrameReceive (p : Fin 12) (good : Bool) (ce ue : Nat) (f : Frame) (s : State) : Result :=
  if s.powered && decide (4 ≤ s.mstate) && decide (s.supState ≤ 1) && s.portUp p then
    let s1 := if ce = 0 then s else s.bump (portBase p + 0x10) ce
    let s2 := if ue = 0 then s1 else s1.bump (portBase p + 0x14) ue
    if !(good && f.legal) then .next (s2.badFrame p f)
    else
      let s3 := s2.takeAck p f
      .next (if s3.portUp p then s3.goodFrame p f else s3)
  else .next s

/-! ### Mesh links -/

/-- The record of a mesh link, by router and direction. -/
def State.meshLink (s : State) (r d : Nat) : MeshLink :=
  (s.die.links.find? (fun (l : MeshLink) => decide (l.router = r) && decide (l.dir = d))).getD ⟨r, d, false, 0, none⟩

/-- The record of a mesh link replaced. -/
def State.setMeshLink (s : State) (l : MeshLink) : State :=
  { s with die := { s.die with links := s.die.links.filter (fun (k : MeshLink) => !(decide (k.router = l.router) && decide (k.dir = l.dir))) ++ [l] } }

/-- A link stops (R299); within 24 h of its last retraining the module retires (R464). -/
def State.stopLink (s : State) (l : MeshLink) : State :=
  let w : FaultInfo := ⟨0x0301, BitVec.ofNat 32 (l.router + l.dir * 256), 0⟩
  let s1 := (s.setMeshLink { l with stopped := true, fails := 0 }).logFault w.code 0 l.router w.d0 w.d1
  match l.retrained with
  | some t => if s.uptime - t < day then s1.retire w l.router else s1
  | none => s1

/-- FLIT_CRC_RETRANSMIT (R299): a flit fails its CRC on the link into node `r` from its side `d`; `again` says that it is the flit that failed before. The eighth successive failure stops the link. -/
def execFlitCrcRetransmit (r : Fin 176) (d : Fin 4) (again : Bool) (s : State) : Result :=
  let l := s.meshLink r d
  if linkExists r d && s.powered && decide (s.supState = 0) && !l.stopped then
    let n := if again then l.fails + 1 else 1
    if 8 ≤ n then .next (s.stopLink l)
    else .next ((s.setMeshLink { l with fails := n }).bump 0x200010 1)
  else .next s

/-- MESH_LINK_RETRAIN (R464): the health service retrains a stopped link, and its flits go on. -/
def execMeshLinkRetrain (r : Fin 176) (d : Fin 4) (s : State) : Result :=
  let l := s.meshLink r d
  if linkExists r d && s.powered && decide (s.supState = 0) && l.stopped && !s.isRetired then
    .next (s.setMeshLink { l with stopped := false, fails := 0, retrained := some s.uptime })
  else .next s

end Sys2Proof.Machine
end

