-- ==== Sys2Proof/Machine/Lpddr.lean ====
section
/-! DEFINITION. The LPDDR5X controllers and the golden copy (R281 to R297, R501). -/
namespace Sys2Proof.Machine

/-! ### Requests -/

/-- The controllers serve requests: until step 4 of a halt, and on a resume once every channel is retrained (R295, R384, R393). Log entry 39. -/
def State.memUp (s : State) : Bool :=
  s.powered && (decide (s.supState = 0) || (decide (s.supState = 1) && decide (s.sup.ticks < 2800))
    || (decide (s.supState = 3) && decide (10000 ≤ s.sup.ticks)))

/-- A read of a line by any source (R288 to R290). -/
def State.readLine (s : State) (line : Nat) (ce ue : Bool) : State :=
  let t := s.wakeChannel line
  if t.lineBad line ue then t.readUe line
  else if ue then t.arrayError line
  else t.corrected line ce

/-- A write of bytes of one line (R289): the whole line with its code; part of a line under inline ECC reads it first. -/
def State.writeLine (s : State) (line off : Nat) (bs : List Byte) (ce ue : Bool) : State :=
  let t := s.wakeChannel line
  let cells := t.asCells (line * 64 + off) bs
  if off = 0 ∧ bs.length = 64 then t.setLine line cells
  else if t.inEcc line then (t.readLine line ce ue).setPart (line * 64 + off) cells
  else t.setPart (line * 64 + off) cells

/-- A request for a line served by its controller (R285, R288, R289). -/
def State.serveReq (s : State) (r : MemReq) : State :=
  let s1 := if r.lce then s.mbump (ctrlOf r.line) 0x10 else s
  match r.w with
  | none => s1.readLine r.line r.ce r.ue
  | some (off, bs) => s1.writeLine r.line off (bs.take (64 - off)) r.ce r.ue

/-- Requests that waited for the end of self-refresh and retraining are served in arrival order (R283, R295). -/
def State.serveWaiting (s : State) : State := s.memWait.foldl State.serveReq { s with memWait := [] }

/-- LPDDR_REQUEST (R283 to R290, R295): a controller serves one request for a line: a read, or a write of bytes from an offset; in self-refresh and retraining the request waits. `lce` is a correction on the link, `ce` a correction and `ue` an uncorrectable error in the array. A line beyond the fitted capacity does not exist. -/
def execLpddrRequest (line : Nat) (w : Option (Fin 64 × List Byte)) (lce ce ue : Bool) (s : State) : Result :=
  if s.capBytes ≤ line * 64 then .fault .noSuchLine
  else
    let r : MemReq := ⟨line, w.map (fun p => (p.1.val, p.2)), lce, ce, ue⟩
    if s.memUp then .next (s.serveReq r)
    else if s.powered then .next { s with memWait := s.memWait ++ [r] }
    else .next s

/-- CHANNEL_RETRAIN (R282, R283, R464): a channel is trained again in service: 0 at its rate, 1 at 6,400 MT/s, otherwise lost, which retires the module. -/
def execChannelRetrain (c : Fin 20) (j : Fin 4) (outcome : Fin 3) (s : State) : Result :=
  if s.memUp then
    let a := 0x100000 + 0x1000 * c.val
    let h : Word := BitVec.ofNat 32 (4 * c.val + j.val)
    let u := 0x100 + ctrlEdge c
    let s1 := s.mbump c 0x20
    match outcome with
    | 0 => .next s1
    | 1 =>
      if bitAt (s.reg a) (4 + j) then .next s1
      else .next ((s1.setFld a (4 + j) 1 1).logFault 0x0203 0 u h 0)
    | 2 => .next (((s1.setFld a j 1 0).logFault 0x0204 0 u h 0).retire ⟨0x0204, h, 0⟩ u)
  else .next s

/-- MR4_READ (R283): the refresh rate of a controller is taken from MR4. -/
def execMr4Read (c : Fin 20) (rate : Fin 32) (s : State) : Result :=
  if s.memUp then
    .next { s with die := { s.die with refresh := mset (fun _ => (0 : Nat)) s.die.refresh c rate.val } }
  else .next s

/-- RFM (R283): refresh management is issued and counted. -/
def execRfm (c : Fin 20) (s : State) : Result :=
  if s.memUp then .next (s.mbump c 0x1C) else .next s

/-- POWER_DOWN_ENTRY (R283): an idle channel enters power-down; its next request ends it. -/
def execPowerDownEntry (c : Fin 20) (j : Fin 4) (s : State) : Result :=
  if s.memUp then .next { s with die := { s.die with pdown := putBit s.die.pdown (4 * c.val + j.val) true } }
  else .next s

/-- PER_BANK_REFRESH (R283): requests to the bank are delayed; nothing the model holds changes. -/
def execPerBankRefresh (_ : Fin 20) (_ : Fin 4) (s : State) : Result := .next s

/-- A line of an inline-ECC region, its code store left out (R291). -/
def State.patrolled (s : State) (line : Nat) : Bool :=
  s.inEcc line && (match s.region (line * 64) with | .store => false | _ => true)

/-- PATROL_SCRUB (R291): a line is read; corrected data is written back, which changes no value. -/
def execPatrolScrub (line : Nat) (ce ue : Bool) (s : State) : Result :=
  if s.memUp && s.patrolled line then .next (s.readLine line ce ue) else .next s

/-! ### The golden copy -/

/-- The descriptor bytes of a golden slot as the job runner wrote them at job start (R292, R293). -/
def State.planDesc (s : State) (slot : Nat) : List Byte :=
  match s.plan.golden.find? (fun g => decide (g.1 = slot)) with
  | some g => g.2.take 5
  | none => []

/-- Bytes padded with zeros to a length. -/
def padTo (n : Nat) (bs : List Byte) : List Byte := (bs ++ List.replicate n 0).take n

/-- The bytes of a bank's slot, from its macro and correction table (R121, R292, R293). -/
def slotBytes (b : Bank) (desc : List Byte) : List Byte :=
  let f := b.fmt.toNat
  let rows := (List.range 128).flatMap (fun r => leBytes 32 (b.row r).toNat)
  let ex := (List.range (channels f)).map (fun n => mget (fun _ => (0 : Byte)) b.wexp n)
  let rec' := (List.range (channels f)).flatMap (fun n => leBytes 4 (mget (fun _ => (0 : Word)) b.crec n).toNat)
  padTo 0x13C0 (rows ++ padTo 64 (leBytes 32 b.idx.toNat) ++ padTo (expLines f * 64) ex ++ rec') ++ padTo 64 desc

/-- A macro with a recorded check fault (R293): faulted, reloaded within 24 h, or failing in an instruction in flight. Log entry 31. -/
def State.suspect (s : State) (i m : Nat) : Bool :=
  let x := s.stn i
  bitAt (s.faultBits i) m || decide (0 < s.recentReloads i m)
    || x.iss.flight.any (fun f => bitAt f.fails m || bitAt f.prevFails m || f.toReload.contains m || f.toFault.contains m)

/-- A whole line written by the feed or a service (R283, R289). -/
def State.putLine (s : State) (l : Nat) (bs : List Byte) : State := (s.wakeChannel l).setLine l bs

/-- Lines written from one of them on. -/
def State.setLines (s : State) (l : Nat) : List Byte → Nat → State
  | _, 0 => s
  | bs, n + 1 => State.setLines (s.putLine l (bs.take 64)) (l + 1) (bs.drop 64) n

/-- Lines read by the feed or a service (R289, R290). -/
def State.readLines (s : State) (l n : Nat) : State := (List.range n).foldl (fun (t : State) k => t.readLine (l + k) false false) s

/-- The first line of a slot after its scale item: from there on it holds reserved and descriptor bytes only (R292). The format is the one the timetable gives, or that of the bank where it gives none. -/
def State.itemEnd (s : State) (slot : Nat) (b : Bank) : Nat :=
  let f := match s.planDesc slot with
    | _ :: w :: _ => w.toNat
    | _ => b.fmt.toNat
  65 + (expLines f * 64 + channels f * 4) / 64

/-- The macros hold the banks of the golden copy: once the loader programs have run (R279, R293). DESIGN CHOICE, log entry 31. -/
def State.macrosLoaded (s : State) : Bool := decide (s.mstate = 6) && decide (s.die.job.phase = 2)

/-- GOLDEN_REBUILD (R293): an uncorrectable line of the golden copy. A line of descriptor and reserved bytes is rebuilt from the timetable's values, any other with its whole slot from the macro that holds the bank; where no macro does, or a suspect one, the bank has no good copy, and the ladder takes step 5. -/
def execGoldenRebuild (line : Nat) (s : State) : Result :=
  if s.live && decide (s.region (line * 64) = .golden) && s.poison.contains line then
    let slot := (line - s.goldenLine) / 80
    let j := (line - s.goldenLine) % 80
    let (i, m, k) := (slot / 256, slot / 4 % 64, slot % 4)
    let b := (s.stn i).bank m k
    let bs := slotBytes b (s.planDesc slot)
    let ls := (List.range 80).map (line - j + ·)
    if s.itemEnd slot b ≤ j then .next (s.putLine line ((bs.drop (64 * j)).take 64))
    else if !s.macrosLoaded || s.suspect i m then
      .next (s.step5 ⟨0x0202, BitVec.ofNat 32 (s.goldenId line), BitVec.ofNat 64 line⟩ (0x100 + ctrlEdge (ctrlOf line)) true)
    else .next ((s.useLines ls []).setLines (line - j) bs 80)
  else .next s

/-- A write to BOOT_GOLDEN (R294): LOAD sets VALID in READY. -/
def State.goldenWrite (s : State) (v : Word) : State :=
  if bitAt v 1 && decide (s.mstate = 5) then s.setGolden true else s

/-! ### Checked configuration -/

/-- Values of MEM_SNAPSZ and of the user inline-ECC region registers break R501: USERTOP would be negative, or a region of non-zero size would meet another or lie not wholly below USERTOP. -/
def State.regionsBad (s : State) (at' : Nat → Nat) : Bool :=
  let n := min (at' 0x100804 % 128) 64
  let base (k : Nat) : Nat := at' (0x100810 + 8 * k)
  let size (k : Nat) : Nat := at' (0x100814 + 8 * k)
  let used := 680 + 1088 * n + 64 * (size 0 + size 1 + size 2 + size 3)
  decide (s.capMib < used)
    || (List.range 4).any (fun j => decide (0 < size j) &&
        (decide (s.capMib < used + 1024 * (base j + size j))
          || (List.range 4).any (fun k => decide (j ≠ k) && decide (0 < size k)
              && decide (base j < base k + size k) && decide (base k < base j + size j))))

/-- The values that a write would leave break R501. -/
def State.memRefused (s : State) (a : Nat) (v : Word) : Bool :=
  s.regionsBad (fun r => if r = a then v.toNat else (s.reg r).toNat)

/-- A write to MEM_SNAPSZ or to a user inline-ECC region register (R501, R8): checked, then taken once. -/
def State.memConfigWrite (s : State) (a : Nat) (v : Word) : State :=
  let w := v &&& ((rwMask a).getD 0)
  if s.die.rwo.contains a then s
  else if s.memRefused a w then s.logFault 0x050C 0 0x300 (BitVec.ofNat 32 a) (BitVec.ofNat 64 v.toNat)
  else
    let t := s.setReg a w
    { t with die := { t.die with rwo := t.die.rwo ++ [a] } }

end Sys2Proof.Machine
end

