-- ==== Sys2Proof/Machine/Fuses.lean ====
section
/-! DEFINITION. The fuse block and the audit log (R8, R418 to R421, R426). -/
namespace Sys2Proof.Machine

/-- A list cut or padded with zeros to `n` bytes. -/
def fix (n : Nat) (bs : List Byte) : List Byte := padTo n bs

/-- SHA-384, as 48 bytes. -/
def hash48 (bs : List Byte) : List Byte := fix 48 (sha384 bs)

/-- A signature of the device identity key over SHA-384 of the bytes, as 96 bytes (R422). -/
def devSig (bs : List Byte) : List Byte := fix 96 (Config.deviceSign (hash48 bs))

/-- An unlock signature over the device serial and a nonce is Haurn's (R423). -/
def unlockOk (nonce sig : List Byte) : Bool := ecdsaVerify Config.unlockKey (hash48 (leBytes 8 Config.serial.toNat ++ nonce)) sig

/-- Bytes of the configuration flash. -/
def State.flashBytes (s : State) (a n : Nat) : List Byte := (List.range n).map (fun i => mget byteFF s.flash (a + i))

/-- Bytes programmed into the flash. -/
def flashPut (m : SMap Byte) (a : Nat) : List Byte → SMap Byte
  | [] => m
  | b :: r => flashPut (mset byteFF m a b) (a + 1) r

/-- Place `k` of the audit log, counted from 1 (R407, R421). Log entry 32. -/
def auditAt (k : Nat) : Nat := 0x2000000 + 256 * (k - 1)

/-- An audit record (R421): `detail` is HASH of the copy that caused the change, or zeros. -/
def State.auditRecord (s : State) (kind old new : Nat) (detail : List Byte) : List Byte :=
  let n := s.fuses.audit + 1
  let prev := if n = 1 then List.replicate 48 0 else hash48 (s.flashBytes (auditAt (n - 1)) 0x90)
  let head := leBytes 4 n ++ [BitVec.ofNat 8 kind, 0, 0, 0] ++ leBytes 4 old ++ leBytes 4 new ++ leBytes 8 s.uptime
    ++ List.replicate 8 0 ++ fix 48 detail ++ prev ++ List.replicate 16 0
  head ++ devSig head ++ List.replicate 16 0xFF

/-- The fuse summary of measurement 4 (R426). -/
def Fuses.summary (f : Fuses) : List Byte :=
  [f.secver, f.slot, f.ceilUsed, if f.solo then 1 else 0, f.audit].map (fun n => BitVec.ofNat 8 n)

/-- A measurement replaced (R426). -/
def State.setMeas (s : State) (i : Nat) (d : List Byte) : State := { s with meas := s.meas.set i d }

/-- Measurement 6 follows UNLOCKED, AUDIT_BAD and TRIP (R426). -/
def State.measFlags (s : State) : State :=
  let b := s.reg 0x10000
  s.setMeas 6 (hash48 [BitVec.ofNat 8 ((if bitAt b 6 then 1 else 0) + (if bitAt b 9 then 2 else 0) + (if bitAt b 8 then 4 else 0))])

/-- FUSE_EXHAUSTED (R448): the setting and which store is exhausted. -/
def State.exhausted (s : State) (kind store : Nat) : State :=
  s.logFault 0x0505 0 0x300 (BitVec.ofNat 32 kind) (BitVec.ofNat 64 store)

/-- A change of a fuse-backed setting (R419): the audit record, also over a void one at that place (DEDUCED, log entry 32), the setting, the counter; measurements 4 and 5 follow. The second component says that it was made. -/
def State.commitFuse (s : State) (kind old new : Nat) (detail : List Byte) (f : Fuses → Fuses) : State × Bool :=
  if 256 ≤ s.fuses.audit then (s.exhausted kind 1, false)
  else
    let r := s.auditRecord kind old new detail
    let fs := f s.fuses
    let s1 := { s with
      flash := flashPut s.flash (auditAt (s.fuses.audit + 1)) r
      fuses := { fs with audit := s.fuses.audit + 1 } }
    ((s1.setMeas 4 (hash48 s1.fuses.summary)).setMeas 5 (hash48 (r.take 0x90)), true)

/-- A write to GOV_CEILING (R379): a lower value is taken and counted; any other is logged and ignored. -/
def State.ceilingWrite (s : State) (v : Word) (detail : List Byte) : State :=
  let n := fld v 0 3
  if s.fuses.opmax ≤ n then s.logFault 0x0506 0 0x300 (BitVec.ofNat 32 v.toNat) 0
  else if 16 ≤ s.fuses.ceilUsed then s.exhausted 4 0
  else (s.commitFuse 4 s.fuses.opmax n detail (fun f => { f with opmax := n, ceilUsed := f.ceilUsed + 1 })).1

end Sys2Proof.Machine
end

