-- ==== Sys2Proof/Machine/Governor.lean ====
section
/-! DEFINITION. The power governor (R345 to R381): target point, allowance, credits, demands, estimate, wake admission, alerts, thermal steps, ageing, coasting, durations. -/
namespace Sys2Proof.Machine

/-! ### Operating points (R345) -/

/-- Twice the macro clock of a point in MHz. -/
def opClock2 (op : Nat) : Nat := [350, 560, 700, 875, 1050, 1225, 1400, 1600].getD op 1600

/-- The core voltage of a point for new silicon, in mV. -/
def opVolt (op : Nat) : Nat := [600, 630, 660, 700, 730, 770, 800, 860].getD op 860

/-- Full-rate credits of a station per µs. -/
def fullRate (op : Nat) : Nat := [11200, 17920, 22400, 28000, 33600, 39200, 44800, 51200].getD op 51200

/-- GOV_STATUS.OP. -/
def State.op (s : State) : Nat := fld (s.reg 0x30000) 0 3

/-- GOV_STATUS.TARGET. -/
def State.target (s : State) : Nat := fld (s.reg 0x30000) 3 3

/-- GOV_AGE.TRIM in mV. -/
def State.trim (s : State) : Nat := fld (s.reg 0x30038) 0 6

/-- The voltage of a point with the trim (R345). -/
def State.voltOf (s : State) (op : Nat) : Nat := opVolt op + s.trim

/-- The square of the applied voltage over 0.80 V. -/
def State.vsq (s : State) : Rat := (s.die.gov.volt : Rat) * s.die.gov.volt / 640000

/-- The governor replaced. -/
def State.setGov (s : State) (g : Gov) : State := { s with die := { s.die with gov := g } }

/-- The governor runs: the die is powered and no halt is in progress (R347, R354, R380). -/
def State.governed (s : State) : Bool := s.powered && decide (s.supState = 0)

/-- A station takes part in grants and reports a draw: neither ASLEEP nor WAKING (R353). -/
def Station.isAwake (x : Station) : Bool := decide (x.ctl.run ≠ .asleep) && decide (x.ctl.run ≠ .waking)

/-- The awake stations in increasing index. -/
def State.awakeStns (s : State) : List Nat := (List.range 128).filter (fun i => (s.stn i).isAwake)

/-- The hottest reading, the throttle temperature and the thermal step count (R368, R369). -/
def State.tj (s : State) : Nat := fld (s.reg 0x30000) 16 7

/-- GOV_THERMAL.THROTTLE. -/
def State.throttle (s : State) : Nat := fld (s.reg 0x30024) 0 7

/-- GOV_STATUS.TSTEPS. -/
def State.tsteps (s : State) : Nat := fld (s.reg 0x30000) 9 3

/-- The thermal cut is in force (R357, R369). -/
def State.thermalCut (s : State) : Bool := decide (115 ≤ s.tj)

/-- An alert or its hold lasts (R364, R365). -/
def State.alerting (s : State) : Bool := bitAt (s.reg 0x30000) 6

/-- SUPPLY_LOW is active (R367). -/
def State.supplyLow (s : State) : Bool := bitAt (s.reg 0x30000) 8

/-- GOV_CTRL.FIXED. -/
def State.fixed (s : State) : Bool := bitAt (s.reg 0x30004) 0

/-! ### Target point (R347, R349) -/

/-- The periods of the last ms in which credit limits bound are more than half of them. -/
def Gov.boundOften (g : Gov) : Bool := decide (500 < (g.bounds.filter (fun b => b)).length)

/-- The boost conditions of R349, the last one left to `boostOff`. -/
def State.mayBoost (s : State) : Bool :=
  bitAt (s.reg 0x30004) 1 && !s.fixed && decide (s.tj + 15 ≤ s.throttle) && !bitAt (s.reg 0x30000) 12 && !s.supplyLow
    && (match s.die.gov.lastMargin with | some t => decide (4000000 ≤ s.uptime - t) | none => true)
    && decide (s.die.gov.boostOff = 0) && !s.die.gov.boundOften

/-- Step 1: the highest preferred point over the current phases of the awake stations. -/
def State.preferred (s : State) : Nat :=
  (s.awakeStns.map (fun i => fld (s.reg (0x30400 + 4 * (s.stn i).iss.phase.toNat)) 0 3)).foldl max 0

/-- The result of step 4. Until the job runner starts a job the point is OP2 (R380). -/
def State.topPoint (s : State) : Nat :=
  if !s.die.jobStarted then 2
  else
    let a := if s.fixed then 6 else s.preferred
    let b := if a = 7 ∧ !s.mayBoost then 6 else a
    min b s.fuses.opmax

/-- Steps 5 to 8 in force, each with the value it gives and its reason (R376). -/
def State.lowerings (s : State) : List (Nat × Nat) :=
  let v5 := s.topPoint - s.tsteps
  let v6 := if s.die.gov.margin then v5 - 1 else v5
  (if 0 < s.tsteps then [(v5, 4)] else []) ++ (if s.die.gov.margin then [(v6, 7)] else [])
    ++ (if s.coasting then [(fld (s.reg 0x3001C) 24 3, 8)] else []) ++ (if s.alerting then [(0, 5)] else [])

/-- The target point (R347). -/
def State.targetPoint (s : State) : Nat := (s.lowerings.map (·.1)).foldl min (s.topPoint)

/-- The point to which the clock returns: the target, in a margin event without its lowering (R373). -/
def State.goalPoint (s : State) : Nat :=
  if s.die.gov.margin then (s.setGov { s.die.gov with margin := false }).targetPoint else s.target

/-- The reason of the step that gave the lowest value, the later of equal ones; 0 when none lowers the point. -/
def State.lowReason (s : State) : Nat :=
  let low := s.targetPoint
  if low < s.topPoint then ((s.lowerings.filter (fun p => decide (p.1 = low))).getLastD (0, 0)).2 else 0

/-! ### Estimate (R354) -/

/-- Active Slora lanes. -/
def State.lanesUp (s : State) : Nat :=
  ((List.range 12).map (fun p => if s.portUp p then ((List.range 4).filter (fun j => bitAt (s.reg (portBase p)) (2 + j))).length else 0)).sum

/-- The stations that count as awake in the estimate: one that is WAKING enters it as such from its admission (R362, which is the particular rule beside the table of R354). Log entry 33. -/
def State.poweredStns (s : State) : Nat :=
  ((List.range 128).filter (fun i => (s.stn i).isAwake || (s.stn i).ctl.admitted || decide ((s.stn i).ctl.run = .waking))).length

/-- The uncredited load in watts before gain: LPDDR5X lines, mesh hops, charger power in mW. -/
def State.uncredited (s : State) (lines hops chg : Nat) : Rat :=
  let n : Rat := s.poweredStns
  n * ((1/5 : Rat) + (7/20 : Rat) * (opClock2 s.op : Rat) / 1400) * s.vsq
    + (128 - n) * (1/25 : Rat)
    + (lines : Rat) * (11/5000 : Rat) + (hops : Rat) * (9/1000000 : Rat)
    + (s.lanesUp : Rat) * (9/20 : Rat) + 18 + (chg : Rat) / 1000

/-- The credits drawn in the period. -/
def State.drawn (s : State) : Nat := (s.die.stns.map (fun p => p.2.iss.spent)).sum

/-- The credit term in watts before gain. -/
def State.creditLoad (s : State) : Rat := (s.drawn : Rat) * (27/1000000 : Rat) * s.vsq

/-- The gain (R355). -/
def State.gain (s : State) : Rat := (fld (s.reg 0x30034) 0 16 : Rat) / 16384

/-! ### Windows (R357, R358) -/

/-- The sum of a history. -/
def histSum (h : History) : Rat := (h.map (fun p => (p.1 : Rat) * p.2)).sum

/-- The oldest period dropped. -/
def dropOldest : History → History
  | [] => []
  | [p] => if p.1 ≤ 1 then [] else [(p.1 - 1, p.2)]
  | p :: r => p :: dropOldest r

/-- A new estimate at the front, the oldest one gone. -/
def pushHist (h : History) (e : Rat) : History :=
  match dropOldest h with
  | [] => [(1, e)]
  | (n, d) :: r => if d = e then (n + 1, d) :: r else (1, e) :: (n, d) :: r

/-- The allowance terms in force in the order of the table, with the reason each is charged to (R357). -/
def State.terms (s : State) : List (Rat × Nat) :=
  let g := s.die.gov
  let cap : Rat := fld (s.reg 0x30008) 0 9
  let peak : Rat := fld (s.reg 0x3000C) 0 9
  [(cap * 100000 - histSum g.capHist, 1), (peak * 1000 - histSum g.peakHist, 2), (peak, 2),
   (g.est + (fld (s.reg 0x30010) 0 7 : Rat), 3)]
    ++ (if s.thermalCut then [(g.unc, 4)] else []) ++ (if s.alerting then [(g.unc, 5)] else [])
    ++ (if s.supplyLow then [((fld (s.reg 0x30020) 16 9 : Rat), 9)] else [])

/-- The least term, the first of equal ones. -/
def leastTerm : List (Rat × Nat) → Rat × Nat
  | [] => (0, 0)
  | [p] => p
  | p :: q :: r => let m := leastTerm (q :: r); if p.1 ≤ m.1 then p else m

/-- The credits available for a period (R357). -/
def State.available (s : State) (a : Rat) : Nat :=
  if a ≤ s.die.gov.unc ∨ s.gain * s.vsq ≤ 0 then 0
  else ((a - s.die.gov.unc) * 1000000 / (27 * s.gain * s.vsq)).floor.toNat

/-! ### Demands and grants (R352, R353) -/

/-- The credits that the waiting work of a station asked for in the period and did not receive: of what a long instruction owes, no more than full rate could have drawn (R351, R352). -/
def State.refusedCredits (s : State) (x : Station) : Nat := min (x.iss.flight.map (·.owed)).sum (fullRate s.op - x.iss.spent)

/-- The draw of a station in the period: spent, and asked for without receiving (R352). -/
def State.drew (s : State) (i : Nat) : Nat := (s.stn i).iss.spent + s.refusedCredits (s.stn i)

/-- The learned demands after a period (R352). -/
def State.learn (s : State) : State :=
  let ws := s.awakeStns
  let phases := (ws.map (fun i => (s.stn i).iss.phase.toNat)).dedup
  phases.foldl (fun (t : State) n =>
    let mine := ws.filter (fun i => decide ((s.stn i).iss.phase.toNat = n))
    let mean : Rat := ((mine.map s.drew).sum : Rat) / (mine.length : Rat)
    let d : Rat := fld (s.reg (0x30800 + 4 * n)) 0 16
    let e := (fld (s.reg (0x30800 + 4 * n)) 0 16 : Int) + rne ((mean - d) / 8)
    t.setReg (0x30800 + 4 * n) (BitVec.ofNat 32 (min 51200 e.toNat))) s

/-- The weight of a station (R353). -/
def State.weight (s : State) (i : Nat) : Nat :=
  max (fld (s.reg (0x30800 + 4 * (s.stn i).iss.phase.toNat)) 0 16) (fld (s.reg 0x3002C) 0 16)

/-- Credits shared by weight under one ceiling (R353): stations at their ceiling leave the rest to the others; dropped fractions go to the lowest-indexed ones. Stations left over with weight 0 get a share that the rule does not give: `free`, below an equal part. Log entry 13. -/
def shareCredits (ceil free : Nat) : Nat → Nat → List (Nat × Nat) → List (Nat × Nat)
  | 0, _, _ => []
  | fuel + 1, c, ws =>
    let w := (ws.map (·.2)).sum
    let full := ws.filter (fun p => decide (ceil * w ≤ c * p.2))
    let rest := ws.filter (fun p => !decide (ceil * w ≤ c * p.2))
    if w = 0 then ws.map (fun p => (p.1, min ceil (free % (c / (max 1 ws.length) + 1))))
    else if full.isEmpty then
      let gs := ws.map (fun p => (p.1, c * p.2 / w))
      let lost := c - (gs.map (·.2)).sum
      ((List.range gs.length).zip gs).map (fun q => (q.2.1, q.2.2 + (if q.1 < lost then 1 else 0)))
    else full.map (fun p => (p.1, ceil)) ++ shareCredits ceil free fuel (c - ceil * full.length) rest

/-- The grants of a period (R353): with credits enough for every awake station its ceiling, else shares by weight. -/
def State.grants (s : State) (c : Nat) : List (Nat × Nat) × State :=
  let ws := s.awakeStns.map (fun i => (i, s.weight i))
  let top := fullRate s.op
  if top * ws.length ≤ c then (ws.map (fun p => (p.1, top)), s)
  else
    let (v, t) := if ws.any (fun p => p.2 = 0) then s.fresh else (0, s)
    (shareCredits top v 129 c ws, t)

/-- The order in which waiting work of a station is paid: macros, then WLOAD, then the consist engine (R351). -/
def payRank (f : Flight) : Nat := if opc f.word = 3 then 1 else if opc f.word = 0x20 then 2 else 0

/-- Waiting work of one rank paid from the account. -/
def payRankOf (k : Nat) : List Flight → Nat → Nat → List Flight × Nat × Nat
  | [], acc, sp => ([], acc, sp)
  | f :: r, acc, sp =>
    let n := if payRank f = k then min acc f.owed else 0
    let (fs, a, p) := payRankOf k r (acc - n) (sp + n)
    ({ f with owed := f.owed - n } :: fs, a, p)

/-- A station's account set to its grant, its waiting work paid (R351). -/
def Station.grant (x : Station) (g : Nat) : Station :=
  let (f0, a0, p0) := payRankOf 0 x.iss.flight g 0
  let (f1, a1, p1) := payRankOf 1 f0 a0 p0
  let (f2, a2, p2) := payRankOf 2 f1 a1 p1
  { x with iss := { x.iss with flight := f2, account := a2, spent := p2 } }

/-- Every station's account for the period: its grant, nothing for ASLEEP and WAKING stations. -/
def State.grantAll (s : State) (gs : List (Nat × Nat)) : State :=
  s.die.stns.foldl (fun (t : State) p => t.setStn p.1 ((t.stn p.1).grant ((gs.find? (fun g => decide (g.1 = p.1))).map (·.2) |>.getD 0)))
    (gs.foldl (fun (t : State) g => if s.die.stns.any (fun p => decide (p.1 = g.1)) then t else t.setStn g.1 ((t.stn g.1).grant g.2)) s)

/-! ### Durations (R376) -/

/-- A duration charged: the total of GOV_THRr and the interval value. -/
def State.charge (s : State) (r : Nat) : State :=
  let a := 0x30080 + 8 * r
  let v := (s.reg a).toNat + (s.reg (a + 4)).toNat * 2 ^ 32 + 4
  let s1 := (s.setReg a (BitVec.ofNat 32 v)).setReg (a + 4) (BitVec.ofNat 32 (v / 2 ^ 32))
  let g := s1.die.gov
  s1.setGov { g with interval := g.interval.set (r - 1) (g.interval.getD (r - 1) 0 + 4) }

/-- The reasons charged for the period that ends. -/
def State.charges (s : State) : List Nat :=
  let g := s.die.gov
  let waited := s.die.stns.any (fun p => decide (0 < s.refusedCredits p.2))
  ((if waited then [g.term] else []) ++ (if s.op < g.top then [g.lowBy] else [])
    ++ (if s.die.wakeQ.isEmpty then [] else [6])
    ++ (if g.returning && s.die.stns.any (fun p => p.2.iss.stagger) then [8] else [])).dedup.filter (fun r => decide (0 < r))

/-! ### The period -/

/-- Wake requests admitted: at most 4, none during an alert or the thermal cut (R362). -/
def State.admitWakes (s : State) : State :=
  if s.alerting || s.thermalCut then s
  else
    let now := s.die.wakeQ.take 4
    let s1 := { s with die := { s.die with wakeQ := s.die.wakeQ.drop 4 } }
    now.foldl (fun (t : State) i => t.wakeNow i) s1

/-- The estimate of the period that ends enters the windows and, rounded down, GOV_EST (R354, R358). The rounding is a DESIGN CHOICE, log entry 53. -/
def State.closePeriod (s : State) (lines hops chg : Nat) : State :=
  let u := s.uncredited lines hops chg
  let raw := u + s.creditLoad
  let e := s.gain * raw
  let g := s.die.gov
  let s1 := s.setGov { g with
    capHist := pushHist g.capHist e
    peakHist := pushHist g.peakHist e
    est := e
    unc := s.gain * u
    estSum := g.estSum + raw
    estCount := g.estCount + 1
    boostOff := g.boostOff - 1 }
  s1.setReg 0x30030 (BitVec.ofNat 32 (min 65535 (e * 10).floor.toNat))

/-- The regulator slews by 10 mV towards the point in use, or a higher one to which the clock is to go (R346, R373). -/
def State.slew (s : State) : State :=
  let goal := s.voltOf (max s.op (max s.target s.goalPoint))
  let v := s.die.gov.volt
  s.setGov { s.die.gov with volt := if v < goal then min goal (v + 10) else max goal (v - 10) }

/-- A coast ends where FIXED or COAST_EN no longer allows it (R374, R375). -/
def State.checkCoast (s : State) : State :=
  if bitAt (s.reg 0x30004) 2 && !s.fixed then s else s.endCoast true

/-- A coast's return has ended: the point that the rules give now is in use (R375). -/
def State.settleReturn (s : State) : State :=
  let g := s.die.gov
  s.setGov { g with returning := g.returning && decide (s.op < s.targetPoint) }

/-- The target point and the reason that lowers it, for the period that begins. -/
def State.retarget (s : State) : State :=
  let g := s.die.gov
  let s1 := s.setGov { g with top := s.topPoint, lowBy := s.lowReason, boostOff := if g.boundOften then 10000 else g.boostOff }
  (s1.setFld 0x30000 3 3 s.targetPoint).settleReturn

/-- Allowance and grants of the period that begins (R353, R357). -/
def State.openPeriod (s : State) : State :=
  let (a, r) := leastTerm s.terms
  let c := s.available a
  let (gs, s1) := s.grants c
  let bound := decide (c < fullRate s.op * s.awakeStns.length)
  let g := s1.die.gov
  (s1.setGov { g with term := r, bounds := (bound :: g.bounds).take 1000 }).grantAll gs

/-- The charger's reported input power in mW: none unless it charges, and at most PMAX (R354, R397). -/
def State.chargerPower (s : State) (chg : Nat) : Nat :=
  if bitAt (s.reg 0x40000) 5 then min chg (fld (s.reg 0x4001C) 0 5 * 1000) else 0

/-- The link crossings of the period, of those that the flits sent have still to make (R301, R354). -/
def State.takeHops (s : State) (hops : Nat) : Nat × State :=
  let n := min hops s.die.hops
  (n, { s with die := { s.die with hops := s.die.hops - n } })

/-- GOVERNOR_PERIOD (R347, R351 to R357, R362, R376): the period that ends is closed with the LPDDR5X lines, mesh hops and charger power in mW that it saw; the next one begins. -/
def execGovernorPeriod (lines hops chg : Nat) (s : State) : Result :=
  if s.governed then
    let (n, s0) := s.takeHops hops
    let s1 := s0.charges.foldl (fun (t : State) r => t.charge r) (s0.closePeriod lines n (s0.chargerPower chg))
    .next s1.learn.slew.checkCoast.retarget.openPeriod.admitWakes
  else .next s

/-- The clock at a point whose voltage has settled, which ends a margin event's lowering, and a coast's return where the working point is reached (R373, R375). -/
def State.settlePoint (s : State) (op : Nat) : State :=
  let s1 := (s.setFld 0x30000 0 3 op).setFld 0x30000 3 3 op
  (s1.setGov { s1.die.gov with margin := false }).settleReturn

/-- CLOCK_CHANGE (R346, R373): down at once; up once the voltage of the goal has settled. -/
def execClockChange (s : State) : Result :=
  if s.governed then
    if s.target < s.op then .next (s.setFld 0x30000 0 3 s.target)
    else if s.op ≤ s.goalPoint && decide (s.voltOf s.goalPoint ≤ s.die.gov.volt) then .next (s.settlePoint s.goalPoint)
    else .next s
  else .next s

/-! ### Calibration (R355, R378) -/

/-- The gain after a successful reading: M over the mean estimate, a quarter of the way, within a sixteenth and 0.5 to 2.0. -/
def newGain (g m e : Rat) : Rat :=
  let d := (m / e - g) / 4
  let lim := g / 16
  let step := if lim < d then lim else if d < -lim then -lim else d
  let v := g + step
  if v < 1/2 then 1/2 else if 2 < v then 2 else v

/-- Energy added to GOV_ENERGY, in nJ. -/
def State.addEnergy (s : State) (nj : Nat) : State :=
  let n := s.die.gov.energyFrac + nj
  let v := (s.reg 0x30040).toNat + (s.reg 0x30044).toNat * 2 ^ 32 + n / 1000
  let s1 := (s.setReg 0x30040 (BitVec.ofNat 32 v)).setReg 0x30044 (BitVec.ofNat 32 (v / 2 ^ 32))
  s1.setGov { s1.die.gov with energyFrac := n % 1000 }

/-- A successful reading of M in µW. -/
def State.calibrate (s : State) (m : Nat) : State :=
  let g := s.die.gov
  let mean : Rat := if g.estCount = 0 then 0 else g.estSum / (g.estCount : Rat)
  let s1 := s.addEnergy m
  let s2 := if mean ≤ 0 then s1
    else s1.setFld 0x30034 0 16 (rne (newGain s.gain ((m : Rat) / 1000000) mean * 16384)).toNat
  s2.setGov { s2.die.gov with pmFails := 0, estSum := 0, estCount := 0 }

/-- A failed reading: the gain is kept; the tenth in succession sets it to 1.25 and is logged. The energy of the millisecond is then a free value. -/
def State.failPmbus (s : State) (reg : Nat) : State :=
  let (v, s0) := s.fresh
  let s1 := s0.addEnergy (v % 2 ^ 32)
  let n := s1.die.gov.pmFails + 1
  let s2 := s1.setGov { s1.die.gov with pmFails := n, estSum := 0, estCount := 0 }
  if n = 10 then (s2.setFld 0x30034 0 16 0x5000).logFault 0x0401 0 0x300 (BitVec.ofNat 32 reg) 0 else s2

/-- CALIBRATION (R355): `m` is the measured input power in µW, charger included, or none when the read of regulator `reg` fails. -/
def execCalibration (m : Option Nat) (reg : Fin 7) (s : State) : Result :=
  if s.governed then
    match m with
    | some v => .next (s.calibrate v)
    | none => .next (s.failPmbus reg)
  else .next s

/-! ### Alerts (R363 to R366) -/

/-- The response to an assertion: ALERT, no credits, OP0, the coast ended (R364, R366). -/
def State.alertOn (s : State) : State :=
  let s1 := s.die.stns.foldl (fun (t : State) p => t.setStn p.1 { t.stn p.1 with iss := { (t.stn p.1).iss with account := 0 } }) s
  let s2 := ((s1.setFld 0x30000 6 1 1).setFld 0x30000 0 6 0).endCoast false
  (s2.setGov { s2.die.gov with hold := false }).signal 4

/-- A record for each regulator that a read of STATUS_WORD names (R365). -/
def State.logRegs (s : State) (code : Nat) (regs : List (Fin 7 × BitVec 16)) : State :=
  regs.foldl (fun (t : State) r => t.logFault code 0 0x300 (BitVec.ofNat 32 r.1.val) (BitVec.ofNat 64 r.2.toNat)) s

/-- The inputs judged where the governor starts or resumes (R364 to R366): an input that is asserted acts now; an alert that was kept goes into its hold when both are deasserted. -/
def State.judgeInputs (s : State) : State :=
  if s.sup.pinSupply || s.sup.pinReg then
    let t := s.alertOn
    if s.sup.pinReg then t.logRegs 0x0402 s.sup.words else t
  else if s.alerting then s.setGov { s.die.gov with hold := true }
  else s

/-- An alert input with the level it takes, and the STATUS_WORDs that go with the regulators' assertion. -/
def State.setInput (s : State) (reg on : Bool) (words : List (Fin 7 × BitVec 16)) : State :=
  { s with sup := if reg then { s.sup with pinReg := on, words := words } else { s.sup with pinSupply := on } }

/-- ALERT_ASSERT (R364): SUPPLY_ALERT_N, or the regulators' input with the STATUS_WORDs read. During a halt it has no effect until resume, with the power off until bring-up (R366). -/
def execAlertAssert (reg : Bool) (words : List (Fin 7 × BitVec 16)) (s : State) : Result :=
  let s1 := s.setInput reg true words
  if s.governed then
    let s2 := s1.alertOn
    .next (if reg then s2.logRegs 0x0402 words else s2)
  else .next s1

/-- ALERT_DEASSERT (R365): once both inputs are deasserted the hold begins. -/
def execAlertDeassert (reg : Bool) (s : State) : Result :=
  let s1 := s.setInput reg false []
  if s1.alerting && !s1.sup.pinReg && !s1.sup.pinSupply then .next (s1.setGov { s1.die.gov with hold := true }) else .next s1

/-- ALERT_HOLD_EXPIRY (R365). -/
def execAlertHoldExpiry (s : State) : Result :=
  if s.powered && s.alerting && s.die.gov.hold then
    let s1 := s.setFld 0x30000 6 1 0
    .next (s1.setGov { s1.die.gov with hold := false })
  else .next s

/-- REG_ALERT_LONG (R365): a regulator alert of more than 10 ms logs a second record. -/
def execRegAlertLong (words : List (Fin 7 × BitVec 16)) (s : State) : Result :=
  if s.powered && s.sup.pinReg then .next (s.logRegs 0x0403 words) else .next s

/-- SUPPLY_LOW_END (R367): the input has stood 0.5 V above VLOW for 1 ms. -/
def execSupplyLowEnd (s : State) : Result :=
  if s.supplyLow && decide ((fld (s.reg 0x30020) 0 9 + 5) * 10 ≤ (s.reg 0x40008).toNat) then .next (s.setFld 0x30000 8 1 0) else .next s

/-! ### Temperature (R369) -/

/-- THERMAL_STEP_RISE (R369). -/
def execThermalStepRise (s : State) : Result :=
  if s.governed && decide (s.throttle ≤ s.tj) && decide (s.tsteps < 7) then
    let s1 := s.setFld 0x30000 9 3 (s.tsteps + 1)
    .next ((s1.logFault 0x0404 0 0x300 (BitVec.ofNat 32 s.tj) (BitVec.ofNat 64 (s.tsteps + 1))).signal 4)
  else .next s

/-- THERMAL_STEP_FALL (R369). -/
def execThermalStepFall (s : State) : Result :=
  if s.governed && decide (s.tj + 3 < s.throttle) && decide (0 < s.tsteps) then
    let s1 := s.setFld 0x30000 9 3 (s.tsteps - 1)
    .next ((s1.logFault 0x0404 0 0x300 (BitVec.ofNat 32 s.tj) (BitVec.ofNat 64 (s.tsteps - 1))).signal 4)
  else .next s

/-! ### Ageing and margin (R371 to R373) -/

/-- The trim rises by 5 mV with its audit record, fault record and count (R372). -/
def State.addTrim (s : State) : State :=
  if 50 ≤ s.trim then s
  else
    let (s1, ok) := s.commitFuse 5 s.trim (s.trim + 5) [] (fun f => f)
    if ok then
      let n := fld (s.reg 0x30038) 8 4
      (s1.setReg 0x30038 (BitVec.ofNat 32 (s.trim + 5 + (n + 1) % 16 * 256))).logFault 0x0408 0 0x300 (BitVec.ofNat 32 (s.trim + 5)) 0
    else s1

/-- A margin event (R373): the clock one point lower, the trim raised, or OP7 given up. -/
def State.marginEvent (s : State) : State :=
  let s1 := s.setFld 0x30000 0 3 (s.op - 1)
  let s2 := s1.setGov { s1.die.gov with margin := true, lastMargin := some s.uptime }
  let s3 := if 50 ≤ s.trim then (s2.setFld 0x30000 12 1 1).logFault 0x0409 0 0x300 0 0 else s2.addTrim
  s3.signal 4

/-- Ticks of an hour. -/
def hour : Nat := 14400000000

/-- A low sample of a monitor; more than 1,000 in an hour raise the trim, and its count starts again. Log entry 34. -/
def State.lowSample (s : State) (m : Nat) : State :=
  let old := mget (fun _ => ([] : List Nat)) s.die.gov.lows m
  let now := s.uptime :: old.filter (fun t => decide (s.uptime - t < hour))
  let put (l : List Nat) : State := s.setGov { s.die.gov with lows := mset (fun _ => ([] : List Nat)) s.die.gov.lows m l }
  if 1000 < now.length then (put []).addTrim else put now

/-- MARGIN_SAMPLE (R371): the monitors that report low and those that report short. -/
def execMarginSample (low short : List (Fin 16)) (s : State) : Result :=
  if s.governed then
    let s1 := low.foldl (fun (t : State) (m : Fin 16) => t.lowSample m.val) s
    .next (if short.isEmpty then s1 else s1.marginEvent)
  else .next s

/-- COAST_RETURN (R375). -/
def execCoastReturn (s : State) : Result :=
  if s.live && s.coasting then .next (s.endCoast true) else .next s

/-! ### Registers (R359, R381) -/

/-- A value brought to the nearer end of its range. -/
def clamp (lo hi v : Nat) : Nat := if v < lo then lo else if hi < v then hi else v

/-- A write to a GOV register (R358, R359, R379, R381). -/
def State.govWrite (s : State) (a : Nat) (v : Word) : State :=
  let g := s.die.gov
  match a with
  | 0x30004 =>
    let s1 := s.setReg a (v &&& 0x7)
    if bitAt v 3 then (List.range 9).foldl (fun (t : State) r => (t.setReg (0x30088 + 8 * r) 0).setReg (0x3008C + 8 * r) 0) s1 else s1
  | 0x30008 =>
    let n := clamp 100 440 (fld v 0 9)
    (s.setReg a (BitVec.ofNat 32 n)).setGov { g with capHist := [(99999, (n : Rat))] }
  | 0x3000C =>
    let n := clamp 200 460 (fld v 0 9)
    (s.setReg a (BitVec.ofNat 32 n)).setGov { g with peakHist := [(999, (n : Rat))] }
  | 0x30010 => s.setReg a (BitVec.ofNat 32 (clamp 5 100 (fld v 0 7)))
  | 0x30020 => s.setReg a (putFld (v &&& 0x01FF01FF) 0 9 (clamp 390 440 (fld v 0 9)))
  | 0x30024 => s.setReg a (BitVec.ofNat 32 (clamp 85 105 (fld v 0 7)))
  | 0x30028 => s.ceilingWrite v []
  | _ =>
    match rwMask a with
    | none => s
    | some 0 => s
    | some m => s.setReg a (if 0x30800 ≤ a ∧ a < 0x30C00 then BitVec.ofNat 32 (min 51200 (fld v 0 16)) else v &&& m)

end Sys2Proof.Machine
end

