-- ==== Sys2Proof/Machine/Tender.lean ====
section
/-! DEFINITION. The Tender cartridge (R391, R395 to R401). -/
namespace Sys2Proof.Machine

/-- A bit of TENDER_STATUS. -/
def State.tbit (s : State) (i : Nat) : Bool := bitAt (s.reg 0x40000) i

/-- A bit of TENDER_STATUS set or cleared. -/
def State.setTbit (s : State) (i : Nat) (b : Bool) : State := s.setReg 0x40000 (putBit (s.reg 0x40000) i b)

/-- AUTH: 0 none, 1 pending, 2 authenticated, 3 refused. -/
def State.auth (s : State) : Nat := fld (s.reg 0x40000) 3 2

/-- AUTH set. -/
def State.setAuth (s : State) (n : Nat) : State := s.setFld 0x40000 3 2 n

/-- A copy of the timetable has been selected, which gives the cartridge root key (R396, R405). -/
def State.selected (s : State) : Bool := decide (fld (s.reg 0x10000) 3 2 ≠ 0)

/-- The cartridge voltage in 10 mV. -/
def State.vcart (s : State) : Nat := fld (s.reg 0x4000C) 0 16

/-- The cartridge temperature in tenths of a degree. -/
def State.tcart (s : State) : Int := sx 16 (fld (s.reg 0x4000C) 16 16)

/-! ### Estimates (R391, R398) -/

/-- E(V) in J, from C in mF and V in 10 mV. -/
def energyAt (cap v : Nat) : Rat :=
  let x : Rat := (475/1000000 : Rat) * cap * ((v : Rat) * v / 10000 - 30976/100)
  if x < 0 then 0 else x

/-- EFULL in J. -/
def fullEnergy (cap : Nat) : Rat := (29184/100000 : Rat) * cap

/-- The derating of R391 by temperature in tenths of a degree. -/
def tempFactor (t : Int) : Rat := if 150 ≤ t then 1 else 1 - (2/1000 : Rat) * (150 - t : Int)

/-- WINDOW (R391). -/
def State.windowOf (s : State) : Nat :=
  let t := s.tcart
  if s.tbit 2 && decide (s.auth = 2) && s.tbit 6 && decide (50 ≤ t) && decide (t ≤ 650) then
    let x := tempFactor t * energyAt s.cart.cap s.vcart - 60
    if x < 0 then 0 else (x * (10/13 : Rat)).floor.toNat
  else 0

/-- TENDER_ENERGY and TENDER_WINDOW follow the cartridge (R391, R398, R401). E(V) and EFULL are rounded down into whole joules: DESIGN CHOICE, log entry 53. -/
def State.refresh (s : State) : State :=
  let e := min 65535 (energyAt s.cart.cap s.vcart).floor.toNat
  let f := min 65535 (fullEnergy s.cart.cap).floor.toNat
  (s.setReg 0x40010 (BitVec.ofNat 32 (if s.tbit 2 then e + f * 65536 else 0))).setReg 0x40014 (BitVec.ofNat 32 (min 65535 s.windowOf))

/-- Vector 3 when AUTH, EOL or WINDOW = 0 has changed between two states (R441). -/
def State.tellTender (before after : State) : State :=
  let key (s : State) : Nat × Bool × Bool := (s.auth, s.tbit 7, decide (s.reg 0x40014 = 0))
  if key before = key after then after else after.signal 3

/-- End of life (R399): set and logged once. `aged` says that 5 years have passed since first use. -/
def State.checkEol (s : State) (aged : Bool) : State :=
  let old := s.tbit 2 && decide (s.auth = 2) &&
    (decide (fullEnergy s.cart.cap < 600) || decide (50000 ≤ (s.reg 0x40018).toNat) || aged)
  if old && !s.cart.eolLogged then
    let s1 := { s.setTbit 7 true with cart := { s.cart with eolLogged := true } }
    s1.logFault 0x040B 0 0x300 (BitVec.ofNat 32 (min 65535 (fullEnergy s.cart.cap).floor.toNat)) (BitVec.ofNat 64 (s.reg 0x40018).toNat)
  else s

/-! ### Paths and charging (R396, R397) -/

/-- Nothing pauses the charge (R397). -/
def State.mayCharge (s : State) : Bool :=
  s.tbit 2 && decide (s.auth = 2) && !s.cart.cal && !s.supplyLow && bitAt (s.reg 0x40004) 0
    && decide (0 ≤ s.tcart) && decide (s.tcart ≤ 500) && decide (s.supState = 0)

/-- A charge that is due ends at 30.4 V and is under way while nothing pauses it; the discharge path follows authentication and temperature (R397). -/
def State.paths (s : State) : State :=
  let due := s.cart.due && decide (s.vcart < 3040) && s.tbit 2 && decide (s.auth = 2)
  let s1 := { s with cart := { s.cart with due := due } }
  (s1.setTbit 5 (due && s1.mayCharge)).setTbit 6 (s.tbit 2 && decide (s.auth = 2) && decide (50 ≤ s.tcart) && decide (s.tcart ≤ 650))

/-- A charge is due below a voltage, outside a calibration discharge. -/
def State.startCharge (s : State) (below : Nat) : State :=
  if decide (s.vcart < below) && !s.cart.cal then ({ s with cart := { s.cart with due := true } }).paths else s.paths

/-- CHARGE_START (R397). -/
def execChargeStart (s : State) : Result := .next (s.startCharge 3000)

/-- A measured capacitance (R398). -/
def State.measured (s : State) (cap : Nat) : State :=
  ({ s with cart := { s.cart with cap := cap } }.setReg 0x40020 0).setTbit 8 false

/-! ### Loss of the always-on domain (R394, R480) -/

/-- LINK_PARTNER.DIR, from the spill image while the die is off. -/
def State.partnerDir (s : State) : Nat :=
  match s.spill with
  | some p => fld (mget regReset p.die.reg 0x80820) 0 3
  | none => fld (s.reg 0x80820) 0 3

/-- The module's snapshots lie in its own region: direction 6 or 7, or solo mode (R15, R341). -/
def State.ownRegion (s : State) : Bool := bitAt (s.reg 0x10000) 5 || decide (6 ≤ s.partnerDir)

/-- The always-on registers after power returns: all at reset but TENDER_CNT_LOST, which the halt log keeps, and PRESENT, which reads a pin (R400, R401, R480). -/
def State.coldRegs (s : State) : SMap Word :=
  mset regReset (mset regReset [] 0x40000 (if s.tbit 2 then 4 else 0)) 0x40034 (s.reg 0x40034)

/-- The supply after the always-on domain has lost power: the trip latch passes to its report, or clears once reported (R370). -/
def Supply.cold (p : Supply) (reported : Bool) : Supply :=
  ⟨0, 0, if p.trip = 1 then 2 else if reported then 0 else p.trip, 0, false, p.pinSupply, p.pinReg, p.words, p.perst, 0⟩

/-- The always-on domain loses power (R394): registers, memories and the die state are gone; flash, fuses and what a partner holds of this module stay. HALT_OUT_N is high again. -/
def State.powerLoss (s : State) : State :=
  let (c, s0) := s.fresh
  let s1 := if s0.supState = 0 then s0 else s0.emit (.haltOut false)
  { s1 with
    die := Die.reset
    aoReg := s.coldRegs
    lpddr := []
    poison := []
    images := []
    snapHalf := 0
    memWait := []
    uptime := 0
    powered := false
    snaps := if s.ownRegion then [] else s1.snaps
    snapOut := none
    spill := none
    plan := Plan.none
    image := []
    meas := List.replicate 8 (List.replicate 48 0)
    mbx := ⟨none, [], []⟩
    cart := ⟨c % 2 ^ 20, 0, 0, false, false, false⟩
    asked := []
    sup := s.sup.cold (bitAt (s.reg 0x10000) 8)
    latch := []
    ownSteps := [] }

/-- The cause of a loss entered in the open record of the halt log (R394). -/
def State.logLoss (s : State) (cause : Nat) : State :=
  let hs : List HaltRecord := s.haltLog.map (fun (r : HaltRecord) => if r.closed then r else { r with cause := cause })
  { s with haltLog := hs }

/-- In hold the memory is lost when the cartridge leaves while the input stands below 42.0 V (R394). -/
def State.holdBroken (s : State) : Bool := decide (s.supState = 2) && decide ((s.reg 0x40008).toNat < 4200)

/-- A command on the J3 bus to the identity chip (R395). -/
def State.smbus (s : State) (code : Nat) (bytes : List Byte) : State := s.emit (.smbus 0x5A code bytes)

/-- CARTRIDGE_STATUS_READ (R391, R395, R397 to R399): voltage in 10 mV, temperature in tenths of a degree, cycle count, and the capacitance in mF when a charge has crossed the span from 22.0 V to 30.0 V. -/
def execCartridgeStatusRead (v : BitVec 16) (t : BitVec 16) (cycles : Word) (cap : Option Nat) (s : State) : Result :=
  if s.tbit 2 && s.selected then
    let s1 := (((s.smbus 0x40 []).smbus 0x10 []).setReg 0x4000C (BitVec.ofNat 32 (v.toNat + t.toNat * 65536))).setReg 0x40018 cycles
    let s2 := match cap with
      | some c => if s1.tbit 5 && decide (3000 ≤ v.toNat) then s1.measured c else s1
      | none => s1
    let s3 := s2.paths.refresh
    if s3.holdBroken && s.tbit 6 && !s3.tbit 6 then .next (s3.logLoss 2).powerLoss
    else .next (s.tellTender (s3.checkEol false))
  else .next s

/-! ### Presence (R400) -/

/-- A cartridge is gone: WINDOW 0, PRESENT clear, both paths open. -/
def State.cartGone (s : State) : State :=
  let s1 := (((((s.setTbit 2 false).setAuth 0).setTbit 5 false).setTbit 6 false).setTbit 7 false).setTbit 9 false
  let s2 := { s1 with cart := ⟨0, 0, 0, false, false, false⟩ }
  s2.refresh

/-- CARTRIDGE_INSERTION (R400): PRESENT, authentication pending once a copy gives the root key. Its capacitance is a free value until measured. -/
def execCartridgeInsertion (s : State) : Result :=
  if s.tbit 2 then .next s
  else
    let (c, s0) := s.fresh
    let s1 := (s0.setTbit 2 true).setAuth (if s.selected then 1 else 0)
    let s2 := { s1 with cart := ⟨c % 2 ^ 20, 0, 0, false, false, false⟩ }
    .next (s.tellTender s2.refresh)

/-! ### Authentication (R396) -/

/-- A refusal: both paths open, counted, logged with its cause. -/
def State.refuseCart (s : State) (cause : Nat) : State :=
  let s1 := { s.setAuth 3 with cart := { s.cart with noResp := 0, due := false } }.paths
  (s1.bump 0x40038 1).logFault 0x040A 0 0x300 (BitVec.ofNat 32 cause) 0

/-- A fresh 48 B nonce: a free value. -/
def State.nonce (s : State) : List Byte × State :=
  let (n, t) := s.fresh
  (leBytes 48 n, t)

/-- An accepted cartridge: its serial and cycle count, its paths closed, its charge begun (R396, R397). -/
def State.acceptCart (s : State) (r : CartResp) : State :=
  let s1 := (s.setAuth 2).setReg 0x40018 r.cycles
  let s2 := (s1.setReg 0x40024 (BitVec.ofNat 32 r.serial.toNat)).setReg 0x40028 (BitVec.ofNat 32 (r.serial.toNat / 2 ^ 32))
  let s3 := { s2 with cart := { s2.cart with firstUse := r.firstUse, noResp := 0 } }
  (s3.startCharge 3040).refresh.checkEol false

/-- The commands of an authentication: the identity, the 16 chunks of the certificate, the challenge, the response, the status line (R395, R396). -/
def State.challenge (s : State) (nonce : List Byte) : State :=
  let s1 := (List.range 16).foldl (fun (t : State) n => t.smbus 0x20 [BitVec.ofNat 8 n]) (s.smbus 0x10 [])
  ((s1.smbus 0x30 nonce).smbus 0x31 []).smbus 0x40 []

/-- One authentication with the answer of the cartridge, or none when a transaction has failed its PEC three times (R395, R396). Only successive failures to respond count towards a refusal. -/
def State.authenticate (s : State) (r : Option CartResp) : State :=
  let (nonce, s0) := s.nonce
  match r with
  | none =>
    let n := s0.cart.noResp + 1
    if 3 ≤ n then (s0.refuseCart 2).refresh
    else { s0 with cart := { s0.cart with noResp := n } }
  | some a =>
    let s1 := s0.challenge nonce
    match Config.cartKey s1.image a.cert with
    | none => (s1.refuseCart 0).refresh
    | some key =>
      let msg := nonce ++ leBytes 8 a.serial.toNat ++ leBytes 4 a.cycles.toNat ++ a.status
      if ecdsaVerify key (hash48 msg) a.sig then s1.acceptCart a else (s1.refuseCart 1).refresh

/-- The module may authenticate: a cartridge is seated and a copy selected; in hold the cartridge in use stays in use (R396). -/
def State.mayAuth (s : State) : Bool := s.tbit 2 && s.selected && !(decide (s.supState = 2) && decide (s.auth = 2))

/-- AUTHENTICATION (R396): after insertion or selection, and every 24 h. -/
def execAuthentication (r : Option CartResp) (s : State) : Result :=
  if s.mayAuth then .next (s.tellTender (s.authenticate r)) else .next s

/-- AUTH_RETRY (R396): a cartridge that gave no response is asked again. -/
def execAuthRetry (r : Option CartResp) (s : State) : Result :=
  if s.mayAuth && decide (0 < s.cart.noResp) then .next (s.tellTender (s.authenticate r)) else .next s

/-! ### Calibration (R398, R399) -/

/-- CAL_DISCHARGE_END (R398): the discharge has reached 22.0 V and the recharge measures the capacitance, in mF. -/
def execCalDischargeEnd (cap : Nat) (s : State) : Result :=
  if s.cart.cal then
    let s1 := { s.setTbit 9 false with cart := { s.cart with cal := false } }
    .next (s.tellTender (((s1.measured cap).startCharge 3040).refresh.checkEol false))
  else .next s

/-- CALAGE_DAY (R398, R399). -/
def execCalageDay (aged : Bool) (s : State) : Result :=
  let n := min 65535 ((s.reg 0x40020).toNat + 1)
  let s1 := s.setReg 0x40020 (BitVec.ofNat 32 n)
  .next (s.tellTender ((if 30 < n then s1.setTbit 8 true else s1).checkEol aged))

/-- A write to TENDER_CTRL (R397, R398, R401): CAL starts a calibration of an authenticated cartridge; REAUTH makes an unauthenticated one pending again. -/
def State.tenderCtrl (s : State) (v : Word) : State :=
  let s1 := s.setReg 0x40004 (v &&& 1)
  let s2 := if bitAt v 1 && s1.tbit 2 && decide (s1.auth = 2) && decide (s1.supState = 0) then
      { s1.setTbit 9 true with cart := { s1.cart with cal := true, due := false } } else s1
  let s3 := if bitAt v 2 && s2.tbit 2 && decide (s2.auth ≠ 2) && s2.selected then { s2.setAuth 1 with cart := { s2.cart with noResp := 0 } } else s2
  s.tellTender s3.paths

end Sys2Proof.Machine
end

