-- ==== Sys2Proof/Machine/HostQ.lean ====
section
/-! DEFINITION. Session writes and the host data queues (R230, R231, R433 to R440). -/
namespace Sys2Proof.Machine

/-! ### Sessions (R229 to R231) -/

/-- A dword with its enabled bytes replaced (R470). -/
def enabled (old : Word) (en : BitVec 4) (v : Word) : Word :=
  BitVec.ofNat 32 (leNat ((List.range 4).map (fun k => BitVec.ofNat 8 (fld (if bitAt en k then v else old) (8 * k) 8))))

/-- A host write of STATE that R230 lists for the current state. -/
def hostMove (old new : Nat) : Bool :=
  (old, new) ∈ [(0, 1), (1, 2), (1, 0), (2, 0), (4, 0)]

/-- A write is refused: counted, vector 2 (R230, R441). -/
def State.refuseSession (s : State) : State := (s.bump 0x4F000C 1).signal 2

/-- A session enters READY: READYSEQ takes the next value of the counter (R230). -/
def State.giveReadySeq (s : State) (i : Nat) : State :=
  let n := s.die.sess.readySeq
  { s.setReg (sessAddr i 3) n with die := { (s.setReg (sessAddr i 3) n).die with sess := { s.die.sess with readySeq := n + 1 } } }

/-- A host write to dword `k` of session descriptor `i` (R229 to R231): refused while the session is BERTHED, and where byte 0 bears a state that is not listed; reserved bits stay 0. -/
def State.sessionWrite (s : State) (i k : Nat) (en : BitVec 4) (v : Word) : State :=
  let old := s.sessState i
  let w := enabled (s.reg (sessAddr i k)) en v &&& sessMask k
  if old = 3 then s.refuseSession
  else if k = 0 && bitAt en 0 then
    if hostMove old (fld v 0 8) then
      let s1 := s.setReg (sessAddr i 0) w
      if fld v 0 8 = 2 then s1.giveReadySeq i else s1
    else s.refuseSession
  else s.setReg (sessAddr i k) w

/-- A write to SESSION_CMD (R232, R234): PARK of a BERTHED session is pending until the next step boundary. -/
def State.sessionCmd (s : State) (v : Word) : State :=
  let i := fld v 0 14
  if fld v 14 2 = 1 && decide (i < 10240) && decide (s.sessState i = 3) then
    { s with die := { s.die with sess := { s.die.sess with park := if s.die.sess.park.contains i then s.die.sess.park else s.die.sess.park ++ [i] } } }
  else s.refuseSession

/-! ### Queues -/

/-- A queue's registers (R445). -/
def qBase (q : Nat) : Nat := 0x50000 + 0x100 * q

/-- The ring size as a power of two; other values act as the nearer end (R445). -/
def State.qSize (s : State) (q : Nat) : Nat := 2 ^ (clamp 6 16 (fld (s.reg (qBase q)) 3 5))

/-- TAIL modulo the ring size (R435). -/
def State.qTail (s : State) (q : Nat) : Nat := fld (s.reg (qBase q + 0x14)) 0 16 % s.qSize q

/-- HEAD. -/
def State.qHead (s : State) (q : Nat) : Nat := fld (s.reg (qBase q + 0x18)) 0 16 % s.qSize q

/-- A descriptor is pending. -/
def State.qPending (s : State) (q : Nat) : Bool := decide (s.qHead q ≠ s.qTail q)

/-- The first line of the queue's LPDDR5X ring, and its length L in lines (R433). -/
def State.qLine (s : State) (q : Nat) : Nat := fld (s.reg (qBase q + 0x1C)) 0 27 * 64

/-- L. -/
def State.qLen (s : State) (q : Nat) : Nat := fld (s.reg (qBase q + 0x20)) 0 19 * 64

/-- PROD as line 0 of the ring holds it. -/
def State.qProd (s : State) (q : Nat) : Nat := leNat (s.memBytes (s.qLine q * 64) 4)

/-- The record count in line 0. -/
def State.qCount (s : State) (q : Nat) : Nat := leNat (s.memBytes (s.qLine q * 64 + 4) 4)

/-- CONS as line 1 of the ring holds it. -/
def State.qCons (s : State) (q : Nat) : Nat := leNat (s.memBytes ((s.qLine q + 1) * 64) 4)

/-- The producer line written (R433). -/
def State.setProd (s : State) (q prod count : Nat) : State :=
  s.putLine (s.qLine q) (padTo 64 (leBytes 4 prod ++ leBytes 4 count))

/-- The consumer line written. -/
def State.setCons (s : State) (q cons : Nat) : State := s.putLine (s.qLine q + 1) (padTo 64 (leBytes 4 cons))

/-- The ring lies wholly below USERTOP and is not empty (R433). -/
def State.qRingOk (s : State) (q : Nat) : Bool :=
  decide (0 < s.qLen q) && decide ((s.qLine q + s.qLen q) * 64 ≤ s.userTop * 0x100000)

/-- The producer index that the feed last read (R437). -/
def State.polled (s : State) (q : Nat) : Nat := mget (fun _ => (0 : Nat)) s.die.polled q

/-- The producer line read (R289, R290, R437). -/
def State.poll (s : State) (q : Nat) : State :=
  let t := s.readLine (s.qLine q) false false
  { t with die := { t.die with polled := mset (fun _ => (0 : Nat)) t.die.polled q (t.qProd q) } }

/-- The consumer line read, as the feed does before it judges whether a record fits (R289, R290, R436). -/
def State.readCons (s : State) (q : Nat) : State := s.readLine (s.qLine q + 1) false false

/-- A queue reset: HEAD and TAIL 0, pending descriptors left with STATUS 0 (R440). -/
def State.qClear (s : State) (q : Nat) : State := (s.setReg (qBase q + 0x14) 0).setReg (qBase q + 0x18) 0

/-- A write to HOSTQ_Qq_CTRL (R433, R440, R445): QRESET first, then the fields; DIR only while EN is 0; EN only for a ring that R433 admits. -/
def State.qCtrl (s : State) (q : Nat) (v : Word) : State :=
  let a := qBase q
  let was := bitAt (s.reg a) 0
  let s1 := if bitAt v 2 then s.qClear q else s
  let dir := if was then bitAt (s.reg a) 1 else bitAt v 1
  let en := bitAt v 0 && s1.qRingOk q
  let s2 := s1.setReg a (putBit (putBit (v &&& 0x00FFFFFB) 0 en) 1 dir)
  if en && !was then (if dir then (s2.poll q).readCons q else (s2.setProd q 2 0).setCons q 2) else s2

/-- The queue serves descriptors: live, enabled in a direction, D0, not in reset, one pending (R429, R435, R440). -/
def State.qServes (s : State) (q : Nat) (out : Bool) : Bool :=
  s.live && !s.sup.perst && !s.die.pcie.d3 && bitAt (s.reg (qBase q)) 0 && (bitAt (s.reg (qBase q)) 1 == out) && s.qPending q

/-- The host address of the descriptor at HEAD. -/
def State.descAddr (s : State) (q : Nat) : Nat :=
  (s.reg (qBase q + 4)).toNat / 4096 * 4096 + (s.reg (qBase q + 8)).toNat * 2 ^ 32 + 32 * s.qHead q

/-- A descriptor completes (R437, R438): STATUS, HEAD, and for IRQ or an empty ring the writeback and the vector. STATUS 2, 3 and 4 are counted. -/
def State.qComplete (s : State) (q status : Nat) (irq : Bool) : State :=
  let a := qBase q
  let s1 := s.leaveL1.emit (.hostWrite (s.descAddr q + 0x18) (leBytes 4 status))
  let head := (s1.qHead q + 1) % s1.qSize q
  let s2 := s1.setReg (a + 0x18) (BitVec.ofNat 32 head)
  let s3 := if status = 2 ∨ status = 3 ∨ status = 4 then s2.bump (a + 0x28) 1 else s2
  if irq || !s3.qPending q then
    let wb := (s3.reg (a + 0x0C)).toNat / 8 * 8 + (s3.reg (a + 0x10)).toNat * 2 ^ 32
    (s3.emit (.hostWrite wb (leBytes 8 head))).signal (16 + q)
  else s3

/-- The lines of data and scale that LEN bytes of a KIND make (R436); none where LEN does not fit. -/
def recordLines (kind len : Nat) : Option (Nat × Nat) :=
  if len = 0 ∨ 2 ^ 26 < len then none
  else if kind = 0 then some ((len + 63) / 64, 0)
  else
    let b := blockLines kind * 64
    let t := itemBytes kind
    if len % (b + t) = 0 then
      let nb := len / (b + t)
      some (nb * b / 64, (nb * t + 63) / 64)
    else none

/-- Where a record of `n` lines goes (R434): the line, whether a pad stands at PROD, and PROD afterwards; none while it does not fit. -/
def place (prod cons l n : Nat) : Option (Nat × Bool × Nat) :=
  if prod < cons then (if prod + n < cons then some (prod, false, prod + n) else none)
  else if prod + n < l then some (prod, false, prod + n)
  else if prod + n = l ∧ 2 < cons then some (prod, false, 2)
  else if prod + n = l then none
  else if 2 + n < cons then some (2, true, 2 + n)
  else none

/-- The header line of a record (R434). -/
def headerLine (seq session kind flags d t len : Nat) (user : BitVec 64) : List Byte :=
  padTo 64 (leBytes 4 seq ++ leBytes 2 session ++ leBytes 1 kind ++ leBytes 1 flags ++ leBytes 4 d ++ leBytes 4 t
    ++ leBytes 4 len ++ leBytes 4 0 ++ leBytes 8 user.toNat)

/-- A token made present at a station as a GIVE does: a sleeping station holds it and asks for wake (R107, R273, R274). -/
def State.grantToken (s : State) (i t : Nat) : State :=
  let run := (s.stn i).ctl.run
  if run = .asleep ∨ run = .waking then
    (s.setMesh (s.die.mesh ++ [⟨coreNode, i, coreNode, 0, none, .token t⟩])).holdAtRouter i ⟨coreNode, i, coreNode, 0, none, .token t⟩ s.die.mesh
  else s.giveToken i t

/-- Step 4 of R436: input for a PARKED session whose FEEDQ is q makes it READY; any other is counted. -/
def State.feedSession (s : State) (q sess : Nat) : State :=
  if sess = 0xFFFF then s
  else if decide (sess < 10240) && decide (s.sessState sess = 1) && decide (fld (s.reg (sessAddr sess 0)) 16 4 = q) then
    (s.sessMove sess 2 0).giveReadySeq sess
  else s.bump (qBase q + 0x28) 1

/-- Step 5 of R436. -/
def State.feedToken (s : State) (q : Nat) : State :=
  let c := s.reg (qBase q)
  if bitAt c 8 then s.grantToken (fld c 9 7) (fld c 16 8) else s

/-- A pad header at PROD (R434). Its bytes besides KIND are free values. -/
def State.putPad (s : State) (q : Nat) : State :=
  let (r, s1) := s.fresh
  s1.putLine (s.qLine q + s.qProd q) ((leBytes 64 r).set 6 0xFF)

/-- A record written at its place and the producer line after it (R434, R436). -/
def State.putRecord (s : State) (q : Nat) (d : HostDesc) (buf : List Byte) (dl sl line : Nat) (pad : Bool) (prod : Nat) : State :=
  let base := s.qLine q
  let s1 := if pad then s.putPad q else s
  let bytes := padTo (dl * 64) (buf.take (dl * 64)) ++ padTo (sl * 64) (buf.drop (dl * 64))
  let s2 := s1.setLines (base + line + 1) bytes (dl + sl)
  let s3 := s2.putLine (base + line) (headerLine (s.qCount q) d.session.toNat d.kind.toNat (d.flags.toNat % 2) dl sl d.len.toNat d.user)
  (s3.setProd q prod (s.qCount q + 1)).bump (qBase q + 0x24) 1

/-- INBOUND_DESCRIPTOR (R436): the descriptor at HEAD, and its buffer as read, or none when the read failed. -/
def execInboundDescriptor (q : Fin 16) (d : HostDesc) (buf : Option (List Byte)) (s : State) : Result :=
  if s.qServes q false then
    let irq := bitAt d.flags 1
    if 6 < d.kind.toNat then .next (s.qComplete q 3 irq)
    else match recordLines d.kind.toNat d.len.toNat with
      | none => .next (s.qComplete q 2 irq)
      | some (dl, sl) =>
        if s.qLen q < 1 + dl + sl + 3 then .next (s.qComplete q 2 irq)
        else
          let t := s.readCons q
          match place (t.qProd q) (t.qCons q) (t.qLen q) (1 + dl + sl) with
          | none => .next t
          | some (line, pad, prod) =>
            match buf with
            | none => .next (t.qComplete q 4 irq)
            | some b =>
              let s1 := t.putRecord q d (b.take d.len.toNat) dl sl line pad prod
              .next (((s1.feedSession q d.session.toNat).feedToken q).qComplete q 1 irq)
  else .next s

/-! ### Outbound (R437) -/

/-- A record header as the ring holds it. -/
structure Header where
  session : Nat
  kind : Nat
  last : Bool
  dlines : Nat
  slines : Nat
  bytes : Nat
  user : Nat
  deriving DecidableEq, Repr

/-- The header at a line of the ring (R434). -/
def State.headerAt (s : State) (q line : Nat) : Header :=
  let a := (s.qLine q + line) * 64
  let n (o k : Nat) : Nat := leNat (s.memBytes (a + o) k)
  ⟨n 4 2, n 6 1, bitAt (BitVec.ofNat 8 (n 7 1)) 0, n 8 4, n 12 4, n 16 4, n 24 8⟩

/-- The index of the line after a record, from line 2 again at the end of the ring. -/
def afterRecord (l line : Nat) (h : Header) : Nat := if line + 1 + h.dlines + h.slines < l then line + 1 + h.dlines + h.slines else 2

/-- CONS moved past a record, and the record counted (R437). -/
def State.passRecord (s : State) (q line : Nat) (h : Header) : State := s.setCons q (afterRecord (s.qLen q) line h)

/-- A record whose header has been read copied to the host buffer and its descriptor filled in (R437). -/
def State.copyRecord (s : State) (q line : Nat) (h : Header) (d : HostDesc) : State :=
  let n := min h.bytes d.len.toNat
  let s1 := s.readLines (s.qLine q + line + 1) (h.dlines + h.slines)
  let s2 := s1.emit (.hostWrite d.addr (s1.memBytes ((s1.qLine q + line + 1) * 64) n))
  let fl := d.flags.toNat / 2 * 2 + (if h.last then 1 else 0)
  let s3 := s2.emit (.hostWrite (s2.descAddr q + 8) (leBytes 4 n ++ leBytes 2 h.session ++ leBytes 1 h.kind ++ leBytes 1 fl ++ leBytes 8 h.user))
  (s3.passRecord q line h).bump (qBase q + 0x24) 1

/-- OUTBOUND_DESCRIPTOR (R437): the record at CONS goes to the host buffer; `ok` says that the host took the write. A pad is skipped first. A record of another KIND is skipped with STATUS 3; one that runs past the ring has STATUS 2. -/
def execOutboundDescriptor (q : Fin 16) (d : HostDesc) (ok : Bool) (s : State) : Result :=
  if s.qServes q true && decide (s.polled q ≠ s.qCons q) then
    let irq := bitAt d.flags 1
    let c := s.qCons q
    let pad := decide ((s.headerAt q c).kind = 0xFF)
    let line := if pad then 2 else c
    let s0 := s.readLines (s.qLine q + c) 1
    let s1 := if pad then s0.setCons q 2 else s0
    if s1.polled q = line then .next s1
    else
      let h := s1.headerAt q line
      let s2 := if pad then s1.readLines (s.qLine q + 2) 1 else s1
      if s1.qLen q < line + 1 + h.dlines + h.slines then .next (s2.qComplete q 2 irq)
      else if 6 < h.kind then .next ((s2.passRecord q line h).qComplete q 3 irq)
      else if !ok then .next (s2.qComplete q 4 irq)
      else .next ((s2.copyRecord q line h d).qComplete q (if d.len.toNat < h.bytes then 6 else 1) irq)
  else .next s

/-- PRODUCER_LINE_POLL (R437). -/
def execProducerLinePoll (q : Fin 16) (s : State) : Result :=
  if s.qServes q true then .next (s.poll q) else .next s

end Sys2Proof.Machine
end

