-- ==== Sys2Proof/Machine/Timetable.lean ====
section
/-! DEFINITION. The timetable copies in the flash: format, the checks of R412, and the recovery mailbox (R407 to R417). -/
namespace Sys2Proof.Machine

/-- Where copy 0 (A) or 1 (B) begins (R407). -/
def copyBase (slot : Nat) : Nat := 0x1000000 * slot

/-- A little-endian field of a copy. -/
def State.copyField (s : State) (slot o n : Nat) : Nat := leNat (s.flashBytes (copyBase slot + o) n)

/-- A section of a copy (R410): TYPE, bit 0 of SFLAGS, where its value begins in the copy, and its length. -/
structure Section where
  type : Nat
  must : Bool
  at' : Nat
  len : Nat
  deriving DecidableEq, Repr

/-- The sections from an offset up to LENGTH; none where one runs past it (R409, R410). -/
def State.sectionsFrom (s : State) (slot len : Nat) : Nat → Nat → Option (List Section)
  | 0, _ => none
  | fuel + 1, o =>
    if len ≤ o then some []
    else
      let v := s.copyField slot (o + 4) 4
      let nxt := o + (16 + v + 63) / 64 * 64
      if len < nxt then none
      else (s.sectionsFrom slot len fuel nxt).map (fun r =>
        ⟨s.copyField slot o 2, decide (s.copyField slot (o + 2) 2 % 2 = 1), o + 16, v⟩ :: r)

/-- LENGTH, SECVER and SERIAL of a copy (R409). -/
def State.copyLen (s : State) (slot : Nat) : Nat := s.copyField slot 8 4

/-- The sections of a copy. -/
def State.sections (s : State) (slot : Nat) : List Section := (s.sectionsFrom slot (s.copyLen slot) 66 0x80).getD []

/-- The bytes of the value of a section. -/
def State.sectionBytes (s : State) (slot : Nat) (c : Section) : List Byte := s.flashBytes (copyBase slot + c.at') c.len

/-- The section of a type. -/
def State.sectionOf (s : State) (slot type : Nat) : Option Section := (s.sections slot).find? (fun c => decide (c.type = type))

/-- SOLO of a copy. -/
def State.copySolo (s : State) (slot : Nat) : Bool := decide (s.copyField slot 0x0D 1 % 2 = 1)

/-- HASH of a copy (R411). -/
def State.copyHash (s : State) (slot : Nat) : List Byte := s.flashBytes (copyBase slot + s.copyLen slot) 48

/-- The digest in the active owner key slot (R411, R418). -/
def State.ownerDigest (s : State) : List Byte :=
  if s.fuses.slot = 0 then fix 48 Config.customerKey else s.fuses.slots.getD (s.fuses.slot - 1) []

/-- What a copy holds for the POS straps sampled. -/
def State.planOf (s : State) (slot : Nat) : Plan :=
  Config.readPlan (s.flashBytes (copyBase slot) (s.copyLen slot)) (fld (s.reg 0x14) 0 6)

/-- A register record may name the address (R412, R414). -/
def recordTarget (a : Nat) : Bool :=
  (decide (0x30000 ≤ a) && decide (a < 0x40000) && decide (a ≠ 0x30028))
    || (decide (0x50000 ≤ a) && decide (a < 0x60000))
    || (decide (0x80000 ≤ a) && decide (a < 0x8C000) && !(a = 0x80800 || a = 0x80804 || a = 0x80808 || a = 0x8080C || a = 0x80820))
    || (decide (0x100000 ≤ a) && decide (a < 0x114000))
    || (decide (0x200000 ≤ a) && decide (a < 0x500000))
    || (decide (0x2000000 ≤ a) && decide (a < 0x2800000))

/-- A collective definition of 32 B (R334). -/
def readColl (b : List Byte) : CollDef :=
  let n (i : Nat) : Nat := (b.getD i 0).toNat
  ⟨n 0, n 1, n 2, [n 4, n 5, n 6], [n 7, n 8, n 9], [n 10, n 11, n 12], [n 13, n 14, n 15], BitVec.ofNat 128 (leNat (b.drop 16))⟩

/-- A definition keeps R334: KIND 0 to 3, and for a used one every field within its range and no box that meets itself. -/
def collOk (dims : Nat → Nat) (c : CollDef) : Bool :=
  decide (c.kind = 0) || (decide (c.kind ≤ 3) && decide (c.stn < 128)
    && (List.range 3).all (fun d =>
      let k := c.count.getD d 0
      let t := c.stride.getD d 0
      decide (c.start.getD d 0 < 32) && decide (1 ≤ k) && decide (k ≤ 32) && decide (1 ≤ t) && decide (t < 32)
        && decide (k * t ≤ dims d) && decide (c.root.getD d 0 < k)))

/-- The register records of a copy: OWNER_CONFIG with its user inline-ECC regions, LIMITS, JOB (R410, R414). -/
def planRecords (p : Plan) : List (Nat × Word) :=
  p.config ++ ((List.range p.ecc.length).zip p.ecc).flatMap (fun e =>
    [(0x100810 + 8 * e.1, BitVec.ofNat 32 e.2.1), (0x100814 + 8 * e.1, BitVec.ofNat 32 e.2.2)]) ++ p.limits ++ p.jobRegs

/-- The value that the records leave in a register that is written once: that of the first record which names it (R8). -/
def planLeaves (p : Plan) (a : Nat) : Nat :=
  match (planRecords p).find? (fun r => decide (r.1 = a)) with
  | some r => (r.2 &&& ((rwMask a).getD 0)).toNat
  | none => 0

/-- The copy keeps R289 and the conditions of R501, which bind its register records too: at most four user inline-ECC regions, below USERTOP, apart. -/
def State.eccOk (s : State) (p : Plan) : Bool := decide (p.ecc.length ≤ 4) && !s.regionsBad (planLeaves p)

/-- The torus keeps R323 and the POS entry is used; the coordinates lie in it. -/
def torusOk (p : Plan) : Bool :=
  let n (d : Nat) : Nat := fld p.dims (6 * d) 6
  let size := n 0 * n 1 * n 2
  (List.range 3).all (fun d => decide (1 ≤ n d) && decide (n d ≤ 32) && decide (fld p.entry (5 * d) 5 < n d) && decide (fld p.root (5 * d) 5 < n d))
    && decide (size ≤ 12288) && decide (p.dbase + size ≤ 16384) && bitAt p.entry 31

/-- The content rules of reason 10 (R412). -/
def State.contentOk (s : State) (slot : Nat) : Bool :=
  let p := s.planOf slot
  let dims (d : Nat) : Nat := if p.torus then fld p.dims (6 * d) 6 else 1
  (planRecords p).all (fun r => recordTarget r.1)
    && (!p.torus || torusOk p) && s.eccOk p
    && (p.colls.all (fun c => decide (c.1 < 256) && collOk dims (readColl c.2)))
    && decide (p.ranges.length ≤ 16)
    && (match p.opmax with | some n => decide (n ≤ 7) | none => true)

/-- The VENDOR_FW value is signed and bears the header's SECVER (R410, R411). -/
def State.vendorOk (s : State) (slot : Nat) : Bool :=
  match s.sectionOf slot 1 with
  | some c =>
    let b := s.sectionBytes slot c
    decide (96 < c.len) && decide ((b.getD 0 0).toNat = s.copyField slot 0x0C 1)
      && ecdsaVerify Config.firmwareKey (hash48 (b.take (c.len - 96))) (b.drop (c.len - 96))
  | none => false

/-- OWNER_KEY is that of the active slot and its signature over HASH verifies (R411). -/
def State.ownerOk (s : State) (slot : Nat) : Bool :=
  match s.sectionOf slot 2 with
  | some c =>
    let b := s.sectionBytes slot c
    decide (c.len = 97) && decide (hash48 b = s.ownerDigest)
      && ecdsaVerify b (s.copyHash slot) (s.flashBytes (copyBase slot + s.copyLen slot + 48) 96)
  | none => false

/-- Types rise strictly. -/
def rising : List Section → Bool
  | a :: b :: r => decide (a.type < b.type) && rising (b :: r)
  | _ => true

/-- The sections are in order, complete and understood (R410). -/
def State.sectionsOk (s : State) (slot : Nat) : Bool :=
  let cs := s.sections slot
  rising cs && cs.all (fun c => !c.must || (decide (1 ≤ c.type) && decide (c.type ≤ 10)))
    && (s.copySolo slot || cs.any (fun c => decide (c.type = 3)))

/-- MAGIC, FORMAT and the reserved header bytes (R409). -/
def State.magicOk (s : State) (slot : Nat) : Bool :=
  decide (s.copyField slot 0 4 = 0x54545744) && decide (s.copyField slot 4 2 = 1)
    && decide (s.copyField slot 0x0E 2 = 0) && decide (s.copyField slot 0x18 104 = 0)

/-- LENGTH, NSECT and the extents of the sections (R409, R410). -/
def State.lengthOk (s : State) (slot : Nat) : Bool :=
  let n := s.copyLen slot
  let k := s.copyField slot 6 2
  decide (0x80 ≤ n) && decide (n ≤ 0xFFFF00) && decide (n % 64 = 0) && decide (1 ≤ k) && decide (k ≤ 64)
    && (match s.sectionsFrom slot n 66 0x80 with | some cs => decide (cs.length = k) | none => false)

/-- The first check of R412 that a copy fails, 0 when it is valid. -/
def State.checkCopy (s : State) (slot : Nat) (unreadable : Bool) : Nat :=
  if unreadable then 1
  else if !s.magicOk slot then 2
  else if !s.lengthOk slot then 3
  else if hash48 (s.flashBytes (copyBase slot) (s.copyLen slot)) ≠ s.copyHash slot then 4
  else if !s.vendorOk slot then 5
  else if !s.ownerOk slot then 6
  else if s.copyField slot 0x0C 1 < s.fuses.secver then 7
  else if !s.sectionsOk slot then 8
  else if s.copySolo slot && !s.fuses.solo then 9
  else if !s.contentOk slot then 10
  else if (s.sectionOf slot 9).isSome && decide (8 ≤ s.fuses.slot) then 11
  else 0

/-- A failed check is logged with the copy and the reason (R412). -/
def State.logCopy (s : State) (slot reason : Nat) : State :=
  if reason = 0 then s else s.logFault 0x0501 0 0x300 (BitVec.ofNat 32 slot) (BitVec.ofNat 64 reason)

/-! ### The mailbox (R415 to R417) -/

/-- A result posted: BUSY 0, RESULT, REASON, vector 1 (R416, R441). -/
def State.mbxPost (s : State) (result reason : Nat) : State :=
  let s1 := s.setReg 0x10018 (BitVec.ofNat 32 (result % 16 * 16 + reason % 16 * 256))
  { s1 with mbx := { s1.mbx with run := none } }.signal 1

/-- SLOT names the copy accepted at this bring-up (R416). -/
def State.acceptedSlot (s : State) (slot : Nat) : Bool := decide (fld (s.reg 0x10000) 3 2 = slot + 1)

/-- A mailbox command is refused (R416). A CHUNK whose LEN is out of range is refused as well: DESIGN CHOICE, log entry 35. -/
def State.mbxRefuses (s : State) (op slot offset len : Nat) : Bool :=
  match op with
  | 1 => s.acceptedSlot slot && decide (s.mstate ≠ 1) && decide (s.mstate ≠ 2)
  | 2 =>
    !s.mbx.begun.contains slot || decide (len = 0) || decide (4096 < len)
      || s.mbx.done.any (fun r => decide (r.1 = slot) && decide (r.2.1 < offset * 4096 + len) && decide (offset * 4096 < r.2.1 + r.2.2))
  | 3 => !s.mbx.begun.contains slot
  | _ => true

/-- A write to BOOT_MBX_CMD that starts BEGIN, CHUNK or END, or posts a refusal (R416); RESTART has a row of its own. Ignored while BUSY. -/
def State.mbxWrite (s : State) (v : Word) : State :=
  let op := fld v 0 4
  let slot := fld v 4 1
  let arg := s.reg 0x10014
  let (offset, len) := (fld arg 0 12, fld arg 12 13)
  if bitAt (s.reg 0x10018) 0 || decide (op = 4) then s
  else if s.mbxRefuses op slot offset len then s.mbxPost 1 0
  else
    let data := (List.range 1024).flatMap (fun k => leBytes 4 (s.reg (0x11000 + 4 * k)).toNat)
    { s.setReg 0x10018 1 with mbx := { s.mbx with run := some (op, slot, offset, len, data.take len) } }

/-- The flash work of a command (R416): an erased copy, a programmed range, or an examination. -/
def State.mbxFinish (s : State) (op slot offset len : Nat) (data : List Byte) : State :=
  match op with
  | 1 =>
    let f := s.flash.filter (fun c => !(decide (copyBase slot ≤ c.1) && decide (c.1 < copyBase slot + 0x1000000)))
    let m := { s.mbx with begun := s.mbx.begun.filter (· ≠ slot) ++ [slot], done := s.mbx.done.filter (fun r => decide (r.1 ≠ slot)) }
    { s with flash := f, mbx := m }.mbxPost 0 0
  | 2 =>
    let f := flashPut s.flash (copyBase slot + offset * 4096) data
    let m := { s.mbx with done := s.mbx.done ++ [(slot, offset * 4096, len)] }
    { s with flash := f, mbx := m }.mbxPost 0 0
  | _ =>
    let r := s.checkCopy slot false
    (s.logCopy slot r).mbxPost (if r = 0 then 0 else 3) r

/-- MAILBOX_COMPLETE (R416, R417): the flash work ends, in error or not, and the result is posted. -/
def execMailboxComplete (err : Bool) (s : State) : Result :=
  match s.mbx.run with
  | some (op, slot, offset, len, data) =>
    if decide (s.supState = 0) then
      if err then .next (s.mbxPost 2 0) else .next (s.mbxFinish op slot offset len data)
    else .next s
  | none => .next s

/-- A halt abandons the command in progress; its copy stays incomplete until a new BEGIN (R417). -/
def State.mbxAbandon (s : State) : State :=
  match s.mbx.run with
  | some (_, slot, _, _, _) => { s with mbx := { s.mbx with begun := s.mbx.begun.filter (· ≠ slot) } }.mbxPost 4 0
  | none => s

end Sys2Proof.Machine
end

