-- ==== Sys2Proof/Machine/Bar0.lean ====
section
/-! DEFINITION. BAR0: what a write to each register does, which writes are served, what a read returns, and the commands that are writes (R405, R469 to R481). -/
namespace Sys2Proof.Machine

/-! ### Writes -/

/-- A write through the local store window (R477). -/
def State.windowWrite (s : State) (i k : Nat) (v : Word) : State :=
  let x := s.stn i
  if x.ctl.run = .stopped then
    s.setSb i (x.sb.wr (0x8000 * fld (s.preg i 0x170) 0 1 + 4 * k) 4 v.toNat)
  else s.bump 0x24 1

/-- A write to VAL of a ticket counter begins an epoch (R263). -/
def State.tktValWrite (s : State) (c : Nat) (v : Word) : State :=
  let a := 0x208000 + 0x10 * c
  (s.setReg a v).setReg (a + 8) (s.reg (a + 8) + 1)

/-- A write to LINK_CLEAR (R343). -/
def State.clearWrite (s : State) (v : Word) : State :=
  if bitAt v 0 && s.live then s.startClear ⟨0, 0, 0⟩ 0x300 else s

/-- A write to FAULT_CTRL (R460, R468). -/
def State.faultCtrl (s : State) (v : Word) : State :=
  let s1 := s.setReg 0x60004 (v &&& 3)
  if bitAt v 2 && bitAt (s1.reg 0x60000) 3 then s1.beginRoll ⟨0, 0, 0⟩ 0x300 else s1

/-- A write to FAULT_RD; a value ahead of FAULT_WR sets it to FAULT_WR (R468). -/
def State.faultRd (s : State) (v : Word) : State :=
  let d := (v - s.reg 0x6000C).toNat
  s.setReg 0x60010 (if 1 ≤ d ∧ d < 2 ^ 31 then s.reg 0x6000C else v)

/-- A write to a dword of the MSI-X table; a vector unmasked with its pending bit set is sent (R441). -/
def State.msixWrite (s : State) (a : Nat) (en : BitVec 4) (v : Word) : State :=
  let s1 := s.setReg a (enabled (s.reg a) en v &&& ((rwMask a).getD 0))
  let i := (a - 0x58000) / 16
  if a % 16 = 12 && bitAt s1.die.pcie.pba i && s1.die.pcie.msixEn && !s1.die.pcie.msixMask && !bitAt (s1.reg a) 0 then
    let s2 := { s1 with die := { s1.die with pcie := { s1.die.pcie with pba := putBit s1.die.pcie.pba i false } } }
    s2.signal i
  else s1

/-- A register of an expert queue written; an idle queue takes its settings (R218, R234). -/
def State.xqWrite (s : State) (a : Nat) (v : Word) : State :=
  (s.setReg a (v &&& ((rwMask a).getD 0))).xqRefresh ((a - 0x206000) / 0x40)

/-- A register with the fields that a write may set taken from the write (R8). -/
def State.setRw (s : State) (a : Nat) (v mask : Word) : State := s.setReg a ((v &&& mask) ||| (s.reg a &&& ~~~mask))

/-- MODID as DBASE, the coordinates and the dimension sizes of the LINK block give it (R323). -/
def State.moduleId (s : State) : Nat :=
  let c (d : Nat) : Nat := fld (s.reg 0x80800) (5 * d) 5
  let n (d : Nat) : Nat := fld (s.reg 0x80804) (6 * d) 6
  s.dbase + c 0 + n 0 * (c 1 + n 1 * c 2)

/-- A first write to an RWO field of LINK (R8); MODID follows DBASE, coordinates and sizes (R323). -/
def State.rwoWrite (s : State) (a : Nat) (v : Word) : State :=
  if s.die.rwo.contains a then s
  else
    let t := s.setRw a v ((rwMask a).getD 0)
    let u := if a = 0x80800 ∨ a = 0x80804 ∨ a = 0x80808 then t.setFld 0x80808 16 14 t.moduleId else t
    { u with die := { u.die with rwo := u.die.rwo ++ [a] } }

/-- A write to a register of a station page (R475 to R477). -/
def State.stnWrite (s : State) (i o : Nat) (v : Word) : State :=
  if o = 4 then s.ctrlWrite i v
  else if 0x300 ≤ o ∧ o < 0x320 then s.tokClear i ((o - 0x300) / 4) v
  else if 0x320 ≤ o ∧ o < 0x340 then s.tokSet i ((o - 0x320) / 4) v
  else if 0x8000 ≤ o then s.windowWrite i ((o - 0x8000) / 4) v
  else s.setRw (pageBase i + o) v ((stnMask o).getD 0)

/-- A whole dword written to a BAR0 register (R8, R469): its own behaviour, or the writable fields set. -/
def State.regWrite (s : State) (a : Nat) (v : Word) : State :=
  if 0x2000000 ≤ a then s.stnWrite ((a - 0x2000000) / 0x10000) (a % 0x10000) v
  else if a = 0x10010 then s.mbxWrite v
  else if a = 0x1001C then s.goldenWrite v
  else if 0x30000 ≤ a ∧ a < 0x40000 then s.govWrite a v
  else if a = 0x40004 then s.tenderCtrl v
  else if a = 0x4001C then s.setReg a (BitVec.ofNat 32 (clamp 5 25 (fld v 0 5)))
  else if 0x50000 ≤ a ∧ a < 0x51000 ∧ a % 0x100 = 0 then s.qCtrl ((a - 0x50000) / 0x100) v
  else if a = 0x60004 then s.faultCtrl v
  else if a = 0x60008 then s.setReg a (BitVec.ofNat 32 (clamp 1 1440 (fld v 0 11)))
  else if a = 0x60010 then s.faultRd v
  else if 0x80000 ≤ a ∧ a < 0x8C000 ∧ a % 0x1000 = 4 then s.linkCtrlWrite ((a - 0x80000) / 0x1000) v
  else if a = 0x80838 then s.clearWrite v
  else if a = 0x100804 ∨ (0x100810 ≤ a ∧ a ≤ 0x10082C) then s.memConfigWrite a v
  else if isRwo a then s.rwoWrite a v
  else if 0x206000 ≤ a ∧ a < 0x207000 ∧ a % 0x40 < 0x1C then s.xqWrite a v
  else if 0x208000 ≤ a ∧ a < 0x208400 ∧ a % 0x10 = 0 then s.tktValWrite ((a - 0x208000) / 0x10) v
  else if a = 0x4F0008 then s.sessionCmd v
  else s.setRw a v ((rwMask a).getD 0)

/-- Areas in which a write of part of a dword sets the enabled bytes (R470). -/
def byteWritable (a : Nat) : Bool :=
  (decide (0x400000 ≤ a) && decide (a < 0x4A0000)) || (decide (0x11000 ≤ a) && decide (a < 0x12000))
    || (decide (0x58000 ≤ a) && decide (a < 0x59008))

/-- The PCIe link is up: it goes down when the die goes off, and trains again on a resume, once the endpoint has its state back at 2.5 ms (R393, R442). Log entry 39. -/
def State.pcieUp (s : State) : Bool :=
  s.powered && !s.sup.perst && (decide (s.supState ≤ 1) || (decide (s.supState = 3) && decide (10000 ≤ s.sup.ticks)))

/-- A write is served in the module's state (R405): DEV outside BRINGUP, the mailbox and its window in every state but BRINGUP, everything from READY on. A refused write changes nothing. -/
def State.writeServed (s : State) (a : Nat) : Bool :=
  s.pcieUp && !s.die.pcie.d3 && decide (s.mstate ≠ 0)
    && (decide (5 ≤ s.mstate) || decide (a < 0x10000) || decide (a = 0x10010) || decide (a = 0x10014) || (decide (0x11000 ≤ a) && decide (a < 0x12000)))

/-- A BAR0 write that is served (R469, R470, R474): discarded and counted, or done. -/
def State.bar0Do (s : State) (a : Nat) (en : BitVec 4) (v : Word) : State :=
  if decide (s.supState ≠ 0) && decide (0x10000 ≤ a) then s.bump 0x24 1
  else if (rwMask a).isNone then s.bump 0x24 1
  else if byteWritable a then
    if 0x400000 ≤ a then s.sessionWrite ((a - 0x400000) / 64) (a % 64 / 4) en v
    else if 0x58000 ≤ a then s.msixWrite a en v
    else s.setReg a (enabled (s.reg a) en v)
  else if en = 0xF then s.regWrite a v
  else s.bump 0x24 1

/-- A BAR0 write of the host: refused by the state (R405) without effect, or served. -/
def State.bar0Write (s : State) (a : Nat) (en : BitVec 4) (v : Word) : State :=
  if !s.writeServed a || decide (en = 0) then s else s.leaveL1.bar0Do a en v

/-! ### Reads -/

/-- STN_STATUS.STATE of a run state (R105, R108). -/
def runCode (r : RunState) : Nat :=
  match r with
  | .awake => 0
  | .asleep => 1
  | .waking => 2
  | .stopped => 3

/-- A register of a station page as a read sees it (R108, R274, R457, R477). -/
def State.stnView (s : State) (i o : Nat) : Word :=
  let x := s.stn i
  if o = 0 then BitVec.ofNat 32 (runCode x.ctl.run + (32 - min 32 x.iss.queue.length) * 256)
  else if 0x300 ≤ o ∧ o < 0x320 then BitVec.ofNat 32 (x.tokens.toNat >>> (8 * (o - 0x300)))
  else if o = 0x168 then x.restart.pc
  else if 0x8000 ≤ o then x.sb.word (0x8000 * fld (s.preg i 0x170) 0 1 + (o - 0x8000))
  else s.preg i o

/-- A word of a tile ledger entry (R267, R280). -/
def entryWord (e : LedgerEntry) (k : Nat) : Word :=
  match k with
  | 0 => e.value.getD 0
  | 1 => BitVec.ofNat 32 e.seq
  | 2 => e.done
  | 3 => BitVec.ofNat 32 (min 32 e.nguard + (if e.isOver then 2 else 1) * 256)
  | 4 => BitVec.ofNat 32 e.owned.toNat
  | 5 => BitVec.ofNat 32 (e.owned.toNat / 2 ^ 32)
  | _ => 0

/-- A word of the ledger area of a station (R280). -/
def State.ledgerView (s : State) (a : Nat) : Word :=
  let i := (a - 0x20A000) / 0x400
  let o := (a - 0x20A000) % 0x400
  let l := (s.stn i).ledger
  if o = 0 then putFld (putBit (s.reg a) 7 l.replay) 8 5 l.entries.length
  else match l.entries[(o - 0x20) / 0x20]? with
    | some e => entryWord e (o % 0x20 / 4)
    | none => 0

/-- DEV_STATUS (R479). -/
def State.devStatus (s : State) : Word :=
  let b (c : Bool) (k : Nat) : Nat := if c then 2 ^ k else 0
  BitVec.ofNat 32 (s.mstate + b (decide (s.reg 0x6000C ≠ s.reg 0x60010)) 3 + b (decide (s.supState ≠ 0)) 4
    + b (decide (s.reg 0x40014 = 0)) 5 + b (bitAt (s.reg 0x30000) 6) 6 + b (bitAt (s.reg 0x60000) 0) 7)

/-- MEM_c_STATUS.PWR (R295, R384, R393): self-refresh from step 4 of a halt, deep sleep 1 ms after the die is off and until the keepers end it 1 ms into a resume. -/
def State.memPower (s : State) : Nat :=
  match s.supState with
  | 1 => if 2800 ≤ s.sup.ticks then 1 else 0
  | 2 => if s.sup.ticks < 4000 then 1 else 2
  | 3 => if s.sup.ticks < 4000 then 2 else 0
  | _ => 0

/-- A BAR0 register as a read returns it; a reserved address reads 0 (R469). -/
def State.regView (s : State) (a : Nat) : Word :=
  if (rwMask a).isNone then 0
  else if 0x2000000 ≤ a then s.stnView ((a - 0x2000000) / 0x10000) (a % 0x10000)
  else if 0x20A000 ≤ a ∧ a < 0x22A000 then s.ledgerView a
  else if a = 0x00 then Config.vendorId.setWidth 32 ||| 0x0D010000
  else if a = 0x04 then (if s.l480 then 0x10121 else 0x10021)
  else if a = 0x08 then BitVec.ofNat 32 Config.serial.toNat
  else if a = 0x0C then BitVec.ofNat 32 (Config.serial.toNat / 2 ^ 32)
  else if a = 0x10 then s.devStatus
  else if a = 0x18 then BitVec.ofNat 32 s.uptime
  else if a = 0x1C then BitVec.ofNat 32 (s.uptime / 2 ^ 32)
  else if a = 0x20000 then BitVec.ofNat 32 (s.fuses.secver + fld (s.reg a) 8 7 * 256)
  else if a = 0x20004 then BitVec.ofNat 32 s.fuses.slot
  else if a = 0x20008 then (if s.fuses.solo then 1 else 0)
  else if a = 0x2000C then BitVec.ofNat 32 s.fuses.ceilUsed
  else if a = 0x20010 then BitVec.ofNat 32 s.fuses.audit
  else if a = 0x30028 then BitVec.ofNat 32 s.fuses.opmax
  else if a = 0x59000 then BitVec.ofNat 32 s.die.pcie.pba.toNat
  else if a = 0x59004 then BitVec.ofNat 32 (s.die.pcie.pba.toNat / 2 ^ 32)
  else if a = 0x100800 then (if s.l480 then 0x1E0 else 0x140)
  else if a = 0x10080C then BitVec.ofNat 32 s.userTop
  else if 0x100000 ≤ a ∧ a < 0x114000 ∧ a % 0x1000 = 0 then putFld (s.reg a) 8 2 s.memPower
  else s.reg a

/-- The completion status of a BAR0 read (R405, R429, R442): 0 success, 1 Unsupported Request, 4 Completer Abort. -/
def State.readStatus (s : State) (a : Nat) : Nat :=
  let m := s.mstate
  if s.die.pcie.d3 || decide (m = 0) then 1
  else if decide (s.supState = 1) && decide (2800 ≤ s.sup.ticks) then 4
  else if decide (5 ≤ m) || decide (a < 0x20000) then 0
  else if decide (2 ≤ m) && (decide (a < 0x30000) || (decide (0x60000 ≤ a) && decide (a < 0x70000)) || (decide (0x100000 ≤ a) && decide (a < 0x114000))
      || (decide (0x30000 ≤ a) && decide (a < 0x50000))) then 0
  else 1

/-- The low register of a latched pair whose high one an address is (R473). -/
def latchedLo (a : Nat) : Option Nat :=
  if a = 0x1C ∨ a = 0x30044 ∨ a = 0x40028 then some (a - 4)
  else if 0x30088 ≤ a ∧ a < 0x300D0 ∧ a % 8 = 4 then some (a - 4)
  else if 0x2000000 ≤ a ∧ a % 0x10000 = 0x160 then some (a - 4)
  else none

/-- An address is the low register of a latched pair. -/
def latches (a : Nat) : Bool := latchedLo (a + 4) = some a

/-- The latch of a requester for a pair (R473): the host is 0, management core n is 1 + n. -/
def latchKey (r lo : Nat) : Nat := lo * 8 + r

/-- A read by one requester (R473): the value, and the latch that it sets or takes. -/
def State.latchRead (s : State) (r a : Nat) : Word × State :=
  if latches a then
    (s.regView a, { s with latch := mset (fun _ => (none : Option Word)) s.latch (latchKey r a) (some (s.regView (a + 4))) })
  else match latchedLo a with
    | none => (s.regView a, s)
    | some lo =>
      match mget (fun _ => (none : Option Word)) s.latch (latchKey r lo) with
      | some v => (v, { s with latch := mset (fun _ => (none : Option Word)) s.latch (latchKey r lo) none })
      | none => (s.regView a, s)

/-- A read of the local store window while the signal box writes the word `new`: each bit is the old or the new one (R477). -/
def State.windowMix (s : State) (a : Nat) (old : Word) (new : Option Word) : Word × State :=
  match new with
  | some w =>
    if 0x2000000 ≤ a ∧ 0x8000 ≤ a % 0x10000 ∧ (s.stn ((a - 0x2000000) / 0x10000)).ctl.run = .awake then
      let (r, t) := s.fresh
      let pick : Word := BitVec.ofNat 32 r
      ((old &&& ~~~pick) ||| (w &&& pick), t)
    else (old, s)
  | none => (old, s)

/-- LO_LATCH_READ (R405, R473, R477): requester 0 is the host, whose read is completed by the state; a management core reads over the mesh. The local store may be written in the same mc. -/
def execLoLatchRead (r : Fin 5) (a : RegRead) (s : State) : Result :=
  if s.pcieUp && decide (r = 0) then
    if s.readStatus a.addr = 0 then
      let (v, s1) := s.leaveL1.latchRead 0 a.addr
      let (x, s2) := s1.windowMix a.addr v a.clash
      .next (s2.emit (.completion 0 false (leBytes 4 x.toNat)))
    else .next (s.emit (.completion (s.readStatus a.addr) false []))
  else if r = 0 then .next s
  else .next (s.latchRead r a.addr).2

/-! ### The commands that are writes -/

/-- REGISTER_WRITE (R8, R405, R469, R470, R474). -/
def execRegisterWrite (a : Nat) (en : BitVec 4) (v : Word) (s : State) : Result := .next (s.bar0Write a en v)

/-- RUN_START (R108, R475): a write of STN_CTRL with RUN 1. -/
def execRunStart (i : Stn) (v : Word) (s : State) : Result := .next (s.bar0Write (pageBase i + 4) 0xF (v ||| 1))

/-- RUN_STOP (R108, R475): a write of STN_CTRL with RUN 0. -/
def execRunStop (i : Stn) (v : Word) (s : State) : Result := .next (s.bar0Write (pageBase i + 4) 0xF (v &&& ~~~1))

/-- WAKE (R107, R475): a write of STN_CTRL with WAKE 1. -/
def execWake (i : Stn) (v : Word) (s : State) : Result := .next (s.bar0Write (pageBase i + 4) 0xF (v ||| 4))

/-- STN_TOK_CLEAR (R274). -/
def execStnTokClear (i : Stn) (k : Fin 8) (v : Word) (s : State) : Result := .next (s.bar0Write (pageBase i + 0x300 + 4 * k) 0xF v)

/-- STN_TOKSET (R274). -/
def execStnTokset (i : Stn) (k : Fin 8) (v : Word) (s : State) : Result := .next (s.bar0Write (pageBase i + 0x320 + 4 * k) 0xF v)

/-- LOCAL_STORE_WINDOW_WRITE (R477): word `k` of the window. -/
def execLocalStoreWindowWrite (i : Stn) (k : Fin 8192) (v : Word) (s : State) : Result :=
  .next (s.bar0Write (pageBase i + 0x8000 + 4 * k) 0xF v)

/-- MESH_TKT_VAL_WRITE (R263). -/
def execMeshTktValWrite (c : Fin 64) (v : Word) (s : State) : Result := .next (s.bar0Write (0x208000 + 0x10 * c) 0xF v)

/-- MESH_TKT_LIMIT_WRITE (R263). -/
def execMeshTktLimitWrite (c : Fin 64) (v : Word) (s : State) : Result := .next (s.bar0Write (0x208004 + 0x10 * c) 0xF v)

/-- SESSION_STATE_WRITE (R230, R231). -/
def execSessionStateWrite (i : Fin 10240) (k : Fin 16) (en : BitVec 4) (v : Word) (s : State) : Result :=
  .next (s.bar0Write (0x400000 + 64 * i + 4 * k) en v)

/-- SESSION_CMD_PARK (R232). -/
def execSessionCmdPark (v : Word) (s : State) : Result := .next (s.bar0Write 0x4F0008 0xF v)

/-- GOLDEN_LOAD (R294). -/
def execGoldenLoad (v : Word) (s : State) : Result := .next (s.bar0Write 0x1001C 0xF v)

/-- MEM_CONFIG_WRITE (R501): register 0 is MEM_SNAPSZ, 1 to 8 the region registers in order. -/
def execMemConfigWrite (k : Fin 9) (v : Word) (s : State) : Result :=
  .next (s.bar0Write (if k.val = 0 then 0x100804 else 0x10080C + 4 * k) 0xF v)

/-- LINK_EN_WRITE (R319, R344). -/
def execLinkEnWrite (p : Fin 12) (v : Word) (s : State) : Result := .next (s.bar0Write (portBase p + 4) 0xF v)

/-- RETRAIN (R321, R465): a write of LINK_p_CTRL with RETRAIN 1. -/
def execRetrain (p : Fin 12) (v : Word) (s : State) : Result := .next (s.bar0Write (portBase p + 4) 0xF (v ||| 2))

/-- LINE_CLEAR_GO (R343). -/
def execLineClearGo (v : Word) (s : State) : Result := .next (s.bar0Write 0x80838 0xF v)

/-- GOV_CEILING_WRITE (R379). -/
def execGovCeilingWrite (v : Word) (s : State) : Result := .next (s.bar0Write 0x30028 0xF v)

/-- CLRTHR (R381): a write of GOV_CTRL with CLRTHR 1. -/
def execClrthr (v : Word) (s : State) : Result := .next (s.bar0Write 0x30004 0xF (v ||| 8))

/-- GOV_LIMIT_WRITE (R358, R359): GOV_CAP or GOV_PEAK. -/
def execGovLimitWrite (peak : Bool) (v : Word) (s : State) : Result := .next (s.bar0Write (if peak then 0x3000C else 0x30008) 0xF v)

/-- CAL (R398): a write of TENDER_CTRL with CAL 1. -/
def execCal (v : Word) (s : State) : Result := .next (s.bar0Write 0x40004 0xF (v ||| 2))

/-- REAUTH (R396): a write of TENDER_CTRL with REAUTH 1, and the answer of the cartridge. -/
def execReauth (v : Word) (r : Option CartResp) (s : State) : Result :=
  let t := s.bar0Write 0x40004 0xF (v ||| 4)
  if s.writeServed 0x40004 && decide (s.supState = 0) && t.mayAuth then .next (t.tellTender (t.authenticate r)) else .next t

/-- BEGIN (R416). -/
def execMbxBegin (v : Word) (s : State) : Result := .next (s.bar0Write 0x10010 0xF (putFld v 0 4 1))

/-- CHUNK (R416). -/
def execChunk (v : Word) (s : State) : Result := .next (s.bar0Write 0x10010 0xF (putFld v 0 4 2))

/-- END (R416). -/
def execMbxEnd (v : Word) (s : State) : Result := .next (s.bar0Write 0x10010 0xF (putFld v 0 4 3))

/-- MAILBOX_OTHER_OP (R416): a write of BOOT_MBX_CMD whose OP is not 1 to 4. -/
def execMailboxOtherOp (v : Word) (s : State) : Result :=
  .next (s.bar0Write 0x10010 0xF (if 1 ≤ fld v 0 4 ∧ fld v 0 4 ≤ 4 then putFld v 0 4 0 else v))

/-- HOSTQ_TAIL_WRITE (R435). -/
def execHostqTailWrite (q : Fin 16) (v : Word) (s : State) : Result := .next (s.bar0Write (qBase q + 0x14) 0xF v)

/-- HOSTQ_EN (R433): a write of HOSTQ_Qq_CTRL. -/
def execHostqEn (q : Fin 16) (v : Word) (s : State) : Result := .next (s.bar0Write (qBase q) 0xF v)

/-- QRESET (R440): a write of HOSTQ_Qq_CTRL with QRESET 1. -/
def execQreset (q : Fin 16) (v : Word) (s : State) : Result := .next (s.bar0Write (qBase q) 0xF (v ||| 4))

/-- MSIX_UNMASK (R441): the mask bit of a vector written 0. -/
def execMsixUnmask (i : Fin 64) (s : State) : Result := .next (s.bar0Write (0x5800C + 16 * i) 0xF 0)

/-- FAULT_RD_WRITE (R447, R468). -/
def execFaultRdWrite (v : Word) (s : State) : Result := .next (s.bar0Write 0x60010 0xF v)

/-- ROLL (R460): a write of FAULT_CTRL with ROLL 1. -/
def execRoll (v : Word) (s : State) : Result := .next (s.bar0Write 0x60004 0xF (v ||| 4))

end Sys2Proof.Machine
end

