-- ==== Sys2Proof/Machine/Jobs.lean ====
section
/-! DEFINITION. The job runner: job start, step boundaries and the derivation of refresh exponents (R232, R233, R240, R244, R246, R253, R254, R265, R279, R292). -/
namespace Sys2Proof.Machine

/-! ### Job start (R279) -/

/-- The stations of a mask. -/
def maskStns (m : BitVec 128) : List Nat := (List.range 128).filter (fun i => bitAt m i)

/-- Something done for each station of a list. -/
def State.forStns (s : State) (l : List Nat) (f : Station → Station) : State :=
  l.foldl (fun (t : State) i => t.setStn i (f (t.stn i))) s

/-- Bytes put into the local store of a station from an address. -/
def Station.putStore (x : Station) (a : Nat) (bs : List Byte) : Station :=
  { x with sb := { x.sb with store := wrBytes lsTop x.sb.store a bs } }

/-- Bytes put into the platform memory of a station from an address. -/
def Station.putPm (x : Station) (a : Nat) (bs : List Byte) : Station := { x with pm := wrBytes pmTop x.pm a bs }

/-- Register records written in order (R414). -/
def State.putRecords (s : State) (rs : List (Nat × Word)) : State := rs.foldl (fun (t : State) r => t.regWrite r.1 r.2) s

/-- A chain descriptor written to the stations of its mask. -/
def State.putChain (s : State) (c : BitVec 128 × Nat × List Word) : State :=
  (maskStns c.1).foldl (fun (t : State) i =>
    ((List.range c.2.2.length).zip c.2.2).foldl (fun (u : State) p => u.regWrite (pageBase i + 0x1000 + 128 * (c.2.1 % 32) + 4 * p.1) p.2) t) s

/-- An address lies in the last line of a golden slot, which holds the descriptor bytes and reserved ones (R292). -/
def descByte (base a : Nat) : Bool :=
  decide (base ≤ a) && decide (a < base + 160 * 0x100000) && decide (0x13C0 ≤ (a - base) % 0x1400)

/-- The descriptor bytes of every golden slot (R292): those of the resident banks from the timetable, 0 elsewhere. -/
def State.putDescs (s : State) : State :=
  let base := s.goldenLine * 64
  let s1 := { s with
    die := { s.die with pdown := 0 }
    lpddr := s.lpddr.filter (fun c => !descByte base c.1)
    poison := s.poison.filter (fun l => !descByte base (l * 64)) }
  (s.plan.golden.filter (fun g => decide (g.1 < 32768))).foldl (fun (t : State) g => t.putLine (s.goldenLine + 80 * g.1 + 79) (padTo 64 (g.2.take 5))) s1

/-- EXPTAB of R244: line e holds 64 bytes of value e. -/
def exptab : List Byte := (List.range 255).flatMap (fun e => List.replicate 64 (BitVec.ofNat 8 e))

/-- SCLTAB of R244: line e holds 32 activation scale entries with E = e and Z = 0. -/
def scltab : List Byte := (List.range 255).flatMap (fun e => (List.replicate 32 [BitVec.ofNat 8 e, (0 : Byte)]).flatten)

/-- CONSTU8 of R244. -/
def constu8 : List Byte := (List.replicate 32 [(127 : Byte), 0]).flatten

/-- One-hot tile h of R246: token j holds U4 code 1 in channel 16 h + j. -/
def onehot (h : Nat) : List Byte :=
  (List.range 16).flatMap (fun j => (List.range 64).map (fun b => if b = (16 * h + j) / 2 then BitVec.ofNat 8 (16 ^ (j % 2)) else 0))

/-- The channel record lines of an image buffer (R244, R245): M = 0x8000, ZWEN 0. -/
def imageRecords : List Byte := (List.replicate 64 (leBytes 4 0x8000)).flatten

/-- The constant regions of R244 at one station. -/
def Station.putTables (x : Station) (t : TrainTables) : Station :=
  let y := ((x.putPm t.exptab exptab).putPm t.scltab scltab).putPm t.constu8 constu8
  let z := ((List.range t.onehot.length).zip t.onehot).foldl (fun (u : Station) p => u.putPm p.2 (onehot p.1)) y
  t.images.foldl (fun (u : Station) a => u.putPm (a + 0x1080) imageRecords) z

/-- The PHASE words (R348, R414): preferences, then demands. -/
def State.applyPhases (s : State) : State :=
  ((List.range s.plan.phases.length).zip s.plan.phases).foldl (fun (t : State) p =>
    if p.1 < 512 then t.govWrite (if p.1 < 256 then 0x30400 + 4 * p.1 else 0x30800 + 4 * (p.1 - 256)) p.2 else t) s

/-- STN_CTRL.RUN set by the job runner. -/
def State.runStn (s : State) (i : Nat) : State := s.putCtrl i (s.preg i 4 ||| 1)

/-- A token made present that no GIVE sends: STN_CNT_TOKOVER counts only GIVEs (R273, R279). -/
def State.presentToken (s : State) (i t : Nat) : State :=
  let x := s.stn i
  s.setStn i { x with tokens := putBit x.tokens t true }

/-- Steps 1 and 2 of R279: the registers, descriptors and constant regions; the loader in every station, and RUN. -/
def State.beginJob (s : State) : State :=
  let s1 := (s.plan.chains.foldl (fun (t : State) c => t.putChain c) (s.putRecords s.plan.jobRegs)).applyPhases.putDescs
  let s2 := s1.plan.tables.foldl (fun (t : State) p => t.forStns (maskStns p.mask) (fun x => x.putTables p)) s1
  let s3 := s2.forStns (List.range 128) (fun x => x.putStore 0 s2.plan.loader)
  let s4 := (List.range 128).foldl (fun (t : State) i => t.runStn i) s3
  { s4 with die := { s4.die with job := { s4.die.job with phase := 1 } } }

/-- VAL and then LIMIT of the counters that the timetable names for a step (R265). -/
def State.putCounters (s : State) (step : Nat) : State :=
  (s.plan.counters.getD step []).foldl (fun (t : State) c =>
    (t.tktValWrite (c.1 % 64) c.2.1).setReg (0x208004 + 0x10 * (c.1 % 64)) c.2.2) s

/-- The stations of the job: those that a program image names. -/
def State.planStns (s : State) : List Nat :=
  (List.range 128).filter (fun i => s.plan.programs.any (fun p => bitAt p.1 i))

/-- Measurement 7: the golden copy as the job runner loaded it (R294, R426). -/
def State.goldenHash (s : State) : List Byte := hash48 (s.memBytes (s.goldenLine * 64) (160 * 0x100000))

/-- The golden copy read for its measurement (R283, R290): every channel is used, and the uncorrectable lines are counted. -/
def State.readGolden (s : State) : State :=
  ((s.poison.filter (fun l => decide (s.region (l * 64) = .golden))).insertionSort (· ≤ ·)).foldl State.readUe { s with die := { s.die with pdown := 0 } }

/-- Steps 3 and 4 of R279: programs, tokens, the counters of step 0, and RUN on every station of the job. -/
def State.launchJob (s : State) : State :=
  let s1 := s.plan.programs.foldl (fun (t : State) p => t.forStns (maskStns p.1) (fun x => x.putStore 0 p.2)) s
  let s2 := s1.plan.tokens.foldl (fun (t : State) k => if k.1 < 128 then t.presentToken k.1 (k.2 % 256) else t) s1
  let js := s2.planStns
  let s3 := (s2.putCounters 0).forStns js (fun x => { x with restart := ⟨0, []⟩ })
  let s4 := js.foldl (fun (t : State) i => t.runStn i) s3
  let s5 := { s4 with die := { s4.die with
    jobStns := js
    jobStarted := true
    job := { s4.die.job with phase := 2, step := 0 }
    net := { s4.die.net with timer := ⟨0, true, []⟩, boundary := false, insts := [], instNext := [], parts := [] } } }
  ((s5.setReg 0x80830 0).readGolden.setMeas 7 s5.goldenHash).enter 6

/-- Every station is STOPPED: the loaders have ended. -/
def State.allStopped (s : State) : Bool := s.die.stns.all (fun p => decide (p.2.ctl.run = .stopped))

/-- The job runner may start a job (R279, R294, R414, R423, R460). -/
def State.mayStartJob (s : State) : Bool :=
  s.live && s.plan.job && bitAt (s.reg 0x1001C) 0 && !s.die.job.noStart && !bitAt (s.reg 0x10000) 6
    && s.die.net.roll.isNone && !bitAt (s.reg 0x60000) 3

/-- JOB_START (R279): the loaders begin; once they have ended, the job does. -/
def execJobStart (s : State) : Result :=
  if s.mayStartJob && decide (s.die.job.phase = 0) then .next s.beginJob
  else if s.mayStartJob && decide (s.die.job.phase = 1) && s.allStopped then .next s.launchJob
  else .next s

/-! ### Step boundaries (R232, R233, R265) -/

/-- The byte address of berth status line `b` (R232). -/
def State.statusAddr (s : State) (b : Nat) : Nat := (s.reg 0x4F0004).toNat * 256 + 64 * b

/-- Berths in use: 0 and 65 to 127 act as 64 (R234). -/
def State.berths (s : State) : Nat :=
  let n := fld (s.reg 0x4F0000) 1 7
  if n = 0 ∨ 64 < n then 64 else n

/-- A session moves to FULL (R232): counted, logged, vector 2. -/
def State.sessFull (s : State) (b i : Nat) : State :=
  let m := s.reg (sessAddr i 2)
  let s1 := (((s.setReg (sessAddr i 1) m).sessMove i 4 0).setBerth b none).bump 0x4F0010 1
  (s1.logFault 0x050B 0 0x300 (BitVec.ofNat 32 i) (BitVec.ofNat 64 m.toNat)).signal 2

/-- Steps 1 and 2 of R232 for one berth: the appended tokens enter LEN. -/
def State.appendStep (s : State) (b : Nat) : State :=
  match s.berthOf b with
  | none => s
  | some i =>
    let s1 := s.readLine (s.statusAddr b / 64) false false
    let n := (s1.reg (sessAddr i 1)).toNat + leNat (s1.memBytes (s1.statusAddr b) 4)
    if (s1.reg (sessAddr i 2)).toNat ≤ n then s1.sessFull b i
    else s1.setReg (sessAddr i 1) (BitVec.ofNat 32 n)

/-- Step 3 of R232 for one berth: TURN_END or a pending PARK moves the session to PARKED and zeroes its status line. -/
def State.parkStep (s : State) (b : Nat) : State :=
  match s.berthOf b with
  | none => s
  | some i =>
    if leNat (s.memBytes (s.statusAddr b + 4) 1) % 2 = 1 ∨ s.die.sess.park.contains i then
      ((s.sessMove i 1 0).setBerth b none).putLine (s.statusAddr b / 64) (List.replicate 64 0)
    else s

/-- A session put in its place by READYSEQ. -/
def insertReady (p : Nat × Nat) : List (Nat × Nat) → List (Nat × Nat)
  | [] => [p]
  | q :: r => if p.1 < q.1 then p :: q :: r else q :: insertReady p r

/-- The READY sessions in increasing READYSEQ. -/
def State.readySessions (s : State) : List Nat :=
  let here := s.die.reg.filter (fun p => decide (0x400000 ≤ p.1) && decide (p.1 < 0x4A0000) && decide (p.1 % 64 = 0) && decide (fld p.2 0 8 = 2))
  ((here.map (fun p => (p.1 - 0x400000) / 64)).foldl (fun l i => insertReady ((s.reg (sessAddr i 3)).toNat, i) l) []).map (·.2)

/-- Step 4 of R232, while SESSION_CTRL.EN is 1. -/
def State.berthStep (s : State) : State :=
  if bitAt (s.reg 0x4F0000) 0 then
    let free := (List.range s.berths).filter (fun b => (s.berthOf b).isNone)
    (free.zip s.readySessions).foldl (fun (t : State) p => (t.sessMove p.2 3 p.1).setBerth p.1 (some p.2)) s
  else s

/-- The berth record of a berth in a local store (R233). Of an empty berth only the index is written. Log entry 36. -/
def State.berthRecord (s : State) (b : Nat) : Nat × List Byte :=
  match s.berthOf b with
  | none => (0xF000 + 64 * b + 0x38, List.replicate 4 0xFF)
  | some i => (0xF000 + 64 * b, (List.range 16).flatMap (fun k => leBytes 4 (if k = 14 then i else (s.reg (sessAddr i k)).toNat)))

/-- Step 5 of R232: the berth records in every station of the job. -/
def State.recordStep (s : State) : State :=
  let rs := (List.range 64).map s.berthRecord
  s.forStns s.die.jobStns (fun x => rs.foldl (fun (y : Station) r => y.putStore r.1 r.2) x)

/-- The five steps of R232. -/
def State.sessionBoundary (s : State) : State :=
  let bs := (List.range 64)
  let s1 := bs.foldl (fun (t : State) b => t.appendStep b) s
  let s2 := bs.foldl (fun (t : State) b => t.parkStep b) s1
  let s3 := { s2 with die := { s2.die with sess := { s2.die.sess with park := [] } } }
  s3.berthStep.recordStep

/-- The job runner's work at the step interlock: sessions, then the counters of the next step, which asks for the wake of the job's stations that sleep (R107, R232, R265). -/
def State.stepWork (s : State) : State :=
  let s1 := if s.plan.serving then s.sessionBoundary else s
  let n := s1.die.job.step + 1
  let s2 := s1.putCounters n
  let s3 := { s2 with die := { s2.die with job := { s2.die.job with step := n } } }
  s3.die.jobStns.foldl (fun (t : State) i => t.requestWake i) s3

/-- STEP_BOUNDARY (R232, R265): every station of the job waits at a domain interlock and the module has not arrived; at the step interlock the job runner does its work. -/
def execStepBoundary (s : State) : Result :=
  match s.postedIlk with
  | some ilk =>
    if s.live && s.die.jobStarted && !s.die.net.boundary && !s.die.net.ilk.own && s.die.net.snap.isNone && s.die.net.roll.isNone then
      let s1 := if ilk = s.plan.stepIlk then s.stepWork else s
      .next (s1.setNet { s1.die.net with boundary := true })
    else .next s
  | none => .next s

/-! ### Refresh exponents (R253, R254) -/

/-- A C8 record: TR and 64 L32 CMX codes from line 1 on (R252). -/
def State.cmx (s : State) (line n : Nat) : Rat :=
  let tr := sx 16 (leNat (s.memBytes (line * 64) 2))
  (sx 32 (leNat (s.memBytes (line * 64 + 64 + 4 * n) 4)) : Rat) * pow2 tr

/-- E_n before the raise of R253. -/
def refreshExp (m : Rat) : Nat :=
  if m ≤ 0 then 0
  else ((firstFit (fun e => decide (rne (m * pow2 (127 - e)) ≤ 7)) 254 1).getD 254).toNat

/-- The raise of R253: a non-zero exponent at least Emax - 24. -/
def raised (es : List Nat) : List Nat :=
  let top := es.foldl max 0
  es.map (fun e => if e = 0 then 0 else max e (top - 24))

/-- The exponents of a bank from the lines of its eight records. -/
def State.refreshExps (s : State) (recs : List Nat) : List Nat :=
  raised ((List.range 64).map (fun n => refreshExp ((recs.map (fun l => s.cmx l n)).foldl max 0)))

/-- The fold line of R240, five lines. -/
def foldLine (es : List Nat) : List Byte :=
  let used := es.filter (fun e => decide (e ≠ 0))
  let low := used.foldl min 255
  es.flatMap (fun e => leBytes 4 (if e = 0 then 0 else 2 ^ (e - low)))
    ++ padTo 64 (leBytes 2 (if used.isEmpty then 0 else ofS 16 ((low : Int) - 127)))

/-- EXPONENT_DERIVATION (R240, R253, R254): bank `b` of all 32,768, its record lines, the lines of its exponent line and fold line, and its token, as the timetable gives them. -/
def execExponentDerivation (b : Fin 32768) (recs : List Nat) (expLine fold : Nat) (tok : Byte) (s : State) : Result :=
  if s.live then
    let s1 := recs.foldl (fun (t : State) l => t.readLines l 5) s
    let es := s1.refreshExps recs
    let s2 := (s1.putLine expLine (es.map (fun e => BitVec.ofNat 8 e))).setLines fold (foldLine es) 5
    .next (s2.grantToken (b.val / 256) tok.toNat)
  else .next s

end Sys2Proof.Machine
end

