-- ==== Sys2Proof/Machine/Bringup.lean ====
section
/-! DEFINITION. Bring-up: logs, channels, copies, self-test, the accepted copy applied, fuse commits, links; the mailbox RESTART and the unlock (R282, R402 to R420, R423, R462, R480, R493). -/
namespace Sys2Proof.Machine

/-! ### Logs (R406, R420) -/

/-- A bit of BOOT_STATUS set or cleared. -/
def State.setBoot (s : State) (i : Nat) (b : Bool) : State := s.setReg 0x10000 (putBit (s.reg 0x10000) i b)

/-- The trip latch read: set and followed by a power cycle (R370, R406). -/
def State.readTrip (s : State) : State :=
  if s.sup.trip = 2 then (s.setBoot 8 true).logFault 0x0407 0 0x300 0 0 else s

/-- The halt log scanned (R394, R406): an open record marks the state as lost, is counted and logged, and is closed. Log entry 37. -/
def State.scanHalts (s : State) : State :=
  match s.haltLog.find? (fun h => !h.closed) with
  | none => s
  | some h =>
    let hs : List HaltRecord := s.haltLog.map (fun (r : HaltRecord) => { r with closed := true })
    let s1 := { s with haltLog := hs }
    ((s1.setBoot 7 true).bump 0x40034 1).logFault 0x040D 0 0x300 (BitVec.ofNat 32 (if h.cause = 0 then 3 else h.cause)) 0

/-- A field of an audit record (R421). -/
def State.auditField (s : State) (k o n : Nat) : Nat := leNat (s.flashBytes (auditAt k + o) n)

/-- A record stands at a place of the audit log. -/
def State.auditStands (s : State) (k : Nat) : Bool := decide (s.auditField k 0 4 ≠ 0xFFFFFFFF)

/-- The fuses show the value that a record gives as NEW (R420). An ageing trim has no fuse of its own, so its record counts as shown: DEDUCED, log entry 32. -/
def State.fusesShow (s : State) (kind new : Nat) : Bool :=
  match kind with
  | 1 => s.fuses.solo && decide (new = 1)
  | 2 => decide (s.fuses.slot = new)
  | 3 => decide (s.fuses.secver = new)
  | 4 => decide (s.fuses.opmax = new)
  | _ => true

/-- A record is intact (R420): in its place, signed by the device key, chained to the record before it. -/
def State.auditIntact (s : State) (k : Nat) : Bool :=
  let b := s.flashBytes (auditAt k) 0x90
  let prev := if k = 1 then List.replicate 48 0 else hash48 (s.flashBytes (auditAt (k - 1)) 0x90)
  decide (s.auditField k 0 4 = k) && decide (s.flashBytes (auditAt k + 0x90) 96 = devSig b)
    && decide (s.flashBytes (auditAt k + 0x50) 48 = prev)

/-- The record after the last counted one completed or made void (R420). -/
def State.settleAudit (s : State) : State :=
  let k := s.fuses.audit + 1
  if s.auditStands k then
    if s.fusesShow (s.auditField k 4 1) (s.auditField k 0xC 4) then { s with fuses := { s.fuses with audit := k } }
    else { s with flash := mset byteFF s.flash (auditAt k + 0xF0) 0 }
  else s

/-- The places of the log in use. -/
def State.auditPlaces (s : State) : List Nat := (List.range s.fuses.audit).map (· + 1)

/-- The audit log reconciled against the fuses (R420). -/
def State.reconcile (s : State) : State :=
  let s1 := s.settleAudit
  match s1.auditPlaces.find? (fun k => !s1.auditIntact k) with
  | none => s1.setBoot 9 false
  | some k => (s1.setBoot 9 true).logFault 0x0509 0 0x300 (BitVec.ofNat 32 k) 0

/-- The valid records of the log, latest last. -/
def State.auditValid (s : State) : List Nat := s.auditPlaces.filter (fun k => decide (s.auditField k 0xF0 1 = 0xFF))

/-- GOV_AGE from the audit log (R372, R406, R480): the total of the latest ageing record and the count of them. -/
def State.loadAge (s : State) : State :=
  let ks := s.auditValid.filter (fun k => decide (s.auditField k 4 1 = 5))
  match ks.getLast? with
  | none => s
  | some k => s.setReg 0x30038 (BitVec.ofNat 32 (s.auditField k 0xC 4 % 64 + ks.length % 16 * 256))

/-- Measurements 0, 4, 5 and 6 as bring-up finds them (R426). -/
def State.measureBase (s : State) : State :=
  let last := match s.auditValid.getLast? with
    | some k => hash48 (s.flashBytes (auditAt k) 0x90)
    | none => List.replicate 48 0
  (((s.setMeas 0 (fix 48 Config.romDigest)).setMeas 4 (hash48 s.fuses.summary)).setMeas 5 last).measFlags

/-! ### LPDDR5X channels (R282, R462) -/

/-- A channel that passes at 6,400 MT/s only. -/
def State.slowChannel (s : State) (h : Nat) : State :=
  (s.setFld (0x100000 + 0x1000 * (h / 4)) (4 + h % 4) 1 1).logFault 0x0203 0 (0x100 + ctrlEdge (h / 4)) (BitVec.ofNat 32 h) 0

/-- A channel that fails at 6,400 MT/s. -/
def State.loseChannel (s : State) (h : Nat) : State :=
  s.logFault 0x0204 0 (0x100 + ctrlEdge (h / 4)) (BitVec.ofNat 32 h) 0

/-- Every channel trained, slowed or lost. -/
def State.trainChannels (s : State) (e : BootEnv) : State :=
  (List.range 80).foldl (fun (t : State) h =>
    if e.lost.any (fun k => decide (k.val = h)) then t.loseChannel h
    else
      let u := t.setFld (0x100000 + 0x1000 * (h / 4)) (h % 4) 1 1
      if e.slow.any (fun k => decide (k.val = h)) then u.slowChannel h else u) s

/-- A line of the half of the snapshot region that holds the committed generation, for a snapshot size of `n` GiB (R286, R340). -/
def State.inHalf (s : State) (n l : Nat) : Bool :=
  let a := (s.capMib - 680 - 1024 * n + 512 * n * s.snapHalf) * 16384
  decide (a ≤ l) && decide (l < a + 512 * n * 16384)

/-- LINK_SNAPGEN after the channels are trained (R462): `old`, what the memory held for a snapshot size of `n` GiB; a free value where that half has an uncorrectable line, so that the other half counts, whose generation the model does not hold. Log entry 48. -/
def State.readSnapGen (s : State) (old : Word) (n : Nat) : State :=
  if s.poison.any (s.inHalf n) then
    let (v, t) := s.fresh
    t.setReg 0x80824 (BitVec.ofNat 32 v)
  else s.setReg 0x80824 old

/-! ### Copies (R412, R413) -/

/-- The copy selected from the reasons of both: A is 1, B is 2, none 0 (R413). -/
def State.choose (s : State) (ra rb : Nat) : Nat :=
  if ra = 0 then (if rb = 0 ∧ s.copyField 0 0x10 8 < s.copyField 1 0x10 8 then 2 else 1)
  else if rb = 0 then 2
  else 0

/-- The bytes of all sections of TYPE 3 and above (R426). -/
def State.ownerSections (s : State) (slot : Nat) : List Byte :=
  ((s.sections slot).filter (fun c => decide (3 ≤ c.type))).flatMap (fun c => s.sectionBytes slot c)

/-- The value of a section of the copy, empty when it is missing. -/
def State.sectionValue (s : State) (slot type : Nat) : List Byte :=
  match s.sectionOf slot type with
  | some c => s.sectionBytes slot c
  | none => []

/-- A copy selected: BOOT_STATUS.COPY, BOOT_SERIAL, SEC_SECVER.IMAGE, its values, measurements 1 to 3; the seated cartridge awaits authentication (R396, R413, R426). -/
def State.selectCopy (s : State) (slot : Nat) : State :=
  let n := s.copyField slot 0x10 8
  let s1 := ((s.setFld 0x10000 3 2 (slot + 1)).setReg 0x10008 (BitVec.ofNat 32 n)).setReg 0x1000C (BitVec.ofNat 32 (n / 2 ^ 32))
  let s2 := s1.setFld 0x20000 8 7 (s.copyField slot 0x0C 1)
  let s3 := { s2 with plan := s.planOf slot, image := s.flashBytes (copyBase slot) (s.copyLen slot) }
  let s4 := ((s3.setMeas 1 (hash48 (s.sectionValue slot 1))).setMeas 2 (hash48 (s.sectionValue slot 2))).setMeas 3 (hash48 (s.ownerSections slot))
  if s4.tbit 2 && decide (s4.auth ≠ 2) then s4.setAuth 1 else s4

/-- No copy selected: measurement 1 is zero, a seated cartridge stays unauthenticated (R405, R426). -/
def State.selectNone (s : State) : State :=
  let s1 := { s.setFld 0x10000 3 2 0 with plan := Plan.none, image := [] }
  let s2 := ((s1.setReg 0x10008 0).setReg 0x1000C 0).setFld 0x20000 8 7 0
  ((s2.setAuth 0).setMeas 1 (List.replicate 48 0)).paths.refresh

/-- Both copies examined and one selected (R412, R413); the reasons stand in BOOT_REJ. -/
def State.examine (s : State) (e : BootEnv) : State :=
  let ra := s.checkCopy 0 e.badA
  let rb := s.checkCopy 1 e.badB
  let s1 := ((s.logCopy 0 ra).logCopy 1 rb).setReg 0x10004 (BitVec.ofNat 32 (ra + rb * 16))
  match s1.choose ra rb with
  | 0 => s1.selectNone
  | c => s1.selectCopy (c - 1)

/-! ### The accepted copy applied (R414) -/

/-- A LINK field written from the TORUS section, once (R8, R414). -/
def State.putTorus (s : State) (a : Nat) (v : Word) : State :=
  let t := s.setReg a v
  { t with die := { t.die with rwo := t.die.rwo ++ [a] } }

/-- Coordinates, dimensions, module identifier, root and partner from the TORUS section (R323, R414). -/
def State.applyTorus (s : State) : State :=
  let p := s.plan
  if p.torus then
    let s1 := ((s.putTorus 0x80800 (BitVec.ofNat 32 (fld p.entry 0 15))).putTorus 0x80804 (p.dims &&& 0x3FFFF)).putTorus 0x80808 (BitVec.ofNat 32 (p.dbase % 2 ^ 14))
    let s2 := s1.setFld 0x80808 16 14 (s1.modAt (fun d => fld p.entry (5 * d) 5))
    (s2.putTorus 0x8080C (p.root &&& 0x7FFF)).putTorus 0x80820 (BitVec.ofNat 32 (fld p.entry 15 3))
  else s

/-- User inline-ECC region `n` from the OWNER_CONFIG section (R289, R501). -/
def State.applyEcc (s : State) : State :=
  ((List.range s.plan.ecc.length).zip s.plan.ecc).foldl (fun (t : State) p =>
    (t.memConfigWrite (0x100810 + 8 * p.1) (BitVec.ofNat 32 p.2.1)).memConfigWrite (0x100814 + 8 * p.1) (BitVec.ofNat 32 p.2.2)) s

/-- Step 2 of R414. -/
def State.applyCopy (s : State) : State :=
  let s1 := s.applyTorus
  let s2 := (s1.putRecords s1.plan.config).applyEcc
  let colls := (s2.plan.colls.filter (fun c => decide (c.1 < 256))).foldl (fun m c => mset (fun _ => readColl []) m c.1 (readColl c.2)) []
  let s3 := { s2 with die := { s2.die with colls := colls } }
  (s3.putRecords s3.plan.limits).applyPhases

/-- Step 3 of R414: security version, owner key, solo-mode enable, operating ceiling, each with HASH of the copy as DETAIL. -/
def State.applyFuses (s : State) (slot : Nat) : State :=
  let h := s.copyHash slot
  let v := s.copyField slot 0x0C 1
  let s1 := if s.copyField slot 0x0D 1 / 2 % 2 = 1 ∧ s.fuses.secver < v then
      (s.commitFuse 3 s.fuses.secver v h (fun f => { f with secver := v })).1 else s
  let s2 := if (s1.sectionOf slot 9).isSome then
      (s1.commitFuse 2 s1.fuses.slot (s1.fuses.slot + 1) h (fun f => { f with
        slot := f.slot + 1, slots := f.slots.take f.slot ++ [hash48 (s1.sectionValue slot 9)] })).1 else s1
  let s3 := if (s2.sectionOf slot 10).isSome && !s2.fuses.solo then
      (s2.commitFuse 1 0 1 h (fun f => { f with solo := true })).1 else s2
  match s3.plan.opmax with
  | some n => if n < s3.fuses.opmax then s3.ceilingWrite (BitVec.ofNat 32 n) h else s3
  | none => s3

/-- Step 4 of R414: READY at once in solo mode, otherwise LINKS, with every used port in training. -/
def State.startLinks (s : State) (slot : Nat) : State :=
  if s.copySolo slot then (s.setBoot 5 true).enter 5
  else ((List.range 12).foldl (fun (t : State) p => t.trainPort p) (s.enter 4)).settleLinks

/-- The module goes on from the self-test (R402, R414). -/
def State.afterTest (s : State) (e : BootEnv) (slot : Nat) : State :=
  match e.failed with
  | some (u, a) => (s.logFault 0x0502 0 u (BitVec.ofNat 32 u) a).enter 2
  | none => ((s.applyCopy).applyFuses slot).startLinks slot

/-! ### The sequence -/

/-- From the rails on (R403): logs, channels, copies, the alert inputs as they stand (R364), self-test, links. `gen` is the generation that the snapshot region holds, `n` its size in GiB. -/
def State.fromRails (s : State) (e : BootEnv) (gen : Word) (n : Nat) : State :=
  let s1 := { s.scanHalts.reconcile with powered := true }
  let s2 := (((s1.loadAge.measureBase).trainChannels e).readSnapGen gen n).examine e
  let bad := bitAt (s2.reg 0x10000) 7 || bitAt (s2.reg 0x10000) 8
  let s3 := { s2 with
    die := { s2.die with job := ⟨0, 0, bad⟩ }
    sup := { s2.sup with railFails := 0, repeatDue := false } }
  let s4 := if s3.sup.perst then s3 else s3.setReg 0x54008 (BitVec.ofNat 32 e.link.toNat)
  let s5 := s4.judgeInputs
  if !e.lost.isEmpty then s5.enter 2
  else match fld (s5.reg 0x10000) 3 2 with
    | 0 => s5.enter 1
    | c => (s5.enter 3).afterTest e (c - 1)

/-- Bring-up after power-on (R403, R406): straps and trip latch, then the sequence. -/
def State.bringUp (s : State) (e : BootEnv) : State :=
  let s1 := (s.setReg 0x14 (BitVec.ofNat 32 e.pos.val)).readTrip
  { s1 with die := Die.reset }.fromRails e 0 0

/-- BOOT_GOLDEN.VALID is cleared, a BOOT_STATUS bit and the mailbox start again (R294, R416, R427). -/
def State.restartBoot (s : State) : State :=
  let s1 := ((s.setReg 0x1001C 0).setFld 0x10000 0 3 0).setBoot 5 false
  { s1.setReg 0x10018 0 with mbx := ⟨none, [], []⟩ }

/-- What a mailbox RESTART does (R416, R480): the edge and station domains off, all their registers at reset but GOV_ENERGY and GOV_AGE, and bring-up from the 25 ms step. LPDDR5X keeps its contents: DESIGN CHOICE, log entry 38. -/
def State.restart (s : State) (e : BootEnv) : State :=
  let kept := (s.reg 0x30038, s.reg 0x30040, s.reg 0x30044, s.reg 0x80824)
  let s1 := { s.restartBoot with die := Die.reset, snapOut := none }
  let s2 := ((s1.setReg 0x30038 kept.1).setReg 0x30040 kept.2.1).setReg 0x30044 kept.2.2.1
  s2.fromRails e kept.2.2.2 s.snapN

/-- RESTART (R416, R474): ignored while BUSY, refused in RUNNING. -/
def execRestart (v : Word) (e : BootEnv) (s : State) : Result :=
  if s.writeServed 0x10010 && decide (s.supState = 0) then
    if bitAt (s.reg 0x10018) 0 then .next s
    else if s.mstate = 6 then .next (s.mbxPost 1 0)
    else .next (s.restart e)
  else .next (s.bar0Write 0x10010 0xF (putFld v 0 4 4))

/-! ### Rails (R493) -/

/-- The module stands before its bring-up: no die supply, no halt, no trip that awaits its power cycle. -/
def State.mayBoot (s : State) : Bool := !s.powered && decide (s.supState = 0) && decide (s.sup.trip ≠ 1)

/-- RAIL_POWER_GOOD_TIMEOUT (R492, R493): a rail of bring-up gives no power good; logged, and the first time repeated after 1 s. -/
def execRailPowerGoodTimeout (reg : Fin 7) (status : BitVec 16) (s : State) : Result :=
  if s.mayBoot && decide (s.sup.railFails < 2) && (decide (s.sup.railFails = 0) || s.sup.repeatDue) then
    let s1 := s.logFault 0x0402 0 0x300 (BitVec.ofNat 32 reg.val) (BitVec.ofNat 64 status.toNat)
    .next { s1 with sup := { s1.sup with railFails := s.sup.railFails + 1, repeatDue := decide (s.sup.railFails = 0) } }
  else .next s

/-- BRINGUP_REPEAT (R493). -/
def execBringupRepeat (e : BootEnv) (s : State) : Result :=
  if s.mayBoot && s.sup.repeatDue then .next (s.bringUp e) else .next s

/-! ### Unlock (R423) -/

/-- UNLOCK (R423): the module presents a nonce on the UART; a Haurn signature over serial and nonce unlocks it until the next power cycle. -/
def execUnlock (sig : List Byte) (s : State) : Result :=
  if s.powered then
    let (n, s0) := s.fresh
    let nonce := leBytes 48 n
    let s1 := s0.emit (.uart ((List.range 12).map (fun k => BitVec.ofNat 32 (leNat ((nonce.drop (4 * k)).take 4)))))
    if unlockOk nonce sig then .next (s1.setBoot 6 true).measFlags else .next s1
  else .next s

end Sys2Proof.Machine
end

