-- ==== Sys2Proof/Machine/Attest.lean ====
section
/-! DEFINITION. Attestation and the MCTP control commands (R405, R424 to R426, R443). -/
namespace Sys2Proof.Machine

/-- The module answers on a medium (R405, R443): not in BRINGUP; on PCIe out of reset. Requests are served until 700 µs after the start of a halt (R442). -/
def State.hears (s : State) (smbus : Bool) : Bool :=
  s.powered && decide (s.mstate ≠ 0) && (decide (s.supState = 0) || (decide (s.supState = 1) && decide (s.sup.ticks < 2800)))
    && (smbus || !s.sup.perst)

/-- A message sent; PCIe sends nothing while Bus Master Enable is 0 (R443). Medium 0 is PCIe, 1 the SMBus. -/
def State.answer (s : State) (smbus : Bool) (bytes : List Byte) : State :=
  if smbus then s.emit (.mctp 1 bytes) else if s.die.pcie.bme then s.emit (.mctp 0 bytes) else s

/-! ### Attestation (R424, R425) -/

/-- The header fields of a response (R424), the enterprise number with its most significant byte first. PRESUMED, log entry 9. -/
def State.attHead (s : State) (code status : Byte) : List Byte :=
  [0x7F] ++ (leBytes 4 (Config.enterprise s.image)).reverse ++ [1, code, status]

/-- A response with its payload. -/
def State.attest (s : State) (smbus : Bool) (code status : Byte) (payload : List Byte) : State :=
  s.answer smbus (s.attHead code status ++ payload)

/-- The payload of GET_INFO: serial, stepping, STATE, SECVER fuse, owner slot, SEC_AUDIT.SEQ. Field widths: log entry 45. -/
def State.infoPayload (s : State) : List Byte :=
  leBytes 8 Config.serial.toNat ++ leBytes 1 0x21 ++ leBytes 1 s.mstate ++ leBytes 1 s.fuses.secver ++ leBytes 1 s.fuses.slot ++ leBytes 2 s.fuses.audit

/-- Count, then index and digest of each measurement that the mask requests (R424, R426). -/
def State.measPayload (s : State) (mask : Byte) : List Byte :=
  let is := (List.range 8).filter (fun i => bitAt mask i)
  leBytes 1 is.length ++ is.flatMap (fun i => leBytes 1 i ++ fix 48 (s.meas.getD i []))

/-- The answer to GET_INFO. -/
def State.infoReply (s : State) (smbus : Bool) (payload : List Byte) : State :=
  if payload.isEmpty then s.attest smbus 1 0 s.infoPayload else s.attest smbus 1 2 []

/-- The answer to GET_CERT: offset and length, at most 1,024. -/
def State.certReply (s : State) (smbus : Bool) (payload : List Byte) : State :=
  let o := leNat (payload.take 2)
  let n := leNat (payload.drop 2)
  if payload.length = 4 ∧ n ≤ 1024 then s.attest smbus 2 0 ((Config.certChain.drop o).take n) else s.attest smbus 2 2 []

/-- The answer to GET_MEAS: the signature covers the request payload and the response payload before it (R425). -/
def State.measReply (s : State) (smbus : Bool) (payload : List Byte) : State :=
  if payload.length = 33 then
    let r := s.measPayload (payload.getD 32 0)
    s.attest smbus 3 0 (r ++ devSig (payload ++ r))
  else s.attest smbus 3 2 []

/-- The answer to GET_AUDIT: the record at place SEQ, which counts from 1 (R421). -/
def State.auditReply (s : State) (smbus : Bool) (payload : List Byte) : State :=
  let k := leNat payload
  if payload.length = 2 ∧ 0 < k then s.attest smbus 4 0 (s.flashBytes (auditAt k) 256) else s.attest smbus 4 2 []

/-- The answer to an attestation request (R424): any other CODE returns STATUS 1. -/
def State.reply (s : State) (a : Asked) : State :=
  if a.code = 1 then s.infoReply a.smbus a.payload
  else if a.code = 2 then s.certReply a.smbus a.payload
  else if a.code = 3 then s.measReply a.smbus a.payload
  else if a.code = 4 then s.auditReply a.smbus a.payload
  else s.attest a.smbus a.code 1 []

/-- A halt defers the requests that arrive on a medium in it (R425); the PCIe link is down from 700 µs on (R442). -/
def State.defers (s : State) (smbus : Bool) : Bool :=
  decide (s.mstate ≠ 0) && decide (s.supState ≠ 0) && (smbus || (decide (s.supState = 1) && decide (s.sup.ticks < 2800) && !s.sup.perst))

/-- An attestation request: answered, or deferred to the resume, where a second one of the medium discards the first (R424, R425, R443). -/
def State.request (s : State) (a : Asked) : State :=
  if s.defers a.smbus then { s with asked := s.asked.filter (fun b => b.smbus != a.smbus) ++ [a] }
  else if s.hears a.smbus then s.reply a
  else s

/-- The deferred requests answered (R425). -/
def State.replyAll (s : State) : State := s.asked.foldl State.reply { s with asked := [] }

/-- GET_INFO (R424). -/
def execGetInfo (smbus : Bool) (payload : List Byte) (s : State) : Result := .next (s.request ⟨smbus, 1, payload⟩)

/-- GET_CERT (R424). -/
def execGetCert (smbus : Bool) (payload : List Byte) (s : State) : Result := .next (s.request ⟨smbus, 2, payload⟩)

/-- GET_MEAS (R424, R425). -/
def execGetMeas (smbus : Bool) (payload : List Byte) (s : State) : Result := .next (s.request ⟨smbus, 3, payload⟩)

/-- GET_AUDIT (R421, R424). -/
def execGetAudit (smbus : Bool) (payload : List Byte) (s : State) : Result := .next (s.request ⟨smbus, 4, payload⟩)

/-- ATTESTATION_OTHER_CODE (R424): any CODE but 1 to 4. -/
def execAttestationOtherCode (smbus : Bool) (code : Byte) (s : State) : Result :=
  if 1 ≤ code.toNat ∧ code.toNat ≤ 4 then .next s else .next (s.request ⟨smbus, code, []⟩)

/-! ### MCTP control (R443), in the layouts of DSP0236. PRESUMED, log entry 44. -/

/-- A control response: message type 0, instance, command, completion code, data. -/
def State.control (s : State) (smbus : Bool) (inst : Nat) (cmd : Byte) (bytes : List Byte) : State :=
  s.answer smbus ([0, BitVec.ofNat 8 inst, cmd] ++ bytes)

/-- The endpoint identifier of a medium. -/
def State.eid (s : State) (smbus : Bool) : Nat := s.die.eids.getD (if smbus then 1 else 0) 0

/-- The endpoint identifier of a medium set. -/
def State.setEid (s : State) (smbus : Bool) (e : Nat) : State :=
  { s with die := { s.die with eids := s.die.eids.set (if smbus then 1 else 0) e } }

/-- SET_ENDPOINT_ID: operations 0 and 1 assign; 0 and 0xFF are no identifiers; other operations change nothing. -/
def execSetEndpointId (smbus : Bool) (inst : Fin 32) (op eid : Byte) (s : State) : Result :=
  if s.hears smbus then
    if (fld op 0 2 = 0 ∨ fld op 0 2 = 1) ∧ eid ≠ 0 ∧ eid ≠ 0xFF then
      let t := s.setEid smbus eid.toNat
      .next (t.control smbus inst 1 [0, 0, eid, 0])
    else .next (s.control smbus inst 1 [2])
  else .next s

/-- GET_ENDPOINT_ID: the identifier; a simple endpoint. -/
def execGetEndpointId (smbus : Bool) (inst : Fin 32) (s : State) : Result :=
  if s.hears smbus then .next (s.control smbus inst 2 [0, BitVec.ofNat 8 (s.eid smbus), 0, 0]) else .next s

/-- GET_MCTP_VERSION_SUPPORT: one version entry, a free value, for the base, control and vendor-defined types. -/
def execGetMctpVersionSupport (smbus : Bool) (inst : Fin 32) (type : Byte) (s : State) : Result :=
  if s.hears smbus then
    if type = 0xFF ∨ type = 0 ∨ type = 0x7F then
      let (v, t) := s.fresh
      .next (t.control smbus inst 4 ([0, 1] ++ leBytes 4 v))
    else .next (s.control smbus inst 4 [0x80])
  else .next s

/-- GET_MESSAGE_TYPE_SUPPORT: 0x7F besides control. -/
def execGetMessageTypeSupport (smbus : Bool) (inst : Fin 32) (s : State) : Result :=
  if s.hears smbus then .next (s.control smbus inst 5 [0, 1, 0x7F]) else .next s

/-- GET_VENDOR_DEFINED_MESSAGE_SUPPORT: set 0, the IANA enterprise number; its command set type is a free value. -/
def execGetVendorDefinedMessageSupport (smbus : Bool) (inst : Fin 32) (sel : Byte) (s : State) : Result :=
  if s.hears smbus then
    if sel = 0 then
      let (v, t) := s.fresh
      .next (t.control smbus inst 6 ([0, 0xFF, 1] ++ (leBytes 4 (Config.enterprise s.image)).reverse ++ leBytes 2 v))
    else .next (s.control smbus inst 6 [2])
  else .next s

/-- MCTP_UNSUPPORTED_MESSAGE (R443): discarded without an answer. -/
def execMctpUnsupportedMessage (_ : Bool) (_ : Byte) (s : State) : Result := .next s

end Sys2Proof.Machine
end

