-- ==== Sys2Proof/Machine/Supply.lean ====
section
/-! DEFINITION. Supply, temperature and ride-through: the halt sequence, hold, resume, loss of state, the trip, and the tick of the slow clock (R331, R333, R367 to R370, R382 to R394, R400, R442). -/
namespace Sys2Proof.Machine

/-! ### Halt (R384 to R386) -/

/-- TENDER_STATUS.STATE set. -/
def State.setSup (s : State) (n : Nat) : State := s.setFld 0x40000 0 2 n

/-- A job is loaded: the job runner has begun to start one (R383). -/
def State.jobLoaded (s : State) : Bool := decide (s.die.job.phase ≠ 0) || decide (s.mstate = 6)

/-- TENDER_HSEQ as a number. -/
def State.hseq (s : State) : Nat := (s.reg 0x4002C).toNat

/-- A station as a halt begins: work in progress draws no credits (R386), and a sleeping or waking station is awake without admission, to be ASLEEP again after the resume (R384, R387). -/
def Station.halted (x : Station) : Station :=
  let fs : List Flight := x.iss.flight.map (fun (f : Flight) => { f with owed := 0 })
  let off := decide (x.ctl.run = .asleep) || decide (x.ctl.run = .waking)
  { x with
    ctl := if off then { x.ctl with run := .awake, slept := true, wakeReq := x.ctl.wakeReq || x.ctl.admitted, admitted := false } else x.ctl
    iss := { x.iss with flight := fs } }

/-- A halt begins (R384): 50 µs after the first low sample; the causes are 0 brownout, 1 overvoltage, 2 thermal. NSEQ counts in 16 bits (R401). -/
def State.beginHalt (s : State) (cause : Nat) : State :=
  let s1 := ((s.setFld 0x4002C 0 16 ((s.hseq + 1) % 65536)).bump 0x40030 1).emit (.haltOut true)
  let s2 := ((s1.signal 3).flood none (.notice 0 s1.modid s1.hseq 0 0 0 0 0)).setSup 1
  let s3 := s2.forStns (s2.die.stns.map (·.1)) Station.halted
  let s4 := s3.setNet { s3.die.net with seen := s3.die.net.seen ++ [(0, s3.modid, s3.hseq, 0)] }
  { s4.paths with sup := { s4.sup with ticks := 200, cause := cause } }

/-- A TICKET in flight receives its value before the spill (R265): one already on its way, or the counter's. -/
def State.finishTicket (s : State) (i : Nat) (f : Flight) : State :=
  match takeFlit (fun h => isTktval i h && decide (h.txn = f.seq)) s.die.mesh with
  | some (h, rest) => (s.setMesh rest).setStn i ((s.stn i).takeValue h)
  | none =>
    let (v, s1) := (s.setMesh (s.die.mesh.filter (fun h => !(isTkt h && decide (h.src = i) && decide (h.txn = f.seq))))).serveTicket (fld f.word 20 6)
    s1.setStn i (((s1.stn i).recordValue f.seq v).takeValue ⟨syncHub, i, i, f.seq, none, .tktval v⟩)

/-- The TICKETs in flight at every station receive their values. -/
def State.finishTickets (s : State) : State :=
  s.die.stns.foldl (fun (t : State) p =>
    (p.2.iss.flight.filter (fun f => decide (opc f.word = 0x30) && decide (f.stage ≠ .computed))).foldl (fun (u : State) f => u.finishTicket p.1 f) t) s

/-- The port controllers forward every frame of other modules that they have acknowledged (R326, R384); one for a neighbour in halt stays. -/
def State.forwardAll (s : State) : State :=
  (List.range 12).foldl (fun (t : State) p =>
    if t.portUp p && !t.die.net.halts.any (fun h => h.1 = fld (t.reg (portBase p + 8)) 0 14) then
      ((t.port p).wait.filter (fun w => w.origin.isSome)).foldl (fun (u : State) w => u.sendNext p w) t
    else t) s

/-- The die goes off into hold. -/
def State.dieOff (s : State) : State :=
  let t := s.setSup 2
  { t with die := Die.reset, powered := false, sup := { t.sup with ticks := 0 } }

/-- Steps 3 to 5 of the halt: work in flight captured, the spill image written with VALID last, acknowledged frames forwarded, the halt record, the die off (R265, R326, R384, R388 to R390). -/
def State.enterHold (s : State) : State :=
  let s1 := s.finishTickets.forwardAll
  let s2 := s1.writeSpill
  let p : Spill := ⟨s.hseq, min 2 s.sup.cause, s.uptime - 2800, true, s1.die⟩
  let r : HaltRecord := ⟨s.hseq, false, 0⟩
  ({ s2 with spill := some p, haltLog := s.haltLog ++ [r] } : State).dieOff

/-! ### Resume (R387, R389, R393) -/

/-- A station as a restore leaves it: sums recomputed, no credits, ASLEEP again where the halt had woken it (R387, R388). -/
def Station.restored (x : Station) : Station :=
  let y := x.resum
  { y with
    ctl := if y.ctl.slept then { y.ctl with run := .asleep, retention := true, slept := false } else y.ctl
    iss := { y.iss with account := 0, spent := 0 } }

/-- The stations that were WAKING ask again for wake. DEDUCED, log entry 39. -/
def Die.wakers (d : Die) : List Nat :=
  (d.stns.filter (fun p => p.2.ctl.slept && p.2.ctl.wakeReq && !d.wakeQ.contains p.1)).map (·.1)

/-- The governor at resume: OP2, the histories at the limits (R358, R380, R393). -/
def State.resumeGov (s : State) : State :=
  let g := s.die.gov
  (s.setFld 0x30000 0 3 2).setGov { g with
    volt := s.voltOf 2
    capHist := [(99999, (fld (s.reg 0x30008) 0 9 : Rat))]
    peakHist := [(999, (fld (s.reg 0x3000C) 0 9 : Rat))] }

/-- The die state back from the image (R388, R393). -/
def State.restoreSpill (s : State) (p : Spill) : State :=
  let d := p.die
  let stns := d.stns.map (fun q => (q.1, q.2.restored))
  { s with die := { d with
    stns := stns
    wakeQ := d.wakeQ ++ d.wakers
    pdown := 0
    net := { d.net with haltedIn := true } } }.resumeGov

/-- Every channel has been trained again (R283, R295, R297). -/
def State.retrainAll (s : State) : State :=
  (List.range 20).foldl (fun (t : State) c => t.bump (0x100020 + 0x1000 * c) 4) s

/-- The restore (R283, R295, R388, R393): the die state is back, every channel is trained again, and the requests that waited are served. -/
def State.restore (s : State) (p : Spill) : State := (s.restoreSpill p).retrainAll.serveWaiting

/-- A snapshot copy that the halt abandoned starts again from the beginning (R342). -/
def State.snapAgain (s : State) : State :=
  match s.die.net.snap with
  | some r => (s.setNet { s.die.net with snap := some { r with acked := false }, snapGot := [] }).sendSnap r.gen
  | none => s

/-- SUPPLY_LOW judged from the input as it stands (R367). -/
def State.judgeSupply (s : State) : State :=
  s.setFld 0x30000 8 1 (if (s.reg 0x40008).toNat < fld (s.reg 0x30020) 0 9 * 10 then 1 else 0)

/-- After a halt for heat TJ has stayed below 95 °C, at a value not known, which is recorded (R369): DESIGN CHOICE, log entry 93. -/
def State.cooled (s : State) : State :=
  let (v, t) := s.fresh
  (t.setFld 0x30000 16 7 (v % 95)).logFault 0x0406 0 0x300 (BitVec.ofNat 32 (v % 95)) 0

/-- An endpoint reset: configuration and MSI-X state, the waiting BAR2 accesses and every queue (R404, R428, R440, R480). -/
def State.resetEndpoint (s : State) : State :=
  let clean := s.die.reg.filter (fun p => !(decide (0x58000 ≤ p.1) && decide (p.1 < 0x58400)))
  let s1 := { s with die := { s.die with reg := clean, pcie := Pcie.reset } }
  let s2 := s1.forStns (s1.die.stns.map (·.1)) (fun (x : Station) =>
    { x with routerHeld := x.routerHeld.filter (fun f => !isBar2To f.dst f) })
  let s3 := s2.setMesh (s2.die.mesh.filter (fun f => !isBar2To f.dst f))
  (List.range 16).foldl (fun (t : State) q => t.qClear q) s3

/-- Issue resumes (R393): the RESUME notice with the halt's NSEQ, HALT_OUT_N released, the record closed, charging begun again, vector 3; what the halt deferred follows (R342, R364 to R366, R425). -/
def State.finishResume (s : State) (p : Spill) : State :=
  let s1 := s.setSup 0
  let hs : List HaltRecord := s1.haltLog.map (fun (r : HaltRecord) => if r.nseq = p.nseq then { r with closed := true } else r)
  let s2 := { s1 with spill := none, haltLog := hs, sup := { s1.sup with ticks := 0, cause := 0 } }
  let s3 := s2.setNet { s2.die.net with seen := s2.die.net.seen ++ [(1, s2.modid, p.nseq, 0)] }
  let s4 := ((s3.flood none (.notice 1 s3.modid p.nseq 0 0 0 0 0)).emit (.haltOut false)).signal 3
  let s5 := ((s4.mbxAbandon.judgeSupply.startCharge 3040).snapAgain).flushAll
  let s6 := if s5.sup.perst then s5.resetEndpoint.setReg 0x54008 0 else s5
  let s7 := if p.cause = 2 then s6.cooled else s6
  s7.judgeInputs.replyAll

/-- The image cannot be restored (R389, R394): the state is lost and the module comes up anew, its memory kept (R462). -/
def State.spillLost (s : State) (p : Spill) (line : Nat) (e : BootEnv) : State :=
  let s1 := { s.restartBoot with spill := none, snapOut := none, sup := { s.sup with ticks := 0, cause := 0 } }
  let s2 := ((s1.setSup 0).emit (.haltOut false)).logFault 0x0205 0 0x300 0 (BitVec.ofNat 64 line)
  { s2.logLoss 4 with die := Die.reset }.fromRails e (mget regReset p.die.reg 0x80824) (min (fld (mget regReset p.die.reg 0x100804) 0 7) 64)

/-- Resume begins (R393), or finds the image bad: VALID clear, another NSEQ than M3's, or an uncorrectable line (R389). -/
def State.startResume (s : State) (e : BootEnv) : State :=
  match s.spill with
  | none => s
  | some p =>
    if !p.valid || decide (p.nseq ≠ s.hseq) then s.spillLost p (s.spillStart / 64) e
    else match e.spillUe <|> s.poison.find? (fun l => match s.region (l * 64) with | .spill => true | _ => false) with
      | some l => s.spillLost p l e
      | none =>
        let t := s.setSup 3
        { t with powered := true, sup := { t.sup with ticks := 0 } }

/-! ### The input (R382, R383, R387) -/

/-- INPUT_SAMPLE (R367, R382, R390, R397): TENDER_VIN; below VLOW SUPPLY_LOW is active and charging pauses. -/
def execInputSample (mv10 : BitVec 16) (s : State) : Result :=
  let s1 := s.setReg 0x40008 (BitVec.ofNat 32 mv10.toNat)
  if s1.powered && decide (s1.supState = 0) && decide (mv10.toNat < fld (s1.reg 0x30020) 0 9 * 10) then
    .next (s1.setFld 0x30000 8 1 1).paths
  else .next s1

/-- The input fails (R383, R387): a halt with a job loaded, a power-down without one; in a halt for heat the cartridge takes over, and the resume waits for the input too; a resume is abandoned and then waits for the input. -/
def State.inputFails (s : State) (cause : Nat) : State :=
  let heat : State := if s.sup.cause = 2 then { s with sup := { s.sup with cause := 3 } } else s
  match s.supState with
  | 0 => if s.powered && s.jobLoaded then s.beginHalt cause else s.powerLoss
  | 3 => ({ s with sup := { s.sup with cause := if s.sup.cause = 2 then 0 else s.sup.cause } } : State).dieOff
  | _ => heat

/-- BROWNOUT (R382, R383, R387). -/
def execBrownout (s : State) : Result := .next (s.inputFails 0)

/-- OVERVOLTAGE (R382): the input switch opens, and the rest as for brownout. -/
def execOvervoltage (s : State) : Result := .next ((s.setTbit 10 true).inputFails 1)

/-- INPUT_QUALIFIED (R382, R393, R402 to R404): bring-up after power-off, with which the uptime begins, resume from hold; a thermal halt waits for its temperature. -/
def execInputQualified (e : BootEnv) (s : State) : Result :=
  let s1 := s.setTbit 10 false
  if s1.supState = 2 then
    if s1.sup.cause = 3 then .next { s1 with sup := { s1.sup with cause := 2 } }
    else if s1.sup.cause = 2 then .next s1
    else .next (s1.startResume e)
  else if s1.mayBoot && decide (s1.sup.railFails = 0) then
    let s2 : State := { s1 with uptime := 0, sup := { s1.sup with perstTick := 0 } }
    .next (s2.bringUp e)
  else .next s1

/-! ### Loss of state (R394, R400) -/

/-- The hold is drawn from the cartridge: the input failed and stands below 42.0 V (R387, R390). -/
def State.onCartridge (s : State) : Bool :=
  decide (s.supState = 2) && decide (s.sup.cause ≠ 2) && decide ((s.reg 0x40008).toNat < 4200)

/-- STATE_LOST (R394): in hold on the cartridge the estimate has fallen to the 60 J reserve; M3 logs the loss and switches off. -/
def execStateLost (s : State) : Result :=
  if s.onCartridge && decide (energyAt s.cart.cap s.vcart ≤ 60) then .next (s.logLoss 1).powerLoss else .next s

/-- CARTRIDGE_REMOVAL (R394, R400). -/
def execCartridgeRemoval (s : State) : Result :=
  if s.tbit 2 then
    let s1 := s.tellTender (s.cartGone.logFault 0x040C 0 0x300 0 0)
    .next (if s1.holdBroken then (s1.logLoss 2).powerLoss else s1)
  else .next s

/-- ALWAYS_ON_POWER_LOSS (R392, R394). -/
def execAlwaysOnPowerLoss (s : State) : Result := .next s.powerLoss

/-! ### Temperature (R368 to R370) -/

/-- The thermal cut and the thermal halt judged (R369): a record where a threshold is reached, the halt while a job is loaded. -/
def State.judgeHeat (s : State) (old : Nat) : State :=
  let t := s.tj
  let s1 := if old < 115 ∧ 115 ≤ t then s.logFault 0x0405 0 0x300 (BitVec.ofNat 32 t) 0 else s
  if 125 ≤ t ∧ (old < 125 ∨ s1.jobLoaded) then
    let s2 := s1.logFault 0x0406 0 0x300 (BitVec.ofNat 32 t) 0
    if s2.jobLoaded then s2.beginHalt 2 else s2
  else s1

/-- TEMPERATURE_READ (R368, R369). -/
def execTemperatureRead (tj : BitVec 7) (s : State) : Result :=
  if s.powered && decide (s.supState = 0) then .next ((s.setFld 0x30000 16 7 tj.toNat).judgeHeat s.tj) else .next s

/-- THERMAL_RESUME (R369): 1 s below 95 °C; with the input failed too, resume still waits for it. -/
def execThermalResume (e : BootEnv) (s : State) : Result :=
  if decide (s.supState = 2) && decide (s.sup.cause = 2) then .next (s.startResume e)
  else if decide (s.supState = 2) && decide (s.sup.cause = 3) then .next { s with sup := { s.sup with cause := 0 } }
  else .next s

/-- THERMAL_TRIP (R370): the edge and station supplies go at once; no spill; the latch is set. -/
def execThermalTrip (s : State) : Result :=
  if s.powered then
    let s1 := (if s.supState = 0 then s else s.emit (.haltOut false)).setSup 0
    let s2 := (s1.setFld 0x10000 0 3 0).setReg 0x1001C 0
    .next { s2 with
      die := Die.reset
      powered := false
      snapOut := none
      spill := none
      sup := { s2.sup with trip := 1, ticks := 0, cause := 0 } }
  else .next s

/-! ### The slow clock -/

/-- The deadline timer counts, or pauses while a HALT notice is outstanding within the allowance (R331, R333). -/
def State.tickTimers (s : State) : State :=
  let n := s.die.net
  let runs := n.halts.isEmpty || n.allowOver
  let timer : Timer := if n.timer.running && runs then { n.timer with ticks := n.timer.ticks + 1 } else n.timer
  let snap : Option SnapRun := if runs then n.snap.map (fun (r : SnapRun) => { r with ticks := r.ticks + 1 }) else n.snap
  s.setNet { n with timer := timer, snap := snap, paused := if runs then n.paused else n.paused + 1 }

/-- The mc counters of the AWAKE and STOPPED stations advance by 250 ns of the macro clock, in eighths (R102). -/
def State.tickMc (s : State) : State :=
  s.forStns (List.range 128) (fun (x : Station) =>
    if x.isAwake then { x with sb := { x.sb with mc8 := x.sb.mc8 + opClock2 s.op } } else x)

/-- The ride-through sequences advance: hold at 750 µs; on a resume the image is restored at 2.5 ms and issue resumes at 3.0 ms (R384, R393). -/
def State.tickSup (s : State) : State :=
  let t := { s with sup := { s.sup with ticks := s.sup.ticks + 1 } }
  match t.supState with
  | 1 => if 3000 ≤ t.sup.ticks then t.enterHold else t
  | 3 => (match t.spill with
    | some p => if t.sup.ticks = 10000 then t.restore p else if 12000 ≤ t.sup.ticks then t.finishResume p else t
    | none => t)
  | _ => t

/-- One tick of the slow clock, 250 ns: uptime, deadline timers, mc counters, ride-through (R102, R331, R384, R393, R478). The mc counters advance while the stations have their clock, in a halt too. Log entry 2. -/
def State.tick (s : State) : State :=
  let s1 := { s with uptime := s.uptime + 1 }
  let clocked := s1.powered && decide (4 ≤ s1.mstate)
  if s1.supState = 0 then (if clocked then s1.tickTimers.tickMc else s1)
  else if s1.supState = 1 && clocked then s1.tickMc.tickSup
  else s1.tickSup

end Sys2Proof.Machine
end

