-- ==== Sys2Proof/Machine/Host.lean ====
section
/-! DEFINITION. The PCIe endpoint: PERST_N, Function Level Reset, configuration requests, BAR2 and BAR4, power states (R404, R405, R428 to R432, R440 to R442). -/
namespace Sys2Proof.Machine

/-! ### Resets (R404, R428) -/

/-- PERST_N_ASSERT (R404, R440): the endpoint and the queues are reset and the link goes down. -/
def execPerstNAssert (s : State) : Result :=
  let t := { s with sup := { s.sup with perst := true } }
  .next (if t.powered then t.resetEndpoint.setReg 0x54008 0 else t)

/-- PERST_N_DEASSERT (R404): the link trains to the rate, width and mode given. -/
def execPerstNDeassert (link : Byte) (s : State) : Result :=
  if s.sup.perst then
    let t := { s with sup := { s.sup with perst := false, perstTick := s.uptime } }
    .next (if t.powered then t.setReg 0x54008 (BitVec.ofNat 32 link.toNat) else t)
  else .next s

/-- The endpoint is out of reset and its link is up (R405, R442). -/
def State.endpointUp (s : State) : Bool := s.pcieUp && decide (s.mstate ≠ 0)

/-- Requests complete with Completer Abort in the last part of a halt (R442). -/
def State.aborting (s : State) : Bool := decide (s.supState = 1) && decide (2800 ≤ s.sup.ticks)

/-- FUNCTION_LEVEL_RESET (R428, R440). -/
def execFunctionLevelReset (s : State) : Result := if s.endpointUp then .next s.resetEndpoint else .next s

/-! ### Configuration space (R404, R428, R429, R441) -/

/-- Pending vectors that are no longer masked are sent (R441). -/
def State.sendPending (s : State) : State :=
  (List.range 64).foldl (fun (t : State) v =>
    if bitAt t.die.pcie.pba v && t.die.pcie.msixEn && !t.die.pcie.msixMask && !bitAt (t.reg (0x5800C + 16 * v)) 0 then
      { t with die := { t.die with pcie := { t.die.pcie with pba := putBit t.die.pcie.pba v false } } }.signal v
    else t) s

/-- The PCIe function's own state replaced. -/
def State.setPcie (s : State) (p : Pcie) : State := { s with die := { s.die with pcie := p } }

/-- A dword of configuration space (R428, R479): identifiers and class code; the rest is a free value, which the manual leaves to PCI Express. -/
def State.cfgRead (s : State) (dword : Nat) : Word × State :=
  if dword = 0 then (s.regView 0, s)
  else
    let (v, t) := s.fresh
    if dword = 2 then (BitVec.ofNat 32 (0x12000000 + v % 256), t) else (BitVec.ofNat 32 v, t)

/-- A configuration request served. -/
def State.cfgServe (s : State) (r : CfgReq) : State :=
  let p := s.die.pcie
  let done (t : State) : State := t.emit (.completion 0 false [])
  match r with
  | .read d => let (v, t) := s.cfgRead d; t.emit (.completion 0 false (leBytes 4 v.toNat))
  | .bme b => done (s.setPcie { p with bme := b })
  | .msix en mask => done (s.setPcie { p with msixEn := en, msixMask := mask }).sendPending
  | .aspm b => done (s.setPcie { p with l1En := b })
  | .d0 => done (s.setPcie { p with d3 := false })

/-- Configuration space does not answer yet: 560 ms from the qualification of the input or 20 ms from PERST_N, whichever ends later (R404). -/
def State.cfgWaits (s : State) : Bool := decide (s.uptime < max 2240000 (s.sup.perstTick + 80000))

/-- CONFIGURATION_REQUEST (R404): retry status in BRINGUP and until configuration space opens. -/
def execConfigurationRequest (r : CfgReq) (s : State) : Result :=
  if s.endpointUp then
    if s.aborting then .next (s.leaveL1.emit (.completion 4 false []))
    else if s.cfgWaits then .next (s.leaveL1.emit (.completion 2 false []))
    else .next (s.leaveL1.cfgServe r)
  else if s.mayBoot && !s.sup.perst then .next (s.emit (.completion 2 false []))
  else .next s

/-- D3HOT (R429). -/
def execD3hot (s : State) : Result :=
  if s.endpointUp then .next ((s.leaveL1.setPcie { s.leaveL1.die.pcie with d3 := true }).emit (.completion 0 false [])) else .next s

/-- L1_ENTRY (R429): after 64 µs without traffic the endpoint requests L1 where it is enabled. -/
def execL1Entry (s : State) : Result :=
  if s.endpointUp && s.die.pcie.l1En && !s.die.pcie.l1 then .next ((s.setPcie { s.die.pcie with l1 := true }).emit (.linkState true)) else .next s

/-! ### BAR2 (R430, R431) -/

/-- Memory requests beyond BAR0 are served from READY on, in D0 (R405, R429). -/
def State.memServed (s : State) : Bool := !s.die.pcie.d3 && decide (5 ≤ s.mstate)

/-- BAR2_ACCESS (R431): a read of `n` bytes, or a write, at an offset in the window of a station. Platform memory may be contended. A station asleep or waking holds it and is asked to wake. -/
def execBar2Access (i : Stn) (off : Fin 4194304) (n : Fin 65) (w : Option (List Byte)) (met : Contended) (s : State) : Result :=
  if s.endpointUp then
    let t := s.leaveL1
    let ws := w.map (·.take n)
    if s.aborting || !s.memServed then .next (if w.isNone then t.emit (.completion (if s.aborting then 4 else 1) false []) else t)
    else
      if (t.stn i).sleeps then
        let f : Flit := ⟨pcieNode, i, pcieNode, s.uptime, none, .bar2 off n ws⟩
        .next ((t.setMesh (t.die.mesh ++ [f])).holdAtRouter i f t.die.mesh)
      else .next (t.serveBar2 i off n ws met.busy met.refused)
  else .next s

/-- A BAR2 access that has waited 90 µs (360 ticks) for a station. -/
def State.lateBar2 (s : State) (i : Nat) (f : Flit) : Bool := isBar2To i f && decide (360 ≤ s.uptime - f.txn)

/-- A late access ends: a read with Completer Abort, a write discarded and counted. -/
def State.endBar2 (s : State) (f : Flit) : State :=
  match f.body with
  | .bar2 _ _ (some _) => s.bump 0x54004 1
  | _ => s.emit (.completion 4 false [])

/-- BAR2_TIMEOUT (R431): the first late access ends, a read with Completer Abort, a write discarded and counted. The wake request stands. -/
def execBar2Timeout (i : Stn) (s : State) : Result :=
  if s.endpointUp then
    match takeFlit (s.lateBar2 i) (s.stn i).routerHeld with
    | some (f, rest) => .next ((s.setStn i { s.stn i with routerHeld := rest }).endBar2 f)
    | none =>
      match takeFlit (s.lateBar2 i) s.die.mesh with
      | some (f, rest) => .next ((s.setMesh rest).endBar2 f)
      | none => .next s
  else .next s

/-! ### BAR4 (R287, R290, R430, R432) -/

/-- The lines that `n` bytes from an address touch. -/
def linesOf (a n : Nat) : List Nat := if n = 0 then [] else (List.range ((a + n - 1) / 64 - a / 64 + 1)).map (fun k => a / 64 + k)

/-- What BAR4 reads: the memory, with the spill and snapshot images in it, and 0 in the code stores (R287, R388). -/
def State.bar4Bytes (s : State) (a n : Nat) : List Byte :=
  (List.range n).map (fun k => match s.region (a + k) with
    | .store => 0
    | .beyond => 0
    | _ => mget byte0 s.lpddr (a + k) ^^^ s.imageBase (a + k))

/-- A line that a BAR4 access reads: one of a code store reads as 0 (R287). -/
def State.bar4Reads (s : State) (l : Nat) : Bool :=
  match s.region (l * 64) with
  | .store => false
  | .beyond => false
  | _ => true

/-- A BAR4 read: every line read; the completion is poisoned when one is uncorrectable (R290, R432). -/
def State.bar4Read (s : State) (a n : Nat) (ce ue : Bool) : State :=
  let ls := (linesOf a n).filter s.bar4Reads
  let bad := ls.any (fun l => s.lineBad l ue)
  let s1 := ls.foldl (fun (t : State) l => t.readLine l ce ue) s
  s1.emit (.completion 0 bad (s1.bar4Bytes a n))

/-- The bytes of a write that fall into a line. -/
def pieceOf (a : Nat) (bs : List Byte) (l : Nat) : Nat × List Byte :=
  let lo := max a (l * 64)
  (lo - l * 64, (bs.drop (lo - a)).take (l * 64 + 64 - lo))

/-- A BAR4 write (R287, R289): discarded and counted in the spill and snapshot regions and the code stores. -/
def State.bar4Write (s : State) (a : Nat) (bs : List Byte) (ce ue : Bool) : State :=
  match s.region a with
  | .user | .golden => (linesOf a bs.length).foldl (fun (t : State) l => t.writeLine l (pieceOf a bs l).1 (pieceOf a bs l).2 ce ue) s
  | .beyond => s
  | _ => s.bump 0x100808 1

/-- BAR4_ACCESS (R432): at an offset in the window of 64 GiB; `ce` is a correction, `ue` an uncorrectable error that the access finds in the array. -/
def execBar4Access (off n : Nat) (w : Option (List Byte)) (ce ue : Bool) (s : State) : Result :=
  if s.endpointUp then
    let t := s.leaveL1
    let a := fld (s.reg 0x54000) 0 10 * 2 ^ 30 + off % 2 ^ 36
    let fail (k : Nat) : State := if w.isNone then t.emit (.completion k false []) else t
    if s.aborting then .next (fail 4)
    else if !s.memServed || decide (s.capBytes ≤ a) then .next (fail 1)
    else match w with
      | none => .next (t.bar4Read a n ce ue)
      | some bs => .next (t.bar4Write a bs ce ue)
  else .next s

end Sys2Proof.Machine
end

