-- ==== Sys2Proof/Machine/Dispatch.lean ====
section
/-! DEFINITION. The command that each constructor names, one arm each. -/
namespace Sys2Proof.Machine

/-- The effect of a command on everything but the queue. -/
def exec (i : Instr) (s : State) : Host.Outcome State Fault Refusal :=
  match i with
  | .sbInstruction st => Sys2Proof.Machine.execSbInstruction st s
  | .sbIssue3 st v => Sys2Proof.Machine.execSbIssue3 st v s
  | .sbSumHi st rd => Sys2Proof.Machine.execSbSumHi st rd s
  | .sbSleep st v => Sys2Proof.Machine.execSbSleep st v s
  | .wordIssue st => Sys2Proof.Machine.execWordIssue st s
  | .nop st => Sys2Proof.Machine.execNop st s
  | .pass st o => Sys2Proof.Machine.execPass st o s
  | .passr st o => Sys2Proof.Machine.execPassr st o s
  | .wload st o => Sys2Proof.Machine.execWload st o s
  | .wloadCommit st => Sys2Proof.Machine.execWloadCommit st s
  | .ld st o => Sys2Proof.Machine.execLd st o s
  | .st st => Sys2Proof.Machine.execSt st s
  | .mcast st o => Sys2Proof.Machine.execMcast st o s
  | .accrd st => Sys2Proof.Machine.execAccrd st s
  | .accwr st => Sys2Proof.Machine.execAccwr st s
  | .accclr st => Sys2Proof.Machine.execAccclr st s
  | .reduce st => Sys2Proof.Machine.execReduce st s
  | .consist st o => Sys2Proof.Machine.execConsist st o s
  | .consistComplete st => Sys2Proof.Machine.execConsistComplete st s
  | .summary st => Sys2Proof.Machine.execSummary st s
  | .summaryPost st => Sys2Proof.Machine.execSummaryPost st s
  | .ticket st => Sys2Proof.Machine.execTicket st s
  | .take st => Sys2Proof.Machine.execTake st s
  | .give st => Sys2Proof.Machine.execGive st s
  | .giveDeliver st => Sys2Proof.Machine.execGiveDeliver st s
  | .interlock st => Sys2Proof.Machine.execInterlock st s
  | .dispatch st o => Sys2Proof.Machine.execDispatch st o s
  | .gather st o => Sys2Proof.Machine.execGather st o s
  | .tileHandover st seq => Sys2Proof.Machine.execTileHandover st seq s
  | .reductionAdd st arr => Sys2Proof.Machine.execReductionAdd st arr s
  | .reduceArrival dst src => Sys2Proof.Machine.execReduceArrival dst src s
  | .ackReceipt st src => Sys2Proof.Machine.execAckReceipt st src s
  | .tokenArrival dst src => Sys2Proof.Machine.execTokenArrival dst src s
  | .runStart st v => Sys2Proof.Machine.execRunStart st v s
  | .runStop st v => Sys2Proof.Machine.execRunStop st v s
  | .wake st v => Sys2Proof.Machine.execWake st v s
  | .sleepCommit st => Sys2Proof.Machine.execSleepCommit st s
  | .retentionReached st => Sys2Proof.Machine.execRetentionReached st s
  | .wakeComplete st => Sys2Proof.Machine.execWakeComplete st s
  | .stnTokClear st ix v => Sys2Proof.Machine.execStnTokClear st ix v s
  | .stnTokset st ix v => Sys2Proof.Machine.execStnTokset st ix v s
  | .localStoreWindowWrite st k v => Sys2Proof.Machine.execLocalStoreWindowWrite st k v s
  | .meshReadRetry st addr again => Sys2Proof.Machine.execMeshReadRetry st addr again s
  | .tktRequest ctr st => Sys2Proof.Machine.execTktRequest ctr st s
  | .tktval st => Sys2Proof.Machine.execTktval st s
  | .meshTktValWrite ctr v => Sys2Proof.Machine.execMeshTktValWrite ctr v s
  | .meshTktLimitWrite ctr v => Sys2Proof.Machine.execMeshTktLimitWrite ctr v s
  | .ledgerEntryCommit st => Sys2Proof.Machine.execLedgerEntryCommit st s
  | .jobStart => Sys2Proof.Machine.execJobStart s
  | .stepBoundary => Sys2Proof.Machine.execStepBoundary s
  | .exponentDerivation b recs expLine foldLine tok => Sys2Proof.Machine.execExponentDerivation b recs expLine foldLine tok s
  | .sessionStateWrite ix k en v => Sys2Proof.Machine.execSessionStateWrite ix k en v s
  | .sessionCmdPark v => Sys2Proof.Machine.execSessionCmdPark v s
  | .xqMarker q rank => Sys2Proof.Machine.execXqMarker q rank s
  | .xqRoundStart q => Sys2Proof.Machine.execXqRoundStart q s
  | .xqTout q => Sys2Proof.Machine.execXqTout q s
  | .flitCrcRetransmit r d again => Sys2Proof.Machine.execFlitCrcRetransmit r d again s
  | .meshLinkRetrain r d => Sys2Proof.Machine.execMeshLinkRetrain r d s
  | .meshWrArrival dst src met slip => Sys2Proof.Machine.execMeshWrArrival dst src met slip s
  | .lpddrRequest line w lce ce ue => Sys2Proof.Machine.execLpddrRequest line w lce ce ue s
  | .channelRetrain c j outcome => Sys2Proof.Machine.execChannelRetrain c j outcome s
  | .mr4Read c rate => Sys2Proof.Machine.execMr4Read c rate s
  | .rfm c => Sys2Proof.Machine.execRfm c s
  | .powerDownEntry c j => Sys2Proof.Machine.execPowerDownEntry c j s
  | .patrolScrub line ce ue => Sys2Proof.Machine.execPatrolScrub line ce ue s
  | .goldenRebuild line => Sys2Proof.Machine.execGoldenRebuild line s
  | .goldenLoad v => Sys2Proof.Machine.execGoldenLoad v s
  | .memConfigWrite k v => Sys2Proof.Machine.execMemConfigWrite k v s
  | .frameReceive p good ce ue f => Sys2Proof.Machine.execFrameReceive p good ce ue f s
  | .portTraining p bad pm pp => Sys2Proof.Machine.execPortTraining p bad pm pp s
  | .trainingTimeout p => Sys2Proof.Machine.execTrainingTimeout p s
  | .laneFail p lane => Sys2Proof.Machine.execLaneFail p lane s
  | .linkEnWrite p v => Sys2Proof.Machine.execLinkEnWrite p v s
  | .retrain p v => Sys2Proof.Machine.execRetrain p v s
  | .moduleArrival => Sys2Proof.Machine.execModuleArrival s
  | .present child ilk lce => Sys2Proof.Machine.execPresent child ilk lce s
  | .arrive child ilk lce count slow reason iseq => Sys2Proof.Machine.execArrive child ilk lce count slow reason iseq s
  | .release ilk lce slow reason iseq => Sys2Proof.Machine.execRelease ilk lce slow reason iseq s
  | .snapshotCopyDone => Sys2Proof.Machine.execSnapshotCopyDone s
  | .snapLate => Sys2Proof.Machine.execSnapLate s
  | .departureStagger st => Sys2Proof.Machine.execDepartureStagger st s
  | .deadlineExpiry => Sys2Proof.Machine.execDeadlineExpiry s
  | .noNoticeExpiry => Sys2Proof.Machine.execNoNoticeExpiry s
  | .lateNotice p mod ilk cause reason rep iseq => Sys2Proof.Machine.execLateNotice p mod ilk cause reason rep iseq s
  | .haltNotice p mod nseq => Sys2Proof.Machine.execHaltNotice p mod nseq s
  | .resumeNotice p mod nseq => Sys2Proof.Machine.execResumeNotice p mod nseq s
  | .haltAllowanceExpiry => Sys2Proof.Machine.execHaltAllowanceExpiry s
  | .coll smod cid k phase mext next img => Sys2Proof.Machine.execColl smod cid k phase mext next img s
  | .collectiveResultWrite st => Sys2Proof.Machine.execCollectiveResultWrite st s
  | .lineClearGo v => Sys2Proof.Machine.execLineClearGo v s
  | .clearNotice p mod e => Sys2Proof.Machine.execClearNotice p mod e s
  | .governorPeriod lines hops chg => Sys2Proof.Machine.execGovernorPeriod lines hops chg s
  | .clockChange => Sys2Proof.Machine.execClockChange s
  | .calibration m reg => Sys2Proof.Machine.execCalibration m reg s
  | .alertAssert reg words => Sys2Proof.Machine.execAlertAssert reg words s
  | .alertDeassert reg => Sys2Proof.Machine.execAlertDeassert reg s
  | .alertHoldExpiry => Sys2Proof.Machine.execAlertHoldExpiry s
  | .regAlertLong words => Sys2Proof.Machine.execRegAlertLong words s
  | .supplyLowEnd => Sys2Proof.Machine.execSupplyLowEnd s
  | .temperatureRead tj => Sys2Proof.Machine.execTemperatureRead tj s
  | .thermalStepRise => Sys2Proof.Machine.execThermalStepRise s
  | .thermalStepFall => Sys2Proof.Machine.execThermalStepFall s
  | .thermalResume e => Sys2Proof.Machine.execThermalResume e s
  | .thermalTrip => Sys2Proof.Machine.execThermalTrip s
  | .marginSample low short => Sys2Proof.Machine.execMarginSample low short s
  | .coastReturn => Sys2Proof.Machine.execCoastReturn s
  | .govCeilingWrite v => Sys2Proof.Machine.execGovCeilingWrite v s
  | .clrthr v => Sys2Proof.Machine.execClrthr v s
  | .govLimitWrite peak v => Sys2Proof.Machine.execGovLimitWrite peak v s
  | .inputSample mv10 => Sys2Proof.Machine.execInputSample mv10 s
  | .brownout => Sys2Proof.Machine.execBrownout s
  | .overvoltage => Sys2Proof.Machine.execOvervoltage s
  | .inputQualified e => Sys2Proof.Machine.execInputQualified e s
  | .stateLost => Sys2Proof.Machine.execStateLost s
  | .cartridgeRemoval => Sys2Proof.Machine.execCartridgeRemoval s
  | .cartridgeInsertion => Sys2Proof.Machine.execCartridgeInsertion s
  | .authentication r => Sys2Proof.Machine.execAuthentication r s
  | .authRetry r => Sys2Proof.Machine.execAuthRetry r s
  | .reauth v r => Sys2Proof.Machine.execReauth v r s
  | .chargeStart => Sys2Proof.Machine.execChargeStart s
  | .cal v => Sys2Proof.Machine.execCal v s
  | .calDischargeEnd cap => Sys2Proof.Machine.execCalDischargeEnd cap s
  | .calageDay aged => Sys2Proof.Machine.execCalageDay aged s
  | .railPowerGoodTimeout reg status => Sys2Proof.Machine.execRailPowerGoodTimeout reg status s
  | .bringupRepeat e => Sys2Proof.Machine.execBringupRepeat e s
  | .perstNAssert => Sys2Proof.Machine.execPerstNAssert s
  | .perstNDeassert link => Sys2Proof.Machine.execPerstNDeassert link s
  | .functionLevelReset => Sys2Proof.Machine.execFunctionLevelReset s
  | .configurationRequest r => Sys2Proof.Machine.execConfigurationRequest r s
  | .mbxBegin v => Sys2Proof.Machine.execMbxBegin v s
  | .chunk v => Sys2Proof.Machine.execChunk v s
  | .mbxEnd v => Sys2Proof.Machine.execMbxEnd v s
  | .restart v e => Sys2Proof.Machine.execRestart v e s
  | .mailboxOtherOp v => Sys2Proof.Machine.execMailboxOtherOp v s
  | .mailboxComplete err => Sys2Proof.Machine.execMailboxComplete err s
  | .unlock sig => Sys2Proof.Machine.execUnlock sig s
  | .getInfo smbus payload => Sys2Proof.Machine.execGetInfo smbus payload s
  | .getCert smbus payload => Sys2Proof.Machine.execGetCert smbus payload s
  | .getMeas smbus payload => Sys2Proof.Machine.execGetMeas smbus payload s
  | .getAudit smbus payload => Sys2Proof.Machine.execGetAudit smbus payload s
  | .attestationOtherCode smbus code => Sys2Proof.Machine.execAttestationOtherCode smbus code s
  | .setEndpointId smbus inst op eid => Sys2Proof.Machine.execSetEndpointId smbus inst op eid s
  | .getEndpointId smbus inst => Sys2Proof.Machine.execGetEndpointId smbus inst s
  | .getMctpVersionSupport smbus inst type => Sys2Proof.Machine.execGetMctpVersionSupport smbus inst type s
  | .getMessageTypeSupport smbus inst => Sys2Proof.Machine.execGetMessageTypeSupport smbus inst s
  | .getVendorDefinedMessageSupport smbus inst sel => Sys2Proof.Machine.execGetVendorDefinedMessageSupport smbus inst sel s
  | .registerWrite a en v => Sys2Proof.Machine.execRegisterWrite a en v s
  | .loLatchRead r a => Sys2Proof.Machine.execLoLatchRead r a s
  | .bar2Access st off n w met => Sys2Proof.Machine.execBar2Access st off n w met s
  | .bar2Timeout st => Sys2Proof.Machine.execBar2Timeout st s
  | .bar4Access off n w ce ue => Sys2Proof.Machine.execBar4Access off n w ce ue s
  | .hostqTailWrite q v => Sys2Proof.Machine.execHostqTailWrite q v s
  | .hostqEn q v => Sys2Proof.Machine.execHostqEn q v s
  | .qreset q v => Sys2Proof.Machine.execQreset q v s
  | .inboundDescriptor q d buf => Sys2Proof.Machine.execInboundDescriptor q d buf s
  | .outboundDescriptor q d ok => Sys2Proof.Machine.execOutboundDescriptor q d ok s
  | .producerLinePoll q => Sys2Proof.Machine.execProducerLinePoll q s
  | .msixUnmask ix => Sys2Proof.Machine.execMsixUnmask ix s
  | .d3hot => Sys2Proof.Machine.execD3hot s
  | .l1Entry => Sys2Proof.Machine.execL1Entry s
  | .faultRdWrite v => Sys2Proof.Machine.execFaultRdWrite v s
  | .tileReplay st o => Sys2Proof.Machine.execTileReplay st o s
  | .macroReload st found => Sys2Proof.Machine.execMacroReload st found s
  | .routeAround st => Sys2Proof.Machine.execRouteAround st s
  | .stationRestart st => Sys2Proof.Machine.execStationRestart st s
  | .rollback => Sys2Proof.Machine.execRollback s
  | .roll v => Sys2Proof.Machine.execRoll v s
  | .scrub st m k found => Sys2Proof.Machine.execScrub st m k found s
  | .noNoticeRollbackExpiry => Sys2Proof.Machine.execNoNoticeRollbackExpiry s
  | .alwaysOnPowerLoss => Sys2Proof.Machine.execAlwaysOnPowerLoss s
  | .cartridgeStatusRead v t cycles cap => Sys2Proof.Machine.execCartridgeStatusRead v t cycles cap s
  | .perBankRefresh c j => Sys2Proof.Machine.execPerBankRefresh c j s
  | .mctpUnsupportedMessage smbus type => Sys2Proof.Machine.execMctpUnsupportedMessage smbus type s

end Sys2Proof.Machine
end

