-- ==== Sys2Proof/Safety.lean ====
section
/-! DEFINITION. The terms in which statements about commands are made: that a command runs to a next state with a property, what it leaves alone, what one-way settings may do, and the form that the memories keep. -/
namespace Sys2Proof.Machine

/-- The command runs to a next state of which `P` holds. -/
def Runs (c : Instr) (s : State) (P : State → Prop) : Prop := ∃ t, exec c s = .next t ∧ P t

/-- Every BAR0 register outside the list holds what it held. -/
def SameRegs (s t : State) (but : List Nat) : Prop := ∀ a, a ∉ but → t.reg a = s.reg a

/-- Every station outside the list is as it was. -/
def SameStns (s t : State) (but : List Nat) : Prop := ∀ j, j ∉ but → t.stn j = s.stn j

/-- Everything of a state but its registers and its stations. -/
def State.core (s : State) : State := { s with aoReg := [], die := { s.die with reg := [], stns := [] } }

/-- Nothing has changed outside the registers and stations listed. -/
def OnlyChanges (s t : State) (regs stns : List Nat) : Prop := SameRegs s t regs ∧ SameStns s t stns ∧ t.core = s.core

/-- The counters of a station's platform memory that refused requests and collisions may raise beside any access: BUSY of its port, and BCONF of each master (R93, R95). -/
def obsRegs (i : Nat) : List Nat := (0x204000 + 4 * i) :: (List.range 5).map (fun k => pageBase i + 0x128 + 4 * k)

/-- The fuses after a change never stand behind the fuses before it (R418): security version, owner slot, ceiling, its count, solo-mode enable and audit sequence move one way only. -/
def Fuses.onward (a b : Fuses) : Prop :=
  a.secver ≤ b.secver ∧ a.slot ≤ b.slot ∧ b.opmax ≤ a.opmax ∧ a.ceilUsed ≤ b.ceilUsed ∧ (a.solo = true → b.solo = true) ∧ a.audit ≤ b.audit

/-- LPDDR5X and the configuration flash are in canonical form: addresses rise strictly and no entry equals what an unlisted address reads as. -/
def Memory.wf (s : State) : Bool := mwf byte0 s.lpddr && mwf byteFF s.flash

end Sys2Proof.Machine
end

