-- ==== Sys2Proof/WellFormed.lean ====
section
/-! DEFINITION. When the operands of a command describe something that the outside can supply: one named check for each kind of operand. -/
namespace Sys2Proof

/-- A popcount error names a macro, token, plane, quarter and column that exist (R69, R77). -/
def Upset.wf (u : Upset) : Bool :=
  decide (u.mac < 64) && decide (u.m < 16) && decide (u.plane < 8) && decide (u.quarter < 4) && decide (u.col < 1024)

/-- What the hardware meets: every popcount error is one that can occur. -/
def Obs.wf (o : Obs) : Bool := o.upsets.all Upset.wf

/-- A BAR0 address: a multiple of 4 below 64 MiB (R430, R470). -/
def bar0Address (a : Nat) : Bool := decide (a % 4 = 0) && decide (a < 0x4000000)

namespace Machine

/-- A frame's header fields fit their widths, and the credit that it returns is of a class (R316, R317). A port discards the reserved values of FTYPE, CLASS and NLINES. -/
def Frame.wf (f : Frame) : Bool :=
  decide (f.ftype < 16) && decide (f.cls < 4) && decide (f.nlines < 16)
    && f.cr.all (fun c => decide (c.1 < 3) && decide (c.2.1 < 2) && decide (c.2.2 < 16))
    && decide (f.vc < 2) && decide (f.seq < 4096) && decide (f.ackseq < 4096) && decide (f.dmod < 16384) && decide (f.smod < 16384)

/-- A host descriptor: its buffer is 64 B aligned in a 64-bit space (R435). -/
def HostDesc.wf (d : HostDesc) : Bool := decide (d.addr % 64 = 0) && decide (d.addr < 2 ^ 64)

/-- A cartridge answer has the sizes of R395. -/
def CartResp.wf (r : CartResp) : Bool := decide (r.cert.length = 512) && decide (r.sig.length = 96) && decide (r.status.length = 8)

/-- What bring-up meets: no channel is both slow and lost. -/
def BootEnv.wf (e : BootEnv) : Bool := e.slow.all (fun h => !e.lost.contains h)

end Machine

/-- The checks of one command. -/
def Instr.wf (i : Instr) : Bool :=
  match i with
  | .pass _ o => o.wf
  | .passr _ o => o.wf
  | .wload _ o => o.wf
  | .ld _ o => o.wf
  | .st x => x.obs.wf
  | .mcast _ o => o.wf
  | .consist _ o => o.wf
  | .dispatch _ o => o.wf
  | .gather _ o => o.wf
  | .tileReplay _ o => o.wf
  | .registerWrite a _ _ => bar0Address a
  | .loLatchRead _ a => bar0Address a.addr
  | .exponentDerivation _ recs _ _ _ => decide (recs.length = 8)
  | .frameReceive _ _ _ _ f => f.wf
  | .inboundDescriptor _ d buf => d.wf && (match buf with | some b => decide (d.len.toNat ≤ b.length) | none => true)
  | .outboundDescriptor _ d _ => d.wf
  | .authentication (some r) => r.wf
  | .authRetry (some r) => r.wf
  | .reauth _ (some r) => r.wf
  | .inputQualified e => e.wf
  | .bringupRepeat e => e.wf
  | .restart _ e => e.wf
  | .thermalResume e => e.wf
  | .bar2Access _ _ n (some w) _ => decide (w.length = n.val)
  | .lpddrRequest _ (some (o, w)) _ _ _ => decide (o.val + w.length ≤ 64)
  | .unlock sig => decide (sig.length = 96)
  | _ => true

end Sys2Proof
end

