-- ==== Sys2Proof/Certificates/Slice0/Obligations.lean ====
section
/-! DEFINITION. The statements for the provers. `Runs c s P` says that command `c` completes at `s` in a next state of which `P` holds; `OnlyChanges s t regs stns`, `SameRegs` and `SameStns` are its frames (Safety.lean). Host writes end L1 of the PCIe link, so their frames start from `s.leaveL1`. -/
open Sys2Proof Sys2Proof.Machine

/-- The block: with a command at the front of the queue, a step is that command on the state with the queue's rest. -/
def Obligations.StepRunsFrontCommand : Prop :=
  ∀ (c : Instr) (q : List Instr) (s : State), step { s with pending := c :: q } = exec c { s with pending := q }

/-- The model's choice (log entry 2): with an empty queue a step is one tick of the slow clock, 250 ns. Outside a halt it advances the uptime (R478) and the mc counters of the stations that are awake (R102), and leaves every register, the memories, the mesh and the rest of every station. In a halt it counts on, and at 750 µs the die goes off, with a valid image that bears the halt's number (R384, R388); in hold only the count and the uptime move. -/
def Obligations.EmptyQueueTicksTheSlowClock : Prop :=
  ∀ s : State, s.pending = [] → ∃ t, step s = .next t ∧ t.pending = [] ∧
    (s.supState = 0 → t.uptime = s.uptime + 1 ∧ SameRegs s t [] ∧ t.lpddr = s.lpddr ∧ t.fuses = s.fuses ∧ t.flash = s.flash ∧ t.die.mesh = s.die.mesh ∧
      ∀ i : Stn, t.stn i = { s.stn i with sb := { (s.stn i).sb with
        mc8 := (s.stn i).sb.mc8 + (if s.powered = true ∧ 4 ≤ s.mstate ∧ (s.stn i).isAwake = true then opClock2 s.op else 0) } }) ∧
    (s.supState = 1 → s.sup.ticks + 1 < 3000 → t.supState = 1 ∧ t.sup.ticks = s.sup.ticks + 1 ∧ t.powered = s.powered ∧ SameRegs s t [] ∧ t.lpddr = s.lpddr) ∧
    (s.supState = 1 → 3000 ≤ s.sup.ticks + 1 → t.supState = 2 ∧ t.powered = false ∧ t.die = Die.reset ∧ t.fuses = s.fuses ∧
      ∃ p, t.spill = some p ∧ p.valid = true ∧ p.nseq = s.hseq) ∧
    (s.supState = 2 → t = { s with uptime := s.uptime + 1, sup := { s.sup with ticks := s.sup.ticks + 1 } })

/-- R418: no step of the module, in whatever state, moves a fuse-backed setting back. -/
def Obligations.OneWaySettingsNeverGoBack : Prop :=
  ∀ (s t : State) (f : Fuses), f.onward s.fuses → step s = .next t → f.onward t.fuses

/-- The queue is first in, first out: no command adds to it, drops from it or reorders it. Every command completes in a next state, at every state and with every operand, but for a request for an LPDDR5X line beyond the fitted capacity, which does not exist (R281) and faults. -/
def Obligations.CommandsLeaveTheQueue : Prop :=
  (∀ (c : Instr) (s t : State), exec c s = .next t → t.pending = s.pending) ∧
  (∀ (c : Instr) (s : State),
    (∀ (line : Nat) (w : Option (Fin 64 × List Byte)) (lce ce ue : Bool), c = .lpddrRequest line w lce ce ue → line * 64 < s.capBytes) →
    Runs c s (fun t => t.pending = s.pending)) ∧
  (∀ (s : State) (line : Nat) (w : Option (Fin 64 × List Byte)) (lce ce ue : Bool), s.capBytes ≤ line * 64 →
    exec (.lpddrRequest line w lce ce ue) s = .fault .noSuchLine)

/-- Every step keeps LPDDR5X and the flash in canonical form, so that equal memories are equal data. -/
def Obligations.StepsKeepMemoriesCanonical : Prop :=
  ∀ s t : State, Memory.wf s = true → step s = .next t → Memory.wf t = true

/-- R402, R480, R105: right after power-on the module is in BRINGUP with the die unpowered, every register reads its reset value, every station is as reset leaves it and STOPPED, no flit is in the mesh, and a few of the reset values of the register map; the memories are in canonical form and the queue is empty. LPDDR5X lists nothing: that it reads 0 is the model's choice (log entry 4). -/
def Obligations.ResetMeetsTheInvariants : Prop :=
  Memory.wf State.reset = true ∧ State.reset.pending = [] ∧ State.reset.mstate = 0 ∧ State.reset.powered = false ∧
    (∀ a, State.reset.reg a = regReset a) ∧ (∀ i, State.reset.stn i = Station.reset ∧ (State.reset.stn i).ctl.run = .stopped) ∧
    State.reset.die.mesh = [] ∧ State.reset.lpddr = [] ∧
    State.reset.reg 0x60004 = 3 ∧ State.reset.reg 0x40004 = 1 ∧ State.reset.reg 0x30034 = 0x4000 ∧ State.reset.reg 0x54008 = 0 ∧
    (∀ q : Fin 16, State.reset.reg (qBase q) = 0x30) ∧ (∀ k : Fin 64, State.reset.reg (tktBase k) = 0)

/-- R101: the register-register operations of RV32IM, with what RISC-V gives each: ADD, SUB, AND, OR, XOR and MUL, as funct7, funct3 and result. A destination of s0 is discarded. Nothing but the destination register and the pc changes. Every other instruction of the signal box completes too, whether it retires, stalls at a port or traps, and leaves the flights, the memories, slots, banks and tokens of its station, every other station, LPDDR5X and the mesh; one that is not of a port retires as its encoding says. -/
def Obligations.SignalBoxArithmeticRetires : Prop :=
  (∀ (s : State) (i : Stn) (k : Nat × Nat × (Word → Word → Word)) (rd r1 r2 : Fin 32),
    k ∈ [(0, 0, fun x y => x + y), (0x20, 0, fun x y => x - y), (0, 7, fun x y => x &&& y),
      (0, 6, fun x y => x ||| y), (0, 4, fun x y => x ^^^ y), (1, 0, fun x y => x * y)] →
    s.live = true → (s.stn i).sbRuns = true → (s.stn i).sb.pc.toNat + 4 ≤ 0x10000 →
    (s.stn i).sb.word (s.stn i).sb.pc.toNat =
      BitVec.ofNat 32 (0x33 + rd.val * 2 ^ 7 + k.2.1 * 2 ^ 12 + r1.val * 2 ^ 15 + r2.val * 2 ^ 20 + k.1 * 2 ^ 25) →
    Runs (.sbInstruction i) s (fun t =>
      (∀ r, (t.stn i).sb.get r = if r = rd.val ∧ r ≠ 0 then k.2.2 ((s.stn i).sb.get r1) ((s.stn i).sb.get r2) else (s.stn i).sb.get r) ∧
      (t.stn i).sb.pc = (s.stn i).sb.pc + 4 ∧
      { t.stn i with sb := { (t.stn i).sb with regs := (s.stn i).sb.regs, pc := (s.stn i).sb.pc } } = s.stn i ∧
      OnlyChanges s t [] [i.val])) ∧
  (∀ (s : State) (i : Stn), s.live = true → (s.stn i).sbRuns = true →
    Runs (.sbInstruction i) s (fun t =>
      (∀ (u : State) (rd : Nat) (v pc : Word), s.sbExec i = .retire u rd v pc → t = u.sbRetire i rd v pc ∧ (t.stn i).sb.pc = pc) ∧
      (s.sbExec i = .stall → t = s) ∧
      (∀ ins : Nat, s.sbExec i = .trap ins → (t.stn i).ctl.run = .stopped ∧ t.reg 0x6000C = s.reg 0x6000C + 1) ∧
      (t.stn i).iss.flight = (s.stn i).iss.flight ∧ (t.stn i).pm = (s.stn i).pm ∧ (t.stn i).slots = (s.stn i).slots ∧
      (t.stn i).banks = (s.stn i).banks ∧ (t.stn i).tokens = (s.stn i).tokens ∧ SameStns s t [i.val] ∧ t.lpddr = s.lpddr ∧ t.die.mesh = s.die.mesh))

/-- R101: ECALL and EBREAK stop the signal box and log an SB_TRAP record: the station is STOPPED, RUN reads 0, and the queue, the flights and every other station stay. That the queue stays is the model's reading (log entry 15). -/
def Obligations.EcallAndEbreakTrap : Prop :=
  ∀ (s : State) (i : Stn) (w : Word), w = 0x73 ∨ w = 0x100073 →
    s.live = true → (s.stn i).sbRuns = true → (s.stn i).sb.pc.toNat + 4 ≤ 0x10000 →
    (s.stn i).sb.word (s.stn i).sb.pc.toNat = w →
    Runs (.sbInstruction i) s (fun t =>
      (t.stn i).ctl.run = .stopped ∧ bitAt (t.preg i 4) 0 = false ∧ t.reg 0x6000C = s.reg 0x6000C + 1 ∧
      (t.stn i).iss = (s.stn i).iss ∧ (t.stn i).sb = (s.stn i).sb ∧ SameStns s t [i.val] ∧ t.lpddr = s.lpddr ∧ t.die.mesh = s.die.mesh)

/-- R102, R104, R105: a store to SB_ISSUE3 appends the assembled word while the queue has room and stalls while it is full; a load of SB_SUM_HI returns the high word of the head summary and pops it, and stalls while none waits; a store to SB_SLEEP with bit 0 set stands as a request when SLEEP_EN is set and the phase permits sleep, and any other has no effect. Each that does not stall retires with the pc at the next instruction and leaves everything else alone. -/
def Obligations.SignalBoxPortsRetire : Prop :=
  ∀ (s : State) (i : Stn), s.live = true → (s.stn i).sbRuns = true →
    (∀ v : Word, (s.stn i).iss.queue.length < 32 →
      Runs (.sbIssue3 i v) s (fun t =>
        (t.stn i).iss.queue = (s.stn i).iss.queue ++ [BitVec.ofNat 128 ((s.stn i).sb.issue0.toNat + (s.stn i).sb.issue1.toNat * 2 ^ 32 + (s.stn i).sb.issue2.toNat * 2 ^ 64 + v.toNat * 2 ^ 96)] ∧
        (t.stn i).sb = { (s.stn i).sb with pc := (s.stn i).sb.pc + 4 } ∧ (t.stn i).ctl = (s.stn i).ctl ∧
        (t.stn i).iss.flight = (s.stn i).iss.flight ∧ (t.stn i).pm = (s.stn i).pm ∧ (t.stn i).slots = (s.stn i).slots ∧ OnlyChanges s t [] [i.val])) ∧
    (∀ v : Word, 32 ≤ (s.stn i).iss.queue.length → exec (.sbIssue3 i v) s = .next s) ∧
    (∀ (rd : Fin 32) (e : SumEntry) (r : List SumEntry) (v : BitVec 64), (s.stn i).iss.fifo = e :: r → e.val = some v →
      Runs (.sbSumHi i rd) s (fun t =>
        (t.stn i).iss.fifo = r ∧ (t.stn i).sb.pc = (s.stn i).sb.pc + 4 ∧
        (∀ q, (t.stn i).sb.get q = if q = rd.val ∧ q ≠ 0 then (v >>> 32).setWidth 32 else (s.stn i).sb.get q) ∧
        (t.stn i).iss.queue = (s.stn i).iss.queue ∧ OnlyChanges s t [] [i.val])) ∧
    (∀ rd : Fin 32, (s.stn i).posted = [] → exec (.sbSumHi i rd) s = .next s) ∧
    (∀ v : Word, bitAt v 0 = true → bitAt (s.preg i 4) 1 = true → s.phaseSleeps i = true →
      Runs (.sbSleep i v) s (fun t =>
        (t.stn i).ctl = { (s.stn i).ctl with sleepReq := true } ∧ (t.stn i).sb = { (s.stn i).sb with pc := (s.stn i).sb.pc + 4 } ∧
        (t.stn i).iss = (s.stn i).iss ∧ OnlyChanges s t [] [i.val])) ∧
    (∀ v : Word, bitAt v 0 = false ∨ bitAt (s.preg i 4) 1 = false ∨ s.phaseSleeps i = false →
      Runs (.sbSleep i v) s (fun t => t.stn i = { s.stn i with sb := { (s.stn i).sb with pc := (s.stn i).sb.pc + 4 } } ∧ OnlyChanges s t [] [i.val]))

/-- R103, R110, R148: a legal word that nothing stalls leaves the head of the queue, its number is given and its PHASE becomes the station's, and where it moves something it is in flight under that number; a stalled one stays. A NOP leaves nothing in flight. R113: a word that raises ILLEGAL_OP is not executed: the station is STOPPED, RUN reads 0, the word and every later one stay in the queue and issue nothing, and a fault record is logged. That later words issue nothing after ILLEGAL_OP is the model's reading (log entry 15). -/
def Obligations.WordsIssueOrStop : Prop :=
  (∀ (s : State) (i : Stn) (w : PWord) (q : List PWord), (s.stn i).iss.queue = w :: q →
    s.live = true → (s.stn i).mayIssue = true → s.legal i w = true →
    (opc w ≠ 0x31 → opc w ≠ 0x38 → (s.stn i).awaitsRouting w = false → (s.stn i).zeroFits w = true →
      (s.stalled i w = true → exec (.wordIssue i) s = .next s) ∧
      (s.stalled i w = false → Runs (.wordIssue i) s (fun t =>
        (t.stn i).iss.queue = q ∧ (t.stn i).iss.next = (s.stn i).iss.next + 1 ∧ (t.stn i).iss.phase = phaseOf w ∧
        (t.stn i).pm = (s.stn i).pm ∧ (t.stn i).slots = (s.stn i).slots ∧ (t.stn i).banks = (s.stn i).banks ∧
        (t.stn i).sb = (s.stn i).sb ∧ (t.stn i).tokens = (s.stn i).tokens ∧ OnlyChanges s t [] [i.val] ∧
        (opc w ≠ 0 → zeroExtent w = false → (s.stn i).ledger.replay = false →
          ∃ f, (t.stn i).iss.flight = (s.stn i).iss.flight ++ [f] ∧ f.word = w ∧ f.seq = (s.stn i).iss.next ∧ f.stage = .issued)))) ∧
    (opc w = 0 →
      Runs (.nop i) s (fun t =>
        (t.stn i).iss.queue = q ∧ (t.stn i).iss.flight = (s.stn i).iss.flight ∧ (t.stn i).iss.fifo = (s.stn i).iss.fifo ∧
        (t.stn i).pm = (s.stn i).pm ∧ (t.stn i).slots = (s.stn i).slots ∧ (t.stn i).banks = (s.stn i).banks ∧
        (t.stn i).tokens = (s.stn i).tokens ∧ (t.stn i).sb = (s.stn i).sb ∧ OnlyChanges s t [] [i.val]))) ∧
  (∀ (s : State) (i : Stn) (w : PWord) (q : List PWord), (s.stn i).iss.queue = w :: q →
    s.live = true → (s.stn i).mayIssue = true → (s.stn i).awaitsRouting w = false → s.legal i w = false ∨ (s.stn i).zeroFits w = false →
    Runs (.wordIssue i) s (fun t =>
      (t.stn i).ctl.run = .stopped ∧ bitAt (t.preg i 4) 0 = false ∧ (t.stn i).iss = (s.stn i).iss ∧ (t.stn i).mayIssue = false ∧
      (t.stn i).pm = (s.stn i).pm ∧ (t.stn i).slots = (s.stn i).slots ∧ (t.stn i).banks = (s.stn i).banks ∧
      t.reg 0x6000C = s.reg 0x6000C + 1 ∧ SameStns s t [i.val] ∧ t.lpddr = s.lpddr))

/-- R117, R119, R87, R456: a pass that works and that no WLOAD on its banks holds leaves its place, whatever it meets; no slot, handed tile, token or queued word of its station changes, no other station, no flit and no byte of LPDDR5X. One that no slip meets, whose faulted macros, if any, find their images in the detour bank, and whose banks agree, computes its tile from the macros' parts; the banks and platform memory change only through the detour. R113, R117, R119, R212: a pass whose named banks disagree, or hold what it cannot take, raises ILLEGAL_OP, and adds nothing to any slot. When a bank is judged is the model's reading (log entry 18). -/
def Obligations.PassesComputeOrStop : Prop :=
  ∀ (s : State) (i : Stn) (o : Obs) (f : Flight) (c : Instr), s.works = true → s.headOf i .mac = some f → (s.stn i).bankPending f = false →
    (c = .pass i o ∧ opc f.word = 1) ∨ (c = .passr i o ∧ opc f.word = 2) →
    let p := (s.countRefused i o.refused).seen i o.clash
    let main := (mgrp f.word).filter (fun m => !bitAt (p.2.faultBits i) m)
    let det := detourParts i f o ((mgrp f.word).filter (fun m => bitAt (p.2.faultBits i) m)) p.2
    let live := (main.map (fun m => (p.2.stn i).bank m (bankOf f.word)) ++ det.banks).filter (fun b => !b.zero)
    Runs c s (fun t =>
      (∀ g, (t.stn i).flightOf f.seq = some g → g.stage ≠ .issued) ∧
      (t.stn i).slots = (s.stn i).slots ∧ (t.stn i).redq = (s.stn i).redq ∧ (t.stn i).tokens = (s.stn i).tokens ∧
      (t.stn i).iss.queue = (s.stn i).iss.queue ∧ SameStns s t [i.val] ∧ t.die.mesh = s.die.mesh ∧ t.lpddr = s.lpddr ∧
      (slipAt (s.stn i) f o.slip = none → det.lost = none → passAgrees f.word live = true →
        (∃ g, (t.stn i).flightOf f.seq = some g ∧ g.stage = .computed ∧ g.word = f.word ∧
          g.tile = some (passTile i f live ((mainParts (p.2.stn i) p.1 f o.upsets main ++ det.outs).flatMap (·.2.adds)))) ∧
        (main = mgrp f.word → (t.stn i).banks = (s.stn i).banks ∧ (t.stn i).pm = (s.stn i).pm ∧
          OnlyChanges { s with free := t.free } t ((pageBase i + 0x124) :: obsRegs i) [i.val])) ∧
      (slipAt (s.stn i) f o.slip = none → main = mgrp f.word → passAgrees f.word live = false →
        (t.stn i).ctl.run = .stopped ∧ (t.stn i).flightOf f.seq = none ∧ t.reg 0x6000C = s.reg 0x6000C + 1))

/-- R87, R70, R451: a computed tile whose checks agree goes to the reduction path and every slot stays as it is; one whose check fails is discarded, logged as CHECK_MISMATCH (0x0101), and waits for a step of the ladder, step 1 at the first failure. While its credits are owed, or an earlier pass on its slots is not handed over (R98), a tile waits. One record at the detection is the model's reading (log entry 67). -/
def Obligations.HandoverOfTiles : Prop :=
  ∀ (s : State) (i : Stn) (f : Flight), s.works = true → (s.stn i).flightOf f.seq = some f → f.stage = .computed →
    (f.owed ≠ 0 ∨ (s.stn i).chainBefore i f = true → exec (.tileHandover i f.seq) s = .next s) ∧
    (f.owed = 0 → (s.stn i).chainBefore i f = false →
      (∀ tl, f.fails = 0 → f.tile = some tl →
        Runs (.tileHandover i f.seq) s (fun t =>
          (t.stn i).redq = (s.stn i).redq ++ [tl] ∧ (t.stn i).flightOf f.seq = some { f with stage := .handed } ∧
          (t.stn i).slots = (s.stn i).slots ∧ OnlyChanges s t [] [i.val])) ∧
      (f.fails ≠ 0 →
        Runs (.tileHandover i f.seq) s (fun t =>
          (t.stn i).redq = (s.stn i).redq ∧ (t.stn i).slots = (s.stn i).slots ∧
          (∃ g n, (t.stn i).flightOf f.seq = some g ∧ g.stage = .recover n ∧ 1 ≤ n ∧ n ≤ 4 ∧ (f.attempts = 0 → n = 1) ∧
            g.tile = none ∧ g.word = f.word ∧ g.why.code = 0x0101) ∧
          t.reg 0x6000C = s.reg 0x6000C + 1 ∧ SameStns s t [i.val] ∧ t.lpddr = s.lpddr)))

/-- R87, R131, R156, R269: the oldest handed tile is added to its slots and its instruction completes; a contribution at the head of the arrival buffer is added once its slots are free, its source's ledger records it, a source on another station is sent its acknowledgement and one on this station completes; until then it waits. A slot that the tile does not name keeps its contents. -/
def Obligations.TilesAreAddedToTheirSlots : Prop :=
  ∀ (s : State) (i : Stn) (tl : Tile) (r : List Tile), s.adds i = true →
    ((s.stn i).redq = tl :: r →
      Runs (.reductionAdd i false) s (fun t =>
        (t.stn i).redq = r ∧ (t.stn i).slots = (if tl.write then writeResult (s.stn i).slots tl else addTile (s.stn i).slots tl) ∧
        (∀ k, tl.seq = some k → (t.stn i).flightOf k = none) ∧
        (tl.write = false → (∀ a ∈ tl.adds, a.slot ∈ tl.slots) → (∀ z ∈ tl.zero, z.1 ∈ tl.slots) → ∀ b, b ∉ tl.slots → (t.stn i).slot b = (s.stn i).slot b) ∧
        (t.stn i).banks = (s.stn i).banks ∧ (t.stn i).pm = (s.stn i).pm ∧ (t.stn i).tokens = (s.stn i).tokens ∧
        OnlyChanges s t [pageBase i + 0x14C] [i.val])) ∧
    ((s.stn i).arrive = tl :: r → tl.write = false →
      ((s.stn i).slotsFree i false tl.named = false → exec (.reductionAdd i true) s = .next s) ∧
      ((s.stn i).slotsFree i false tl.named = true →
        Runs (.reductionAdd i true) s (fun t =>
          (t.stn i).arrive = r ∧ (t.stn i).slots = addTile (s.stn i).slots tl ∧
          ((∀ a ∈ tl.adds, a.slot ∈ tl.slots) → (∀ z ∈ tl.zero, z.1 ∈ tl.slots) → ∀ b, b ∉ tl.slots → (t.stn i).slot b = (s.stn i).slot b) ∧
          (tl.rtok = none → tl.src ≠ i.val →
            t.die.mesh = s.die.mesh ++ [⟨i.val, tl.src, tl.src, tl.txn, none, .ack⟩] ∧ t.stn tl.src = (s.stn tl.src).guardDone tl.guard) ∧
          (tl.rtok = none → tl.src = i.val → (t.stn i).flightOf tl.txn = none ∧ t.die.mesh = s.die.mesh) ∧
          (tl.rtok = none → SameRegs s t [pageBase i + 0x14C] ∧ (t.stn i).tokens = (s.stn i).tokens) ∧
          (t.stn i).pm = (s.stn i).pm ∧ (t.stn i).banks = (s.stn i).banks ∧ SameStns s t [i.val, tl.src] ∧ t.lpddr = s.lpddr)))

/-- R120 to R122, R72: a WLOAD that nothing it waits for holds leaves its place, whatever it meets, and leaves every bank, slot and byte of platform memory as it is; one that no slip meets holds the images of its macros that are not faulted. Once its credits are paid and no earlier pass on its bank remains to be handed over, the commit of the earliest written WLOAD writes those banks and completes it; until then it changes nothing. What a WLOAD waits for is the model's reading (log entry 26). -/
def Obligations.WeightLoadsCommit : Prop :=
  ∀ (s : State) (i : Stn) (f : Flight), s.works = true →
    (∀ o : Obs, s.headOf i .mac = some f → opc f.word = 3 →
      ((s.stn i).wloadWaits f = true → exec (.wload i o) s = .next s) ∧
      ((s.stn i).wloadWaits f = false →
        Runs (.wload i o) s (fun t =>
          (∀ g, (t.stn i).flightOf f.seq = some g → g.stage ≠ .issued) ∧
          (t.stn i).banks = (s.stn i).banks ∧ (t.stn i).slots = (s.stn i).slots ∧ (t.stn i).pm = (s.stn i).pm ∧ (t.stn i).tokens = (s.stn i).tokens ∧
          SameStns s t [i.val] ∧ t.die.mesh = s.die.mesh ∧ t.lpddr = s.lpddr ∧
          (slipAt (s.stn i) f o.slip = none →
            (∃ g, (t.stn i).flightOf f.seq = some g ∧ g.stage = .written ∧ g.word = f.word ∧
              g.pend.map (·.1) = ((mgrp f.word).filter (fun m => !bitAt (s.faultBits i) m)).map (fun m => 4 * m + bankOf f.word)) ∧
            OnlyChanges { s with free := t.free } t (obsRegs i) [i.val])))) ∧
    ((s.stn i).iss.flight.find? (fun f => f.stage = .written) = some f →
      let busy := (s.stn i).iss.flight.any (fun g => decide (g.seq < f.seq) && (decide (opc g.word = 1) || decide (opc g.word = 2)) &&
        decide (bankOf g.word = bankOf f.word) && (mgrp g.word).any (fun m => bitAt f.word (64 + m)) && decide (g.stage ≠ .handed))
      (f.owed ≠ 0 ∨ busy = true → exec (.wloadCommit i) s = .next s) ∧
      (f.owed = 0 → busy = false →
        Runs (.wloadCommit i) s (fun t =>
          (t.stn i).banks = (f.pend.foldl (fun y p => y.setBank (p.1 / 4) (p.1 % 4) p.2) (s.stn i)).banks ∧
          (t.stn i).flightOf f.seq = none ∧ (t.stn i).slots = (s.stn i).slots ∧ (t.stn i).pm = (s.stn i).pm ∧ (t.stn i).tokens = (s.stn i).tokens ∧
          OnlyChanges s t [] [i.val])))

/-- R97, R128, R129: ACCCLR leaves its slot cleared, ACCRD writes the slot image and its metadata to platform memory and leaves every slot, and ACCWR loads its slot; each completes, and every other slot stays. -/
def Obligations.SlotInstructionsComplete : Prop :=
  ∀ (s : State) (i : Stn) (f : Flight),
    (s.accHead i 0x12 = some f →
      Runs (.accclr i) s (fun t =>
        (∀ b, (t.stn i).slot b = if b = fld f.word 20 6 then Slot.clear else (s.stn i).slot b) ∧
        (t.stn i).flightOf f.seq = none ∧ (t.stn i).pm = (s.stn i).pm ∧ (t.stn i).banks = (s.stn i).banks ∧ OnlyChanges s t [] [i.val])) ∧
    (s.accHead i 0x10 = some f →
      Runs (.accrd i) s (fun t =>
        (t.stn i).pm = (accrdImage (s.stn i).pm ((s.stn i).slot (fld f.word 20 6)) (fld f.word 38 14 * 64) (mextOf f.word) (nextOf f.word)).1 ∧
        (t.stn i).slots = (s.stn i).slots ∧ (t.stn i).banks = (s.stn i).banks ∧ (t.stn i).flightOf f.seq = none ∧
        OnlyChanges s t [pageBase i + 0x148] [i.val])) ∧
    (s.accHead i 0x11 = some f →
      Runs (.accwr i) s (fun t =>
        (∀ b, b ≠ fld f.word 20 6 → (t.stn i).slot b = (s.stn i).slot b) ∧
        (t.stn i).slot (fld f.word 20 6) = accwrSlot (s.stn i).pm ((s.stn i).slot (fld f.word 20 6)) (fld f.word 38 14 * 64) (mextOf f.word) (nextOf f.word) ∧
        (t.stn i).flightOf f.seq = none ∧ (t.stn i).pm = (s.stn i).pm ∧ (t.stn i).banks = (s.stn i).banks ∧ OnlyChanges s t [] [i.val]))

/-- R130, R131, R307, R310: a REDUCE of scope 0 sends its slot's contribution and leaves the slot, and does not start in a halt (R386); the contribution enters an arrival buffer with room at a station that is awake or stopped, waits in the mesh while the buffer is full, and waits at the router of a sleeping station, which is asked to wake; an acknowledgement is counted off its instruction, which completes with the last. A slip that another module reports sends the instruction to its replay (log entry 76). -/
def Obligations.ReductionsTravel : Prop :=
  ∀ (s : State) (i : Stn),
    (∀ f, s.accHead i 0x13 = some f → bitAt f.word 61 = false →
      (s.live = true → Runs (.reduce i) s (fun t =>
        t.die.mesh = s.die.mesh ++ [⟨i.val, fld f.word 32 7, i.val, f.seq, none, .red (reduceTile (s.stn i) i f)⟩] ∧
        (t.stn i).slots = (s.stn i).slots ∧ (t.stn i).flightOf f.seq = some { f with stage := .sent, acks := 1 } ∧
        SameRegs s t [] ∧ SameStns s t [i.val] ∧ t.lpddr = s.lpddr)) ∧
      (s.live = false → exec (.reduce i) s = .next s)) ∧
    (∀ (src : Stn) (f : Flit) (tl : Tile) (rest : List Flit), s.works = true → s.nextRequest src i = some (f, rest) → f.body = .red tl →
      ((s.stn i).sleeps = false → (s.stn i).arrive.length < 2 →
        Runs (.reduceArrival i src) s (fun t =>
          (t.stn i).arrive = (s.stn i).arrive ++ [tl] ∧ t.die.mesh = rest ∧ (t.stn i).slots = (s.stn i).slots ∧
          SameRegs s t [] ∧ SameStns s t [i.val] ∧ t.lpddr = s.lpddr)) ∧
      ((s.stn i).sleeps = false → 2 ≤ (s.stn i).arrive.length → exec (.reduceArrival i src) s = .next s) ∧
      ((s.stn i).sleeps = true → (s.stn i).routerHeld.length < 128 →
        Runs (.reduceArrival i src) s (fun t =>
          (t.stn i).routerHeld = (s.stn i).routerHeld ++ [f] ∧ t.die.mesh = rest ∧ (t.stn i).slots = (s.stn i).slots ∧ (t.stn i).arrive = (s.stn i).arrive ∧
          SameRegs s t [] ∧ SameStns s t [i.val] ∧ t.lpddr = s.lpddr))) ∧
    (∀ (src : Nat) (a : Flit) (rest : List Flit), s.works = true → s.nextAck src i = some (a, rest) →
      (a.body = .ack →
        Runs (.ackReceipt i src) s (fun t =>
          (∀ f, (s.stn i).flightOf a.txn = some f → f.acks ≤ 1 → f.stage = .sent → opc f.word ≠ 0x20 → (t.stn i).flightOf a.txn = none) ∧
          (∀ f, (s.stn i).flightOf a.txn = some f → 1 < f.acks ∨ f.stage ≠ .sent ∨ opc f.word = 0x20 →
            (t.stn i).flightOf a.txn = some { f with acks := f.acks - 1 }) ∧
          t.die.mesh = rest ∧ (t.stn i).slots = (s.stn i).slots ∧ (t.stn i).pm = (s.stn i).pm ∧ (t.stn i).tokens = (s.stn i).tokens ∧
          SameRegs s t [] ∧ SameStns s t [i.val] ∧ t.lpddr = s.lpddr)) ∧
      (∀ (b k : Nat) (f : Flight), a.body = .nack b k → (s.stn i).flightOf a.txn = some f →
        Runs (.ackReceipt i src) s (fun t =>
          (∃ g, (t.stn i).flightOf a.txn = some g ∧ g.stage = .recover (if f.attempts = 0 then 1 else 4) ∧ g.why.code = 0x0102) ∧
          t.reg 0x6000C = s.reg 0x6000C + 1 ∧ (∀ j : Stn, (t.stn j).pm = (s.stn j).pm ∧ (t.stn j).slots = (s.stn j).slots ∧ (t.stn j).tokens = (s.stn j).tokens) ∧
          t.lpddr = s.lpddr)))

/-- R262, R306: the oldest request of a station is served at its counter: one below its LIMIT returns VAL and counts on; at its LIMIT it returns the exhausted value, stands, and counts in EXH. It never wraps. A request for another counter waits for its own. -/
def Obligations.TicketCountersServeRequests : Prop :=
  ∀ (s : State) (c : Fin 64) (i : Stn) (f : Flit) (rest : List Flit), s.works = true → s.nextTkt i = some (f, rest) →
    (f.body = .tkt c.val →
      Runs (.tktRequest c i) s (fun t =>
        ((s.reg (tktBase c)).toNat < (s.reg (tktBase c + 4)).toNat →
          t.reg (tktBase c) = s.reg (tktBase c) + 1 ∧ (t.reg (tktBase c)).toNat = (s.reg (tktBase c)).toNat + 1 ∧
          t.reg (tktBase c + 12) = s.reg (tktBase c + 12) ∧
          t.die.mesh = rest ++ [⟨syncHub, i.val, i.val, f.txn, none, .tktval (s.reg (tktBase c))⟩]) ∧
        ((s.reg (tktBase c + 4)).toNat ≤ (s.reg (tktBase c)).toNat →
          t.reg (tktBase c) = s.reg (tktBase c) ∧ t.reg (tktBase c + 12) = satAdd (s.reg (tktBase c + 12)) 1 ∧
          t.die.mesh = rest ++ [⟨syncHub, i.val, i.val, f.txn, none, .tktval 0xFFFFFFFF⟩]) ∧
        t.stn i = { s.stn i with ledger := (t.stn i).ledger } ∧
        SameRegs s t [tktBase c, tktBase c + 12] ∧ SameStns s t [i.val] ∧ t.lpddr = s.lpddr)) ∧
    (f.body ≠ .tkt c.val → exec (.tktRequest c i) s = .next s)

/-- R104, R134, R136, R148: a TICKET sends its request and its counter does not move; its value is posted in the summary entry it reserved, with the counter's number and 0x30 on top, and the TICKET completes once every earlier summary is posted; a SUMMARY is held, waits while an earlier CONSIST is in flight, and is then posted, the reducer summary with the results of the last CONSIST before it. -/
def Obligations.SummariesArePosted : Prop :=
  ∀ (s : State) (i : Stn) (f : Flight), s.works = true →
    ((s.stn i).iss.flight.find? (fun f => opc f.word = 0x30 && f.stage = .issued) = some f →
      Runs (.ticket i) s (fun t =>
        t.die.mesh = s.die.mesh ++ [⟨i.val, syncHub, i.val, f.seq, none, .tkt (fld f.word 20 6)⟩] ∧
        (t.stn i).flightOf f.seq = some { f with stage := .sent } ∧ SameRegs s t [] ∧ SameStns s t [i.val] ∧ t.lpddr = s.lpddr)) ∧
    (∀ (v : Word) (g : Flit) (rest : List Flit), s.pathOpen syncHub i = true → takeFlit (isTktval i) s.die.mesh = some (g, rest) →
      g.body = .tktval v → (s.stn i).flightOf g.txn = some f →
      let fifo := (s.stn i).iss.fifo.map (fun e => if e.seq = g.txn then { e with val := some (BitVec.ofNat 64 (v.toNat + fld f.word 20 6 * 2 ^ 32 + 0x30 * 2 ^ 56)) } else e)
      Runs (.tktval i) s (fun t =>
        (t.stn i).iss.fifo = fifo ∧
        (t.stn i).flightOf g.txn = (if opc f.word = 0x30 ∧ g.txn ∈ (fifo.takeWhile (fun e => e.val.isSome)).map (·.seq) then none else some { f with stage := .computed }) ∧
        t.die.mesh = rest ∧ (t.stn i).slots = (s.stn i).slots ∧ (t.stn i).pm = (s.stn i).pm ∧ SameRegs s t [] ∧ SameStns s t [i.val] ∧ t.lpddr = s.lpddr)) ∧
    (s.headOf i .consist = some f → opc f.word = 0x21 →
      Runs (.summary i) s (fun t =>
        (t.stn i).flightOf f.seq = some { f with stage := .held } ∧ (t.stn i).iss.fifo = (s.stn i).iss.fifo ∧
        (t.stn i).slots = (s.stn i).slots ∧ OnlyChanges s t [] [i.val])) ∧
    ((s.stn i).iss.flight.find? (fun f => opc f.word = 0x21 && f.stage = .held) = some f →
      ((s.stn i).iss.flight.any (fun g => decide (g.seq < f.seq) && decide (opc g.word = 0x20)) = true → exec (.summaryPost i) s = .next s) ∧
      ((s.stn i).iss.flight.any (fun g => decide (g.seq < f.seq) && decide (opc g.word = 0x20)) = false →
        Runs (.summaryPost i) s (fun t =>
          (t.stn i).iss.fifo = (s.stn i).iss.fifo.map (fun e => if e.seq = f.seq then
            { e with val := some (if fld f.word 26 2 = 1 then rowSummary ((s.stn i).slot (fld f.word 20 6)) else reducerSummary f.result) } else e) ∧
          (t.stn i).flightOf f.seq = none ∧ (t.stn i).slots = (s.stn i).slots ∧ (t.stn i).result = (s.stn i).result ∧ OnlyChanges s t [] [i.val])))

/-- R137, R270: while token TOK is absent a TAKE stays at the head, and neither it nor a word behind it issues; once the token is present the TAKE removes it and leaves the queue, and nothing else of the station but its instruction numbers and ledger, and nothing of the module, changes. In a replay a TAKE whose effect has landed leaves the queue and takes no token; outside a replay none has. -/
def Obligations.TakeWaitsForItsToken : Prop :=
  ∀ (s : State) (i : Stn) (w : PWord), s.headWord i 0x31 = some w →
    let landed := (((s.stn i).popHead w).takeGuard true).2.2
    exec (.wordIssue i) s = .next s ∧ exec (.nop i) s = .next s ∧ exec (.interlock i) s = .next s ∧
    ((s.stn i).ledger.replay = false → landed = false) ∧
    (landed = false → bitAt (s.stn i).tokens (fld w 20 8) = false → exec (.take i) s = .next s) ∧
    (landed = true ∨ bitAt (s.stn i).tokens (fld w 20 8) = true →
      Runs (.take i) s (fun t =>
        (t.stn i).tokens = (if landed then (s.stn i).tokens else putBit (s.stn i).tokens (fld w 20 8) false) ∧
        (t.stn i).iss.queue = (s.stn i).iss.queue.drop 1 ∧
        (t.stn i).iss.flight = (s.stn i).iss.flight ∧ (t.stn i).iss.fifo = (s.stn i).iss.fifo ∧
        (t.stn i).pm = (s.stn i).pm ∧ (t.stn i).slots = (s.stn i).slots ∧ (t.stn i).banks = (s.stn i).banks ∧ (t.stn i).sb = (s.stn i).sb ∧
        OnlyChanges s t [] [i.val]))

/-- R138, R273, R307, R310: a GIVE is held, waits while an earlier instruction is open, and then makes its token present in this station, where one already present stays so and is counted in STN_CNT_TOKOVER, or sends it to every destination; a token that arrives at a station that is awake or stopped becomes present or is counted in the same way, and the GIVE of a station of this module is acknowledged; at a sleeping one it waits at the router. -/
def Obligations.TokensPassBetweenStations : Prop :=
  ∀ (s : State) (i : Stn),
    (∀ f, s.live = true → (s.stn i).iss.flight.find? (fun f => opc f.word = 0x32 && f.stage = .issued) = some f →
      Runs (.give i) s (fun t =>
        (t.stn i).flightOf f.seq = some { f with stage := .held } ∧ (t.stn i).tokens = (s.stn i).tokens ∧ OnlyChanges s t [] [i.val])) ∧
    (∀ f, s.live = true → (s.stn i).iss.flight.find? (fun f => opc f.word = 0x32 && f.stage = .held) = some f →
      ((s.stn i).earlierOpen f.seq = true → exec (.giveDeliver i) s = .next s) ∧
      ((s.stn i).earlierOpen f.seq = false →
        (fld f.word 28 2 = 0 →
          Runs (.giveDeliver i) s (fun t =>
            (t.stn i).flightOf f.seq = none ∧ (t.stn i).pm = (s.stn i).pm ∧ (t.stn i).slots = (s.stn i).slots ∧
            (bitAt (s.stn i).tokens (fld f.word 20 8) = false →
              (t.stn i).tokens = putBit (s.stn i).tokens (fld f.word 20 8) true ∧ OnlyChanges s t [] [i.val]) ∧
            (bitAt (s.stn i).tokens (fld f.word 20 8) = true →
              (t.stn i).tokens = (s.stn i).tokens ∧ t.reg (pageBase i + 0x154) = satAdd (s.reg (pageBase i + 0x154)) 1 ∧
              OnlyChanges s t [pageBase i + 0x154] [i.val]))) ∧
        (fld f.word 28 2 ≠ 0 →
          Runs (.giveDeliver i) s (fun t =>
            t.die.mesh = s.die.mesh ++ f.cap.dests.map (fun d => ⟨i.val, d, i.val, f.seq, none, .token (fld f.word 20 8)⟩) ∧
            (t.stn i).flightOf f.seq = some { f with stage := .sent, acks := f.cap.dests.length, landed := 0 } ∧
            (t.stn i).tokens = (s.stn i).tokens ∧ SameRegs s t [] ∧ SameStns s t [i.val] ∧ t.lpddr = s.lpddr)))) ∧
    (∀ (src k : Nat) (f : Flit) (rest : List Flit), s.works = true → s.nextRequest src i = some (f, rest) → f.body = .token k →
      ((s.stn i).sleeps = false →
        Runs (.tokenArrival i src) s (fun t =>
          (bitAt (s.stn i).tokens k = false → (t.stn i).tokens = putBit (s.stn i).tokens k true ∧ SameRegs s t []) ∧
          (bitAt (s.stn i).tokens k = true → (t.stn i).tokens = (s.stn i).tokens ∧
            t.reg (pageBase i + 0x154) = satAdd (s.reg (pageBase i + 0x154)) 1 ∧ SameRegs s t [pageBase i + 0x154]) ∧
          (f.req < 128 → f.req ≠ i.val → f.mod = none → t.die.mesh = rest ++ [⟨i.val, f.req, f.req, f.txn, none, .ack⟩]) ∧
          (128 ≤ f.req ∨ f.mod ≠ none → t.die.mesh = rest ∧ SameStns s t [i.val]) ∧
          (t.stn i).pm = (s.stn i).pm ∧ (t.stn i).slots = (s.stn i).slots ∧ SameStns s t [i.val, f.req] ∧ t.lpddr = s.lpddr)) ∧
      ((s.stn i).sleeps = true → (s.stn i).routerHeld.length < 128 →
        Runs (.tokenArrival i src) s (fun t =>
          (t.stn i).routerHeld = (s.stn i).routerHeld ++ [f] ∧ t.die.mesh = rest ∧ (t.stn i).tokens = (s.stn i).tokens ∧
          SameRegs s t [] ∧ SameStns s t [i.val] ∧ t.lpddr = s.lpddr)))

/-- R139, R267, R361, R457: an INTERLOCK at the head waits while anything before it is open; then it leaves the queue and posts the station's arrival. While another station of the job has still to arrive at a die interlock, or the interlock is a domain interlock, every other station stays as it is; with the last arrival at a die interlock the station is released, its departure staggered and its restart point taken. A domain interlock beside another one raises ILLEGAL_OP (R327). A station that was restarted and has been released since passes it again (R458). R269: a ledger entry whose interval has ended, and none of whose instructions is in flight, is dropped; the others stay. -/
def Obligations.ArrivalsPostAndLedgerEntriesCommit : Prop :=
  (∀ (s : State) (i : Stn) (w : PWord), s.headWord i 0x38 = some w →
    ((s.stn i).earlierOpen (s.stn i).iss.next = true → exec (.interlock i) s = .next s) ∧
    ((s.stn i).earlierOpen (s.stn i).iss.next = false → (s.stn i).passedPost w = true →
      Runs (.interlock i) s (fun t =>
        (t.stn i).iss.posted = none ∧ (t.stn i).iss.stagger = true ∧ (t.stn i).iss.queue = (s.stn i).iss.queue.drop 1 ∧
        (t.stn i).tokens = (s.stn i).tokens ∧ (t.stn i).pm = (s.stn i).pm ∧ (t.stn i).slots = (s.stn i).slots ∧ OnlyChanges s t [] [i.val])) ∧
    ((s.stn i).earlierOpen (s.stn i).iss.next = false → (s.stn i).passedPost w = false →
      (bitAt w 28 = true ∧ s.otherIlk (fld w 20 8) = false ∨ bitAt w 28 = false ∧ (∃ j ∈ s.jobSet, j ≠ i.val ∧ (s.stn j).iss.posted = none) →
        Runs (.interlock i) s (fun t =>
          (∃ n, (t.stn i).iss.posted = some ⟨bitAt w 28, fld w 20 8, n, true, false⟩) ∧ (t.stn i).iss.queue = (s.stn i).iss.queue.drop 1 ∧
          (t.stn i).tokens = (s.stn i).tokens ∧ (t.stn i).pm = (s.stn i).pm ∧ (t.stn i).slots = (s.stn i).slots ∧ OnlyChanges s t [] [i.val])) ∧
      (bitAt w 28 = false → s.jobSet ≠ [] →
        (∀ j ∈ s.jobSet, j ≠ i.val → ∃ p, (s.stn j).iss.posted = some p ∧ p.domain = false ∧ p.ilk = fld w 20 8 ∧ p.passed = false) →
        Runs (.interlock i) s (fun t =>
          (t.stn i).iss.posted = none ∧ (t.stn i).iss.stagger = true ∧ (t.stn i).iss.queue = (s.stn i).iss.queue.drop 1 ∧
          (t.stn i).restart = (s.stn i).nextRestart.headD (s.stn i).restart ∧ (t.stn i).step4 = false ∧
          (∀ j : Stn, (t.stn j).tokens = (s.stn j).tokens ∧ (t.stn j).pm = (s.stn j).pm ∧ (t.stn j).slots = (s.stn j).slots ∧
            (t.stn j).sb = (s.stn j).sb ∧ (t.stn j).iss.flight = (s.stn j).iss.flight) ∧
          SameRegs s t [] ∧ t.lpddr = s.lpddr ∧ t.die.mesh = s.die.mesh)) ∧
      (bitAt w 28 = true → s.otherIlk (fld w 20 8) = true →
        Runs (.interlock i) s (fun t =>
          (t.stn i).ctl.run = .stopped ∧ (t.stn i).iss = (s.stn i).iss ∧ t.reg 0x6000C = s.reg 0x6000C + 1 ∧ SameStns s t [i.val] ∧ t.lpddr = s.lpddr)))) ∧
  (∀ (s : State) (i : Stn) (e : LedgerEntry), s.works = true → (s.stn i).commitable = some e →
    Runs (.ledgerEntryCommit i) s (fun t =>
      (t.stn i).ledger.entries = (s.stn i).ledger.entries.filter (fun g => decide (g.seq ≠ e.seq)) ∧
      (∀ g ∈ (t.stn i).ledger.entries, g.seq ≠ e.seq) ∧ e ∈ (s.stn i).ledger.entries ∧
      (∀ g ∈ (s.stn i).iss.flight, g.entry ≠ some e.seq) ∧
      (t.stn i).iss = (s.stn i).iss ∧ (t.stn i).tokens = (s.stn i).tokens ∧ (t.stn i).pm = (s.stn i).pm ∧ OnlyChanges s t [] [i.val]))

/-- R123, R124, R127, R290, R304: an LD, to its own station, or an MCAST, to every member of its set, takes as many of its units as it has room for, and moves on past them; each line that moves goes as a WR from its controller to every destination, with the bytes that it holds; an uncorrectable line is counted and logged and sends the instruction to the ladder. No platform memory changes before a line arrives. An error in the array of a line outside inline ECC is not told (R288, log entry 80). R125, R307, R326: an ST takes its units in the same way: to LPDDR5X each line is written whole and each controller acknowledges its own with the last, and no other line changes; to a station the lines travel as WRs, and LPDDR5X stays. What is moved in one step is the model's reading (log entry 27). -/
def Obligations.MoverMovesLines : Prop :=
  (∀ (s : State) (i : Stn) (o : Obs) (f : Flight) (c : Instr) (dests : List Nat), s.live = true → s.headOf i .mover = some f →
    (c = .ld i o ∧ opc f.word = 0x08 ∧ dests = [i.val]) ∨ (c = .mcast i o ∧ opc f.word = 0x0A ∧ dests = f.cap.dests) →
    let us := f.chunk (s.ldRoom i f dests) o.upto
    let bad (p : Nat × Bool) : Bool := s.lineBad (ldLine f.word p.1) (namesLine o.ue (ldLine f.word p.1))
    Runs c s (fun t =>
      (∀ j : Stn, (t.stn j).pm = (s.stn j).pm ∧ (t.stn j).slots = (s.stn j).slots ∧ (t.stn j).banks = (s.stn j).banks ∧ (t.stn j).tokens = (s.stn j).tokens) ∧
      (t.stn i).iss.queue = (s.stn i).iss.queue ∧
      ((∀ u, o.ue = some u → s.inEcc u.1 = true) →
        t.lpddr = s.lpddr ∧
        ((s.ldReads f.word us).any bad = false →
          (t.stn i).flightOf f.seq = some (f.advance us (s.ldSkips f.word us) dests.length) ∧
          (∃ fs, t.die.mesh = s.die.mesh ++ fs ∧ ∀ g ∈ fs, g.req = i.val ∧ g.txn = f.seq ∧ g.dst ∈ dests ∧ g.mod = none) ∧
          (∀ r, (r, true) ∈ s.ldReads f.word us → ∀ d ∈ dests, ∃ ls,
            (⟨128 + ctrlEdge (ctrlOf (ldLine f.word r)), d, i.val, f.seq, none,
              .wr (whole ((fld f.word 20 14 + r) * 64 % 0x100000) (s.line (ldLine f.word r))) ls (totalOf f.word) (streamOf f.word)⟩ : Flit) ∈ t.die.mesh ∧ r ∈ ls) ∧
          (o.ce = [] → SameRegs s t []) ∧ SameStns s t [i.val]) ∧
        (∀ p, (s.ldReads f.word us).find? bad = some p →
          (∃ g, (t.stn i).flightOf f.seq = some g ∧ g.stage = s.ueStage f (ldLine f.word p.1) ∧ g.word = f.word) ∧
          t.reg (0x100018 + ctrlOf (ldLine f.word p.1) * 0x1000) = satAdd (s.reg (0x100018 + ctrlOf (ldLine f.word p.1) * 0x1000)) 1 ∧
          t.reg 0x6000C = s.reg 0x6000C + 1)))) ∧
  (∀ (s : State) (i : Stn) (o : Obs) (f : Flight), s.live = true → s.headOf i .mover = some f → opc f.word = 0x09 →
    let us := f.chunk (unitsOf f.word) o.upto
    Runs (.st ⟨i, o⟩) s (fun t =>
      (t.stn i).pm = (s.stn i).pm ∧ (t.stn i).slots = (s.stn i).slots ∧ (t.stn i).banks = (s.stn i).banks ∧ (t.stn i).tokens = (s.stn i).tokens ∧
      SameStns s t [i.val] ∧ (fld f.word 121 2 ≠ 0 → t.lpddr = s.lpddr) ∧
      (o.clash = [] →
        let rs := stLines (s.stn i).pm f.word us
        let g := f.advance us (stSkips (s.stn i).pm f.word us) (if fld f.word 121 2 = 0 then (stCtrls f.word (f.skipped ++ stSkips (s.stn i).pm f.word us)).length else 1)
        (t.stn i).flightOf f.seq = some g ∧
        (fld f.word 121 2 = 0 →
          (∀ r ∈ rs, (∀ q ∈ rs, q ≠ r → stFar f.word q ≠ stFar f.word r) → t.line (stFar f.word r) = stLine (s.stn i).pm f.word r) ∧
          (∀ l, (∀ r ∈ rs, stFar f.word r ≠ l) → t.line l = s.line l) ∧
          t.die.mesh = s.die.mesh ++ (if g.stage = .sent then
            (stCtrls f.word (f.skipped ++ stSkips (s.stn i).pm f.word us)).map (fun c => ⟨128 + ctrlEdge c, i.val, i.val, f.seq, none, .ack⟩) else []) ∧
          SameRegs s t (obsRegs i)) ∧
        (fld f.word 121 2 = 2 → fld f.word 55 14 ≠ s.modid → t.die.mesh = s.die.mesh) ∧
        (fld f.word 121 2 ≠ 0 → fld f.word 121 2 ≠ 2 ∨ fld f.word 55 14 = s.modid →
          t.die.mesh = s.die.mesh ++ stFlits (s.stn i).pm i f none rs (stSkips (s.stn i).pm f.word us) ∧ SameRegs s t (obsRegs i)))))

/-- R308, R307, R309, R310, R93 to R95: a WR flit at a station that is awake or stopped is written through the mesh port and touches no other byte; with the last line of its transaction the requester is acknowledged, or counts it itself when the lines are its own; a collision raises BUSY for each word, and refused requests count in BCONF4; a block with a wrong TAG sends the instruction to its replay and is not written; at a sleeping station the flit waits at the router. A mesh-port read that collides raises BUSY once, and twice when its retry collides again, which makes arbitrary only the word sent. What collides is an operand (log entry 11). -/
def Obligations.MeshPortAccesses : Prop :=
  ∀ (s : State) (i : Stn), s.works = true →
    (∀ (src : Nat) (busy : Fin 3) (refused : Nat) (sl : Option Slip) (f : Flit) (rest : List Flit) (bs : List MaskedByte) (ls : List Nat) (total : Nat) (st : Option Stream),
      s.nextRequest src i = some (f, rest) → f.body = .wr bs ls total st →
      let old := (s.stn i).gotOf f.req f.mod f.txn
      let new := (old ++ ls).dedup
      ((s.stn i).sleeps = false → arrivalSlip st old new sl = none →
        Runs (.meshWrArrival i src ⟨busy, refused⟩ sl) s (fun t =>
          (t.stn i).pm = pmApply (s.stn i).pm bs ∧
          (∀ j, (∀ b ∈ bs, b.1 % 0x100000 ≠ j) → mget byte0 (t.stn i).pm j = mget byte0 (s.stn i).pm j) ∧
          t.reg (0x204000 + 4 * i.val) = (if busy.val = 0 then s.reg (0x204000 + 4 * i.val) else satAdd (s.reg (0x204000 + 4 * i.val)) busy.val) ∧
          t.reg (pageBase i + 0x138) = (if refused = 0 then s.reg (pageBase i + 0x138) else satAdd (s.reg (pageBase i + 0x138)) refused) ∧
          (new.length < total → (t.stn i).gotOf f.req f.mod f.txn = new ∧ t.die.mesh = rest) ∧
          (total ≤ new.length → f.req < 128 → f.req ≠ i.val → f.mod = none → t.die.mesh = rest ++ [⟨i.val, f.req, f.req, f.txn, none, .ack⟩]) ∧
          (total ≤ new.length → f.req = i.val → f.mod = none → t.die.mesh = rest ∧
            ∀ g, (s.stn i).flightOf f.txn = some g → g.acks ≤ 1 → g.stage = .sent → opc g.word ≠ 0x20 → (t.stn i).flightOf f.txn = none) ∧
          (t.stn i).slots = (s.stn i).slots ∧ (t.stn i).banks = (s.stn i).banks ∧ (t.stn i).tokens = (s.stn i).tokens ∧
          SameRegs s t (obsRegs i) ∧ SameStns s t [i.val] ∧ t.lpddr = s.lpddr)) ∧
      (∀ (q : Slip) (g : Flight), (s.stn i).sleeps = false → arrivalSlip st old new sl = some q → f.mod = none → (s.stn f.req).flightOf f.txn = some g →
        Runs (.meshWrArrival i src ⟨busy, refused⟩ sl) s (fun t =>
          (∃ h, (t.stn f.req).flightOf f.txn = some h ∧ h.stage = .recover (if g.attempts = 0 then 1 else 4) ∧ h.why.code = 0x0102) ∧
          t.reg 0x6000C = s.reg 0x6000C + 1 ∧ (∀ j : Stn, (t.stn j).pm = (s.stn j).pm ∧ (t.stn j).slots = (s.stn j).slots ∧ (t.stn j).tokens = (s.stn j).tokens) ∧
          t.lpddr = s.lpddr)) ∧
      ((s.stn i).sleeps = true → (s.stn i).routerHeld.length < 128 →
        Runs (.meshWrArrival i src ⟨busy, refused⟩ sl) s (fun t =>
          (t.stn i).routerHeld = (s.stn i).routerHeld ++ [f] ∧ t.die.mesh = rest ∧ (t.stn i).pm = (s.stn i).pm ∧
          SameRegs s t [] ∧ SameStns s t [i.val] ∧ t.lpddr = s.lpddr))) ∧
    (∀ addr : Nat,
      Runs (.meshReadRetry i addr false) s (fun t =>
        t.reg (0x204000 + 4 * i.val) = satAdd (s.reg (0x204000 + 4 * i.val)) 1 ∧ OnlyChanges s t [0x204000 + 4 * i.val] []) ∧
      Runs (.meshReadRetry i addr true) s (fun t =>
        t.reg (0x204000 + 4 * i.val) = satAdd (s.reg (0x204000 + 4 * i.val)) 2 ∧ t.die.mesh.length = s.die.mesh.length ∧
        (∀ l, (∀ f ∈ (s.stn i).iss.flight, movedFar addr f ≠ some l) → t.line l = s.line l) ∧
        SameRegs s t [0x204000 + 4 * i.val] ∧ SameStns s t []))

/-- R133, R144, R179, R194, R197, R134: a CONSIST that works leaves its place, whatever it meets, and leaves banks, tokens, handed tiles and every other station; one that no slip or uncorrectable word meets sets its record slots and writes its output to platform memory, or sends it to its destinations and waits for their acknowledgements; complete, with nothing owed, the earliest sets the reducer results, its station's and those of every SUMMARY after it, and leaves flight; until then it waits. The EMPTY bits and the saturation count rest on log entries 16 and 71. -/
def Obligations.ConsistRunsAndCompletes : Prop :=
  ∀ (s : State) (i : Stn) (f : Flight), s.works = true →
    (∀ o : Obs, s.headOf i .consist = some f → opc f.word = 0x20 →
      let p := (s.countRefused i o.refused).seen i o.clash
      let c := (consistIn p.1 (s.stn i) f).run
      let far := fld f.word 102 2 = 1 ∨ fld f.word 102 2 = 2
      let dests := if c.writes.isEmpty then [] else f.cap.dests
      Runs (.consist i o) s (fun t =>
        (∀ g, (t.stn i).flightOf f.seq = some g → g.stage ≠ .issued) ∧
        (t.stn i).banks = (s.stn i).banks ∧ (t.stn i).tokens = (s.stn i).tokens ∧ (t.stn i).redq = (s.stn i).redq ∧ (t.stn i).result = (s.stn i).result ∧
        SameStns s t [i.val] ∧ t.lpddr = s.lpddr ∧
        (slipAt (s.stn i) f o.slip = none → o.ue = none →
          (t.stn i).slots = c.slots ∧
          (∃ g, (t.stn i).flightOf f.seq = some g ∧ g.stage = .sent ∧ g.word = f.word ∧ g.result = c.result ∧ (¬ far → g.acks = 0) ∧ (far → g.acks = dests.length)) ∧
          (¬ far → (t.stn i).pm = pmApply (s.stn i).pm c.writes ∧
            OnlyChanges { s with free := t.free } t ([pageBase i + 0x120, pageBase i + 0x148, pageBase i + 0x14C] ++ obsRegs i) [i.val]) ∧
          (far → (t.stn i).pm = (s.stn i).pm ∧ t.die.mesh = s.die.mesh ++ dests.flatMap (fun d => wrFlits i d f.seq c.writes) ∧
            SameRegs s t ([pageBase i + 0x120, pageBase i + 0x148, pageBase i + 0x14C] ++ obsRegs i))))) ∧
    ((s.stn i).iss.flight.find? (fun f => opc f.word = 0x20) = some f →
      (f.stage ≠ .sent ∨ f.acks ≠ 0 ∨ f.owed ≠ 0 → exec (.consistComplete i) s = .next s) ∧
      (f.stage = .sent → f.acks = 0 → f.owed = 0 →
        Runs (.consistComplete i) s (fun t =>
          (t.stn i).result = f.result ∧ (t.stn i).flightOf f.seq = none ∧
          (∀ g ∈ (t.stn i).iss.flight, opc g.word = 0x21 → f.seq < g.seq → g.result = f.result) ∧
          (t.stn i).pm = (s.stn i).pm ∧ (t.stn i).slots = (s.stn i).slots ∧ (t.stn i).tokens = (s.stn i).tokens ∧ OnlyChanges s t [] [i.val])))

/-- R107, R108, R139, R475: RUN 1 at a stopped station starts its signal box at 0 with cleared registers, discards the words that a stop left queued, and makes it one of the stations that the host runs; at any other it starts nothing. RUN 0 at an awake station that does not wait to sleep stops its signal box, and the station enters STOPPED once nothing is queued, in flight or posted; one that sleeps, wakes or waits to sleep holds the stop (log entry 89); WAKE at a sleeping station joins the queue of the governor once. The write of the other fields goes into STN_CTRL. -/
def Obligations.RunControlWrites : Prop :=
  ∀ (s : State) (i : Stn) (v : Word), s.writeServed (pageBase i + 4) = true → s.supState = 0 →
    ((s.stn i).ctl.run = .stopped →
      Runs (.runStart i v) s (fun t =>
        (t.stn i).ctl.run = .awake ∧ (t.stn i).sb = { (s.stn i).sb with pc := 0, regs := [] } ∧
        (t.stn i).iss = { (s.stn i).iss with queue := [] } ∧ t.preg i 4 = (v ||| 1) &&& 3 ∧ i.val ∈ t.die.runSet ∧
        t.stn i = { s.stn i with ctl := (t.stn i).ctl, sb := (t.stn i).sb, iss := (t.stn i).iss, nextRestart := [] } ∧
        SameRegs s t [pageBase i + 4] ∧ SameStns s t [i.val] ∧ t.lpddr = s.lpddr ∧ t.die.mesh = s.die.mesh) ∧
      Runs (.runStop i v) s (fun t => t.preg i 4 = (v &&& ~~~1) &&& 3 ∧ t.stn i = s.stn i ∧ OnlyChanges s.leaveL1 t [pageBase i + 4] [i.val])) ∧
    ((s.stn i).ctl.run ≠ .stopped →
      Runs (.runStart i v) s (fun t =>
        t.preg i 4 = (v ||| 1) &&& 3 ∧ t.stn i = { s.stn i with ctl := { (s.stn i).ctl with wakeReq := (t.stn i).ctl.wakeReq } } ∧
        (bitAt v 2 = false → t.stn i = s.stn i) ∧ t.die.runSet = s.die.runSet ∧
        SameRegs s t [pageBase i + 4] ∧ SameStns s t [i.val] ∧ t.lpddr = s.lpddr ∧ t.die.mesh = s.die.mesh)) ∧
    ((s.stn i).ctl.run = .awake → (s.stn i).ctl.sleepReq = false →
      Runs (.runStop i v) s (fun t =>
        (t.stn i).ctl.run = (if (s.stn i).iss.queue = [] ∧ (s.stn i).iss.flight = [] ∧ (s.stn i).atPost = false then .stopped else .awake) ∧
        ((t.stn i).ctl.run = .awake → (t.stn i).ctl.stopping = true) ∧ t.preg i 4 = (v &&& ~~~1) &&& 3 ∧
        t.stn i = { s.stn i with ctl := (t.stn i).ctl } ∧ OnlyChanges s.leaveL1 t [pageBase i + 4] [i.val])) ∧
    ((s.stn i).ctl.run = .asleep ∨ (s.stn i).ctl.run = .waking ∨ (s.stn i).ctl.run = .awake ∧ (s.stn i).ctl.sleepReq = true →
      Runs (.runStop i v) s (fun t =>
        (t.stn i).ctl = { (s.stn i).ctl with stopHeld := true, wakeReq := (t.stn i).ctl.wakeReq } ∧ t.preg i 4 = (v &&& ~~~1) &&& 3 ∧
        t.stn i = { s.stn i with ctl := (t.stn i).ctl } ∧
        SameRegs s t [pageBase i + 4] ∧ SameStns s t [i.val] ∧ t.lpddr = s.lpddr ∧ t.die.mesh = s.die.mesh)) ∧
    ((s.stn i).ctl.run = .asleep → (s.stn i).ctl.wakeReq = false → (s.stn i).ctl.admitted = false →
      Runs (.wake i v) s (fun t =>
        t.die.wakeQ = s.die.wakeQ ++ [i.val] ∧ (t.stn i).ctl = { (s.stn i).ctl with wakeReq := true, stopHeld := (s.stn i).ctl.stopHeld || !bitAt v 0 } ∧
        t.preg i 4 = (v ||| 4) &&& 3 ∧ t.stn i = { s.stn i with ctl := (t.stn i).ctl } ∧
        SameRegs s t [pageBase i + 4] ∧ SameStns s t [i.val] ∧ t.lpddr = s.lpddr ∧ t.die.mesh = s.die.mesh)) ∧
    ((s.stn i).ctl.run ≠ .asleep ∨ (s.stn i).ctl.wakeReq = true ∨ (s.stn i).ctl.admitted = true →
      Runs (.wake i v) s (fun t =>
        t.die.wakeQ = s.die.wakeQ ∧ t.preg i 4 = (v ||| 4) &&& 3 ∧ (t.stn i).pm = (s.stn i).pm ∧ (t.stn i).slots = (s.stn i).slots ∧
        SameRegs s t [pageBase i + 4] ∧ SameStns s t [i.val] ∧ t.lpddr = s.lpddr ∧ t.die.mesh = s.die.mesh))

/-- R105 to R107, R148, R361: a station that waits to sleep, with nothing queued, in flight, posted or pending, falls asleep, and stays awake otherwise; at retention a wake that was admitted begins; a waking station in retention is awake, or stopping under a held stop, and what its router holds is served: a token becomes present, a line is written. The stagger of a departure ends, but not while a coast still holds departures. Slots, banks and the signal box keep their values. That an access on its way counts as pending is the model's reading (log entry 90). -/
def Obligations.StationsSleepAndWake : Prop :=
  ∀ (s : State) (i : Stn), s.live = true →
    ((s.stn i).ctl.sleepReq = true →
      ((s.stn i).iss.queue = [] → (s.stn i).iss.flight = [] → (s.stn i).atPost = false → s.accessPending i = false →
        Runs (.sleepCommit i) s (fun t =>
          (t.stn i).ctl.run = .asleep ∧ t.stn i = { s.stn i with ctl := (t.stn i).ctl } ∧ OnlyChanges s t [] [i.val])) ∧
      ((s.stn i).iss.queue ≠ [] ∨ (s.stn i).iss.flight ≠ [] ∨ (s.stn i).atPost = true ∨ s.accessPending i = true → exec (.sleepCommit i) s = .next s)) ∧
    ((s.stn i).ctl.run = .asleep → (s.stn i).ctl.retention = false →
      Runs (.retentionReached i) s (fun t =>
        t.stn i = { s.stn i with ctl := { (s.stn i).ctl with retention := true, run := if (s.stn i).ctl.admitted then .waking else .asleep } } ∧
        OnlyChanges s t [] [i.val])) ∧
    ((s.stn i).ctl.run = .waking → (s.stn i).ctl.retention = true →
      Runs (.wakeComplete i) s (fun t =>
        ((t.stn i).ctl.run = .awake ∨ (t.stn i).ctl.run = .stopped) ∧ (t.stn i).ctl.stopHeld = false ∧
        (t.stn i).banks = (s.stn i).banks ∧ (t.stn i).sb = (s.stn i).sb ∧ (t.stn i).iss.queue = (s.stn i).iss.queue ∧ t.lpddr = s.lpddr ∧ t.fuses = s.fuses ∧
        (s.die.mesh.any (isBar2To i) = false →
          ((∀ f ∈ (s.stn i).routerHeld, ∀ off n w, f.body ≠ .bar2 off n w) → (t.stn i).slots = (s.stn i).slots) ∧
          ((s.stn i).routerHeld = [] →
            (t.stn i).ctl.run = (if (s.stn i).ctl.stopHeld = true ∧ (s.stn i).iss.queue = [] ∧ (s.stn i).iss.flight = [] ∧ (s.stn i).atPost = false then .stopped else .awake) ∧
            t.stn i = { s.stn i with ctl := (t.stn i).ctl } ∧ OnlyChanges s t [] [i.val]) ∧
          (∀ (f : Flit) (k : Nat), (s.stn i).routerHeld = [f] → f.body = .token k → bitAt (s.stn i).tokens k = false →
            (t.stn i).tokens = putBit (s.stn i).tokens k true ∧ (t.stn i).routerHeld = [] ∧ (t.stn i).pm = (s.stn i).pm ∧
            SameRegs s t [] ∧ SameStns s t [i.val, f.req]) ∧
          (∀ (f : Flit) (bs : List MaskedByte) (ls : List Nat) (total : Nat) (st : Option Stream), (s.stn i).routerHeld = [f] → f.body = .wr bs ls total st →
            (t.stn i).pm = pmApply (s.stn i).pm bs ∧ (t.stn i).routerHeld = [] ∧ (t.stn i).tokens = (s.stn i).tokens ∧ SameStns s t [i.val])))) ∧
    ((s.stn i).iss.stagger = true →
      (s.departuresHeld = false →
        Runs (.departureStagger i) s (fun t =>
          t.stn i = { s.stn i with iss := { (s.stn i).iss with stagger := false } } ∧ OnlyChanges s t [] [i.val])) ∧
      (s.departuresHeld = true → exec (.departureStagger i) s = .next s))

/-- R274, R477: a 1 written to bit j of STN_TOKk makes token 32k + j absent, and to bit j of STN_TOKSETk present, and no other token moves; a word written through the local store window takes effect at a stopped station, in the half that STN_LSWIN selects, and at any other is discarded and counted in DEV_CNT_DISCARD. R263: a write to MESH_TKTc_VAL begins an epoch: VAL takes the value and EPOCH counts on; a write to LIMIT changes LIMIT only. -/
def Obligations.TokenWindowAndTicketWrites : Prop :=
  (∀ (s : State) (i : Stn) (v : Word), s.supState = 0 →
    (∀ k : Fin 8, s.writeServed (pageBase i + 0x300 + 4 * k) = true →
      Runs (.stnTokClear i k v) s (fun t =>
        (∀ b, b < 256 → bitAt (t.stn i).tokens b = (bitAt (s.stn i).tokens b && !(decide (32 * k.val ≤ b) && decide (b < 32 * k.val + 32) && bitAt v (b - 32 * k.val)))) ∧
        t.stn i = { s.stn i with tokens := (t.stn i).tokens } ∧ OnlyChanges s.leaveL1 t [] [i.val])) ∧
    (∀ k : Fin 8, s.writeServed (pageBase i + 0x320 + 4 * k) = true →
      Runs (.stnTokset i k v) s (fun t =>
        (∀ b, b < 256 → bitAt (t.stn i).tokens b = (bitAt (s.stn i).tokens b || (decide (32 * k.val ≤ b) && decide (b < 32 * k.val + 32) && bitAt v (b - 32 * k.val)))) ∧
        t.stn i = { s.stn i with tokens := (t.stn i).tokens } ∧ OnlyChanges s.leaveL1 t [] [i.val])) ∧
    (∀ k : Fin 8192, s.writeServed (pageBase i + 0x8000 + 4 * k) = true →
      let a := 0x8000 * fld (s.preg i 0x170) 0 1 + 4 * k.val
      ((s.stn i).ctl.run = .stopped →
        Runs (.localStoreWindowWrite i k v) s (fun t =>
          (t.stn i).sb.word a = v ∧ (∀ b, b < a ∨ a + 4 ≤ b → b < 0x10000 → mget byte0 (t.stn i).sb.store b = mget byte0 (s.stn i).sb.store b) ∧
          t.stn i = { s.stn i with sb := { (s.stn i).sb with store := (t.stn i).sb.store } } ∧ OnlyChanges s.leaveL1 t [] [i.val])) ∧
      ((s.stn i).ctl.run ≠ .stopped →
        Runs (.localStoreWindowWrite i k v) s (fun t =>
          t.reg 0x24 = satAdd (s.reg 0x24) 1 ∧ OnlyChanges s.leaveL1 t [0x24] [])))) ∧
  (∀ (s : State) (c : Fin 64) (v : Word), s.supState = 0 → s.writeServed 0x208000 = true →
    Runs (.meshTktValWrite c v) s (fun t =>
      t.reg (tktBase c) = v ∧ t.reg (tktBase c + 8) = s.reg (tktBase c + 8) + 1 ∧ OnlyChanges s.leaveL1 t [tktBase c, tktBase c + 8] []) ∧
    Runs (.meshTktLimitWrite c v) s (fun t => t.reg (tktBase c + 4) = v ∧ OnlyChanges s.leaveL1 t [tktBase c + 4] []))

/-- R230 to R232: a host write of dword 0 that moves a session as the table of host moves allows is taken, and one into READY gives the session the next READYSEQ; a write to another dword of a session that is not BERTHED sets the enabled bytes of its fields, and reserved bits stay 0 (R229); a write of an equal or unlisted state, and any write while BERTHED, changes nothing and counts in SESSION_CNT_REFUSED. PARK of a BERTHED session stands as a request and moves no session, and any other command is refused and counted. That a write of the same state is refused is the model's reading (log entry 58). -/
def Obligations.SessionWrites : Prop :=
  ∀ (s : State) (n : Fin 10240), s.supState = 0 → s.writeServed 0x400000 = true →
    (∀ (k : Fin 16) (en : BitVec 4) (v : Word), en ≠ 0 →
      (s.sessState n ≠ 3 → k.val ≠ 0 ∨ bitAt en 0 = false →
        Runs (.sessionStateWrite n k en v) s (fun t =>
          t.reg (sessAddr n k) = enabled (s.reg (sessAddr n k)) en v &&& sessMask k ∧
          (∀ b : Fin 4, fld (enabled (s.reg (sessAddr n k)) en v) (8 * b) 8 = fld (if bitAt en b then v else s.reg (sessAddr n k)) (8 * b) 8) ∧
          OnlyChanges s.leaveL1 t [sessAddr n k] [])) ∧
      (s.sessState n ≠ 3 → k.val = 0 → bitAt en 0 = true → (s.sessState n, fld v 0 8) ∈ [(0, 1), (1, 2), (1, 0), (2, 0), (4, 0)] →
        Runs (.sessionStateWrite n k en v) s (fun t =>
          t.sessState n = fld v 0 8 ∧ (fld v 0 8 = 2 → t.reg (sessAddr n 3) = s.die.sess.readySeq ∧ t.die.sess.readySeq = s.die.sess.readySeq + 1) ∧
          SameRegs s t (if fld v 0 8 = 2 then [sessAddr n 0, sessAddr n 3] else [sessAddr n 0]) ∧ SameStns s t [] ∧ t.lpddr = s.lpddr)) ∧
      (s.sessState n = 3 ∨ (k.val = 0 ∧ bitAt en 0 = true ∧ (s.sessState n, fld v 0 8) ∉ [(0, 1), (1, 2), (1, 0), (2, 0), (4, 0)]) →
        Runs (.sessionStateWrite n k en v) s (fun t =>
          t.reg 0x4F000C = satAdd (s.reg 0x4F000C) 1 ∧ SameRegs s t [0x4F000C] ∧ SameStns s t [] ∧ t.lpddr = s.lpddr ∧ t.die.sess = s.die.sess))) ∧
    (∀ v : Word, fld v 0 14 = n.val → fld v 14 2 = 1 → s.sessState n = 3 →
      Runs (.sessionCmdPark v) s (fun t =>
        n.val ∈ t.die.sess.park ∧ (∀ m ∈ s.die.sess.park, m ∈ t.die.sess.park) ∧ t.die.sess.berths = s.die.sess.berths ∧
        SameRegs s t [] ∧ SameStns s t [] ∧ t.lpddr = s.lpddr)) ∧
    (∀ v : Word, fld v 0 14 = n.val → fld v 14 2 ≠ 1 ∨ s.sessState n ≠ 3 →
      Runs (.sessionCmdPark v) s (fun t =>
        t.reg 0x4F000C = satAdd (s.reg 0x4F000C) 1 ∧ t.die.sess = s.die.sess ∧ SameRegs s t [0x4F000C] ∧ SameStns s t [] ∧ t.lpddr = s.lpddr))

/-- R279, R414: a job start while no loader has run puts the loader into the local store of every station and runs every signal box, and waits for them; once every station is STOPPED again, the next puts the job's stations in place, counts the steps from 0, clears LINK_ISEQ and moves the module to RUNNING. LPDDR5X, the fuses and the flash stay as that start found them. R232, R265: at an interlock other than the step interlock the job runner leaves every register, station and memory; at the step interlock of a plan that serves no sessions it counts the step on, and a ticket counter that alone is named for the step takes its VAL and LIMIT in a new epoch; the job's sleeping stations are asked to wake (R107); for a plan that serves sessions it also clears the requests to park. It acts once at an interlock. Which interlock is the step interlock comes from the plan (log entry 64). -/
def Obligations.JobsStartAndStep : Prop :=
  (∀ s : State, s.mayStartJob = true →
    (s.die.job.phase = 0 → s.plan.loader.length ≤ 0x10000 →
      Runs .jobStart s (fun t =>
        t.die.job.phase = 1 ∧
        (∀ i : Stn, (t.stn i).ctl.run ≠ .stopped ∧
          ∀ k (h : k < s.plan.loader.length), mget byte0 (t.stn i).sb.store k = s.plan.loader[k]))) ∧
    (s.die.job.phase = 1 → s.allStopped = false → exec .jobStart s = .next s) ∧
    (s.die.job.phase = 1 → s.allStopped = true →
      Runs .jobStart s (fun t =>
        t.die.job.phase = 2 ∧ t.die.job.step = 0 ∧ t.die.jobStarted = true ∧ t.die.jobStns = s.planStns ∧
        t.reg 0x80830 = 0 ∧ t.mstate = 6 ∧ (∀ i ∈ s.planStns, (t.stn i).ctl.run = .awake ∧ (t.stn i).sb.pc = 0) ∧
        t.lpddr = s.lpddr ∧ t.fuses = s.fuses ∧ t.flash = s.flash))) ∧
  (∀ (s : State) (ilk : Nat), s.postedIlk = some ilk → s.live = true → s.die.jobStarted = true → s.die.net.boundary = false →
    s.die.net.ilk.own = false → s.die.net.snap = none → s.die.net.roll = none →
    (ilk ≠ s.plan.stepIlk →
      Runs .stepBoundary s (fun t =>
        t.die.net = { s.die.net with boundary := true } ∧ t.die.job = s.die.job ∧ SameRegs s t [] ∧ SameStns s t [] ∧ t.lpddr = s.lpddr)) ∧
    (ilk = s.plan.stepIlk → s.plan.serving = false →
      Runs .stepBoundary s (fun t =>
        t.die.job.step = s.die.job.step + 1 ∧ t.die.net = { s.die.net with boundary := true } ∧
        (∀ (c : Fin 64) (v l : Word), s.plan.counters.getD (s.die.job.step + 1) [] = [(c.val, v, l)] →
          t.reg (tktBase c) = v ∧ t.reg (tktBase c + 4) = l ∧ t.reg (tktBase c + 8) = s.reg (tktBase c + 8) + 1 ∧
          SameRegs s t [tktBase c, tktBase c + 4, tktBase c + 8]) ∧
        (s.plan.counters.getD (s.die.job.step + 1) [] = [] → SameRegs s t []) ∧
        (∀ j : Stn, t.stn j = { s.stn j with ctl := { (s.stn j).ctl with wakeReq := (t.stn j).ctl.wakeReq } }) ∧
        (∀ j : Stn, (s.stn j).ctl.run ≠ .asleep → t.stn j = s.stn j) ∧ t.lpddr = s.lpddr)) ∧
    (ilk = s.plan.stepIlk → s.plan.serving = true →
      Runs .stepBoundary s (fun t =>
        t.die.job.step = s.die.job.step + 1 ∧ t.die.net = { s.die.net with boundary := true } ∧ t.die.sess.park = [] ∧
        (∀ j : Stn, (t.stn j).pm = (s.stn j).pm ∧ (t.stn j).slots = (s.stn j).slots ∧ (t.stn j).banks = (s.stn j).banks ∧
          (t.stn j).tokens = (s.stn j).tokens ∧ (t.stn j).iss = (s.stn j).iss))))

/-- R253, R254: a bank gets its exponent line and its fold line from its records, and its token becomes present at its station, or waits at the router of a sleeping one (R107); no other byte of LPDDR5X changes. The places are operands (log entry 57). -/
def Obligations.RefreshExponentsAreDerived : Prop :=
  ∀ (s : State) (b : Fin 32768) (recs : List Nat) (expLine fold : Nat) (tok : Byte), s.live = true →
    (expLine < fold ∨ fold + 5 ≤ expLine) →
    Runs (.exponentDerivation b recs expLine fold tok) s (fun t =>
      t.line expLine = (s.refreshExps recs).map (fun e => BitVec.ofNat 8 e) ∧
      t.memBytes (fold * 64) 320 = foldLine (s.refreshExps recs) ∧
      (∀ a, a / 64 ≠ expLine → (a / 64 < fold ∨ fold + 5 ≤ a / 64) → mget byte0 t.lpddr a = mget byte0 s.lpddr a) ∧
      ((s.stn (b.val / 256)).sleeps = false → bitAt (t.stn (b.val / 256)).tokens tok.toNat = true) ∧
      ((s.stn (b.val / 256)).sleeps = true → (s.stn (b.val / 256)).routerHeld.length < 128 →
        (t.stn (b.val / 256)).routerHeld = (s.stn (b.val / 256)).routerHeld ++ [⟨coreNode, b.val / 256, coreNode, 0, none, .token tok.toNat⟩]) ∧
      SameStns s t [b.val / 256] ∧ t.die.mesh.length ≤ s.die.mesh.length + 1)

/-- R140, R147, R216, R217, R220: a DISPATCH that no slip meets starts: its routing is recorded and it waits for as many acknowledgements as its map names queues, or completes when it names none; whatever it sends, platform memory, slots, banks and tokens stay, and every other station. One whose expert map names one queue of this module, open to its rank, sends as many vectors as the queue's share, each with its token and expert, and then its marker, with MORE when vectors are left; while the queue does not serve, nothing is sent. A slip aborts it. R140, R221: a GATHER that no slip meets starts, and leaves banks, slots and tokens and every other station; it writes the result at hand for its last place and completes, or completes at once when it has none to place. -/
def Obligations.DispatchSendsItsShare : Prop :=
  ∀ (s : State) (i : Stn) (o : Obs), s.live = true →
    (∀ (f : Flight) (sl : Slip), s.dispatchSlip i o.slip = some (f, sl) →
      Runs (.dispatch i o) s (fun t =>
        (∃ g, (t.stn i).flightOf f.seq = some g ∧ g.stage = .recover (if f.attempts = 0 then 1 else 4) ∧ g.why.code = 0x0102) ∧
        t.reg 0x6000C = s.reg 0x6000C + 1 ∧ (t.stn i).pm = (s.stn i).pm ∧ (t.stn i).slots = (s.stn i).slots ∧ SameStns s t [i.val] ∧ t.lpddr = s.lpddr)) ∧
    (s.dispatchSlip i o.slip = none →
      Runs (.dispatch i o) s (fun t =>
        (∀ f, s.headOf i .mover = some f → opc f.word = 0x40 → (t.stn i).flightOf f.seq =
          (if s.queuesOf f = [] then none else some { f with stage := .sent, acks := (s.queuesOf f).length, landed := 0 })) ∧
        (t.stn i).pm = (s.stn i).pm ∧ (t.stn i).slots = (s.stn i).slots ∧ (t.stn i).banks = (s.stn i).banks ∧ (t.stn i).tokens = (s.stn i).tokens ∧
        (t.stn i).iss.queue = (s.stn i).iss.queue ∧ SameRegs s t ((pageBase i + 0x150) :: obsRegs i) ∧ SameStns s t [i.val] ∧ t.lpddr = s.lpddr)) ∧
    (∀ (f : Flight) (q r : Nat) (d : DispRec), s.headOf i .mover = some f → opc f.word = 0x40 → s.dispatchSlip i o.slip = none → s.queuesOf f = [(none, q, r)] →
      (s.stn i).iss.flight.filter (fun g => decide (opc g.word = 0x40)) = [f] → (s.stn i).disp = [d] → d.seq = f.seq → d.sentTo = [] → d.part = [] →
      ((s.xq q).serves = true → ((s.stn i).known none q).round = some 1 → o.upto = none →
        let mine := (s.routesOf (s.stn i).pm f).filter (fun z => decide (z.mod = none) && decide (z.q = q))
        Runs (.dispatch i o) s (fun t =>
          (∃ vs, t.die.mesh = s.die.mesh ++ vs ++ [⟨i.val, syncHub, i.val, f.seq, none, .xqMark q r (min (s.xq q).share mine.length) (decide ((s.xq q).share < mine.length))⟩] ∧
            vs.length = min (s.xq q).share mine.length ∧
            ∀ g ∈ vs, g.src = i.val ∧ g.dst = syncHub ∧ g.txn = f.seq ∧ isVecOf q r g = true) ∧
          t.reg (pageBase i + 0x150) = (if (s.xq q).share < mine.length then satAdd (s.reg (pageBase i + 0x150)) (mine.length - (s.xq q).share) else s.reg (pageBase i + 0x150)))) ∧
      ((s.xq q).serves = false →
        Runs (.dispatch i o) s (fun t =>
          (t.stn i).flightOf f.seq = some { f with stage := .sent, acks := 1, landed := 0 } ∧ OnlyChanges s t (obsRegs i) [i.val]))) ∧
    (o.slip = none →
      Runs (.gather i o) s (fun t =>
        (∀ f, s.headOf i .mover = some f → opc f.word = 0x41 → ∀ g, (t.stn i).flightOf f.seq = some g → g.stage ≠ .issued ∨ (s.stn i).disp.find? (fun d => d.gather = some f.seq) = none) ∧
        (t.stn i).slots = (s.stn i).slots ∧ (t.stn i).banks = (s.stn i).banks ∧ (t.stn i).tokens = (s.stn i).tokens ∧
        (t.stn i).iss.queue = (s.stn i).iss.queue ∧ SameStns s t [i.val] ∧ t.lpddr = s.lpddr)) ∧
    (∀ (f : Flight) (d : DispRec), o.slip = none → (∀ g, s.headOf i .mover = some g → opc g.word ≠ 0x41) →
      (s.stn i).iss.flight.filter (fun g => decide (opc g.word = 0x41) && decide (g.stage = .sent)) = [f] → (s.stn i).flightOf f.seq = some f →
      (s.stn i).disp.find? (fun d => d.gather = some f.seq) = some d →
      (d.unplaced = [] → Runs (.gather i o) s (fun t => (t.stn i).flightOf f.seq = none ∧ (t.stn i).pm = (s.stn i).pm ∧ OnlyChanges s t [] [i.val])) ∧
      (∀ (z : Routed) (g : Flit) (rest : List Flit) (dt sc : List Byte), d.unplaced = [z] →
        takeFlit (fun g => awaited i d g && s.pathOpen g.src i) s.die.mesh = some (g, rest) → g.body = .xqRes z.q z.m z.j dt sc →
        dt.length = fld f.word 67 8 * 64 → (∀ e ∈ (s.stn i).disp, e.seq = d.seq → e = d) →
        Runs (.gather i o) s (fun t =>
          (t.stn i).pm = pmApply (s.stn i).pm (gatherWrites f.word z.m z.j (some (dt, sc))) ∧ (t.stn i).flightOf f.seq = none ∧
          t.die.mesh = rest ∧ SameRegs s t [])))

/-- R220, R221, R222, R299: a queue that serves and is not busy takes a marker of an expected rank, when no link on its way is stopped, with the vectors that stand in the mesh for it, in order, and acknowledges one without MORE; a vector of another format or length is refused, and the queue keeps what it had; a round whose markers all count 0 sends nothing and closes the dispatch. A round with every marker in goes to its owner as mesh writes with the token TIN behind them, leaves the queue busy, and from the second on is counted; a queue that is busy, not full or without vectors starts none. Once TOUT is present and the ranks served have issued their GATHERs, the token is removed, the results leave, and the queue opens its next round for the ranks whose markers bear MORE, or its next dispatch when none does; for a sleeping owner a wake is requested first; without the token nothing happens. A second marker replacing the first is the model's reading (log entry 51). -/
def Obligations.ExpertQueuesRunRounds : Prop :=
  ∀ (s : State) (q : Fin 64), s.live = true → (s.xq q).serves = true →
    (∀ (rank : Nat) (f : Flit) (rest : List Flit), (s.xq q).busy = false → rank ∈ (s.xq q).expected → takeFlit (isMarkOf q rank) s.die.mesh = some (f, rest) →
      (s.pathOpen f.src syncHub = true → (∀ g ∈ rest, isVecOf q rank g = true → (s.xq q).takes g = true) →
        Runs (.xqMarker q rank) s (fun t =>
          SameRegs s t [] ∧ t.lpddr = s.lpddr ∧ (∀ j, (t.stn j).pm = (s.stn j).pm ∧ (t.stn j).slots = (s.stn j).slots ∧ (t.stn j).banks = (s.stn j).banks ∧ (t.stn j).tokens = (s.stn j).tokens ∧ (t.stn j).iss.queue = (s.stn j).iss.queue) ∧
          (0 < (markOf f).1 →
            (t.xq q).marks = (s.xq q).marks.filter (fun k => decide (k.1 ≠ rank)) ++ [(rank, (markOf f).1, (markOf f).2)] ∧
            (t.xq q).vecs = (s.xq q).vecs.filter (fun v => decide (v.1 ≠ rank)) ++ (rest.filter (isVecOf q rank)).flatMap vecOf ∧
            (t.xq q).round = (s.xq q).round ∧
            (f.mod = none → t.die.mesh = rest.filter (fun g => !isVecOf q rank g) ++ (if (markOf f).2 then [] else [⟨syncHub, f.req, f.req, f.txn, none, .ack⟩])) ∧
            SameStns s t [f.req]) ∧
          ((markOf f).1 = 0 → (s.xq q).expected = [rank] → (s.xq q).marks = [] →
            (t.xq q).marks = [] ∧ (t.xq q).vecs = [] ∧ (t.xq q).round = 1 ∧ (t.xq q).disp = (s.xq q).disp + 1 ∧ (t.xq q).busy = false))) ∧
      (∀ (g : Flit) (h : Flight), s.pathOpen f.src syncHub = true → g ∈ rest → isVecOf q rank g = true → (s.xq q).takes g = false →
        f.mod = none → (s.stn f.req).flightOf f.txn = some h →
        Runs (.xqMarker q rank) s (fun t =>
          t.xq q = s.xq q ∧ (t.stn f.req).flightOf f.txn = none ∧ t.reg 0x6000C = s.reg 0x6000C + 1 ∧ t.lpddr = s.lpddr)) ∧
      (s.pathOpen f.src syncHub = false → exec (.xqMarker q rank) s = .next s)) ∧
    (∀ rank : Nat, (s.xq q).busy = true ∨ rank ∉ (s.xq q).expected ∨ takeFlit (isMarkOf q rank) s.die.mesh = none → exec (.xqMarker q rank) s = .next s) ∧
    ((s.xq q).busy = false → (s.xq q).full = true → (∃ k ∈ (s.xq q).marks, 0 < k.2.1) →
      Runs (.xqRoundStart q) s (fun t =>
        (t.xq q).busy = true ∧ (t.xq q).marks = (s.xq q).marks ∧ (t.xq q).served = (s.xq q).roundWrites.2 ∧ (t.xq q).round = (s.xq q).round ∧
        t.die.mesh = s.die.mesh ++ wrFlits syncHub (s.xq q).owner q (s.xq q).roundWrites.1 ++ [⟨syncHub, (s.xq q).owner, syncHub, q.val, none, .token (fld ((s.xq q).word 1) 16 8)⟩] ∧
        t.reg (0x20601C + 0x40 * q.val) = (if 1 < (s.xq q).round then satAdd (s.reg (0x20601C + 0x40 * q.val)) 1 else s.reg (0x20601C + 0x40 * q.val)) ∧
        SameRegs s t [0x20601C + 0x40 * q.val] ∧ SameStns s t [] ∧ t.lpddr = s.lpddr)) ∧
    ((s.xq q).busy = true ∨ (s.xq q).full = false ∨ (∀ k ∈ (s.xq q).marks, k.2.1 = 0) → exec (.xqRoundStart q) s = .next s) ∧
    ((s.xq q).busy = true → bitAt (s.stn (s.xq q).owner).tokens (fld ((s.xq q).word 1) 24 8) = true → (s.xq q).awaitedBy = true →
      ((s.stn (s.xq q).owner).sleeps = true →
        Runs (.xqTout q) s (fun t =>
          t.xq q = s.xq q ∧ (t.stn (s.xq q).owner).tokens = (s.stn (s.xq q).owner).tokens ∧ t.die.mesh = s.die.mesh ∧
          ((s.stn (s.xq q).owner).ctl.run = .asleep → (s.stn (s.xq q).owner).ctl.admitted = false → (t.stn (s.xq q).owner).ctl.wakeReq = true) ∧
          SameRegs s t [] ∧ SameStns s t [(s.xq q).owner] ∧ t.lpddr = s.lpddr)) ∧
      ((s.stn (s.xq q).owner).sleeps = false →
        Runs (.xqTout q) s (fun t =>
          (t.stn (s.xq q).owner).tokens = putBit (s.stn (s.xq q).owner).tokens (fld ((s.xq q).word 1) 24 8) false ∧
          (t.xq q).busy = false ∧ (t.xq q).marks = [] ∧
          ((s.xq q).marks.filter (fun k => k.2.2) = [] → (t.xq q).round = 1 ∧ (t.xq q).disp = (s.xq q).disp + 1) ∧
          ((s.xq q).marks.filter (fun k => k.2.2) ≠ [] → (t.xq q).round = (s.xq q).round + 1 ∧ (t.xq q).expect = ((s.xq q).marks.filter (fun k => k.2.2)).map (·.1)) ∧
          ((∀ v ∈ (s.xq q).served, (mget (fun _ => ((0 : Nat), (none : Option Nat))) (s.xq q).srcs v.2.1).2 = none) →
            ∃ rs, t.die.mesh = s.die.mesh ++ rs ∧ rs.length = (s.xq q).served.length) ∧
          (∀ j, j ≠ (s.xq q).owner → t.stn j = { s.stn j with xopen := (t.stn j).xopen }) ∧
          t.stn (s.xq q).owner = { s.stn (s.xq q).owner with tokens := (t.stn (s.xq q).owner).tokens, xopen := (t.stn (s.xq q).owner).xopen } ∧
          SameRegs s t [] ∧ t.lpddr = s.lpddr))) ∧
    ((s.xq q).busy = false ∨ bitAt (s.stn (s.xq q).owner).tokens (fld ((s.xq q).word 1) 24 8) = false ∨ (s.xq q).awaitedBy = false → exec (.xqTout q) s = .next s)

/-- R298, R299, R464: a flit that fails its CRC on a mesh link that exists and is not stopped is sent again and counted, up to the seventh successive failure; the eighth stops the link, which then passes no flit of a route that crosses it, and logs a record, and within 24 h of the link's last retraining it retires the module; retraining a stopped link of a module that is not retired lets its flits go on and notes the tick. At a link that does not exist nothing happens, nor while the module has no power or halts, nor a failure at a stopped link, nor the retraining of one that is not stopped or of a retired module's. -/
def Obligations.MeshLinksRetryAndStop : Prop :=
  ∀ (s : State) (r : Fin 176) (d : Fin 4),
    (s.powered = true → s.supState = 0 → linkExists r d = true →
      (∀ again : Bool, (s.meshLink r d).stopped = false →
        ((if again then (s.meshLink r d).fails + 1 else 1) < 8 →
          Runs (.flitCrcRetransmit r d again) s (fun t =>
            t.meshLink r d = { s.meshLink r d with fails := if again then (s.meshLink r d).fails + 1 else 1 } ∧
            t.reg 0x200010 = satAdd (s.reg 0x200010) 1 ∧ t.die.mesh = s.die.mesh ∧ SameRegs s t [0x200010] ∧ SameStns s t [] ∧ t.lpddr = s.lpddr)) ∧
        (again = true → 7 ≤ (s.meshLink r d).fails →
          Runs (.flitCrcRetransmit r d again) s (fun t =>
            (t.meshLink r d).stopped = true ∧ (∀ a b : Nat, (r.val, d.val) ∈ route a b → t.pathOpen a b = false) ∧
            (∀ n : Nat, (s.meshLink r d).retrained = some n → s.uptime - n < day → t.isRetired = true) ∧
            ((∀ n : Nat, (s.meshLink r d).retrained = some n → day ≤ s.uptime - n) →
              t.reg 0x6000C = s.reg 0x6000C + 1 ∧ t.reg 0x200010 = s.reg 0x200010 ∧ t.die.mesh = s.die.mesh ∧ SameStns s t []) ∧
            t.lpddr = s.lpddr))) ∧
      ((s.meshLink r d).stopped = true → s.isRetired = false →
        Runs (.meshLinkRetrain r d) s (fun t =>
          (t.meshLink r d).stopped = false ∧ (t.meshLink r d).retrained = some s.uptime ∧ t.die.mesh = s.die.mesh ∧
          SameRegs s t [] ∧ SameStns s t [] ∧ t.lpddr = s.lpddr))) ∧
    (∀ again : Bool, linkExists r d = false ∨ s.powered = false ∨ s.supState ≠ 0 ∨ (s.meshLink r d).stopped = true → exec (.flitCrcRetransmit r d again) s = .next s) ∧
    (linkExists r d = false ∨ s.powered = false ∨ s.supState ≠ 0 ∨ (s.meshLink r d).stopped = false ∨ s.isRetired = true → exec (.meshLinkRetrain r d) s = .next s)

/-- R283, R288 to R291, R295: a controller serves a request for a line of the fitted capacity, and ends the power-down of its channel: a read changes no byte that it finds good, counts corrections on the link and in an inline-ECC array, and of an uncorrectable line leaves the line so, counts and records it; an error in an array without inline ECC leaves arbitrary bytes in that line alone (log entry 80) and no counter; a write of a whole line stores it and leaves it good; a write of part of a line stores those bytes, and under inline ECC reads the line first, of which an uncorrectable one stays so. Bytes that do not fit the line are not written. No other byte changes. In self-refresh and retraining the request waits; with the die off nothing takes it. A line beyond the fitted capacity does not exist, and a request for one stops. A patrol read does as a read does, in the regions under inline ECC alone. -/
def Obligations.ControllersServeRequests : Prop :=
  ∀ (s : State) (line : Nat) (lce ce ue : Bool),
    let c := 0x100000 + 0x1000 * ctrlOf line
    (∀ w, s.capBytes ≤ line * 64 → exec (.lpddrRequest line w lce ce ue) s = .fault .noSuchLine) ∧
    (line * 64 < s.capBytes → s.memUp = true →
      (∀ w, Runs (.lpddrRequest line w lce ce ue) s (fun t =>
        bitAt t.die.pdown (channelOf line) = false ∧ (∀ k, k ≠ channelOf line → bitAt t.die.pdown k = bitAt s.die.pdown k) ∧
        t.reg (c + 0x10) = (if lce then satAdd (s.reg (c + 0x10)) 1 else s.reg (c + 0x10)) ∧
        (∀ a, a / 64 ≠ line → mget byte0 t.lpddr a = mget byte0 s.lpddr a) ∧ (∀ l, l ≠ line → (l ∈ t.poison ↔ l ∈ s.poison)) ∧
        SameStns s t [] ∧ t.die.mesh = s.die.mesh ∧ t.images = s.images)) ∧
      (s.lineBad line ue = false → ue = false →
        Runs (.lpddrRequest line none lce ce ue) s (fun t =>
          t.lpddr = s.lpddr ∧ t.poison = s.poison ∧
          t.reg (c + 0x14) = (if ce && s.inEcc line then satAdd (s.reg (c + 0x14)) 1 else s.reg (c + 0x14)) ∧
          SameRegs s t [c + 0x10, c + 0x14])) ∧
      (s.inEcc line = false → ue = true →
        Runs (.lpddrRequest line none lce ce ue) s (fun t => t.free = s.free + 1 ∧ t.poison = s.poison ∧ SameRegs s t [c + 0x10])) ∧
      (s.lineBad line ue = true →
        Runs (.lpddrRequest line none lce ce ue) s (fun t =>
          t.lpddr = s.lpddr ∧ line ∈ t.poison ∧ t.reg (c + 0x18) = satAdd (s.reg (c + 0x18)) 1 ∧ t.reg 0x6000C = s.reg 0x6000C + 1)) ∧
      (∀ bs : List Byte, 64 ≤ bs.length →
        Runs (.lpddrRequest line (some (0, bs)) lce ce ue) s (fun t =>
          t.rdBytesAt (line * 64) 64 = bs.take 64 ∧ line ∉ t.poison ∧ SameRegs s t [c + 0x10])) ∧
      (∀ (off : Fin 64) (bs : List Byte), off.val ≠ 0 ∨ bs.length < 64 →
        Runs (.lpddrRequest line (some (off, bs)) lce ce ue) s (fun t =>
          t.rdBytesAt (line * 64 + off) (min bs.length (64 - off)) = bs.take (64 - off) ∧
          (∀ a, a < line * 64 + off ∨ line * 64 + off + bs.length ≤ a → mget byte0 t.lpddr a = mget byte0 s.lpddr a) ∧
          (s.inEcc line = false → t.poison = s.poison ∧ SameRegs s t [c + 0x10]) ∧
          (s.inEcc line = true → s.lineBad line ue = false → t.poison = s.poison ∧
            t.reg (c + 0x14) = (if ce then satAdd (s.reg (c + 0x14)) 1 else s.reg (c + 0x14)) ∧ SameRegs s t [c + 0x10, c + 0x14]) ∧
          (s.lineBad line ue = true → line ∈ t.poison ∧ t.reg (c + 0x18) = satAdd (s.reg (c + 0x18)) 1 ∧ t.reg 0x6000C = s.reg 0x6000C + 1)))) ∧
    (∀ w, line * 64 < s.capBytes → s.memUp = false →
      exec (.lpddrRequest line w lce ce ue) s =
        .next (if s.powered then { s with memWait := s.memWait ++ [⟨line, w.map (fun p => (p.1.val, p.2)), lce, ce, ue⟩] } else s)) ∧
    (s.memUp = true → s.patrolled line = true →
      (s.lineBad line ue = false →
        Runs (.patrolScrub line ce ue) s (fun t =>
          t.lpddr = s.lpddr ∧ t.poison = s.poison ∧ t.reg (c + 0x14) = (if ce then satAdd (s.reg (c + 0x14)) 1 else s.reg (c + 0x14)) ∧
          SameRegs s t [c + 0x14] ∧ SameStns s t [])) ∧
      (s.lineBad line ue = true →
        Runs (.patrolScrub line ce ue) s (fun t =>
          t.lpddr = s.lpddr ∧ line ∈ t.poison ∧ t.reg (c + 0x18) = satAdd (s.reg (c + 0x18)) 1 ∧ t.reg 0x6000C = s.reg 0x6000C + 1 ∧ SameStns s t []))) ∧
    (s.memUp = false ∨ s.patrolled line = false → exec (.patrolScrub line ce ue) s = .next s)

/-- R282, R283, R464: retraining a channel is counted; one that comes back at 6,400 MT/s is marked slow with a record the first time, and one that is lost clears its bit and retires the module that is not retired already; MR4 gives a controller its refresh rate, refresh management is counted, an idle channel enters power-down, and a per-bank refresh changes nothing that the module holds. While the controllers serve no request none of these happens. -/
def Obligations.ControllersKeepChannels : Prop :=
  ∀ (s : State) (c : Fin 20) (j : Fin 4),
    (s.memUp = true →
      Runs (.channelRetrain c j 0) s (fun t =>
        t.reg (0x100020 + 0x1000 * c.val) = satAdd (s.reg (0x100020 + 0x1000 * c.val)) 1 ∧ OnlyChanges s t [0x100020 + 0x1000 * c.val] []) ∧
      (bitAt (s.reg (0x100000 + 0x1000 * c.val)) (4 + j) = false →
        Runs (.channelRetrain c j 1) s (fun t =>
          bitAt (t.reg (0x100000 + 0x1000 * c.val)) (4 + j) = true ∧ t.reg 0x6000C = s.reg 0x6000C + 1 ∧
          t.reg (0x100020 + 0x1000 * c.val) = satAdd (s.reg (0x100020 + 0x1000 * c.val)) 1 ∧ SameStns s t [] ∧ t.lpddr = s.lpddr)) ∧
      (bitAt (s.reg (0x100000 + 0x1000 * c.val)) (4 + j) = true →
        Runs (.channelRetrain c j 1) s (fun t =>
          t.reg (0x100020 + 0x1000 * c.val) = satAdd (s.reg (0x100020 + 0x1000 * c.val)) 1 ∧ OnlyChanges s t [0x100020 + 0x1000 * c.val] [])) ∧
      Runs (.channelRetrain c j 2) s (fun t =>
        bitAt (t.reg (0x100000 + 0x1000 * c.val)) j = false ∧ t.isRetired = true ∧ t.lpddr = s.lpddr ∧ t.fuses = s.fuses ∧
        t.reg (0x100020 + 0x1000 * c.val) = satAdd (s.reg (0x100020 + 0x1000 * c.val)) 1 ∧
        (s.isRetired = true → t.reg 0x6000C = s.reg 0x6000C + 1 ∧ SameStns s t [] ∧ t.die.mesh = s.die.mesh)) ∧
      (∀ rate : Fin 32, Runs (.mr4Read c rate) s (fun t =>
        mget (fun _ => (0 : Nat)) t.die.refresh c = rate.val ∧ (∀ k, k ≠ c.val → mget (fun _ => (0 : Nat)) t.die.refresh k = mget (fun _ => (0 : Nat)) s.die.refresh k) ∧
        SameRegs s t [] ∧ SameStns s t [] ∧ t.lpddr = s.lpddr)) ∧
      Runs (.rfm c) s (fun t =>
        t.reg (0x10001C + 0x1000 * c.val) = satAdd (s.reg (0x10001C + 0x1000 * c.val)) 1 ∧ OnlyChanges s t [0x10001C + 0x1000 * c.val] []) ∧
      Runs (.powerDownEntry c j) s (fun t =>
        bitAt t.die.pdown (4 * c.val + j.val) = true ∧ (∀ k, k ≠ 4 * c.val + j.val → bitAt t.die.pdown k = bitAt s.die.pdown k) ∧
        SameRegs s t [] ∧ SameStns s t [] ∧ t.lpddr = s.lpddr)) ∧
    (s.memUp = false → ∀ (o : Fin 3) (rate : Fin 32),
      exec (.channelRetrain c j o) s = .next s ∧ exec (.mr4Read c rate) s = .next s ∧ exec (.rfm c) s = .next s ∧ exec (.powerDownEntry c j) s = .next s) ∧
    exec (.perBankRefresh c j) s = .next s

/-- R292 to R294, R501, R8: an uncorrectable golden line behind the scale item of its slot, of reserved and descriptor bytes, is rebuilt alone, and any other with its whole slot from the macro, once the loaders have run and where that macro has no recorded check fault (log entry 31); where none has the bank, the module takes step 5; LOAD sets VALID in READY and does nothing elsewhere; a region register takes the first write that keeps the regions apart, refuses with a record one that does not, and keeps its value against any later write. -/
def Obligations.GoldenCopyAndRegions : Prop :=
  ∀ s : State,
    (∀ line : Nat, s.live = true → s.region (line * 64) = .golden → line ∈ s.poison →
      let slot := (line - s.goldenLine) / 80
      let j := (line - s.goldenLine) % 80
      let bs := slotBytes ((s.stn (slot / 256)).bank (slot / 4 % 64) (slot % 4)) (s.planDesc slot)
      (s.itemEnd slot ((s.stn (slot / 256)).bank (slot / 4 % 64) (slot % 4)) ≤ j → Runs (.goldenRebuild line) s (fun t =>
        t.line line = (bs.drop (64 * j)).take 64 ∧ line ∉ t.poison ∧ (∀ a, a / 64 ≠ line → mget byte0 t.lpddr a = mget byte0 s.lpddr a) ∧
        SameRegs s t [] ∧ SameStns s t [])) ∧
      (j < s.itemEnd slot ((s.stn (slot / 256)).bank (slot / 4 % 64) (slot % 4)) → s.macrosLoaded = true → s.suspect (slot / 256) (slot / 4 % 64) = false → Runs (.goldenRebuild line) s (fun t =>
        t.memBytes ((line - j) * 64) 5120 = bs ∧ line ∉ t.poison ∧
        (∀ a, a / 64 < line - j ∨ line - j + 80 ≤ a / 64 → mget byte0 t.lpddr a = mget byte0 s.lpddr a) ∧ SameRegs s t [] ∧ SameStns s t [])) ∧
      (j < s.itemEnd slot ((s.stn (slot / 256)).bank (slot / 4 % 64) (slot % 4)) → s.macrosLoaded = false ∨ s.suspect (slot / 256) (slot / 4 % 64) = true → Runs (.goldenRebuild line) s (fun t =>
        t.reg 0x60030 = satAdd (s.reg 0x60030) 1 ∧ t.reg 0x80834 = BitVec.ofNat 32 ((s.lce + 1) % 65536) ∧
        (∀ i : Stn, (t.stn i).ctl.run = .stopped) ∧ t.lpddr = s.lpddr))) ∧
    (∀ line : Nat, s.live = false ∨ s.region (line * 64) ≠ .golden ∨ line ∉ s.poison → exec (.goldenRebuild line) s = .next s) ∧
    (s.supState = 0 → s.writeServed 0x1001C = true → ∀ v : Word,
      (bitAt v 1 = true → s.mstate = 5 →
        Runs (.goldenLoad v) s (fun t => t.reg 0x1001C = 1 ∧ SameRegs s t [0x1001C] ∧ SameStns s t [] ∧ t.lpddr = s.lpddr)) ∧
      (bitAt v 1 = false ∨ s.mstate ≠ 5 → Runs (.goldenLoad v) s (fun t => OnlyChanges s.leaveL1 t [] []))) ∧
    (s.supState = 0 → s.writeServed 0x100804 = true → ∀ (k : Fin 9) (v : Word),
      let a := if k.val = 0 then 0x100804 else 0x10080C + 4 * k.val
      let w := v &&& (if k.val = 0 then 0x7F else 0x3FF)
      (a ∉ s.die.rwo → s.memRefused a w = false → Runs (.memConfigWrite k v) s (fun t =>
        t.reg a = w ∧ a ∈ t.die.rwo ∧ SameRegs s t [a] ∧ SameStns s t [] ∧ t.lpddr = s.lpddr)) ∧
      (a ∉ s.die.rwo → s.memRefused a w = true → Runs (.memConfigWrite k v) s (fun t =>
        t.reg a = s.reg a ∧ t.die.rwo = s.die.rwo ∧ t.reg 0x6000C = s.reg 0x6000C + 1 ∧ SameStns s t [] ∧ t.lpddr = s.lpddr)) ∧
      (a ∈ s.die.rwo → Runs (.memConfigWrite k v) s (fun t => OnlyChanges s.leaveL1 t [] [])))

/-- R316 to R318, R322, R324, R326: at a port that is up, a frame that fails its CRC, or bears a reserved FTYPE, CLASS or NLINES, is discarded and refused with a NAK, its codewords counted; the eighth failure in succession of the awaited frame fails the port. The awaited frame, when it ends at this module, gives its flits to the mesh at the port's edge node, under the module of its requester, and moves the sequence on; one for another module goes to the port of its route. A frame that is not the awaited one moves nothing: one received before is acknowledged again, a later one shows a gap and is refused once. A NAK sends every kept frame after the acknowledged one again and counts each; the eighth NAK in succession for one frame fails the port. In a halt the port takes acknowledgements only (log entry 54); without power, before LINKS, in hold and in resume, and at a port that is not up, a frame changes nothing. -/
def Obligations.PortsReceiveFrames : Prop :=
  ∀ (s : State) (p : Fin 12) (good : Bool) (f : Frame) (ce ue : Nat),
    let counted (t : State) : Prop := t.reg (portBase p + 0x10) = satAdd (s.reg (portBase p + 0x10)) ce ∧ t.reg (portBase p + 0x14) = satAdd (s.reg (portBase p + 0x14)) ue
    let kept (t : State) : Prop := t.die.mesh = s.die.mesh ∧ (t.port p).rxLast = (s.port p).rxLast ∧ SameRegs s t [portBase p + 0x10, portBase p + 0x14] ∧ SameStns s t [] ∧ t.lpddr = s.lpddr
    (s.powered = true → 4 ≤ s.mstate → s.supState ≤ 1 → s.portUp p = true →
      ((good && f.legal) = false →
        let n := if s.isAwaited p f then (s.port p).fails + 1 else (s.port p).fails
        (n < 8 → Runs (.frameReceive p good ce ue f) s (fun t =>
          t.port p = { s.port p with fails := n, dropping := true } ∧
          t.out = s.out ++ [.frame p ⟨4, 2, 0, 0, (s.port p).rxLast, true, fld (s.reg (portBase p + 8)) 0 14, s.modid, 0, 0, none, none, .linkctl none⟩] ∧
          counted t ∧ kept t)) ∧
        (8 ≤ n → Runs (.frameReceive p good ce ue f) s (fun t => t.portState p = 3 ∧ t.lpddr = s.lpddr))) ∧
      (good = true → f.legal = true → f.nak = false →
        (∀ fs : List Flit, s.linked = true → s.isAwaited p f = true → f.dmod = s.modid → f.orig = none → f.body = .data fs →
          (∀ g ∈ fs, (∀ q r sh vo, g.body ≠ .xqOpen q r sh vo) ∧ (∀ q r, g.body ≠ .xqWant q r) ∧ ∀ q, g.body ≠ .xqRefuse q) →
          Runs (.frameReceive p good ce ue f) s (fun t =>
            t.die.mesh = s.die.mesh ++ fs.map (fun g => { g with src := 128 + portEdge p, mod := some f.smod }) ∧
            (t.port p).rxLast = f.seq ∧ (t.port p).fails = 0 ∧ (t.port p).dropping = false ∧ counted t ∧
            SameRegs s t [portBase p + 0x10, portBase p + 0x14] ∧ SameStns s t [] ∧ t.lpddr = s.lpddr)) ∧
        (∀ k : Nat, s.linked = true → s.isAwaited p f = true → f.dmod ≠ s.modid → f.orig = none → (∀ m, f.body ≠ .linkctl m) → s.exitPort f.dmod f.pick = some k →
          Runs (.frameReceive p good ce ue f) s (fun t =>
            (∃ g, (g ∈ (t.port k).sent ∨ ∃ w ∈ (t.port k).wait, w.frame = g) ∧ g.body = f.body ∧ g.dmod = f.dmod ∧ g.smod = f.smod ∧ g.cls = f.cls) ∧
            (t.port p).rxLast = f.seq ∧ (t.port p).fails = 0 ∧ t.die.mesh = s.die.mesh ∧ counted t ∧
            SameRegs s t [portBase p + 0x10, portBase p + 0x14] ∧ SameStns s t [] ∧ t.lpddr = s.lpddr)) ∧
        (∀ r : Nat, s.linked = true → s.isAwaited p f = true → f.orig = some r → notAfter (s.port (sibling p)).rxLast r = true → (∀ m, f.body ≠ .linkctl m) →
          Runs (.frameReceive p good ce ue f) s (fun t =>
            (t.port p).rxLast = f.seq ∧ t.die.mesh = s.die.mesh ∧ counted t ∧
            SameRegs s t [portBase p + 0x10, portBase p + 0x14] ∧ SameStns s t [] ∧ t.lpddr = s.lpddr)) ∧
        (s.linked = false ∨ (∃ m, f.body = .linkctl m) ∨ s.isAwaited p f = false ∧ (s.port p).fails < 8 →
          Runs (.frameReceive p good ce ue f) s (fun t =>
            counted t ∧ kept t ∧ (t.port p).fails = (s.port p).fails ∧ (t.port p).sent.length ≤ (s.port p).sent.length + (s.port p).wait.length ∧
            (s.linked = true → (∀ m, f.body ≠ .linkctl m) → notAfter (s.port p).rxLast f.seq = false → (t.port p).dropping = true)))) ∧
      (∀ m, good = true → f.legal = true → f.nak = true → f.body = .linkctl m →
        let left := ackedAway f.ackseq (s.port p).sent
        let n := if left.length = (s.port p).sent.length then (s.port p).naks + 1 else 1
        (n < 8 → Runs (.frameReceive p good ce ue f) s (fun t =>
          (t.port p).sent = left ∧ (t.port p).naks = n ∧ t.reg (portBase p + 0x18) = satAdd (s.reg (portBase p + 0x18)) left.length ∧
          t.out = s.out ++ left.map (fun g => .frame p { g with ackseq := (s.port p).rxLast }) ∧ t.die.mesh = s.die.mesh ∧ counted t ∧
          SameRegs s t [portBase p + 0x10, portBase p + 0x14, portBase p + 0x18] ∧ SameStns s t [] ∧ t.lpddr = s.lpddr)) ∧
        (8 ≤ n → Runs (.frameReceive p good ce ue f) s (fun t => t.portState p = 3 ∧ t.lpddr = s.lpddr)))) ∧
    (s.powered = false ∨ s.mstate < 4 ∨ 1 < s.supState ∨ s.portUp p = false → exec (.frameReceive p good ce ue f) s = .next s)

/-- R319, R321, R322, R344, R465: a used port in training comes up with the neighbour that the torus requires, its identity and lanes in its registers, goes down with a record on any other neighbour, and fails when no half of its lanes works; one that trains, or went down on its neighbour's identity, fails when its time is out; an active lane that fails leaves the other half in service, or fails the port when that half is bad too; EN 0 holds a port down, EN 1 and RETRAIN begin its training, and RETRAIN without EN begins none. A port that leaves service with its sibling up leaves it the frames that it kept or had waiting. At a port that is not in the state for it none of these events changes anything. -/
def Obligations.PortsTrainAndFail : Prop :=
  ∀ (s : State) (p : Fin 12),
    (s.linked = true → s.portUsed p = true → s.portState p = 1 →
      (∀ (bad : BitVec 4) (pm pp : Nat), lanesFor bad = 0 →
        Runs (.portTraining p bad pm pp) s (fun t => t.portState p = 3 ∧ t.fuses = s.fuses ∧ t.lpddr = s.lpddr)) ∧
      (∀ (bad : BitVec 4) (pm pp : Nat), lanesFor bad ≠ 0 → s.wantedPeer p = (pm, pp) →
        Runs (.portTraining p bad pm pp) s (fun t =>
          t.portState p = 2 ∧ t.reg (portBase p + 8) = BitVec.ofNat 32 (pm % 2 ^ 14 + pp % 16 * 2 ^ 14 + 2 ^ 18) ∧
          fld (t.reg (portBase p)) 2 4 = (lanesFor bad).toNat ∧ bitAt (t.reg (portBase p)) 7 = false ∧ SameStns s t [] ∧ t.lpddr = s.lpddr)) ∧
      (∀ (bad : BitVec 4) (pm pp : Nat), lanesFor bad ≠ 0 → s.wantedPeer p ≠ (pm, pp) →
        Runs (.portTraining p bad pm pp) s (fun t =>
          t.portState p = 0 ∧ bitAt (t.reg (portBase p)) 7 = true ∧ t.reg 0x6000C = s.reg 0x6000C + 1 ∧ SameStns s t [] ∧ t.lpddr = s.lpddr))) ∧
    (s.linked = true → s.portUsed p = true → s.inTraining p = true →
      Runs (.trainingTimeout p) s (fun t => t.portState p = 3 ∧ t.fuses = s.fuses ∧ t.lpddr = s.lpddr)) ∧
    (s.linked = false ∨ s.portUsed p = false ∨ s.portState p ≠ 1 → ∀ bad pm pp, exec (.portTraining p bad pm pp) s = .next s) ∧
    (s.linked = false ∨ s.portUsed p = false ∨ s.inTraining p = false → exec (.trainingTimeout p) s = .next s) ∧
    (∀ lane : Fin 4,
      (s.linked = true → s.portUp p = true → bitAt (s.reg (portBase p)) (2 + lane) = true →
        (lanesFor (putBit (s.port p).badLanes lane true) ≠ 0 →
          Runs (.laneFail p lane) s (fun t =>
            t.portState p = 2 ∧ fld (t.reg (portBase p)) 2 4 = (lanesFor (putBit (s.port p).badLanes lane true)).toNat ∧
            t.reg (portBase p + 0x1C) = satAdd (s.reg (portBase p + 0x1C)) 1 ∧ t.reg 0x6000C = s.reg 0x6000C + 1 ∧
            t.die.mesh = s.die.mesh ∧ SameStns s t [] ∧ t.lpddr = s.lpddr)) ∧
        (lanesFor (putBit (s.port p).badLanes lane true) = 0 →
          Runs (.laneFail p lane) s (fun t => t.portState p = 3 ∧ t.lpddr = s.lpddr ∧
            (s.portUp (sibling p) = true → (t.port p).sent = [] ∧ (t.port p).wait = [] ∧ bitAt (t.reg (portBase p)) 6 = true ∧
              t.reg (portBase p + 0x1C) = satAdd (s.reg (portBase p + 0x1C)) 1 ∧ t.reg 0x6000C = s.reg 0x6000C + 1 ∧ SameStns s t [] ∧
              ((t.port (sibling p)).sent.length + (t.port (sibling p)).wait.length =
                (s.port (sibling p)).sent.length + (s.port (sibling p)).wait.length + (s.port p).sent.length + (s.port p).wait.length))))) ∧
      (s.linked = false ∨ s.portUp p = false ∨ bitAt (s.reg (portBase p)) (2 + lane) = false → exec (.laneFail p lane) s = .next s)) ∧
    (∀ v : Word, s.supState = 0 → s.writeServed (portBase p + 4) = true →
      (s.portEn p = true → bitAt v 0 = false →
        Runs (.linkEnWrite p v) s (fun t => t.portState p = 0 ∧ t.portEn p = false ∧ t.lpddr = s.lpddr)) ∧
      (s.portEn p = false → bitAt v 0 = true → s.portUsed p = true →
        Runs (.linkEnWrite p v) s (fun t =>
          t.portState p = 1 ∧ t.portEn p = true ∧ SameRegs s t [portBase p, portBase p + 4] ∧ SameStns s t [] ∧ t.lpddr = s.lpddr)) ∧
      (s.portEn p = bitAt v 0 → bitAt v 1 = false ∨ bitAt v 0 = false ∨ s.portUsed p = false →
        Runs (.linkEnWrite p v) s (fun t => t.reg (portBase p + 4) = v &&& 1 ∧ OnlyChanges s.leaveL1 t [portBase p + 4] [])) ∧
      (s.portEn p = true → bitAt v 0 = true → s.portUsed p = true →
        Runs (.retrain p v) s (fun t =>
          t.portState p = 1 ∧ t.portEn p = true ∧ SameRegs s t [portBase p, portBase p + 4] ∧ SameStns s t [] ∧ t.lpddr = s.lpddr)) ∧
      (s.portEn p = bitAt v 0 → bitAt v 0 = false ∨ s.portUsed p = false →
        Runs (.retrain p v) s (fun t => t.reg (portBase p + 4) = v &&& 1 ∧ OnlyChanges s.leaveL1 t [portBase p + 4] [])))

/-- R327 to R330, R340, R465: once every station of the job waits at a domain interlock and the job runner has acted, the module arrives with its reason: with a child still out it waits for it, as a leaf it sends PRESENT and ARRIVE to its parent, and alone in its domain it is the root and releases at once. A PRESENT of a child is noted once. A fitting ARRIVE is noted; with the last one the root releases when its COUNT is the domain's size; one that does not fit is logged and counts as not arrived. A RELEASE acts at a module that has arrived at that interlock and does nothing at one that has not, nor with an older LCE; in LINKS that of round 1 of a rollback makes the module take part in round 2. A release counts LINK_ISEQ on, leaves the last arrival and the wait in LINK_SLOW and LINK_SLOWW, and lets every station that waits go on with the deadline timer at 0, or, where a snapshot is due, captures the image and starts its copy with the stations left waiting. The copy done, the module arrives at the commit interlock; the release of that one commits the generation. Which interlock a message concerns and its ISEQ are the model's reading (log entries 28 and 29). -/
def Obligations.InterlocksAndCommitsRunOnTheTree : Prop :=
  ∀ s : State,
    let goOn (ilk : Nat) (t : State) : Prop :=
      t.die.net.ilk = Ilk.reset ∧ t.die.net.timer = ⟨0, true, []⟩ ∧
      ∀ i : Stn, (t.stn i).pm = (s.stn i).pm ∧ (t.stn i).slots = (s.stn i).slots ∧ (t.stn i).tokens = (s.stn i).tokens ∧ (t.stn i).iss.queue = (s.stn i).iss.queue ∧
        ∀ p, (s.stn i).iss.posted = some p → p.domain = true → p.ilk = ilk → p.waits = true → (t.stn i).iss.posted = none
    let released (ilk slow reason wait : Nat) (t : State) : Prop :=
      t.reg 0x80830 = s.reg 0x80830 + 1 ∧ t.reg 0x80828 = BitVec.ofNat 32 (slow % 2 ^ 14 + reason * 2 ^ 16 + 2 ^ 31) ∧ t.reg 0x8082C = BitVec.ofNat 32 wait ∧
      (s.snapDue ilk (s.iseq + 1).toNat = false → t.lpddr = s.lpddr ∧ goOn ilk t) ∧
      (s.snapDue ilk (s.iseq + 1).toNat = true → t.die.net.snap = some ⟨(s.iseq + 1).toNat, 0, false, false⟩ ∧ t.snapOut.isSome = true ∧ t.snaps = s.snaps.take 1 ∧ SameStns s t [])
    let committed (r : SnapRun) (t : State) : Prop :=
      t.reg 0x80824 = BitVec.ofNat 32 r.gen ∧ t.die.net.snap = none ∧ t.snapOut = none ∧ t.snapHalf = 1 - s.snapHalf ∧
      (∀ i, s.snapOut = some i → t.snaps = i :: s.snaps.take 1) ∧ t.lpddr = s.lpddr ∧ goOn s.die.net.ilk.ilk t
    let since : Nat := match s.die.net.arrivedAt with | some n => s.uptime - n | none => 0
    (∀ ilk, s.postedIlk = some ilk → s.live = true → s.die.net.ilk.own = false → s.die.net.snap = none → s.die.net.roll = none →
      s.die.net.boundary = true ∨ s.die.jobStarted = false →
      ((∃ c ∈ s.children, ∀ a ∈ s.die.net.ilk.arrived, a.child ≠ c) → (∀ a ∈ s.die.net.ilk.arrived, a.ilk = ilk) →
        Runs .moduleArrival s (fun t =>
          t.die.net.ilk = { s.die.net.ilk with ilk := ilk, own := true, last := some (s.modid, s.ownReason) } ∧ t.die.net.arrivedAt = some s.uptime ∧
          SameRegs s t [0x30000] ∧ SameStns s t [] ∧ t.lpddr = s.lpddr)) ∧
      (s.children = [] → s.isRoot = false → s.die.net.ilk.arrived = [] → s.die.net.ilk.sentUp = false →
        Runs .moduleArrival s (fun t =>
          t.die.net.ilk = { s.die.net.ilk with ilk := ilk, own := true, last := some (s.modid, s.ownReason), sentUp := true } ∧ t.die.net.arrivedAt = some s.uptime ∧
          SameRegs s t [0x30000] ∧ SameStns s t [] ∧ t.lpddr = s.lpddr)) ∧
      (s.children = [] → s.isRoot = true → s.domainSize = 1 → s.die.net.ilk.arrived = [] → s.die.net.ilk.sentUp = false →
        Runs .moduleArrival s (released ilk s.modid s.ownReason 0))) ∧
    (s.postedIlk = none ∨ s.live = false ∨ s.die.net.ilk.own = true ∨ s.die.net.snap ≠ none ∨ s.die.net.roll ≠ none ∨ s.die.net.boundary = false ∧ s.die.jobStarted = true →
      exec .moduleArrival s = .next s) ∧
    (∀ (child ilk lce : Nat),
      (s.linked = true → s.staleLce lce = false → child ∈ s.children → child ∉ (s.die.net.ilkOf (s.kindOf ilk)).present →
        Runs (.present child ilk lce) s (fun t =>
          (t.die.net.ilkOf (s.kindOf ilk)).present = (s.die.net.ilkOf (s.kindOf ilk)).present ++ [child] ∧
          SameRegs s t [] ∧ SameStns s t [] ∧ t.lpddr = s.lpddr)) ∧
      (s.linked = false ∨ s.staleLce lce = true ∨ child ∉ s.children ∨ child ∈ (s.die.net.ilkOf (s.kindOf ilk)).present → exec (.present child ilk lce) s = .next s) ∧
      (∀ (count slow reason : Nat) (iseq : Word),
        let i := s.die.net.ilkOf (s.kindOf ilk)
        (s.linked = true → s.staleLce lce = false → child ∈ s.children → (∀ a ∈ i.arrived, a.child ≠ child) →
          (s.arriveFits (s.kindOf ilk) ilk lce iseq = true → i.own = false ∨ i.sentUp = true ∨ (∃ c ∈ s.children, c ≠ child ∧ ∀ a ∈ i.arrived, a.child ≠ c) →
            Runs (.arrive child ilk lce count slow reason iseq) s (fun t =>
              (t.die.net.ilkOf (s.kindOf ilk)).arrived = i.arrived ++ [⟨child, ilk, count, slow, reason, iseq⟩] ∧
              (t.die.net.ilkOf (s.kindOf ilk)).last = some (slow, reason) ∧ child ∈ (t.die.net.ilkOf (s.kindOf ilk)).present ∧
              SameRegs s t [] ∧ SameStns s t [] ∧ t.lpddr = s.lpddr)) ∧
          (s.arriveFits (s.kindOf ilk) ilk lce iseq = true → s.kindOf ilk = .domain → i.own = true → i.sentUp = false → s.isRoot = true →
            (∀ c ∈ s.children, c = child ∨ ∃ a ∈ i.arrived, a.child = c) → 1 + ((i.arrived.map (·.count)).sum + count) = s.domainSize →
            Runs (.arrive child ilk lce count slow reason iseq) s (released i.ilk slow reason since)) ∧
          (s.arriveFits (s.kindOf ilk) ilk lce iseq = false →
            Runs (.arrive child ilk lce count slow reason iseq) s (fun t =>
              t.reg 0x6000C = s.reg 0x6000C + 1 ∧ t.die.net = s.die.net ∧ SameStns s t [] ∧ t.lpddr = s.lpddr))) ∧
        (s.linked = false ∨ s.staleLce lce = true ∨ child ∉ s.children ∨ (∃ a ∈ i.arrived, a.child = child) →
          exec (.arrive child ilk lce count slow reason iseq) s = .next s))) ∧
    (∀ (ilk lce slow reason : Nat) (iseq : Word), s.linked = true →
      (s.mstate = 4 → s.die.net.roll = none → ilk = 0xFF →
        Runs (.release ilk lce slow reason iseq) s (fun t =>
          (∃ w, t.die.net.roll = some ⟨2, iseq.toNat, false, w, 0x300⟩) ∧ t.reg 0x80834 = BitVec.ofNat 32 (lce % 65536) ∧
          SameRegs s t [0x80834] ∧ SameStns s t [] ∧ t.lpddr = s.lpddr)) ∧
      (s.mstate ≠ 4 ∨ s.die.net.roll ≠ none ∨ ilk ≠ 0xFF →
        (s.staleLce lce = false → s.kindOf ilk = .domain → s.die.net.ilk.own = true → s.die.net.ilk.ilk = ilk →
          Runs (.release ilk lce slow reason iseq) s (released ilk slow reason since)) ∧
        (∀ r, s.staleLce lce = false → s.kindOf ilk = .commit → s.die.net.snap = some r → s.die.net.snapIlk.own = true → s.die.net.snapIlk.ilk = ilk →
          Runs (.release ilk lce slow reason iseq) s (committed r)) ∧
        (s.staleLce lce = true ∨ (s.die.net.ilkOf (s.kindOf ilk)).own = false ∨ (s.die.net.ilkOf (s.kindOf ilk)).ilk ≠ ilk →
          exec (.release ilk lce slow reason iseq) s = .next s))) ∧
    (∀ r : SnapRun, s.die.net.snap = some r →
      (s.live = true → s.die.net.snapIlk.own = false → s.copiesDone r = true → s.die.net.snapIlk.arrived = [] →
        (s.children ≠ [] →
          Runs .snapshotCopyDone s (fun t =>
            t.die.net.snapIlk = { s.die.net.snapIlk with ilk := s.die.net.ilk.ilk, own := true, last := some (s.modid, s.ownReason) } ∧
            t.die.net.snap = some r ∧ t.snaps = s.snaps ∧ t.snapOut = s.snapOut ∧ SameRegs s t [] ∧ SameStns s t [] ∧ t.lpddr = s.lpddr)) ∧
        (s.children = [] → s.isRoot = true → s.domainSize = 1 → s.die.net.snapIlk.sentUp = false → Runs .snapshotCopyDone s (committed r))) ∧
      (s.live = false ∨ s.die.net.snapIlk.own = true ∨ s.copiesDone r = false → exec .snapshotCopyDone s = .next s))

/-- R331 to R333, R340, R342, R375: past the deadline a module that has not arrived raises LATE_ARRIVAL once, and past the deadline and a sixteenth names a child from which nothing has come; a snapshot past its own deadline is logged once. A LATE notice is counted and passed on once; a HALT notice makes the timers pause, and ends a coast, until the RESUME notice of the same number, or until the allowance is spent; a RESUME of the snapshot partner makes the copy to it unacknowledged again. Before its time each expiry does nothing, and a notice already seen does nothing. -/
def Obligations.DeadlinesAndNotices : Prop :=
  ∀ s : State,
    (s.live = true → s.die.net.timer.running = true → s.deadline ≠ 0 →
      (s.deadline ≤ s.die.net.timer.ticks → s.die.net.ilk.own = false → s.modid ∉ s.die.net.timer.named →
        Runs .deadlineExpiry s (fun t =>
          t.die.net.timer = { s.die.net.timer with named := s.die.net.timer.named ++ [s.modid] } ∧
          t.reg 0x8083C = satAdd (s.reg 0x8083C) 1 ∧ t.reg 0x6000C = s.reg 0x6000C + 1 ∧ SameStns s t [] ∧ t.lpddr = s.lpddr)) ∧
      (∀ c, s.silentChild = some c → s.deadline + s.deadline / 16 ≤ s.die.net.timer.ticks →
        Runs .noNoticeExpiry s (fun t =>
          t.die.net.noNotice = s.die.net.noNotice ++ [c] ∧ t.die.net.timer = { s.die.net.timer with named := s.die.net.timer.named ++ [c] } ∧
          t.reg 0x8083C = satAdd (s.reg 0x8083C) 1 ∧ t.reg 0x6000C = s.reg 0x6000C + 1 ∧ SameStns s t [] ∧ t.lpddr = s.lpddr))) ∧
    (s.live = false ∨ s.die.net.timer.running = false ∨ s.deadline = 0 ∨ s.die.net.timer.ticks < s.deadline →
      exec .deadlineExpiry s = .next s ∧ exec .noNoticeExpiry s = .next s) ∧
    (s.die.net.ilk.own = true ∨ s.modid ∈ s.die.net.timer.named → exec .deadlineExpiry s = .next s) ∧
    (s.silentChild = none ∨ s.die.net.timer.ticks < s.deadline + s.deadline / 16 → exec .noNoticeExpiry s = .next s) ∧
    (∀ r : SnapRun, s.die.net.snap = some r →
      (s.live = true → (s.reg 0x8081C).toNat ≠ 0 → (s.reg 0x8081C).toNat ≤ r.ticks → r.late = false →
        Runs .snapLate s (fun t =>
          t.die.net = { s.die.net with snap := some { r with late := true } } ∧ t.reg 0x6000C = s.reg 0x6000C + 1 ∧ SameStns s t [] ∧ t.lpddr = s.lpddr)) ∧
      (s.live = false ∨ (s.reg 0x8081C).toNat = 0 ∨ r.ticks < (s.reg 0x8081C).toNat ∨ r.late = true → exec .snapLate s = .next s)) ∧
    (s.die.net.snap = none → exec .snapLate s = .next s) ∧
    (∀ (p : Fin 12) (m n : Nat),
      (∀ (ilk cause reason rep : Nat) (iseq : Word),
        (s.linked = true → (2, m, iseq.toNat, cause) ∉ s.die.net.seen →
          Runs (.lateNotice p m ilk cause reason rep iseq) s (fun t =>
            t.reg 0x8083C = satAdd (s.reg 0x8083C) 1 ∧ t.die.net.lateMods = s.die.net.lateMods ++ [m] ∧ (2, m, iseq.toNat, cause) ∈ t.die.net.seen ∧
            SameRegs s t [0x8083C] ∧ SameStns s t [] ∧ t.lpddr = s.lpddr)) ∧
        (s.linked = false ∨ (2, m, iseq.toNat, cause) ∈ s.die.net.seen → exec (.lateNotice p m ilk cause reason rep iseq) s = .next s)) ∧
      (s.linked = true → (0, m, n, 0) ∉ s.die.net.seen →
        Runs (.haltNotice p m n) s (fun t =>
          t.die.net.halts = s.die.net.halts ++ [(m, n)] ∧ (0, m, n, 0) ∈ t.die.net.seen ∧ t.coasting = false ∧
          SameRegs s t [0x30000] ∧ SameStns s t [] ∧ t.lpddr = s.lpddr)) ∧
      (s.linked = false ∨ (0, m, n, 0) ∈ s.die.net.seen → exec (.haltNotice p m n) s = .next s) ∧
      (s.linked = true → (1, m, n, 0) ∉ s.die.net.seen →
        Runs (.resumeNotice p m n) s (fun t =>
          t.die.net.halts = s.die.net.halts.filter (fun h => decide (h ≠ (m, n))) ∧ (1, m, n, 0) ∈ t.die.net.seen ∧
          (∀ r, s.die.net.snap = some r → t.die.net.snap = some (if s.partner = some m then { r with acked := false } else r)) ∧
          SameRegs s t [] ∧ SameStns s t [] ∧ t.lpddr = s.lpddr)) ∧
      (s.linked = false ∨ (1, m, n, 0) ∈ s.die.net.seen → exec (.resumeNotice p m n) s = .next s)) ∧
    (s.linked = true → s.die.net.halts ≠ [] → fld (s.reg 0x80814) 0 24 * 4000 ≤ s.die.net.paused →
      Runs .haltAllowanceExpiry s (fun t =>
        t.die.net = { s.die.net with allowOver := true } ∧ SameRegs s t [] ∧ SameStns s t [] ∧ t.lpddr = s.lpddr)) ∧
    (s.linked = false ∨ s.die.net.halts = [] ∨ s.die.net.paused < fld (s.reg 0x80814) 0 24 * 4000 → exec .haltAllowanceExpiry s = .next s)

/-- R107, R132, R335 to R338: a REDUCE of scope 1 joins the next instance of its collective and completes, its slot kept, where the limits allow it, and waits where they do not. The image of another member is kept until everything due here is in; then the images combined go on towards the root, or are the result at the root. A result is kept while it is due here; an image of another extent than its instance is logged and ends the instance; one for which the limits leave no room waits. A result due at an awake station with room enters its arrival buffer, and at its head is written to its slot, with RTOK after it; at a sleeping station a wake is requested first. Contributors and owner in solo mode are the model's reading (log entry 52). -/
def Obligations.CollectivesCombine : Prop :=
  ∀ s : State,
    (∀ (i : Stn) (f : Flight), s.accHead i 0x13 = some f → bitAt f.word 61 = true →
      (s.live = true → s.collRoom (fld f.word 62 8) (s.nextInst (fld f.word 62 8) i) = true →
        Runs (.reduce i) s (fun t =>
          t.nextInst (fld f.word 62 8) i = s.nextInst (fld f.word 62 8) i + 1 ∧ (t.stn i).flightOf f.seq = none ∧
          (t.stn i).slots = (s.stn i).slots ∧ (t.stn i).pm = (s.stn i).pm ∧ t.die.mesh = s.die.mesh ∧ SameStns s t [i.val] ∧ t.lpddr = s.lpddr)) ∧
      (s.live = false ∨ s.collRoom (fld f.word 62 8) (s.nextInst (fld f.word 62 8) i) = false → exec (.reduce i) s = .next s)) ∧
    (∀ (smod cid k phase mext next : Nat) (img : Slot),
      let i := s.die.net.inst cid k
      let fits : Prop := (i.own = [] ∧ i.images = [] ∧ i.result = none) ∨ (i.mext = mext ∧ i.next = next)
      let i' := { i with mext := mext, next := next, images := i.images ++ [(smod, 0, img)] }
      let quiet (t : State) : Prop := SameRegs s t [] ∧ SameStns s t [] ∧ t.die.mesh = s.die.mesh ∧ t.lpddr = s.lpddr
      (s.linked = true → s.collRoom cid k = true → i.bad = false →
        (fits → phase = 0 → s.ownIn (s.coll cid) i = false →
          Runs (.coll smod cid k phase mext next img) s (fun t => t.die.net.inst cid k = i' ∧ quiet t)) ∧
        (fits → phase = 0 → s.ownIn (s.coll cid) i = true → (s.coll cid).kind ≠ 3 → i.sent = false → i.due ≠ [] →
          (∀ d, s.combineAt (s.coll cid) i' = some (d, false) → Runs (.coll smod cid k phase mext next img) s (fun t => t.die.net.inst cid k = i' ∧ quiet t)) ∧
          (∀ d, s.combineAt (s.coll cid) i' = some (d, true) → Runs (.coll smod cid k phase mext next img) s (fun t => t.die.net.inst cid k = { i' with sent := true } ∧ quiet t)) ∧
          (s.combineAt (s.coll cid) i' = none → Runs (.coll smod cid k phase mext next img) s (fun t => t.die.net.inst cid k = { i' with sent := true, result := some i'.total } ∧ quiet t))) ∧
        (fits → phase ≠ 0 → i.due ≠ [] ∨ s.ownIn (s.coll cid) i = false →
          Runs (.coll smod cid k phase mext next img) s (fun t =>
            t.die.net.inst cid k = { i with mext := mext, next := next, result := some img, sent := true } ∧ quiet t))) ∧
      (s.linked = true → s.collRoom cid k = true → ¬ fits →
        Runs (.coll smod cid k phase mext next img) s (fun t =>
          (∀ j ∈ t.die.net.insts, j.coll ≠ cid ∨ j.inst ≠ k) ∧ t.reg 0x6000C = s.reg 0x6000C + 1 ∧ SameStns s t [] ∧ t.die.mesh = s.die.mesh ∧ t.lpddr = s.lpddr)) ∧
      (s.linked = false ∨ s.collRoom cid k = false → exec (.coll smod cid k phase mext next img) s = .next s)) ∧
    (∀ i : Stn, s.live = true →
      (∀ (j : CollInst) (r : Slot) (d : Nat × Nat), s.die.net.insts.find? (fun j => j.result.isSome && j.due.any (fun d => decide (d.1 = i.val))) = some j →
        j.result = some r → j.due.find? (fun d => decide (d.1 = i.val)) = some d →
        ((s.stn i).sleeps = true →
          Runs (.collectiveResultWrite i) s (fun t =>
            (t.stn i).arrive = (s.stn i).arrive ∧ (t.stn i).slots = (s.stn i).slots ∧
            ((s.stn i).ctl.run = .asleep → (s.stn i).ctl.admitted = false → (t.stn i).ctl.wakeReq = true) ∧ SameStns s t [i.val] ∧ t.lpddr = s.lpddr)) ∧
        ((s.stn i).sleeps = false → (s.stn i).arriveRoom = true →
          (∀ tl ∈ (s.stn i).arrive, tl.write = false) → ((s.stn i).arrive = [] → (s.stn i).slotsFree i false (resultTile (s.coll j.coll) j d.2 r).named = false) →
          Runs (.collectiveResultWrite i) s (fun t =>
            (t.stn i).arrive = (s.stn i).arrive ++ [resultTile (s.coll j.coll) j d.2 r] ∧ (t.stn i).slots = (s.stn i).slots ∧
            (s.die.net.parts = [] → SameRegs s t []) ∧ SameStns s t [i.val] ∧ t.lpddr = s.lpddr))) ∧
      (∀ (tl : Tile) (rest : List Tile) (tok : Nat), (∀ j ∈ s.die.net.insts, ∀ d ∈ j.due, d.1 ≠ i.val) → s.die.net.parts = [] →
        (s.stn i).arrive = tl :: rest → tl.write = true → tl.rtok = some tok →
        ((s.stn i).sleeps = false → (s.stn i).slotsFree i false tl.named = true →
          Runs (.collectiveResultWrite i) s (fun t =>
            (t.stn i).arrive = rest ∧ (t.stn i).slots = writeResult (s.stn i).slots tl ∧
            (bitAt (s.stn i).tokens tok = false → (t.stn i).tokens = putBit (s.stn i).tokens tok true ∧ SameRegs s t [pageBase i + 0x14C]) ∧
            (bitAt (s.stn i).tokens tok = true → (t.stn i).tokens = (s.stn i).tokens) ∧
            (t.stn i).pm = (s.stn i).pm ∧ (t.stn i).banks = (s.stn i).banks ∧ OnlyChanges s t [pageBase i + 0x14C, pageBase i + 0x154] [i.val])) ∧
        ((s.stn i).sleeps = true ∨ (s.stn i).slotsFree i false tl.named = false → exec (.collectiveResultWrite i) s = .next s))) ∧
    (∀ i : Stn, s.live = false → exec (.collectiveResultWrite i) s = .next s)

/-- R343, R375, R460: GO, and a CLEAR notice with a newer epoch, clear the line: every station is STOPPED with nothing queued, in flight or waiting and no token, its platform memory, slots and banks kept; the mesh is empty, no collective is open, every ticket counter has VAL 0 and LIMIT 0, LINK_ISEQ is 0 and LINK_LCE is the new epoch; a coast ends; with AUTO set the rollback begins with round 1, without it the module waits for ROLL. A notice with an epoch that is not newer does nothing, nor a write without GO. A sleeping station becoming STOPPED and the empty mesh are the model's reading (log entry 55). -/
def Obligations.LineClears : Prop :=
  ∀ s : State,
    (∀ (v : Word) (p : Fin 12) (m e : Nat) (c : Instr) (lce : Nat),
      (c = .lineClearGo v ∧ bitAt v 0 = true ∧ s.live = true ∧ s.writeServed 0x80838 = true ∧ lce = (s.lce + 1) % 65536) ∨
      (c = .clearNotice p m e ∧ s.linked = true ∧ 1 ≤ (e + 65536 - s.lce) % 65536 ∧ (e + 65536 - s.lce) % 65536 < 32768 ∧ lce = e % 65536) →
      Runs c s (fun t =>
        (∀ i : Stn, (t.stn i).ctl.run = .stopped ∧ (t.stn i).iss.queue = [] ∧ (t.stn i).iss.flight = [] ∧ (t.stn i).iss.posted = none ∧ (t.stn i).tokens = 0 ∧
          (t.stn i).arrive = [] ∧ (t.stn i).redq = [] ∧ (t.stn i).ledger.entries = [] ∧
          (t.stn i).pm = (s.stn i).pm ∧ (t.stn i).slots = (s.stn i).slots ∧ (t.stn i).banks = (s.stn i).banks) ∧
        t.die.mesh = [] ∧ t.die.net.insts = [] ∧ t.die.net.snap = none ∧ t.snaps = s.snaps ∧ t.coasting = false ∧
        (∀ k : Fin 64, t.reg (tktBase k) = 0 ∧ t.reg (tktBase k + 4) = 0) ∧
        t.reg 0x80830 = 0 ∧ t.reg 0x80834 = BitVec.ofNat 32 lce ∧
        (bitAt (s.reg 0x60004) 0 = true → (∃ w u, t.die.net.roll = some ⟨1, 0, false, w, u⟩) ∧ bitAt (t.reg 0x60000) 2 = true ∧ bitAt (t.reg 0x60000) 3 = false) ∧
        (bitAt (s.reg 0x60004) 0 = false → t.die.net.roll = none ∧ bitAt (t.reg 0x60000) 2 = false ∧ bitAt (t.reg 0x60000) 3 = true) ∧
        t.lpddr = s.lpddr ∧ t.fuses = s.fuses)) ∧
    (∀ (p : Fin 12) (m e : Nat), s.linked = false ∨ 32768 ≤ (e + 65536 - s.lce) % 65536 ∨ (e + 65536 - s.lce) % 65536 = 0 → exec (.clearNotice p m e) s = .next s) ∧
    (∀ v : Word, s.writeServed 0x80838 = true → s.supState = 0 → bitAt v 0 = false → Runs (.lineClearGo v) s (fun t => OnlyChanges s.leaveL1 t [] []))

/-- R346, R347, R352 to R355, R362, R373, R376, R378: at the end of a period GOV_EST holds the estimate of its load in tenths of a watt, each reason that held the module back is charged a microsecond, the demand of each current phase moves an eighth of the way to the mean draw of its stations, and the target is the one that the rules give; outside an alert and the thermal cut up to four waiting wake requests are admitted, first come first. The clock goes down to a lower target at once and up to a higher one only at its voltage. A successful calibration adds the measured energy and moves the gain; the tenth reading that fails in succession sets the gain to 1.25 with a record, and a failed one adds an arbitrary energy (log entry 13). No platform memory, slot or token changes. Which stations count, and the rounding of the estimate and the gain, are the model's reading (log entries 33 and 53). -/
def Obligations.GovernorClosesPeriods : Prop :=
  ∀ s : State,
    let dur (u : State) (r : Nat) : Nat := (u.reg (0x30080 + 8 * r)).toNat + (u.reg (0x30084 + 8 * r)).toNat * 2 ^ 32
    (s.governed = true →
      (∀ lines hops chg : Nat,
        let load := s.uncredited lines (min hops s.die.hops) (s.chargerPower chg) + s.creditLoad
        Runs (.governorPeriod lines hops chg) s (fun t =>
          t.reg 0x30030 = BitVec.ofNat 32 (min 65535 (s.gain * load * 10).floor.toNat) ∧ t.die.gov.est = s.gain * load ∧ t.op = s.op ∧
          t.die.hops = s.die.hops - hops ∧
          (∀ r, 1 ≤ r → r < 10 → dur t r = (dur s r + if r ∈ s.charges then 4 else 0) % 2 ^ 64) ∧
          (∀ n, n < 256 →
            let mine := s.awakeStns.filter (fun i => decide ((s.stn i).iss.phase.toNat = n))
            let d := fld (s.reg (0x30800 + 4 * n)) 0 16
            t.reg (0x30800 + 4 * n) = (if mine = [] then s.reg (0x30800 + 4 * n)
              else BitVec.ofNat 32 (min 51200 ((d : Int) + rne ((((mine.map s.drew).sum : Rat) / (mine.length : Rat) - (d : Rat)) / 8)).toNat))) ∧
          (s.coasting = false → s.preferred ≠ 7 → t.target = s.targetPoint) ∧
          (∀ i : Stn, (s.stn i).isAwake = false → (t.stn i).iss.account = 0) ∧
          t.die.wakeQ = (if s.alerting || s.thermalCut then s.die.wakeQ else s.die.wakeQ.drop 4) ∧
          (∀ i : Stn, (t.stn i).pm = (s.stn i).pm ∧ (t.stn i).slots = (s.stn i).slots ∧ (t.stn i).tokens = (s.stn i).tokens ∧ (t.stn i).banks = (s.stn i).banks) ∧
          (∀ a, a < 0x30000 → t.reg a = s.reg a) ∧ t.lpddr = s.lpddr ∧ t.die.mesh = s.die.mesh)) ∧
      (s.target < s.op → Runs .clockChange s (fun t => t.op = s.target ∧ SameRegs s t [0x30000] ∧ SameStns s t [] ∧ t.lpddr = s.lpddr)) ∧
      (s.op ≤ s.target → s.op ≤ s.goalPoint → s.voltOf s.goalPoint ≤ s.die.gov.volt →
        Runs .clockChange s (fun t =>
          t.op = s.goalPoint ∧ t.target = s.goalPoint ∧ t.die.gov.margin = false ∧ (s.die.gov.returning = false → t.die.gov.returning = false) ∧
          SameRegs s t [0x30000] ∧ SameStns s t [] ∧ t.lpddr = s.lpddr)) ∧
      (s.op ≤ s.target → s.goalPoint < s.op ∨ s.die.gov.volt < s.voltOf s.goalPoint → exec .clockChange s = .next s) ∧
      (∀ reg : Fin 7,
        (∀ m : Nat,
          let mean : Rat := if s.die.gov.estCount = 0 then 0 else s.die.gov.estSum / (s.die.gov.estCount : Rat)
          let uj := (s.reg 0x30040).toNat + (s.reg 0x30044).toNat * 2 ^ 32 + (s.die.gov.energyFrac + m) / 1000
          Runs (.calibration (some m) reg) s (fun t =>
            t.die.gov.pmFails = 0 ∧ t.die.gov.energyFrac = (s.die.gov.energyFrac + m) % 1000 ∧ t.die.gov.estCount = 0 ∧ t.die.gov.estSum = 0 ∧
            t.reg 0x30040 = BitVec.ofNat 32 uj ∧ t.reg 0x30044 = BitVec.ofNat 32 (uj / 2 ^ 32) ∧
            fld (t.reg 0x30034) 0 16 = (if mean ≤ 0 then fld (s.reg 0x30034) 0 16 else (rne (newGain s.gain ((m : Rat) / 1000000) mean * 16384)).toNat) ∧
            SameRegs s t [0x30034, 0x30040, 0x30044] ∧ SameStns s t [] ∧ t.lpddr = s.lpddr)) ∧
        (s.die.gov.pmFails ≠ 9 → Runs (.calibration none reg) s (fun t =>
          t.die.gov.pmFails = s.die.gov.pmFails + 1 ∧ t.free = s.free + 1 ∧ SameRegs s t [0x30040, 0x30044] ∧ SameStns s t [] ∧ t.lpddr = s.lpddr)) ∧
        (s.die.gov.pmFails = 9 → Runs (.calibration none reg) s (fun t =>
          fld (t.reg 0x30034) 0 16 = 0x5000 ∧ t.reg 0x6000C = s.reg 0x6000C + 1 ∧ SameStns s t [] ∧ t.lpddr = s.lpddr)))) ∧
    (s.governed = false →
      (∀ lines hops chg : Nat, exec (.governorPeriod lines hops chg) s = .next s) ∧ exec .clockChange s = .next s ∧
      ∀ (m : Option Nat) (reg : Fin 7), exec (.calibration m reg) s = .next s)

/-- R364 to R367: an alert takes every credit, sets the point to OP0 and ends a coast; with both inputs deasserted the hold begins, and with its end the alert does; a regulator alert logs a record for each regulator that reports, and again past 10 ms; during a halt and with the die off an assertion changes only the pin. SUPPLY_LOW ends 0.5 V above VLOW. Where its condition does not hold each of these events changes nothing. -/
def Obligations.AlertsHoldThePoint : Prop :=
  ∀ s : State,
    (∀ (reg : Bool) (words : List (Fin 7 × BitVec 16)),
      (s.governed = true →
        Runs (.alertAssert reg words) s (fun t =>
          t.alerting = true ∧ t.op = 0 ∧ t.target = 0 ∧ t.coasting = false ∧ t.die.gov.hold = false ∧ (∀ i : Stn, (t.stn i).iss.account = 0) ∧
          (if reg then t.sup.pinReg else t.sup.pinSupply) = true ∧ (reg = true → t.sup.words = words) ∧
          t.reg 0x6000C = s.reg 0x6000C + (if reg then BitVec.ofNat 32 words.length else 0) ∧
          (∀ i : Stn, (t.stn i).iss.queue = (s.stn i).iss.queue ∧ (t.stn i).iss.flight = (s.stn i).iss.flight ∧ (t.stn i).pm = (s.stn i).pm) ∧
          t.lpddr = s.lpddr ∧ t.die.mesh = s.die.mesh)) ∧
      (s.governed = false →
        Runs (.alertAssert reg words) s (fun t => (if reg then t.sup.pinReg else t.sup.pinSupply) = true ∧ (reg = true → t.sup.words = words) ∧ t.die = s.die ∧ SameRegs s t [] ∧ t.lpddr = s.lpddr))) ∧
    (∀ reg : Bool,
      Runs (.alertDeassert reg) s (fun t =>
        (if reg then t.sup.pinReg else t.sup.pinSupply) = false ∧
        (s.alerting = true → (if reg then s.sup.pinSupply else s.sup.pinReg) = false → t.die.gov.hold = true) ∧
        (s.alerting = false ∨ (if reg then s.sup.pinSupply else s.sup.pinReg) = true → t.die.gov = s.die.gov) ∧
        SameRegs s t [] ∧ SameStns s t [] ∧ t.lpddr = s.lpddr)) ∧
    (s.powered = true → s.alerting = true → s.die.gov.hold = true →
      Runs .alertHoldExpiry s (fun t => t.alerting = false ∧ t.die.gov.hold = false ∧ t.op = s.op ∧ SameRegs s t [0x30000] ∧ SameStns s t [] ∧ t.lpddr = s.lpddr)) ∧
    (s.powered = false ∨ s.alerting = false ∨ s.die.gov.hold = false → exec .alertHoldExpiry s = .next s) ∧
    (∀ words : List (Fin 7 × BitVec 16),
      (s.powered = true → s.sup.pinReg = true →
        Runs (.regAlertLong words) s (fun t => t.reg 0x6000C = s.reg 0x6000C + BitVec.ofNat 32 words.length ∧ t.die.gov = s.die.gov ∧ SameStns s t [] ∧ t.lpddr = s.lpddr)) ∧
      (s.powered = false ∨ s.sup.pinReg = false → exec (.regAlertLong words) s = .next s)) ∧
    (s.supplyLow = true → (fld (s.reg 0x30020) 0 9 + 5) * 10 ≤ (s.reg 0x40008).toNat →
      Runs .supplyLowEnd s (fun t => t.supplyLow = false ∧ OnlyChanges s t [0x30000] [])) ∧
    (s.supplyLow = false ∨ (s.reg 0x40008).toNat < (fld (s.reg 0x30020) 0 9 + 5) * 10 → exec .supplyLowEnd s = .next s)

/-- R368, R369, R371 to R373, R375: a temperature is shown, reaching 115 °C is recorded, and reaching 125 °C too, with which a halt for heat begins where a job is loaded; the thermal step count rises by one at the throttle temperature and falls by one more than 3 °C below it, each time with a record; a margin event lowers the clock by a point and raises the trim by 5 mV up to 50 mV, with an audit record, and then gives up OP7; a low sample is counted, and the one that makes more than 1,000 in an hour raises the trim and starts the count again; the return from a coast ends it and holds departures until the point is back. The low count starting again and the record of a falling step are the model's reading (log entries 34 and 93). -/
def Obligations.TemperatureAndMargin : Prop :=
  ∀ s : State,
    let lows (u : State) (m : Nat) : List Nat := mget (fun _ => ([] : List Nat)) u.die.gov.lows m
    (∀ tj : BitVec 7,
      (s.powered = true → s.supState = 0 →
        (tj.toNat < 115 ∨ tj.toNat < 125 ∧ 115 ≤ s.tj → Runs (.temperatureRead tj) s (fun t => t.tj = tj.toNat ∧ OnlyChanges s t [0x30000] [])) ∧
        (115 ≤ tj.toNat → tj.toNat < 125 → s.tj < 115 →
          Runs (.temperatureRead tj) s (fun t => t.tj = tj.toNat ∧ t.reg 0x6000C = s.reg 0x6000C + 1 ∧ SameStns s t [] ∧ t.lpddr = s.lpddr)) ∧
        (125 ≤ tj.toNat → s.jobLoaded = false → s.tj < 125 →
          Runs (.temperatureRead tj) s (fun t => t.tj = tj.toNat ∧ t.reg 0x6000C = s.reg 0x6000C + (if s.tj < 115 then 2 else 1) ∧ t.supState = 0 ∧ SameStns s t [] ∧ t.lpddr = s.lpddr)) ∧
        (125 ≤ tj.toNat → s.jobLoaded = false → 125 ≤ s.tj → Runs (.temperatureRead tj) s (fun t => t.tj = tj.toNat ∧ OnlyChanges s t [0x30000] [])) ∧
        (125 ≤ tj.toNat → s.jobLoaded = true →
          Runs (.temperatureRead tj) s (fun t => t.tj = tj.toNat ∧ t.supState = 1 ∧ t.sup.cause = 2 ∧ t.sup.ticks = 200 ∧ fld (t.reg 0x4002C) 0 16 = (s.hseq + 1) % 65536 ∧
            (∀ i : Stn, (t.stn i).pm = (s.stn i).pm ∧ (t.stn i).slots = (s.stn i).slots ∧ (t.stn i).banks = (s.stn i).banks) ∧ t.lpddr = s.lpddr))) ∧
      (s.powered = false ∨ s.supState ≠ 0 → exec (.temperatureRead tj) s = .next s)) ∧
    (s.governed = true → s.throttle ≤ s.tj → s.tsteps < 7 →
      Runs .thermalStepRise s (fun t => t.tsteps = s.tsteps + 1 ∧ t.tj = s.tj ∧ t.reg 0x6000C = s.reg 0x6000C + 1 ∧ SameStns s t [] ∧ t.lpddr = s.lpddr)) ∧
    (s.governed = false ∨ s.tj < s.throttle ∨ s.tsteps = 7 → exec .thermalStepRise s = .next s) ∧
    (s.governed = true → s.tj + 3 < s.throttle → 0 < s.tsteps →
      Runs .thermalStepFall s (fun t => t.tsteps = s.tsteps - 1 ∧ t.tj = s.tj ∧ t.reg 0x6000C = s.reg 0x6000C + 1 ∧ SameStns s t [] ∧ t.lpddr = s.lpddr)) ∧
    (s.governed = false ∨ s.throttle ≤ s.tj + 3 ∨ s.tsteps = 0 → exec .thermalStepFall s = .next s) ∧
    (s.governed = true →
      (∀ short : List (Fin 16), short ≠ [] →
        Runs (.marginSample [] short) s (fun t =>
          t.op = s.op - 1 ∧ t.die.gov.margin = true ∧ t.die.gov.lastMargin = some s.uptime ∧
          (s.trim < 50 → s.fuses.audit < 256 → t.trim = s.trim + 5 ∧ t.fuses.audit = s.fuses.audit + 1) ∧
          (50 ≤ s.trim → t.trim = s.trim ∧ t.fuses = s.fuses ∧ bitAt (t.reg 0x30000) 12 = true) ∧ SameStns s t [] ∧ t.lpddr = s.lpddr)) ∧
      (∀ m : Fin 16,
        let now := s.uptime :: (lows s m).filter (fun u => decide (s.uptime - u < 14400000000))
        (now.length ≤ 1000 →
          Runs (.marginSample [m] []) s (fun t => lows t m = now ∧ (∀ k, k ≠ m.val → lows t k = lows s k) ∧ SameRegs s t [] ∧ SameStns s t [] ∧ t.lpddr = s.lpddr)) ∧
        (1000 < now.length →
          Runs (.marginSample [m] []) s (fun t => lows t m = [] ∧
            (s.trim < 50 → s.fuses.audit < 256 → t.trim = s.trim + 5 ∧ t.fuses.audit = s.fuses.audit + 1) ∧ (50 ≤ s.trim → t.trim = s.trim) ∧ t.op = s.op ∧ SameStns s t [] ∧ t.lpddr = s.lpddr))) ∧
      exec (.marginSample [] []) s = .next s) ∧
    (∀ low short : List (Fin 16), s.governed = false → exec (.marginSample low short) s = .next s) ∧
    (s.live = true → s.coasting = true →
      Runs .coastReturn s (fun t => t.coasting = false ∧ t.departuresHeld = true ∧ SameRegs s t [0x30000] ∧ SameStns s t [] ∧ t.lpddr = s.lpddr)) ∧
    (s.live = false ∨ s.coasting = false → exec .coastReturn s = .next s)

/-- R358, R359, R379, R381, R419: a ceiling below the one in the fuses is taken, counted and audited, and any other is logged and ignored; GOV_CAP and GOV_PEAK take a value in their range, or the nearer end, and start their window again at it; CLRTHR clears the eighteen duration registers and no other register but GOV_CTRL. -/
def Obligations.GovernorWrites : Prop :=
  ∀ (s : State) (v : Word), s.supState = 0 → s.writeServed 0x30028 = true →
    (fld v 0 3 < s.fuses.opmax → s.fuses.ceilUsed < 16 → s.fuses.audit < 256 →
      Runs (.govCeilingWrite v) s (fun t =>
        t.fuses = { s.fuses with opmax := fld v 0 3, ceilUsed := s.fuses.ceilUsed + 1, audit := s.fuses.audit + 1 } ∧
        SameRegs s t [] ∧ SameStns s t [] ∧ t.lpddr = s.lpddr)) ∧
    (s.fuses.opmax ≤ fld v 0 3 →
      Runs (.govCeilingWrite v) s (fun t => t.fuses = s.fuses ∧ t.reg 0x6000C = s.reg 0x6000C + 1 ∧ SameStns s t [] ∧ t.lpddr = s.lpddr)) ∧
    (16 ≤ s.fuses.ceilUsed → Runs (.govCeilingWrite v) s (fun t => t.fuses = s.fuses ∧ SameStns s t [] ∧ t.lpddr = s.lpddr)) ∧
    Runs (.clrthr v) s (fun t =>
      t.reg 0x30004 = v &&& 7 ∧ (∀ r, r < 9 → t.reg (0x30088 + 8 * r) = 0 ∧ t.reg (0x3008C + 8 * r) = 0) ∧
      (∀ a, a ≠ 0x30004 → a < 0x30088 ∨ 0x300D0 ≤ a → t.reg a = s.reg a) ∧ SameStns s t [] ∧ t.lpddr = s.lpddr) ∧
    Runs (.govLimitWrite false v) s (fun t =>
      t.reg 0x30008 = BitVec.ofNat 32 (max 100 (min 440 (fld v 0 9))) ∧ t.die.gov.capHist = [(99999, ((max 100 (min 440 (fld v 0 9)) : Nat) : Rat))] ∧
      t.die.gov.peakHist = s.die.gov.peakHist ∧ SameRegs s t [0x30008] ∧ SameStns s t [] ∧ t.lpddr = s.lpddr) ∧
    Runs (.govLimitWrite true v) s (fun t =>
      t.reg 0x3000C = BitVec.ofNat 32 (max 200 (min 460 (fld v 0 9))) ∧ t.die.gov.peakHist = [(999, ((max 200 (min 460 (fld v 0 9)) : Nat) : Rat))] ∧
      t.die.gov.capHist = s.die.gov.capHist ∧ SameRegs s t [0x3000C] ∧ SameStns s t [] ∧ t.lpddr = s.lpddr)

/-- R382 to R384, R386, R387, R390, R397: a sample of the input is shown, and one below VLOW makes SUPPLY_LOW active and pauses the charge. When the input of a module with a job loaded fails, a halt begins: the state is HALTING, NSEQ counts on in its 16 bits, HALT_OUT_N goes low, sleeping stations are awake, work in flight owes no credits, and platform memory, slots, banks, tokens and LPDDR5X stay. Without a job the module loses power, and its fuses and its flash stay. A failure in a halt or hold for heat leaves the hold to the cartridge, until temperature and input are back; in any other halt or hold it changes nothing, and one in a resume goes back into hold. An overvoltage shows in TENDER_STATUS too. The loss without a job is the model's reading (log entry 61). -/
def Obligations.InputFailures : Prop :=
  ∀ s : State,
    (∀ mv : BitVec 16,
      (fld (s.reg 0x30020) 0 9 * 10 ≤ mv.toNat ∨ s.powered = false ∨ s.supState ≠ 0 →
        Runs (.inputSample mv) s (fun t => t.reg 0x40008 = BitVec.ofNat 32 mv.toNat ∧ OnlyChanges s t [0x40008] [])) ∧
      (mv.toNat < fld (s.reg 0x30020) 0 9 * 10 → s.powered = true → s.supState = 0 →
        Runs (.inputSample mv) s (fun t =>
          t.reg 0x40008 = BitVec.ofNat 32 mv.toNat ∧ t.supplyLow = true ∧ t.tbit 5 = false ∧ OnlyChanges { s with cart := t.cart } t [0x40008, 0x30000, 0x40000] []))) ∧
    (∀ c : Instr, c = .brownout ∨ c = .overvoltage →
      (s.supState = 0 → s.powered = true → s.jobLoaded = true →
        Runs c s (fun t =>
          t.supState = 1 ∧ fld (t.reg 0x4002C) 0 16 = (s.hseq + 1) % 65536 ∧ Out.haltOut true ∈ t.out ∧ t.sup.cause = (if c = .brownout then 0 else 1) ∧ t.sup.ticks = 200 ∧
          t.powered = true ∧ t.tbit 10 = (s.tbit 10 || decide (c = .overvoltage)) ∧
          (∀ i : Stn, (t.stn i).pm = (s.stn i).pm ∧ (t.stn i).slots = (s.stn i).slots ∧ (t.stn i).banks = (s.stn i).banks ∧ (t.stn i).tokens = (s.stn i).tokens ∧
            (t.stn i).sleeps = false ∧ (t.stn i).ctl.slept = (decide ((s.stn i).ctl.run = .asleep) || decide ((s.stn i).ctl.run = .waking) || (s.stn i).ctl.slept) ∧
            ∀ f ∈ (t.stn i).iss.flight, f.owed = 0) ∧
          t.lpddr = s.lpddr ∧ t.die.mesh = s.die.mesh ∧ t.fuses = s.fuses)) ∧
      (s.supState = 0 → s.powered = false ∨ s.jobLoaded = false →
        Runs c s (fun t => t.powered = false ∧ t.mstate = 0 ∧ t.die = Die.reset ∧ t.lpddr = [] ∧ t.fuses = s.fuses ∧ t.flash = s.flash)) ∧
      (s.supState = 1 ∨ s.supState = 2 →
        Runs c s (fun t =>
          t.sup = { s.sup with cause := if s.sup.cause = 2 then 3 else s.sup.cause } ∧ t.supState = s.supState ∧ OnlyChanges { s with sup := t.sup } t (if c = .brownout then [] else [0x40000]) [])) ∧
      (s.supState = 3 →
        Runs c s (fun t =>
          t.supState = 2 ∧ t.powered = false ∧ t.sup.ticks = 0 ∧ t.sup.cause = (if s.sup.cause = 2 then 0 else s.sup.cause) ∧ t.spill = s.spill ∧ t.die = Die.reset ∧ t.lpddr = s.lpddr)))

/-- R369, R370, R387, R389, R390, R393, R394: from HOLD the return of the input, or 1 s below 95 °C after a thermal halt, begins the resume with the image that the halt left, when it is valid, of M3's NSEQ and readable; a thermal hold whose input has failed too waits for both, in either order; with an image that is not so the state is lost and the module comes up anew. On the cartridge, when the reserve is reached, the loss is entered in the halt log and the module loses power; a hold that the input supplies, or one above the reserve, goes on. A trip removes the supplies at once and keeps LPDDR5X; the loss of the always-on domain clears memory and die and keeps fuses and flash. The thermal hold without input is the model's reading (log entry 74), and that lost memory reads 0 its choice (log entry 4). -/
def Obligations.HoldEndsInResumeOrLoss : Prop :=
  ∀ (s : State) (e : BootEnv),
    (s.supState = 2 →
      (∀ (p : Spill) (c : Instr), s.spill = some p → (c = .inputQualified e ∧ s.sup.cause < 2) ∨ (c = .thermalResume e ∧ s.sup.cause = 2) →
        (p.valid = true → p.nseq = s.hseq → e.spillUe = none → (∀ l ∈ s.poison, s.region (l * 64) ≠ .spill) →
          Runs c s (fun t => t.supState = 3 ∧ t.powered = true ∧ t.sup.ticks = 0 ∧ t.spill = some p ∧ t.lpddr = s.lpddr ∧ t.fuses = s.fuses)) ∧
        (p.valid = false ∨ p.nseq ≠ s.hseq ∨ e.spillUe ≠ none ∨ (∃ l ∈ s.poison, s.region (l * 64) = .spill) →
          Runs c s (fun t => t.supState = 0 ∧ t.powered = true ∧ t.spill = none ∧ t.snapOut = none))) ∧
      (s.sup.cause = 3 →
        Runs (.thermalResume e) s (fun t => t.supState = 2 ∧ t.sup.cause = 0 ∧ OnlyChanges { s with sup := t.sup } t [] []) ∧
        Runs (.inputQualified e) s (fun t => t.supState = 2 ∧ t.sup.cause = 2 ∧ OnlyChanges { s with sup := t.sup } t [0x40000] [])) ∧
      (s.sup.cause = 2 → Runs (.inputQualified e) s (fun t => t.supState = 2 ∧ OnlyChanges s t [0x40000] [])) ∧
      (s.sup.cause < 2 → exec (.thermalResume e) s = .next s)) ∧
    (s.supState ≠ 2 → exec (.thermalResume e) s = .next s) ∧
    (s.onCartridge = true → energyAt s.cart.cap s.vcart ≤ 60 →
      Runs .stateLost s (fun t =>
        t.powered = false ∧ t.lpddr = [] ∧ t.spill = none ∧ t.fuses = s.fuses ∧ t.flash = s.flash ∧
        t.haltLog = s.haltLog.map (fun r => if r.closed then r else { r with cause := 1 }))) ∧
    (s.onCartridge = false ∨ 60 < energyAt s.cart.cap s.vcart → exec .stateLost s = .next s) ∧
    (s.powered = true →
      Runs .thermalTrip s (fun t => t.powered = false ∧ t.mstate = 0 ∧ t.supState = 0 ∧ t.sup.trip = 1 ∧ t.reg 0x1001C = 0 ∧ t.die = Die.reset ∧ t.spill = none ∧ t.lpddr = s.lpddr ∧ t.fuses = s.fuses)) ∧
    (s.powered = false → exec .thermalTrip s = .next s) ∧
    Runs .alwaysOnPowerLoss s (fun t =>
      t.powered = false ∧ t.die = Die.reset ∧ t.lpddr = [] ∧ t.uptime = 0 ∧ t.reg 0x40034 = s.reg 0x40034 ∧ t.fuses = s.fuses ∧ t.flash = s.flash ∧ t.haltLog = s.haltLog)

/-- R402, R403, R405, R412, R413, R416, R474, R493: a bring-up in which every channel trains and neither copy can be read ends in HELD, and one with a channel lost in FAULTED; the first rail that gives no power good makes the bring-up repeat once, the second ends it; a mailbox RESTART outside RUNNING resets the die, keeps LPDDR5X and brings the module up again, and in RUNNING it is refused; while BUSY it is ignored and in a halt discarded. That LPDDR5X survives a RESTART is the model's choice (log entry 38), as are the operands of a bring-up (log entry 60). -/
def Obligations.BringUpEndsInItsState : Prop :=
  ∀ (s : State) (e : BootEnv),
    (e.badA = true → e.badB = true → ∀ (v : Word) (c : Instr),
      (c = .inputQualified e ∧ s.mayBoot = true ∧ s.sup.railFails = 0) ∨ (c = .bringupRepeat e ∧ s.mayBoot = true ∧ s.sup.repeatDue = true) ∨
      (c = .restart v e ∧ s.writeServed 0x10010 = true ∧ s.supState = 0 ∧ bitAt (s.reg 0x10018) 0 = false ∧ s.mstate ≠ 6) →
      Runs c s (fun t =>
        t.powered = true ∧ t.mstate = (if e.lost = [] then 1 else 2) ∧ t.reg 0x10004 = 0x11 ∧ fld (t.reg 0x10000) 3 2 = 0 ∧
        t.die.stns = [] ∧ t.die.mesh = [] ∧ t.sup.railFails = 0 ∧ t.lpddr = s.lpddr ∧
        (c = .inputQualified e → t.uptime = 0) ∧ (c = .restart v e → t.reg 0x1001C = 0 ∧ t.uptime = s.uptime))) ∧
    (s.supState ≠ 2 → s.mayBoot = false ∨ s.sup.railFails ≠ 0 → Runs (.inputQualified e) s (fun t => t.tbit 10 = false ∧ OnlyChanges s t [0x40000] [])) ∧
    (s.mayBoot = false ∨ s.sup.repeatDue = false → exec (.bringupRepeat e) s = .next s) ∧
    (∀ v : Word,
      (s.writeServed 0x10010 = true → s.supState = 0 → bitAt (s.reg 0x10018) 0 = true → exec (.restart v e) s = .next s) ∧
      (s.writeServed 0x10010 = true → s.supState = 0 → bitAt (s.reg 0x10018) 0 = false → s.mstate = 6 →
        Runs (.restart v e) s (fun t => t.reg 0x10018 = 0x10 ∧ t.mstate = 6 ∧ SameStns s t [] ∧ t.lpddr = s.lpddr ∧ t.die.mesh = s.die.mesh)) ∧
      (s.writeServed 0x10010 = true → s.supState ≠ 0 →
        Runs (.restart v e) s (fun t => t.reg 0x24 = satAdd (s.reg 0x24) 1 ∧ OnlyChanges s.leaveL1 t [0x24] [])) ∧
      (s.writeServed 0x10010 = false → exec (.restart v e) s = .next s)) ∧
    (∀ (reg : Fin 7) (status : BitVec 16),
      (s.mayBoot = true →
        (s.sup.railFails = 0 →
          Runs (.railPowerGoodTimeout reg status) s (fun t =>
            t.sup.railFails = 1 ∧ t.sup.repeatDue = true ∧ t.reg 0x6000C = s.reg 0x6000C + 1 ∧ t.powered = false ∧ t.lpddr = s.lpddr)) ∧
        (s.sup.railFails = 1 → s.sup.repeatDue = true →
          Runs (.railPowerGoodTimeout reg status) s (fun t =>
            t.sup.railFails = 2 ∧ t.sup.repeatDue = false ∧ t.reg 0x6000C = s.reg 0x6000C + 1 ∧ t.powered = false ∧ t.lpddr = s.lpddr))) ∧
      (s.mayBoot = false ∨ 2 ≤ s.sup.railFails ∨ s.sup.railFails = 1 ∧ s.sup.repeatDue = false → exec (.railPowerGoodTimeout reg status) s = .next s))

/-- R391, R394, R396, R397, R400: a cartridge that leaves clears PRESENT, AUTH, both paths and the window, with a record, and in a hold that the input does not supply the state is lost; one inserted is present and pending once a copy gives the root key; an authentication without an answer is counted, and the third in succession refuses the cartridge and counts the refusal; an answer whose certificate and signature over nonce, serial, cycles and status verify is accepted with its serial and cycles, any other refused; a reading of its status is shown and opens or closes the discharge path, and closed in such a hold the state is lost; charging begins below 30.0 V when nothing pauses it, and one begun goes on below 30.4 V. R398, R399, R401: CAL starts the discharge of an authenticated cartridge and pauses its charge; its end takes the measured capacitance and sets CALAGE to 0; the age counts a day, and past 30 days the calibration is due. What the cartridge reports are operands (log entry 60). -/
def Obligations.CartridgesComeGoAndAreCalibrated : Prop :=
  ∀ s : State,
    let nonce := leBytes 48 (Config.freeNat s.free)
    let quiet (t : State) : Prop := SameStns s t [] ∧ t.lpddr = s.lpddr
    (s.tbit 2 = true → s.holdBroken = false →
      Runs .cartridgeRemoval s (fun t =>
        t.tbit 2 = false ∧ t.auth = 0 ∧ t.tbit 5 = false ∧ t.tbit 6 = false ∧ t.reg 0x40010 = 0 ∧ t.reg 0x40014 = 0 ∧
        t.reg 0x6000C = s.reg 0x6000C + 1 ∧ quiet t)) ∧
    (s.tbit 2 = true → s.holdBroken = true →
      Runs .cartridgeRemoval s (fun t =>
        t.powered = false ∧ t.lpddr = [] ∧ t.spill = none ∧ t.fuses = s.fuses ∧ t.haltLog = s.haltLog.map (fun r => if r.closed then r else { r with cause := 2 }))) ∧
    (s.tbit 2 = false → exec .cartridgeRemoval s = .next s) ∧
    (s.tbit 2 = false →
      Runs .cartridgeInsertion s (fun t =>
        t.tbit 2 = true ∧ t.auth = (if s.selected then 1 else 0) ∧ SameRegs s t [0x40000, 0x40010, 0x40014] ∧ quiet t)) ∧
    (s.tbit 2 = true → exec .cartridgeInsertion s = .next s) ∧
    (s.mayAuth = true → ∀ (v : Word) (c : Instr),
      c = .authentication none ∨ (c = .authRetry none ∧ 0 < s.cart.noResp) ∨ (c = .reauth v none ∧ s.writeServed 0x40004 = true ∧ s.supState = 0 ∧ s.auth = 2) →
      (s.cart.noResp < 2 →
        Runs c s (fun t => t.cart.noResp = s.cart.noResp + 1 ∧ t.auth = s.auth ∧ t.reg 0x40038 = s.reg 0x40038 ∧ quiet t)) ∧
      (2 ≤ s.cart.noResp →
        Runs c s (fun t =>
          t.cart.noResp = 0 ∧ t.auth = 3 ∧ t.tbit 5 = false ∧ t.tbit 6 = false ∧ t.reg 0x40038 = satAdd (s.reg 0x40038) 1 ∧
          t.reg 0x6000C = s.reg 0x6000C + 1 ∧ quiet t))) ∧
    (s.mayAuth = true → ∀ (a : CartResp) (v : Word) (c : Instr),
      c = .authentication (some a) ∨ (c = .authRetry (some a) ∧ 0 < s.cart.noResp) ∨ (c = .reauth v (some a) ∧ s.writeServed 0x40004 = true ∧ s.supState = 0) →
      let good := match Config.cartKey s.image a.cert with
        | some key => ecdsaVerify key (hash48 (nonce ++ leBytes 8 a.serial.toNat ++ leBytes 4 a.cycles.toNat ++ a.status)) a.sig
        | none => false
      (good = true →
        Runs c s (fun t =>
          t.auth = 2 ∧ t.cart.noResp = 0 ∧ t.reg 0x40018 = a.cycles ∧ t.reg 0x40024 = BitVec.ofNat 32 a.serial.toNat ∧ t.reg 0x40028 = BitVec.ofNat 32 (a.serial.toNat / 2 ^ 32) ∧
          t.reg 0x40038 = s.reg 0x40038 ∧ quiet t)) ∧
      (good = false →
        Runs c s (fun t =>
          t.auth = 3 ∧ t.cart.noResp = 0 ∧ t.tbit 5 = false ∧ t.tbit 6 = false ∧ t.reg 0x40038 = satAdd (s.reg 0x40038) 1 ∧ t.reg 0x6000C = s.reg 0x6000C + 1 ∧ quiet t))) ∧
    (∀ v : Word, s.mayAuth = true → s.writeServed 0x40004 = true → s.supState = 0 → s.auth ≠ 2 →
      Runs (.reauth v none) s (fun t => t.auth = 1 ∧ t.cart.noResp = 1 ∧ t.reg 0x40004 = v &&& 1 ∧ quiet t)) ∧
    (∀ r : Option CartResp,
      (s.mayAuth = false → exec (.authentication r) s = .next s) ∧ (s.mayAuth = false ∨ s.cart.noResp = 0 → exec (.authRetry r) s = .next s)) ∧
    (∀ (v tc : BitVec 16) (cycles : Word) (cap : Option Nat), s.tbit 2 = true → s.selected = true →
      let warm := decide (50 ≤ sx 16 tc.toNat) && decide (sx 16 tc.toNat ≤ 650)
      ((s.holdBroken && s.tbit 6 && !(decide (s.auth = 2) && warm)) = false →
        Runs (.cartridgeStatusRead v tc cycles cap) s (fun t =>
          t.reg 0x4000C = BitVec.ofNat 32 (v.toNat + tc.toNat * 65536) ∧ t.reg 0x40018 = cycles ∧ t.tbit 6 = (decide (s.auth = 2) && warm) ∧ t.auth = s.auth ∧
          (∀ c, cap = some c → s.tbit 5 = true → 3000 ≤ v.toNat → t.cart.cap = c ∧ t.reg 0x40020 = 0 ∧ t.tbit 8 = false) ∧
          (cap = none ∨ s.tbit 5 = false ∨ v.toNat < 3000 → t.cart.cap = s.cart.cap ∧ t.reg 0x40020 = s.reg 0x40020) ∧
          (s.auth ≠ 2 → t.tbit 5 = false ∧ t.reg 0x40014 = 0 ∧ t.reg 0x6000C = s.reg 0x6000C) ∧ quiet t)) ∧
      ((s.holdBroken && s.tbit 6 && !(decide (s.auth = 2) && warm)) = true →
        Runs (.cartridgeStatusRead v tc cycles cap) s (fun t => t.powered = false ∧ t.lpddr = [] ∧ t.spill = none ∧ t.fuses = s.fuses))) ∧
    (∀ (v tc : BitVec 16) (cycles : Word) (cap : Option Nat), s.tbit 2 = false ∨ s.selected = false → exec (.cartridgeStatusRead v tc cycles cap) s = .next s) ∧
    (s.mayCharge = true → s.vcart < 3000 →
      Runs .chargeStart s (fun t => t.tbit 5 = true ∧ t.cart = { s.cart with due := true } ∧ OnlyChanges { s with cart := t.cart } t [0x40000] [])) ∧
    (3000 ≤ s.vcart ∨ s.cart.cal = true →
      Runs .chargeStart s (fun t => t.tbit 5 = (s.cart.due && decide (s.vcart < 3040) && s.mayCharge) ∧ OnlyChanges { s with cart := t.cart } t [0x40000] [])) ∧
    (∀ v : Word, s.supState = 0 → s.writeServed 0x40004 = true →
      (s.tbit 2 = true → s.auth = 2 →
        Runs (.cal v) s (fun t =>
          t.cart = { s.cart with cal := true, due := false } ∧ t.tbit 9 = true ∧ t.tbit 5 = false ∧ t.reg 0x40004 = v &&& 1 ∧
          SameRegs s t [0x40000, 0x40004] ∧ quiet t)) ∧
      (s.tbit 2 = false ∨ s.auth ≠ 2 →
        Runs (.cal v) s (fun t => t.cart.cal = s.cart.cal ∧ t.tbit 9 = s.tbit 9 ∧ t.reg 0x40004 = v &&& 1 ∧ SameRegs s t [0x40000, 0x40004] ∧ quiet t))) ∧
    (∀ cap : Nat,
      (s.cart.cal = true →
        Runs (.calDischargeEnd cap) s (fun t =>
          t.cart.cal = false ∧ t.cart.cap = cap ∧ t.reg 0x40020 = 0 ∧ t.tbit 9 = false ∧ t.tbit 8 = false ∧ quiet t)) ∧
      (s.cart.cal = false → exec (.calDischargeEnd cap) s = .next s)) ∧
    (∀ aged : Bool,
      Runs (.calageDay aged) s (fun t =>
        t.reg 0x40020 = BitVec.ofNat 32 (min 65535 ((s.reg 0x40020).toNat + 1)) ∧ (30 ≤ (s.reg 0x40020).toNat → t.tbit 8 = true) ∧
        t.cart.cap = s.cart.cap ∧ quiet t))

/-- R404, R428, R440, R441, R429: PERST_N low, and a Function Level Reset, reset the endpoint: MSI-X is disabled with nothing pending, HEAD and TAIL of every queue are 0 and no BAR2 access waits, while platform memory, slots and LPDDR5X stay; PERST_N high brings the link up again. R404, R429, R441, R442, R479: once configuration space is open a request is served: the identifiers are those of DEV_ID, and a write of an enable takes it; before that it completes with retry status and changes nothing, and in the last part of a halt with Completer Abort; D3hot and L1 are entered, and a vector unmasked while pending is sent and pends no more, one masked by the function or the capability still pends. MSI-X details and retry times are presumed or read (log entries 41 and 42). -/
def Obligations.EndpointResetsAndRequests : Prop :=
  ∀ s : State,
    (∀ c : Instr, s.powered = true → c = .perstNAssert ∨ (c = .functionLevelReset ∧ s.endpointUp = true) →
      Runs c s (fun t =>
        t.die.pcie = Pcie.reset ∧ (∀ q : Fin 16, t.reg (qBase q + 0x14) = 0 ∧ t.reg (qBase q + 0x18) = 0 ∧ t.reg (qBase q) = s.reg (qBase q)) ∧
        (∀ i : Stn, (t.stn i).pm = (s.stn i).pm ∧ (t.stn i).slots = (s.stn i).slots ∧ (t.stn i).ctl = (s.stn i).ctl) ∧ (∀ f ∈ t.die.mesh, isBar2To f.dst f = false) ∧
        t.sup.perst = (decide (c = .perstNAssert) || s.sup.perst) ∧ (c = .perstNAssert → t.reg 0x54008 = 0) ∧ t.lpddr = s.lpddr)) ∧
    (s.powered = false → Runs .perstNAssert s (fun t => t.sup = { s.sup with perst := true } ∧ OnlyChanges { s with sup := t.sup } t [] [])) ∧
    (s.endpointUp = false → exec .functionLevelReset s = .next s ∧ exec .d3hot s = .next s) ∧
    (∀ link : Byte,
      (s.sup.perst = true →
        Runs (.perstNDeassert link) s (fun t =>
          t.sup = { s.sup with perst := false, perstTick := s.uptime } ∧ (s.powered = true → t.reg 0x54008 = BitVec.ofNat 32 link.toNat) ∧
          OnlyChanges { s with sup := t.sup } t (if s.powered then [0x54008] else []) [])) ∧
      (s.sup.perst = false → exec (.perstNDeassert link) s = .next s)) ∧
    (s.endpointUp = true → s.aborting = false → s.cfgWaits = false →
      Runs (.configurationRequest (.read 0)) s (fun t =>
        t.out = s.out ++ [.completion 0 false (leBytes 4 (s.regView 0).toNat)] ∧ SameRegs s t [] ∧ SameStns s t [] ∧ t.lpddr = s.lpddr) ∧
      (∀ d, d ≠ 0 → Runs (.configurationRequest (.read d)) s (fun t =>
        (∃ v : Word, t.out = s.out ++ [.completion 0 false (leBytes 4 v.toNat)] ∧ (d = 2 → v.toNat / 256 = 0x120000)) ∧ t.free = s.free + 1 ∧ SameRegs s t [] ∧ SameStns s t [] ∧ t.lpddr = s.lpddr)) ∧
      (∀ b : Bool,
        Runs (.configurationRequest (.bme b)) s (fun t =>
          t.die.pcie = { s.die.pcie with bme := b, l1 := false } ∧ t.out = s.out ++ [.completion 0 false []] ∧ SameRegs s t [] ∧ SameStns s t [] ∧ t.lpddr = s.lpddr) ∧
        Runs (.configurationRequest (.aspm b)) s (fun t =>
          t.die.pcie = { s.die.pcie with l1En := b, l1 := false } ∧ t.out = s.out ++ [.completion 0 false []] ∧ SameRegs s t [] ∧ SameStns s t [] ∧ t.lpddr = s.lpddr)) ∧
      (∀ en mask : Bool,
        Runs (.configurationRequest (.msix en mask)) s (fun t =>
          t.die.pcie.msixEn = en ∧ t.die.pcie.msixMask = mask ∧ (en = false ∨ mask = true → t.die.pcie.pba = s.die.pcie.pba) ∧
          (en = true → mask = false → ∀ i : Fin 64, bitAt t.die.pcie.pba i = (bitAt s.die.pcie.pba i && bitAt (s.reg (0x5800C + 16 * i)) 0)) ∧
          SameRegs s t [] ∧ SameStns s t [] ∧ t.lpddr = s.lpddr)) ∧
      Runs (.configurationRequest .d0) s (fun t =>
        t.die.pcie = { s.die.pcie with d3 := false, l1 := false } ∧ SameRegs s t [] ∧ SameStns s t [] ∧ t.lpddr = s.lpddr)) ∧
    (∀ r : CfgReq,
      (s.endpointUp = true → s.aborting = true ∨ s.cfgWaits = true →
        Runs (.configurationRequest r) s (fun t =>
          t.out = s.out ++ [.completion (if s.aborting then 4 else 2) false []] ∧ OnlyChanges { s.leaveL1 with out := t.out } t [] [])) ∧
      (s.mayBoot = true → s.sup.perst = false →
        Runs (.configurationRequest r) s (fun t => t = s.emit (.completion 2 false []))) ∧
      (s.endpointUp = false → s.mayBoot = false ∨ s.sup.perst = true → exec (.configurationRequest r) s = .next s)) ∧
    (s.endpointUp = true →
      Runs .d3hot s (fun t => t.die.pcie = { s.die.pcie with d3 := true, l1 := false } ∧ SameRegs s t [] ∧ SameStns s t [] ∧ t.lpddr = s.lpddr)) ∧
    (s.endpointUp = true → s.die.pcie.l1En = true → s.die.pcie.l1 = false →
      Runs .l1Entry s (fun t => t.die.pcie = { s.die.pcie with l1 := true } ∧ SameRegs s t [] ∧ SameStns s t [] ∧ t.lpddr = s.lpddr)) ∧
    (s.endpointUp = false ∨ s.die.pcie.l1En = false ∨ s.die.pcie.l1 = true → exec .l1Entry s = .next s) ∧
    (∀ i : Fin 64, s.supState = 0 → s.writeServed (0x5800C + 16 * i) = true →
      (s.die.pcie.msixEn = true → s.die.pcie.msixMask = false → bitAt s.die.pcie.pba i = true →
        Runs (.msixUnmask i) s (fun t =>
          bitAt t.die.pcie.pba i = false ∧ bitAt (t.reg (0x5800C + 16 * i)) 0 = false ∧
          t.out = s.out ++ [.msix i ((s.reg (0x58004 + 16 * i)).toNat * 2 ^ 32 + (s.reg (0x58000 + 16 * i)).toNat) (s.reg (0x58008 + 16 * i))] ∧
          SameRegs s t [0x5800C + 16 * i.val] ∧ SameStns s t [] ∧ t.lpddr = s.lpddr)) ∧
      (s.die.pcie.msixEn = false ∨ s.die.pcie.msixMask = true ∨ bitAt s.die.pcie.pba i = false →
        Runs (.msixUnmask i) s (fun t =>
          t.die.pcie.pba = s.die.pcie.pba ∧ bitAt (t.reg (0x5800C + 16 * i)) 0 = false ∧ OnlyChanges s.leaveL1 t [0x5800C + 16 * i.val] [])))

/-- R416, R417, R423: with no command running, BEGIN of a copy that may be written, and CHUNK and END of one begun, run with BUSY 1 and change nothing else; one that R416 refuses, and any other operation, posts REFUSED and vector 1 and the flash stays; while BUSY a command is ignored. Completed, BEGIN leaves the copy erased, CHUNK the bytes of the window programmed at their place, and END posts what the examination finds; a flash error posts its result and leaves the flash, and each ends with BUSY 0. In a halt no command completes. UNLOCK presents a nonce, and without Haurn's signature UNLOCKED stays as it was. The refusal of a CHUNK whose LEN is out of range is the model's choice (log entry 35). -/
def Obligations.MailboxCommandsRun : Prop :=
  ∀ s : State,
    let quiet (t : State) : Prop := SameStns s t [] ∧ t.lpddr = s.lpddr ∧ t.fuses = s.fuses
    (∀ (v : Word) (k : Nat) (c : Instr), (k = 1 ∧ c = .mbxBegin v) ∨ (k = 2 ∧ c = .chunk v) ∨ (k = 3 ∧ c = .mbxEnd v) →
      s.supState = 0 → s.writeServed 0x10010 = true →
      let off := fld (s.reg 0x10014) 0 12
      let len := fld (s.reg 0x10014) 12 13
      (bitAt (s.reg 0x10018) 0 = false → s.mbxRefuses k (fld v 4 1) off len = false →
        Runs c s (fun t =>
          t.reg 0x10018 = 1 ∧ t.mbx.run = some (k, fld v 4 1, off, len, ((List.range 1024).flatMap (fun j => leBytes 4 (s.reg (0x11000 + 4 * j)).toNat)).take len) ∧
          t.flash = s.flash ∧ SameRegs s t [0x10018] ∧ quiet t)) ∧
      (bitAt (s.reg 0x10018) 0 = false → s.mbxRefuses k (fld v 4 1) off len = true →
        Runs c s (fun t => t.reg 0x10018 = 0x10 ∧ t.mbx.run = none ∧ t.flash = s.flash ∧ SameRegs s t [0x10018] ∧ quiet t)) ∧
      (bitAt (s.reg 0x10018) 0 = true → Runs c s (fun t => OnlyChanges s.leaveL1 t [] []))) ∧
    (∀ v : Word, s.supState = 0 → s.writeServed 0x10010 = true →
      (bitAt (s.reg 0x10018) 0 = false → Runs (.mailboxOtherOp v) s (fun t => t.reg 0x10018 = 0x10 ∧ t.flash = s.flash ∧ SameRegs s t [0x10018] ∧ quiet t)) ∧
      (bitAt (s.reg 0x10018) 0 = true → Runs (.mailboxOtherOp v) s (fun t => OnlyChanges s.leaveL1 t [] []))) ∧
    (∀ (op slot offset len : Nat) (d : List Byte) (e : Bool), s.mbx.run = some (op, slot, offset, len, d) →
      (s.supState ≠ 0 → exec (.mailboxComplete e) s = .next s) ∧
      (s.supState = 0 →
        Runs (.mailboxComplete true) s (fun t => t.reg 0x10018 = 0x20 ∧ t.mbx.run = none ∧ t.flash = s.flash ∧ SameRegs s t [0x10018] ∧ quiet t) ∧
        (op = 1 → Runs (.mailboxComplete false) s (fun t =>
          t.reg 0x10018 = 0 ∧ t.mbx.run = none ∧ slot ∈ t.mbx.begun ∧ (∀ r ∈ t.mbx.done, r.1 ≠ slot) ∧
          (∀ a, copyBase slot ≤ a → a < copyBase slot + 0x1000000 → mget byteFF t.flash a = 0xFF) ∧
          (∀ a, a < copyBase slot ∨ copyBase slot + 0x1000000 ≤ a → mget byteFF t.flash a = mget byteFF s.flash a) ∧
          SameRegs s t [0x10018] ∧ quiet t)) ∧
        (op = 2 → Runs (.mailboxComplete false) s (fun t =>
          t.reg 0x10018 = 0 ∧ t.mbx.run = none ∧ (slot, offset * 4096, len) ∈ t.mbx.done ∧
          (∀ k, (h : k < d.length) → mget byteFF t.flash (copyBase slot + offset * 4096 + k) = d[k]) ∧
          (∀ a, a < copyBase slot + offset * 4096 ∨ copyBase slot + offset * 4096 + d.length ≤ a → mget byteFF t.flash a = mget byteFF s.flash a) ∧
          SameRegs s t [0x10018] ∧ quiet t)) ∧
        (op = 3 → Runs (.mailboxComplete false) s (fun t =>
          t.reg 0x10018 = (if s.checkCopy slot false = 0 then 0 else BitVec.ofNat 32 (0x30 + s.checkCopy slot false % 16 * 256)) ∧ t.mbx.run = none ∧ t.flash = s.flash ∧
          (s.checkCopy slot false = 0 → SameRegs s t [0x10018]) ∧ (s.checkCopy slot false ≠ 0 → t.reg 0x6000C = s.reg 0x6000C + 1) ∧ quiet t)))) ∧
    (∀ e : Bool, s.mbx.run = none → exec (.mailboxComplete e) s = .next s) ∧
    (∀ sig : List Byte,
      (s.powered = true →
        Runs (.unlock sig) s (fun t =>
          (unlockOk (leBytes 48 (Config.freeNat s.free)) sig = true → bitAt (t.reg 0x10000) 6 = true ∧ SameRegs s t [0x10000]) ∧
          (unlockOk (leBytes 48 (Config.freeNat s.free)) sig = false → SameRegs s t []) ∧
          t.free = s.free + 1 ∧ t.out.length = s.out.length + 1 ∧ quiet t ∧ t.flash = s.flash)) ∧
      (s.powered = false → exec (.unlock sig) s = .next s))

/-- R405, R424 to R426, R443: on a medium that the module hears, each attestation request of its form is answered with status 0 and each other with 2, an unknown code with 1, and each MCTP control request as DSP0236 lays it out (log entry 44), where PCIe sends nothing while Bus Master Enable is 0; SET_ENDPOINT_ID sets the identifier that GET_ENDPOINT_ID returns; another message is discarded. A halt keeps the last attestation request of a medium for the resume. Nothing else of the module changes. -/
def Obligations.ManagementMessagesAreAnswered : Prop :=
  ∀ (s : State) (smbus : Bool),
    let said (u : State) (bytes : List Byte) : State := { u with out := u.out ++ (if smbus then [.mctp 1 bytes] else if s.die.pcie.bme then [.mctp 0 bytes] else []) }
    (∀ (p : List Byte) (c : Instr) (code status : Byte) (pay : List Byte),
      (c = .getInfo smbus p ∧ code = 1 ∧ (if p = [] then status = 0 ∧ pay = s.infoPayload else status = 2 ∧ pay = [])) ∨
      (c = .getCert smbus p ∧ code = 2 ∧ (if p.length = 4 ∧ leNat (p.drop 2) ≤ 1024 then status = 0 ∧ pay = (Config.certChain.drop (leNat (p.take 2))).take (leNat (p.drop 2)) else status = 2 ∧ pay = [])) ∨
      (c = .getMeas smbus p ∧ code = 3 ∧ (if p.length = 33 then status = 0 ∧ pay = s.measPayload (p.getD 32 0) ++ devSig (p ++ s.measPayload (p.getD 32 0)) else status = 2 ∧ pay = [])) ∨
      (c = .getAudit smbus p ∧ code = 4 ∧ (if p.length = 2 ∧ 0 < leNat p then status = 0 ∧ pay = s.flashBytes (auditAt (leNat p)) 256 else status = 2 ∧ pay = [])) ∨
      (c = .attestationOtherCode smbus code ∧ p = [] ∧ (code = 0 ∨ 4 < code.toNat) ∧ status = 1 ∧ pay = []) →
      (s.defers smbus = false → s.hears smbus = true → exec c s = .next (said s (s.attHead code status ++ pay))) ∧
      (s.defers smbus = true → exec c s = .next { s with asked := s.asked.filter (fun b => b.smbus != smbus) ++ [⟨smbus, code, p⟩] }) ∧
      (s.defers smbus = false → s.hears smbus = false → exec c s = .next s)) ∧
    (∀ code : Byte, 1 ≤ code.toNat → code.toNat ≤ 4 → exec (.attestationOtherCode smbus code) s = .next s) ∧
    (∀ (inst : Fin 32) (op eid ty sel : Byte),
      (s.hears smbus = true →
        (fld op 0 2 < 2 → eid ≠ 0 → eid ≠ 0xFF →
          Runs (.setEndpointId smbus inst op eid) s (fun t =>
            t = said { s with die := { s.die with eids := t.die.eids } } [0, BitVec.ofNat 8 inst, 1, 0, 0, eid, 0] ∧ t.die.eids.length = s.die.eids.length ∧
            (s.die.eids.length = 2 → t.eid smbus = eid.toNat ∧ t.eid (!smbus) = s.eid (!smbus)))) ∧
        (2 ≤ fld op 0 2 ∨ eid = 0 ∨ eid = 0xFF → exec (.setEndpointId smbus inst op eid) s = .next (said s [0, BitVec.ofNat 8 inst, 1, 2])) ∧
        exec (.getEndpointId smbus inst) s = .next (said s [0, BitVec.ofNat 8 inst, 2, 0, BitVec.ofNat 8 (s.eid smbus), 0, 0]) ∧
        (ty = 0xFF ∨ ty = 0 ∨ ty = 0x7F →
          Runs (.getMctpVersionSupport smbus inst ty) s (fun t =>
            ∃ v, t = said { s with free := s.free + 1 } ([0, BitVec.ofNat 8 inst, 4, 0, 1] ++ leBytes 4 v))) ∧
        (ty ≠ 0xFF → ty ≠ 0 → ty ≠ 0x7F → exec (.getMctpVersionSupport smbus inst ty) s = .next (said s [0, BitVec.ofNat 8 inst, 4, 0x80])) ∧
        exec (.getMessageTypeSupport smbus inst) s = .next (said s [0, BitVec.ofNat 8 inst, 5, 0, 1, 0x7F]) ∧
        (sel = 0 →
          Runs (.getVendorDefinedMessageSupport smbus inst sel) s (fun t =>
            ∃ v, t = said { s with free := s.free + 1 } ([0, BitVec.ofNat 8 inst, 6, 0, 0xFF, 1] ++ (leBytes 4 (Config.enterprise s.image)).reverse ++ leBytes 2 v))) ∧
        (sel ≠ 0 → exec (.getVendorDefinedMessageSupport smbus inst sel) s = .next (said s [0, BitVec.ofNat 8 inst, 6, 2]))) ∧
      (s.hears smbus = false →
        exec (.setEndpointId smbus inst op eid) s = .next s ∧ exec (.getEndpointId smbus inst) s = .next s ∧ exec (.getMctpVersionSupport smbus inst ty) s = .next s ∧
        exec (.getMessageTypeSupport smbus inst) s = .next s ∧ exec (.getVendorDefinedMessageSupport smbus inst sel) s = .next s) ∧
      exec (.mctpUnsupportedMessage smbus ty) s = .next s)

/-- R8, R405, R469, R470, R474: a write that the module's state does not serve changes nothing; a served one to a reserved address, to part of a register that takes whole dwords, or from 0x10000 on during a halt, is discarded and counted in DEV_CNT_DISCARD; one to a multicast, destination or neighbour register of the mesh sets the writable fields and nothing else, one to a read-only register of the governor nothing, and one to the mailbox window the enabled bytes. R405, R473, R477: the host's read of a low register of a latched pair completes with its value and latches the high one for the host; its next read of the high register completes with the latched value and takes the latch; any other read completes with the register as it stands, or, of a word of the local store that the signal box is writing, with each bit old or new; a read that the state refuses completes with the status that R405 gives; a management core has a latch of its own. -/
def Obligations.RegisterAccesses : Prop :=
  (∀ (s : State) (a : Nat) (en : BitVec 4) (v : Word),
    (s.writeServed a = false ∨ en = 0 → exec (.registerWrite a en v) s = .next s) ∧
    (s.writeServed a = true → en ≠ 0 → rwMask a = none ∨ (en ≠ 0xF ∧ byteWritable a = false) ∨ (s.supState ≠ 0 ∧ 0x10000 ≤ a) →
      Runs (.registerWrite a en v) s (fun t => t.reg 0x24 = satAdd (s.reg 0x24) 1 ∧ OnlyChanges s.leaveL1 t [0x24] [])) ∧
    (s.writeServed a = true → s.supState = 0 →
      (∀ m : Word, en = 0xF → 0x201000 ≤ a → a < 0x202800 → rwMask a = some m →
        Runs (.registerWrite a en v) s (fun t => t.reg a = (v &&& m) ||| (s.reg a &&& ~~~m) ∧ OnlyChanges s.leaveL1 t [a] [])) ∧
      (en = 0xF → 0x30000 ≤ a → a < 0x40000 → rwMask a = some 0 → Runs (.registerWrite a en v) s (fun t => OnlyChanges s.leaveL1 t [] [])) ∧
      (en ≠ 0 → 0x11000 ≤ a → a < 0x12000 → a % 4 = 0 →
        Runs (.registerWrite a en v) s (fun t =>
          (∀ k, k < 4 → fld (t.reg a) (8 * k) 8 = (if bitAt en k then fld v (8 * k) 8 else fld (s.reg a) (8 * k) 8)) ∧ OnlyChanges s.leaveL1 t [a] [])))) ∧
  (∀ (s : State) (a : Nat) (clash : Option Word),
    let at' (u : State) (k : Nat) : Option Word := mget (fun _ => (none : Option Word)) u.latch k
    let window := 0x2000000 ≤ a ∧ 0x8000 ≤ a % 0x10000 ∧ (s.stn ((a - 0x2000000) / 0x10000)).ctl.run = .awake
    (s.pcieUp = true →
      (s.readStatus a = 0 → latches a = true →
        Runs (.loLatchRead 0 ⟨a, clash⟩) s (fun t =>
          t.out = s.out ++ [.completion 0 false (leBytes 4 (s.regView a).toNat)] ∧ at' t (latchKey 0 a) = some (s.regView (a + 4)) ∧
          SameRegs s t [] ∧ SameStns s t [] ∧ t.lpddr = s.lpddr)) ∧
      (∀ (lo : Nat) (v : Word), s.readStatus a = 0 → latches a = false → latchedLo a = some lo → at' s (latchKey 0 lo) = some v →
        Runs (.loLatchRead 0 ⟨a, clash⟩) s (fun t =>
          t.out = s.out ++ [.completion 0 false (leBytes 4 v.toNat)] ∧ at' t (latchKey 0 lo) = none ∧ SameRegs s t [] ∧ SameStns s t [] ∧ t.lpddr = s.lpddr)) ∧
      (s.readStatus a = 0 → latches a = false → (∀ lo, latchedLo a = some lo → at' s (latchKey 0 lo) = none) →
        (clash = none ∨ ¬ window →
          Runs (.loLatchRead 0 ⟨a, clash⟩) s (fun t =>
            t.out = s.out ++ [.completion 0 false (leBytes 4 (s.regView a).toNat)] ∧ OnlyChanges { s.leaveL1 with out := t.out } t [] [])) ∧
        (∀ w : Word, clash = some w → window →
          Runs (.loLatchRead 0 ⟨a, clash⟩) s (fun t =>
            (∃ x : Word, t.out = s.out ++ [.completion 0 false (leBytes 4 x.toNat)] ∧ ∀ k, k < 32 → bitAt x k = bitAt (s.regView a) k ∨ bitAt x k = bitAt w k) ∧
            OnlyChanges { s.leaveL1 with out := t.out, free := s.free + 1 } t [] []))) ∧
      (s.readStatus a ≠ 0 → Runs (.loLatchRead 0 ⟨a, clash⟩) s (fun t => t = s.emit (.completion (s.readStatus a) false [])))) ∧
    (s.pcieUp = false → exec (.loLatchRead 0 ⟨a, clash⟩) s = .next s) ∧
    (∀ r : Fin 5, r ≠ 0 →
      (latches a = true →
        Runs (.loLatchRead r ⟨a, clash⟩) s (fun t =>
          at' t (latchKey r a) = some (s.regView (a + 4)) ∧ (∀ k, k ≠ latchKey r a → at' t k = at' s k) ∧ OnlyChanges { s with latch := t.latch } t [] [])) ∧
      (∀ lo, latches a = false → latchedLo a = some lo → at' s (latchKey r lo) ≠ none →
        Runs (.loLatchRead r ⟨a, clash⟩) s (fun t =>
          at' t (latchKey r lo) = none ∧ (∀ k, k ≠ latchKey r lo → at' t k = at' s k) ∧ OnlyChanges { s with latch := t.latch } t [] [])) ∧
      (latches a = false → (∀ lo, latchedLo a = some lo → at' s (latchKey r lo) = none) → exec (.loLatchRead r ⟨a, clash⟩) s = .next s)))

/-- R93, R94, R105, R107, R430 to R432, R287, R289, R290, R442: a BAR2 access to an awake or stopped station reads its window, or writes its platform memory, and at a stopped one its slots; a write to the slots of an awake one is discarded and counted; collisions raise BUSY and refused requests BCONF4, and at a second collision, or while a slot is being written, the read still completes; at a sleeping station the access waits at the router, or behind a full one in the mesh, and asks for wake, and after 90 µs a read ends with Completer Abort and a write is discarded and counted. A BAR4 read of good lines completes with their bytes and changes none, of an uncorrectable line it completes poisoned; a write stores its bytes and no others, one to the spill, the snapshots or a code store is counted only, and beyond the fitted capacity a read is refused and a write changes nothing. In the last part of a halt a read ends with Completer Abort, before READY and in D3hot it is not supported. What collides is an operand (log entry 11). -/
def Obligations.WindowAccesses : Prop :=
  ∀ s : State,
    (s.endpointUp = true → s.aborting = false → s.memServed = true →
      (∀ (i : Stn) (off : Fin 4194304) (n : Fin 65) (busy : Fin 3) (refused : Nat),
        let port (t : State) : Prop :=
          t.reg (0x204000 + 4 * i.val) = (if off.val < 0x100000 ∧ 0 < busy.val then satAdd (s.reg (0x204000 + 4 * i.val)) busy.val else s.reg (0x204000 + 4 * i.val)) ∧
          t.reg (pageBase i + 0x138) = (if off.val < 0x100000 ∧ 0 < refused then satAdd (s.reg (pageBase i + 0x138)) refused else s.reg (pageBase i + 0x138))
        ((s.stn i).sleeps = false →
          Runs (.bar2Access i off n none ⟨busy, refused⟩) s (fun t =>
            (∃ bs : List Byte, t.out = s.out ++ [.completion 0 false bs] ∧ bs.length = n.val ∧
              (busy.val = 0 → bs = (List.range n).map (fun k => (s.stn i).winByte (off + k))) ∧
              (busy.val < 2 → ∀ k, k < n.val → off.val + k < 0x100000 → bs[k]? = some (mget byte0 (s.stn i).pm (off + k)))) ∧
            port t ∧ SameRegs s t [0x204000 + 4 * i.val, pageBase i + 0x138] ∧ SameStns s t [] ∧ t.lpddr = s.lpddr) ∧
          (∀ bs : List Byte, winSlots off (bs.take n).length = false →
            Runs (.bar2Access i off n (some bs) ⟨busy, refused⟩) s (fun t =>
              (∀ k (h : k < (bs.take n).length), off.val + k < 0x100000 → mget byte0 (t.stn i).pm (off + k) = (bs.take n)[k]) ∧
              (∀ j, j < off.val ∨ off.val + (bs.take n).length ≤ j → mget byte0 (t.stn i).pm j = mget byte0 (s.stn i).pm j) ∧
              (t.stn i).slots = (s.stn i).slots ∧ port t ∧ OnlyChanges s.leaveL1 t [0x204000 + 4 * i.val, pageBase i + 0x138] [i.val]))) ∧
        (∀ bs : List Byte, (s.stn i).ctl.run = .awake → winSlots off (bs.take n).length = true →
          Runs (.bar2Access i off n (some bs) ⟨busy, refused⟩) s (fun t =>
            t.reg 0x54004 = satAdd (s.reg 0x54004) 1 ∧ (t.stn i).slots = (s.stn i).slots ∧ port t ∧
            OnlyChanges s.leaveL1 t [0x54004, 0x204000 + 4 * i.val, pageBase i + 0x138] [i.val])) ∧
        (∀ bs : List Byte, (s.stn i).ctl.run = .stopped → 0x100000 ≤ off.val → off.val < 0x180000 → off.val % 8 = 0 → (bs.take n).length = 8 →
          Runs (.bar2Access i off n (some bs) ⟨busy, refused⟩) s (fun t =>
            ((t.stn i).slot ((off - 0x100000) / 0x2000)).entry (off % 0x2000 / 512) (off % 512 / 8) = ⟨BitVec.ofNat 48 (leNat (bs.take 6)), 0⟩ ∧
            (t.stn i).pm = (s.stn i).pm ∧ OnlyChanges s.leaveL1 t [] [i.val])) ∧
        (∀ w : Option (List Byte), (s.stn i).sleeps = true →
          let f : Flit := ⟨pcieNode, i, pcieNode, s.uptime, none, .bar2 off n (w.map (·.take n))⟩
          Runs (.bar2Access i off n w ⟨busy, refused⟩) s (fun t =>
            ((s.stn i).routerHeld.length < 128 → (t.stn i).routerHeld = (s.stn i).routerHeld ++ [f] ∧ t.die.mesh = s.die.mesh) ∧
            (128 ≤ (s.stn i).routerHeld.length → (t.stn i).routerHeld = (s.stn i).routerHeld ∧ t.die.mesh = s.die.mesh ++ [f]) ∧
            t.die.wakeQ = (if (s.stn i).ctl.run = .asleep ∧ (s.stn i).ctl.wakeReq = false ∧ (s.stn i).ctl.admitted = false then s.die.wakeQ ++ [i.val] else s.die.wakeQ) ∧
            (t.stn i).pm = (s.stn i).pm ∧ t.out = s.out ∧ SameRegs s t [] ∧ SameStns s t [i.val] ∧ t.lpddr = s.lpddr))) ∧
      (∀ (off n : Nat) (ce ue : Bool),
        let a := fld (s.reg 0x54000) 0 10 * 2 ^ 30 + off % 2 ^ 36
        (a < s.capBytes → (∀ l ∈ (linesOf a n).filter s.bar4Reads, s.lineBad l ue = false) → ue = false →
          Runs (.bar4Access off n none ce ue) s (fun t =>
            t.out = s.out ++ [.completion 0 false (s.bar4Bytes a n)] ∧ t.lpddr = s.lpddr ∧ t.poison = s.poison ∧ SameStns s t [])) ∧
        (a < s.capBytes → (∃ l ∈ (linesOf a n).filter s.bar4Reads, s.lineBad l ue = true) →
          Runs (.bar4Access off n none ce ue) s (fun t =>
            (∃ o bs, t.out = s.out ++ o ++ [.completion 0 true bs] ∧ bs.length = n) ∧ SameStns s t [] ∧ (ue = false → t.lpddr = s.lpddr ∧ t.poison = s.poison))) ∧
        (∀ bs : List Byte, a < s.capBytes → s.region a = .user ∨ s.region a = .golden →
          Runs (.bar4Access off n (some bs) ce ue) s (fun t =>
            t.rdBytesAt a bs.length = bs ∧ (∀ j, j < a ∨ a + bs.length ≤ j → mget byte0 t.lpddr j = mget byte0 s.lpddr j) ∧ t.images = s.images ∧ SameStns s t [])) ∧
        (∀ bs : List Byte, a < s.capBytes → s.region a = .spill ∨ s.region a = .snapshot ∨ s.region a = .store →
          Runs (.bar4Access off n (some bs) ce ue) s (fun t => t.reg 0x100808 = satAdd (s.reg 0x100808) 1 ∧ OnlyChanges s.leaveL1 t [0x100808] [])) ∧
        (s.capBytes ≤ a →
          Runs (.bar4Access off n none ce ue) s (fun t => t = s.leaveL1.emit (.completion 1 false [])) ∧
          ∀ bs : List Byte, exec (.bar4Access off n (some bs) ce ue) s = .next s.leaveL1))) ∧
    (∀ (i : Stn) (off : Fin 4194304) (n : Fin 65) (busy : Fin 3) (refused a m : Nat) (ce ue : Bool) (w : Option (List Byte)),
      (s.endpointUp = true → s.aborting = true ∨ s.memServed = false →
        let ended := if w.isNone then s.leaveL1.emit (.completion (if s.aborting then 4 else 1) false []) else s.leaveL1
        exec (.bar2Access i off n w ⟨busy, refused⟩) s = .next ended ∧ exec (.bar4Access a m w ce ue) s = .next ended) ∧
      (s.endpointUp = false → exec (.bar2Access i off n w ⟨busy, refused⟩) s = .next s ∧ exec (.bar4Access a m w ce ue) s = .next s)) ∧
    (∀ i : Stn,
      (∀ (f : Flit) (rest : List Flit) (o m : Nat) (w : Option (List Byte)), s.endpointUp = true → f.body = .bar2 o m w →
        takeFlit (s.lateBar2 i) (s.stn i).routerHeld = some (f, rest) ∨ (takeFlit (s.lateBar2 i) (s.stn i).routerHeld = none ∧ takeFlit (s.lateBar2 i) s.die.mesh = some (f, rest)) →
        Runs (.bar2Timeout i) s (fun t =>
          (takeFlit (s.lateBar2 i) (s.stn i).routerHeld ≠ none → (t.stn i).routerHeld = rest ∧ t.die.mesh = s.die.mesh) ∧
          (takeFlit (s.lateBar2 i) (s.stn i).routerHeld = none → (t.stn i).routerHeld = (s.stn i).routerHeld ∧ t.die.mesh = rest) ∧
          (t.stn i).pm = (s.stn i).pm ∧ (t.stn i).ctl = (s.stn i).ctl ∧
          (w = none → t.out = s.out ++ [.completion 4 false []] ∧ SameRegs s t []) ∧
          (w ≠ none → t.reg 0x54004 = satAdd (s.reg 0x54004) 1 ∧ t.out = s.out ∧ SameRegs s t [0x54004]) ∧ SameStns s t [i.val] ∧ t.lpddr = s.lpddr)) ∧
      (s.endpointUp = false ∨ (takeFlit (s.lateBar2 i) (s.stn i).routerHeld = none ∧ takeFlit (s.lateBar2 i) s.die.mesh = none) → exec (.bar2Timeout i) s = .next s))

/-- R429, R433 to R440, R445: TAIL takes what the host writes; EN of a queue is taken only for a ring that lies below USERTOP, and empties that of an inbound queue or reads that of an outbound one, DIR only while EN is 0; QRESET sets HEAD and TAIL to 0. An inbound descriptor of an unknown KIND completes with STATUS 3, one whose length makes no record that fits the ring with 2, one whose buffer cannot be read with 4; one waits while its record does not fit; and one whose record fits enters the ring, header and lines, and completes with 1, PROD and the record count on, its session made READY or counted, its token given. An outbound one takes the record at CONS to the host, or with STATUS 4 leaves it when the host refuses; a pad is passed first, a record of another KIND is passed with STATUS 3, one that runs past the ring completes with 2; the feed reads the producer line. A queue that does not serve does nothing. Corners of the ring are the model's reading (log entry 59). -/
def Obligations.HostQueuesMoveRecords : Prop :=
  ∀ (s : State) (q : Fin 16),
    let b := qBase q
    let sound : Prop := ∀ l ∈ s.poison, s.inEcc l = false
    let ended (status : Nat) (t : State) : Prop :=
      .hostWrite (s.descAddr q + 0x18) (leBytes 4 status) ∈ t.out ∧ t.qHead q = (s.qHead q + 1) % s.qSize q
    (∀ v : Word, s.supState = 0 → s.writeServed b = true →
      Runs (.hostqTailWrite q v) s (fun t => t.reg (b + 0x14) = (v &&& 0xFFFF) ||| (s.reg (b + 0x14) &&& ~~~0xFFFF) ∧ OnlyChanges s.leaveL1 t [b + 0x14] []) ∧
      (bitAt (s.reg b) 0 = false → bitAt v 0 = true → s.qRingOk q = true →
        (bitAt v 1 = false → Runs (.hostqEn q v) s (fun t =>
          bitAt (t.reg b) 0 = true ∧ bitAt (t.reg b) 1 = false ∧ t.qProd q = 2 ∧ t.qCount q = 0 ∧ t.qCons q = 2 ∧
          (∀ a, a / 64 ≠ s.qLine q → a / 64 ≠ s.qLine q + 1 → mget byte0 t.lpddr a = mget byte0 s.lpddr a) ∧ SameRegs s t [b, b + 0x14, b + 0x18] ∧ SameStns s t [])) ∧
        (bitAt v 1 = true → Runs (.hostqEn q v) s (fun t =>
          bitAt (t.reg b) 0 = true ∧ bitAt (t.reg b) 1 = true ∧ t.polled q = s.qProd q ∧ (sound → SameRegs s t [b, b + 0x14, b + 0x18]) ∧ SameStns s t [] ∧ t.lpddr = s.lpddr))) ∧
      (bitAt (s.reg b) 0 = true ∨ bitAt v 0 = false ∨ s.qRingOk q = false →
        Runs (.hostqEn q v) s (fun t =>
          bitAt (t.reg b) 0 = (bitAt v 0 && s.qRingOk q) ∧ bitAt (t.reg b) 1 = (if bitAt (s.reg b) 0 then bitAt (s.reg b) 1 else bitAt v 1) ∧
          (bitAt v 2 = false → SameRegs s t [b]) ∧ OnlyChanges s.leaveL1 t [b, b + 0x14, b + 0x18] []) ∧
        Runs (.qreset q v) s (fun t => OnlyChanges s.leaveL1 t [b, b + 0x14, b + 0x18] [])) ∧
      Runs (.qreset q v) s (fun t => t.qHead q = 0 ∧ t.qTail q = 0 ∧ SameStns s t [])) ∧
    (∀ (d : HostDesc) (buf : Option (List Byte)),
      (s.qServes q false = true →
        (6 < d.kind.toNat →
          Runs (.inboundDescriptor q d buf) s (fun t =>
            ended 3 t ∧ t.reg (b + 0x28) = satAdd (s.reg (b + 0x28)) 1 ∧ SameRegs s t [b + 0x18, b + 0x28] ∧ SameStns s t [] ∧ t.lpddr = s.lpddr)) ∧
        (d.kind.toNat ≤ 6 → recordLines d.kind.toNat d.len.toNat = none ∨ (∃ dl sl, recordLines d.kind.toNat d.len.toNat = some (dl, sl) ∧ s.qLen q < 1 + dl + sl + 3) →
          Runs (.inboundDescriptor q d buf) s (fun t =>
            ended 2 t ∧ t.reg (b + 0x28) = satAdd (s.reg (b + 0x28)) 1 ∧ SameRegs s t [b + 0x18, b + 0x28] ∧ SameStns s t [] ∧ t.lpddr = s.lpddr)) ∧
        (∀ dl sl : Nat, d.kind.toNat ≤ 6 → recordLines d.kind.toNat d.len.toNat = some (dl, sl) → 1 + dl + sl + 3 ≤ s.qLen q →
          (place (s.qProd q) (s.qCons q) (s.qLen q) (1 + dl + sl) = none →
            Runs (.inboundDescriptor q d buf) s (fun t => t.qHead q = s.qHead q ∧ t.qProd q = s.qProd q ∧ (sound → SameRegs s t []) ∧ SameStns s t [] ∧ t.lpddr = s.lpddr)) ∧
          (∀ (line : Nat) (pad : Bool) (prod : Nat), place (s.qProd q) (s.qCons q) (s.qLen q) (1 + dl + sl) = some (line, pad, prod) →
            (buf = none →
              Runs (.inboundDescriptor q d buf) s (fun t =>
                ended 4 t ∧ (sound → t.reg (b + 0x28) = satAdd (s.reg (b + 0x28)) 1 ∧ SameRegs s t [b + 0x18, b + 0x28]) ∧ SameStns s t [] ∧ t.lpddr = s.lpddr)) ∧
            (∀ bytes : List Byte, buf = some bytes →
              Runs (.inboundDescriptor q d buf) s (fun t =>
                ended 1 t ∧ t.qProd q = prod ∧ t.qCount q = (s.qCount q + 1) % 2 ^ 32 ∧ t.reg (b + 0x24) = satAdd (s.reg (b + 0x24)) 1 ∧
                (2 ≤ line →
                  t.line (s.qLine q + line) = headerLine (s.qCount q) d.session.toNat d.kind.toNat (d.flags.toNat % 2) dl sl d.len.toNat d.user ∧
                  t.memBytes ((s.qLine q + line + 1) * 64) ((dl + sl) * 64) =
                    padTo (dl * 64) ((bytes.take d.len.toNat).take (dl * 64)) ++ padTo (sl * 64) ((bytes.take d.len.toNat).drop (dl * 64))) ∧
                (d.session.toNat < 10240 → s.sessState d.session.toNat = 1 → fld (s.reg (sessAddr d.session.toNat 0)) 16 4 = q.val → t.sessState d.session.toNat = 2) ∧
                (bitAt (s.reg b) 8 = true → (s.stn (fld (s.reg b) 9 7)).sleeps = false → bitAt (t.stn (fld (s.reg b) 9 7)).tokens (fld (s.reg b) 16 8) = true) ∧
                SameStns s t [fld (s.reg b) 9 7]))))) ∧
      (s.qServes q false = false → exec (.inboundDescriptor q d buf) s = .next s)) ∧
    (∀ (d : HostDesc) (ok : Bool),
      let pad := decide ((s.headerAt q (s.qCons q)).kind = 0xFF)
      let line := if pad then 2 else s.qCons q
      let h := s.headerAt q line
      let frame (t : State) : Prop := (∀ a, a / 64 ≠ s.qLine q + 1 → mget byte0 t.lpddr a = mget byte0 s.lpddr a) ∧ SameStns s t []
      (s.qServes q true = true → s.polled q ≠ s.qCons q →
        (s.polled q = line → Runs (.outboundDescriptor q d ok) s (fun t => t.qCons q = 2 ∧ t.qHead q = s.qHead q ∧ frame t)) ∧
        (s.polled q ≠ line → s.qLen q < line + 1 + h.dlines + h.slines → Runs (.outboundDescriptor q d ok) s (fun t => ended 2 t ∧ t.qCons q = line ∧ frame t)) ∧
        (s.polled q ≠ line → line + 1 + h.dlines + h.slines ≤ s.qLen q → 6 < h.kind →
          Runs (.outboundDescriptor q d ok) s (fun t => ended 3 t ∧ t.qCons q = afterRecord (s.qLen q) line h ∧ frame t)) ∧
        (s.polled q ≠ line → line + 1 + h.dlines + h.slines ≤ s.qLen q → h.kind ≤ 6 → ok = false →
          Runs (.outboundDescriptor q d ok) s (fun t => ended 4 t ∧ t.qCons q = line ∧ frame t)) ∧
        (s.polled q ≠ line → line + 1 + h.dlines + h.slines ≤ s.qLen q → h.kind ≤ 6 → ok = true →
          Runs (.outboundDescriptor q d ok) s (fun t =>
            .hostWrite d.addr (s.memBytes ((s.qLine q + line + 1) * 64) (min h.bytes d.len.toNat)) ∈ t.out ∧
            ended (if d.len.toNat < h.bytes then 6 else 1) t ∧ t.qCons q = afterRecord (s.qLen q) line h ∧ frame t))) ∧
      (s.qServes q true = false ∨ s.polled q = s.qCons q → exec (.outboundDescriptor q d ok) s = .next s)) ∧
    (s.qServes q true = true →
      Runs (.producerLinePoll q) s (fun t => t.polled q = s.qProd q ∧ (∀ k, k ≠ q.val → t.polled k = s.polled k) ∧ (sound → SameRegs s t []) ∧ SameStns s t [] ∧ t.lpddr = s.lpddr)) ∧
    (s.qServes q true = false → exec (.producerLinePoll q) s = .next s)

/-- R449 to R455, R458, R350: step 1 replays the instruction, counted in the module and the station, once its golden line is good. Step 2 reloads the bank from its golden slot: the instruction goes on to the next reload or to its replay, and draws the credits of the reload; a golden line that is uncorrectable, or descriptor bytes that no WLOAD takes, send it to step 5 with the bank as it was. A bank that a scrub found wrong is reloaded the same way once the account holds the credits. Step 3 marks a macro that may be routed around as faulted and retires the module over any other. Step 4 empties the queue, the flights and the summary FIFO of the station and runs its signal box from its restart point, while platform memory, slots, banks and tokens stay, as do those of every other station, and what its instructions have not landed leaves the mesh. Each step is counted, and with no instruction or macro at that step the command does nothing. A record for each step is the model's reading (log entry 67), as is what a replaying ledger entry keeps (log entry 92). -/
def Obligations.LadderStepsOneToFour : Prop :=
  ∀ (s : State) (i : Stn),
    let frame (t : State) : Prop := SameStns s t [i.val] ∧ t.lpddr = s.lpddr ∧ t.fuses = s.fuses
    let lines (m k : Nat) : List Nat := (List.range 75).map (s.slotLine i m k + ·) ++ [s.slotLine i m k + 79]
    let good (m k : Nat) (found : Option Nat) : Prop :=
      (∀ l ∈ lines m k, s.lineBad l (found = some (l - s.slotLine i m k)) = false) ∧ (s.slotDesc i m k).ok = true
    let reloaded (m k : Nat) (t : State) : Prop :=
      let a := s.reloadAddr i
      let d := s.slotDesc i m k
      t.reg 0x60024 = satAdd (s.reg 0x60024) 1 ∧ (t.stn i).reloadBuf = some (m, k) ∧
      (∀ j, j < 0x12C0 → mget byte0 (t.stn i).pm ((a % pmTop + j) % pmTop) = mget byte0 s.lpddr (s.slotLine i m k * 64 + j)) ∧
      (t.stn i).bank m k = bankAt (t.stn i).pm ((s.stn i).bank m k) a (a + 0x1040) d.wfmt d.sparse d.kext d.next ∧
      (∀ m' k', (m', k') ≠ (m, k) → m' < 64 → k' < 4 → k < 4 → (t.stn i).bank m' k' = (s.stn i).bank m' k') ∧ (t.stn i).slots = (s.stn i).slots
    (∀ (f : Flight) (o : Obs), s.atStep i 1 = some f →
      (s.awaitsRebuild f = true → exec (.tileReplay i o) s = .next s) ∧
      (s.awaitsRebuild f = false →
        Runs (.tileReplay i o) s (fun t =>
          t.reg 0x60020 = satAdd (s.reg 0x60020) 1 ∧ t.preg i 0x158 = satAdd (s.preg i 0x158) 1 ∧ SameStns s t [i.val] ∧
          (opc f.word ≠ 9 → t.lpddr = s.lpddr) ∧ t.fuses = s.fuses))) ∧
    (∀ o : Obs, s.atStep i 1 = none → exec (.tileReplay i o) s = .next s) ∧
    (∀ (f : Flight) (found : Option Nat) (ce : List Nat), s.atStep i 2 = some f →
      (f.toReload = [] → Runs (.macroReload i ⟨found, ce⟩) s (fun t =>
        (t.stn i).flightOf f.seq = some { f with stage := .recover 1 } ∧ OnlyChanges s t [] [i.val])) ∧
      (∀ (m : Nat) (r : List Nat), f.toReload = m :: r →
        (good m (bankOf f.word) found →
          Runs (.macroReload i ⟨found, ce⟩) s (fun t =>
            reloaded m (bankOf f.word) t ∧
            (∃ g, (t.stn i).flightOf f.seq = some g ∧ g.toReload = r ∧ g.reloaded = f.reloaded ++ [m] ∧ g.stage = .recover (if r.isEmpty then 1 else 2)) ∧ frame t)) ∧
        (¬ good m (bankOf f.word) found →
          Runs (.macroReload i ⟨found, ce⟩) s (fun t =>
            t.reg 0x60024 = satAdd (s.reg 0x60024) 1 ∧
            (∃ g, (t.stn i).flightOf f.seq = some g ∧ g.stage = .recover 5 ∧ g.why.code = 0x0202) ∧
            (t.stn i).banks = (s.stn i).banks ∧ (t.stn i).pm = (s.stn i).pm ∧ frame t)))) ∧
    (∀ (found : Option Nat) (ce : List Nat), s.atStep i 2 = none →
      (∀ (m k : Nat) (w : FaultInfo) (paid : Nat) (r : List (Nat × Nat × FaultInfo × Nat)),
        (s.stn i).toReload = (m, k, w, paid) :: r → s.live = true → (s.stn i).climber = none → (s.stn i).replaying = false →
        (paid + (s.stn i).iss.account < s.reloadCost i m k →
          Runs (.macroReload i ⟨found, ce⟩) s (fun t =>
            (t.stn i).toReload = (m, k, w, paid + (s.stn i).iss.account) :: r ∧ (t.stn i).iss.account = 0 ∧
            (t.stn i).banks = (s.stn i).banks ∧ OnlyChanges s t [] [i.val])) ∧
        (s.reloadCost i m k ≤ paid + (s.stn i).iss.account →
          (good m k found → Runs (.macroReload i ⟨found, ce⟩) s (fun t =>
            reloaded m k t ∧ (t.stn i).toReload = r ∧ (t.stn i).iss.account = (s.stn i).iss.account - (s.reloadCost i m k - paid) ∧
            (t.stn i).iss.flight = (s.stn i).iss.flight ∧ frame t)) ∧
          (¬ good m k found → Runs (.macroReload i ⟨found, ce⟩) s (fun t =>
            t.reg 0x60024 = satAdd (s.reg 0x60024) 1 ∧ t.reg 0x60030 = satAdd (s.reg 0x60030) 1 ∧ t.reg 0x80834 = BitVec.ofNat 32 ((s.lce + 1) % 65536) ∧
            (t.stn i).banks = (s.stn i).banks ∧ t.lpddr = s.lpddr ∧ t.fuses = s.fuses)))) ∧
      ((s.stn i).toReload = [] ∨ s.live = false ∨ (s.stn i).climber ≠ none ∨ (s.stn i).replaying = true →
        exec (.macroReload i ⟨found, ce⟩) s = .next s)) ∧
    (∀ f : Flight, s.atStep i 3 = some f →
      let on (r : List Nat) : Stage := if r.isEmpty then .recover (if f.toReload.isEmpty then 1 else 2) else .recover 3
      (f.toFault = [] → Runs (.routeAround i) s (fun t => (t.stn i).flightOf f.seq = some { f with stage := on [] } ∧ OnlyChanges s t [] [i.val])) ∧
      (∀ (m : Nat) (r : List Nat), f.toFault = m :: r → m < 64 →
        (s.canRoute i m = true →
          Runs (.routeAround i) s (fun t =>
            bitAt (t.faultBits i) m = true ∧ t.reg 0x60028 = satAdd (s.reg 0x60028) 1 ∧ t.isRetired = s.isRetired ∧
            (t.stn i).flightOf f.seq = some { f with toFault := r, stage := on r } ∧ frame t)) ∧
        (s.canRoute i m = false →
          Runs (.routeAround i) s (fun t =>
            t.isRetired = true ∧ (s.isRetired = false → t.reg 0x60034 = satAdd (s.reg 0x60034) 1 ∧ t.reg 0x60030 = satAdd (s.reg 0x60030) 1) ∧
            t.reg 0x60028 = s.reg 0x60028 ∧ t.faultBits i = s.faultBits i ∧ t.lpddr = s.lpddr ∧ t.fuses = s.fuses)))) ∧
    (s.atStep i 3 = none →
      (∀ (m : Nat) (r : List Nat), (s.stn i).toFault = m :: r → m < 64 → s.live = true → (s.stn i).climber = none → (s.stn i).replaying = false →
        s.canRoute i m = true →
          Runs (.routeAround i) s (fun t =>
            bitAt (t.faultBits i) m = true ∧ t.reg 0x60028 = satAdd (s.reg 0x60028) 1 ∧ t.isRetired = s.isRetired ∧ (t.stn i).toFault = r ∧
            (t.stn i).iss = (s.stn i).iss ∧ (t.stn i).banks = (s.stn i).banks ∧ frame t)) ∧
      ((s.stn i).toFault = [] ∨ s.live = false ∨ (s.stn i).climber ≠ none ∨ (s.stn i).replaying = true → exec (.routeAround i) s = .next s)) ∧
    (∀ f : Flight, s.atStep i 4 = some f → s.unreplayable i = false →
      Runs (.stationRestart i) s (fun t =>
        (t.stn i).iss.queue = [] ∧ (t.stn i).iss.flight = [] ∧ (t.stn i).iss.fifo = [] ∧ (t.stn i).redq = [] ∧
        ((s.stn i).ctl.stopping = false → (t.stn i).ctl.run = .awake ∧ bitAt (t.preg i 4) 0 = true) ∧
        (t.stn i).sb.pc = (s.stn i).restart.pc ∧ (t.stn i).step4 = true ∧
        (t.stn i).pm = (s.stn i).pm ∧ (t.stn i).slots = (s.stn i).slots ∧ (t.stn i).banks = (s.stn i).banks ∧ (t.stn i).tokens = (s.stn i).tokens ∧
        (∀ e ∈ (t.stn i).ledger.entries, e.owned = 0 ∧ e.value.isSome = true ∧ ∃ e' ∈ (s.stn i).ledger.entries, e'.seq = e.seq ∧ e'.value = e.value ∧ e'.done = e.done) ∧
        (∀ h ∈ t.die.mesh, h ∈ s.die.mesh ∧ ofInstrs i ((s.stn i).iss.flight.map (·.seq)) h = false) ∧
        (∀ j : Stn, j ≠ i → (t.stn j).pm = (s.stn j).pm ∧ (t.stn j).slots = (s.stn j).slots ∧ (t.stn j).banks = (s.stn j).banks ∧ (t.stn j).tokens = (s.stn j).tokens ∧
          (t.stn j).iss = (s.stn j).iss ∧ (t.stn j).sb = (s.stn j).sb ∧ (t.stn j).ctl = (s.stn j).ctl ∧ (t.stn j).ledger = (s.stn j).ledger) ∧
        t.reg 0x6002C = satAdd (s.reg 0x6002C) 1 ∧ t.lpddr = s.lpddr ∧ t.fuses = s.fuses)) ∧
    (s.atStep i 4 = none → exec (.stationRestart i) s = .next s)

/-- R459: a station restart is refused when the station's ledger is disabled, when an open entry stands in STATE OVER, or when the station has taken step 4 in this window: UNREPLAYABLE (0x050A) is logged in the ring, and the instruction goes to step 5; the station's queue, signal box and memories stay. -/
def Obligations.UnreplayableRestartIsRefused : Prop :=
  ∀ (s : State) (i : Stn) (f : Flight), s.atStep i 4 = some f →
    (s.stn i).ledger.en = false ∨ (∃ e ∈ (s.stn i).ledger.entries, e.isOver = true) ∨ (s.stn i).step4 = true →
    Runs (.stationRestart i) s (fun t =>
      fld (t.reg (0x68000 + 32 * ((s.reg 0x6000C).toNat % 1024))) 0 16 = 0x050A ∧ t.reg 0x6000C = s.reg 0x6000C + 1 ∧
      (∃ g, (t.stn i).flightOf f.seq = some g ∧ g.stage = .recover 5 ∧ g.why.code = 0x050A) ∧
      t.reg 0x6002C = s.reg 0x6002C ∧ (t.stn i).iss.queue = (s.stn i).iss.queue ∧ (t.stn i).sb = (s.stn i).sb ∧ (t.stn i).pm = (s.stn i).pm ∧
      (t.stn i).slots = (s.stn i).slots ∧ (t.stn i).banks = (s.stn i).banks ∧ SameStns s t [i.val] ∧ t.lpddr = s.lpddr)

/-- R294, R340, R343, R460, R461, R464: an instruction at step 5, or a module that came up with its state lost, starts a line clear with the next epoch; a module's second own cause within 24 h retires it. In round 1 the module arrives at the rollback interlock, and so it does in round 2 once it is restored. In round 2 a retired module becomes RELEASABLE; with generation 0 the job is started again, and any other generation held is restored, its golden copy and listed ranges in LPDDR5X and every other byte as it was, with its number in LINK_ISEQ and VALID set. ROLL starts the rollback that waits, and does nothing where none waits; a child silent to twice the deadline calls for step 5, and nothing else does at that expiry. What counts as step 5 is the model's reading (log entry 56). -/
def Obligations.DomainsRollBack : Prop :=
  ∀ s : State,
    let cleared (t : State) : Prop :=
      t.reg 0x60030 = satAdd (s.reg 0x60030) 1 ∧ t.reg 0x80834 = BitVec.ofNat 32 ((s.lce + 1) % 65536) ∧
      (∀ j : Stn, (t.stn j).ctl.run = .stopped ∧ (t.stn j).iss.flight = [] ∧ (t.stn j).pm = (s.stn j).pm ∧ (t.stn j).slots = (s.stn j).slots) ∧
      (bitAt (s.reg 0x60004) 0 = true → ∃ w u, t.die.net.roll = some ⟨1, 0, false, w, u⟩) ∧ t.lpddr = s.lpddr ∧ t.fuses = s.fuses
    let second : Prop := ∃ n ∈ s.ownSteps, s.uptime - n < day
    (∀ (i : Nat) (f : Flight), s.linked = true → s.climbing = some (i, f) →
      Runs .rollback s (fun t => cleared t ∧ t.ownSteps = s.ownSteps ++ [s.uptime] ∧ (second → t.isRetired = true) ∧ (¬ second → t.isRetired = s.isRetired))) ∧
    (s.linked = true → s.climbing = none → s.cameUpLost = true →
      Runs .rollback s (fun t => cleared t ∧ t.ownSteps = s.ownSteps ++ [s.uptime] ∧ (second → t.isRetired = true) ∧ (¬ second → t.isRetired = s.isRetired))) ∧
    (s.linked = true → s.climbing = none → s.cameUpLost = false → s.die.net.roll = none → exec .rollback s = .next s) ∧
    (s.linked = false → exec .rollback s = .next s) ∧
    (∀ r : Roll, s.linked = true → s.climbing = none → s.cameUpLost = false → s.die.net.roll = some r →
      (s.die.net.rollIlk.own = true → exec .rollback s = .next s) ∧
      (s.die.net.rollIlk.own = false →
        (r.round = 1 ∨ r.restored = true → s.die.net.rollIlk.arrived = [] →
          (s.children ≠ [] →
            Runs .rollback s (fun t =>
              t.die.net.rollIlk = { s.die.net.rollIlk with ilk := 0xFF, own := true, last := some (s.modid, s.ownReason) } ∧ t.die.net.roll = some r ∧
              SameRegs s t [] ∧ SameStns s t [] ∧ t.lpddr = s.lpddr)) ∧
          (s.children = [] → s.isRoot = false → s.die.net.rollIlk.sentUp = false →
            Runs .rollback s (fun t =>
              t.die.net.rollIlk = { s.die.net.rollIlk with ilk := 0xFF, own := true, last := some (s.modid, s.ownReason), sentUp := true } ∧ t.die.net.roll = some r ∧
              SameRegs s t [] ∧ SameStns s t [] ∧ t.lpddr = s.lpddr)) ∧
          (s.children = [] → s.isRoot = true → s.domainSize = 1 → s.die.net.rollIlk.sentUp = false →
            (r.round = 1 → Runs .rollback s (fun t =>
              t.die.net.roll = some { r with round := 2, g := (s.reg 0x80824).toNat, restored := false } ∧ t.die.net.rollIlk = Ilk.reset ∧
              SameRegs s t [] ∧ SameStns s t [] ∧ t.lpddr = s.lpddr)) ∧
            (r.round ≠ 1 → Runs .rollback s (fun t =>
              t.die.net.roll = none ∧ t.reg 0x6003C = BitVec.ofNat 32 r.g ∧ bitAt (t.reg 0x60000) 2 = false ∧ t.mstate = 6 ∧
              t.die.net.timer = ⟨0, true, []⟩ ∧ t.lpddr = s.lpddr ∧
              ∀ j : Stn, (t.stn j).pm = (s.stn j).pm ∧ (t.stn j).slots = (s.stn j).slots ∧ (t.stn j).tokens = (s.stn j).tokens)))) ∧
        (r.round ≠ 1 → r.restored = false →
          (s.isRetired = true →
            Runs .rollback s (fun t => bitAt (t.reg 0x60000) 1 = true ∧ OnlyChanges s t [0x60000] [])) ∧
          (s.isRetired = false → r.g = 0 →
            Runs .rollback s (fun t =>
              t.die.job = ⟨0, 0, false⟩ ∧ t.die.jobStarted = false ∧ t.die.net.roll = none ∧ t.reg 0x60038 = satAdd (s.reg 0x60038) 1 ∧
              t.reg 0x6003C = 0 ∧ SameStns s t [] ∧ t.lpddr = s.lpddr)) ∧
          (∀ im : Snapshot, s.isRetired = false → r.g ≠ 0 → s.snaps.find? (fun z => decide (z.gen = r.g)) = some im →
            Runs .rollback s (fun t =>
              t.reg 0x80830 = BitVec.ofNat 32 r.g ∧ t.reg 0x1001C = 1 ∧ t.die.net.roll = some { r with restored := true } ∧
              t.die.jobStarted = im.die.jobStarted ∧
              (∀ j : Stn, let x := mget (fun _ => Station.reset) im.die.stns j
                (t.stn j).pm = x.pm ∧ (t.stn j).slots = x.slots ∧ (t.stn j).tokens = x.tokens) ∧
              (∀ a, (∀ q ∈ s.goldenRange :: s.userRanges, a < q.1 ∨ q.1 + q.2 ≤ a) → (∀ c ∈ im.golden ++ im.user, c.1 ≠ a) → mget byte0 t.lpddr a = mget byte0 s.lpddr a) ∧
              (∀ a, mwf byte0 im.golden = true → mwf byte0 s.lpddr = true → s.goldenRange.1 ≤ a → a < s.goldenRange.1 + s.goldenRange.2 → (∀ c ∈ im.user, c.1 ≠ a) →
                mget byte0 t.lpddr a = mget byte0 im.golden a) ∧
              t.snaps = s.snaps ∧ t.fuses = s.fuses)) ∧
          (s.isRetired = false → r.g ≠ 0 → s.snaps.find? (fun z => decide (z.gen = r.g)) = none → exec .rollback s = .next s)))) ∧
    (∀ v : Word, s.supState = 0 → s.writeServed 0x60004 = true →
      (bitAt (s.reg 0x60000) 3 = true →
        Runs (.roll v) s (fun t =>
          bitAt (t.reg 0x60000) 2 = true ∧ bitAt (t.reg 0x60000) 3 = false ∧ t.die.net.roll = some ⟨1, 0, false, ⟨0, 0, 0⟩, 0x300⟩ ∧
          t.reg 0x60004 = v &&& 3 ∧ SameRegs s t [0x60000, 0x60004] ∧ SameStns s t [] ∧ t.lpddr = s.lpddr)) ∧
      (bitAt (s.reg 0x60000) 3 = false →
        Runs (.roll v) s (fun t => t.reg 0x60004 = v &&& 3 ∧ OnlyChanges s.leaveL1 t [0x60004] []))) ∧
    (∀ v : Word, s.writeServed 0x60004 = false → exec (.roll v) s = .next s) ∧
    (∀ c, s.die.net.noNotice.find? (fun c => !s.die.net.ilk.present.contains c) = some c → s.live = true → s.die.net.timer.running = true →
      s.deadline ≠ 0 → 2 * s.deadline ≤ s.die.net.timer.ticks →
      Runs .noNoticeRollbackExpiry s (fun t => cleared t ∧ t.ownSteps = s.ownSteps ∧ t.isRetired = s.isRetired)) ∧
    (s.die.net.noNotice.find? (fun c => !s.die.net.ilk.present.contains c) = none ∨ s.live = false ∨ s.die.net.timer.running = false ∨
      s.deadline = 0 ∨ s.die.net.timer.ticks < 2 * s.deadline → exec .noNoticeRollbackExpiry s = .next s)

/-- R14, R78, R446, R447, R452, R454, R456, R468: a fault record stands in the ring at its place modulo 1,024 with its eight words, and FAULT_WR counts on; FAULT_RD takes what the host writes, or FAULT_WR where that lies ahead of it. A scrub that finds a bank as its golden slot describes it leaves it and logs nothing; one that finds a row or a correction entry wrong logs a record and sends the bank to a reload, or its macro to be routed around where that would be the third reload; one that meets an uncorrectable golden line logs that line. Nothing is scrubbed while SCRUB is 0, at an empty golden slot, in a working or faulted macro, in one that a pass or a load names, or where the ladder or a rollback comes first. The STEP of records is the model's reading (log entry 67), a slot whose descriptor bytes no WLOAD takes the model's choice (log entry 94). -/
def Obligations.FaultRecordsAndScrubs : Prop :=
  (∀ (s : State) (code step unit : Nat) (d0 : Word) (d1 : BitVec 64),
    (∀ k, k < 8 → (s.logFault code step unit d0 d1).reg (0x68000 + 32 * ((s.reg 0x6000C).toNat % 1024) + 4 * k) = (faultWords s code step unit d0 d1).getD k 0) ∧
    (s.logFault code step unit d0 d1).reg 0x6000C = s.reg 0x6000C + 1) ∧
  (∀ (s : State) (v : Word),
    (s.supState = 0 → s.writeServed 0x60010 = true →
      Runs (.faultRdWrite v) s (fun t =>
        t.reg 0x60010 = (if 1 ≤ (v - s.reg 0x6000C).toNat ∧ (v - s.reg 0x6000C).toNat < 2 ^ 31 then s.reg 0x6000C else v) ∧ OnlyChanges s.leaveL1 t [0x60010] [])) ∧
    (s.writeServed 0x60010 = false → exec (.faultRdWrite v) s = .next s)) ∧
  (∀ (s : State) (i : Stn) (m : Fin 64) (k : Fin 4) (found : Option Nat) (ce : List Nat),
    let b := (s.stn i).bank m k
    let g := s.goldenBank i m k
    let logged (code : Nat) (t : State) : Prop :=
      t.reg 0x6000C = s.reg 0x6000C + 1 ∧ fld (t.reg (0x68000 + 32 * ((s.reg 0x6000C).toNat % 1024))) 0 16 = code
    let frame (t : State) : Prop := (t.stn i).banks = (s.stn i).banks ∧ (t.stn i).pm = (s.stn i).pm ∧ (t.stn i).iss = (s.stn i).iss ∧ SameStns s t [i.val] ∧ t.lpddr = s.lpddr ∧ t.fuses = s.fuses
    let sent (code d1 : Nat) (t : State) : Prop :=
      logged code t ∧
      (s.recentReloads i m < 2 → (t.stn i).toReload = [(m.val, k.val, ⟨code, BitVec.ofNat 32 (m.val + k.val * 256), BitVec.ofNat 64 d1⟩, 0)] ∧ (t.stn i).toFault = []) ∧
      (2 ≤ s.recentReloads i m → (t.stn i).toFault = [m.val] ∧ (t.stn i).toReload = []) ∧ frame t
    (s.live = true → bitAt (s.reg 0x60004) 1 = true → (s.slotDesc i m k).valid = true → (s.slotDesc i m k).ok = true → bitAt (s.workOf i) m = false →
      bitAt (s.faultBits i) m = false → (s.stn i).macroUsed m = false → s.scrubYields i = false →
      (s.slotBad i m k found = none →
        (∀ r, rowDiffers b g = some r → Runs (.scrub i m k ⟨found, ce⟩) s (sent 0x0104 r)) ∧
        (∀ n, rowDiffers b g = none → corrDiffers b g = some n → Runs (.scrub i m k ⟨found, ce⟩) s (sent 0x0105 n)) ∧
        (rowDiffers b g = none → corrDiffers b g = none →
          Runs (.scrub i m k ⟨found, ce⟩) s (fun t => (ce = [] → SameRegs s t []) ∧ t.reg 0x6000C = s.reg 0x6000C ∧ SameStns s t [] ∧ t.lpddr = s.lpddr ∧ t.fuses = s.fuses))) ∧
      (∀ l, s.slotBad i m k found = some l →
        Runs (.scrub i m k ⟨found, ce⟩) s (fun t => logged 0x0202 t ∧ l ∈ t.poison ∧ SameStns s t [] ∧ t.lpddr = s.lpddr ∧ t.fuses = s.fuses))) ∧
    (s.live = false ∨ bitAt (s.reg 0x60004) 1 = false ∨ (s.slotDesc i m k).valid = false ∨ (s.slotDesc i m k).ok = false ∨ bitAt (s.workOf i) m = true ∨
      bitAt (s.faultBits i) m = true ∨ (s.stn i).macroUsed m = true ∨ s.scrubYields i = true → exec (.scrub i m k ⟨found, ce⟩) s = .next s))
end

