-- ==== Sys2Proof/Laws/Maps.lean ====
section
/-! SUPPORT. The laws of sparse maps: a read after a write, the other keys, and the canonical form that every write keeps. -/
namespace Sys2Proof.Machine

variable {α : Type}

theorem mget_merase_same (d : Nat → α) (m : SMap α) (k : Nat) : mget d (merase m k) k = d k := by
  induction m with
  | nil => rfl
  | cons p r ih =>
    obtain ⟨a, x⟩ := p
    by_cases h : a = k <;> simp_all [merase, mget]

theorem mget_merase_other (d : Nat → α) (m : SMap α) {k j : Nat} (h : j ≠ k) : mget d (merase m k) j = mget d m j := by
  induction m with
  | nil => rfl
  | cons p r ih =>
    obtain ⟨a, x⟩ := p
    by_cases ha : a = k
    · subst ha; simp_all [merase, mget, Ne.symm h]
    · by_cases hj : a = j <;> simp_all [merase, mget]

theorem mget_mins_same (d : Nat → α) (m : SMap α) (k : Nat) (v : α) : mget d (mins m k v) k = v := by
  induction m with
  | nil => simp [mins, mget]
  | cons p r ih =>
    obtain ⟨a, x⟩ := p
    by_cases h : a < k
    · simp [mins, mget, h, ih, Nat.ne_of_lt h]
    · simp [mins, mget, h]

theorem mget_mins_other (d : Nat → α) (m : SMap α) {k j : Nat} (v : α) (h : j ≠ k) : mget d (mins m k v) j = mget d m j := by
  induction m with
  | nil => simp [mins, mget, Ne.symm h]
  | cons p r ih =>
    obtain ⟨a, x⟩ := p
    by_cases ha : a < k <;> simp [mins, mget, ha, ih, Ne.symm h]

theorem mget_mset [DecidableEq α] (d : Nat → α) (m : SMap α) (k j : Nat) (v : α) :
    mget d (mset d m k v) j = if j = k then v else mget d m j := by
  unfold mset
  by_cases hj : j = k
  · subst hj; split <;> simp_all [mget_merase_same, mget_mins_same]
  · split <;> simp [hj, mget_merase_other, mget_mins_other]

@[simp] theorem mget_mset_same [DecidableEq α] (d : Nat → α) (m : SMap α) (k : Nat) (v : α) :
    mget d (mset d m k v) k = v := by simp [mget_mset]

@[simp] theorem mget_mset_other [DecidableEq α] (d : Nat → α) (m : SMap α) {k j : Nat} (v : α) (h : j ≠ k) :
    mget d (mset d m k v) j = mget d m j := by simp [mget_mset, h]

theorem risingFrom_weaken {lo lo' : Nat} (h : lo' ≤ lo) {m : SMap α} (hm : risingFrom lo m = true) : risingFrom lo' m = true := by
  cases m with
  | nil => rfl
  | cons p r => obtain ⟨a, x⟩ := p; simp [risingFrom] at *; exact ⟨by omega, hm.2⟩

theorem risingFrom_merase {lo : Nat} {m : SMap α} (k : Nat) (hm : risingFrom lo m = true) : risingFrom lo (merase m k) = true := by
  induction m generalizing lo with
  | nil => rfl
  | cons p r ih =>
    obtain ⟨a, x⟩ := p
    simp only [risingFrom, Bool.and_eq_true, decide_eq_true_eq] at hm
    have := ih hm.2
    by_cases h : a = k
    · subst h
      simp only [merase, List.filter_cons, ne_eq, not_true_eq_false, decide_false]
      exact risingFrom_weaken (by omega) this
    · simp only [merase, List.filter_cons, ne_eq, h, not_false_eq_true, decide_true, if_true, risingFrom, Bool.and_eq_true, decide_eq_true_eq]
      exact ⟨hm.1, this⟩

theorem risingFrom_mins {lo : Nat} {m : SMap α} {k : Nat} (v : α) (hk : lo ≤ k) (hn : ∀ p ∈ m, p.1 ≠ k)
    (hm : risingFrom lo m = true) : risingFrom lo (mins m k v) = true := by
  induction m generalizing lo with
  | nil => simp [mins, risingFrom, hk]
  | cons p r ih =>
    obtain ⟨a, x⟩ := p
    simp only [risingFrom, Bool.and_eq_true, decide_eq_true_eq] at hm
    have ha : a ≠ k := hn (a, x) (by simp)
    by_cases h : a < k
    · have := ih (lo := a + 1) (by omega) (fun p hp => hn p (by simp [hp])) hm.2
      simp [mins, h, risingFrom, this, hm.1]
    · simp [mins, h, risingFrom, hk, hm.2]; omega

theorem mem_mins {m : SMap α} {k : Nat} {v : α} {p : Nat × α} (h : p ∈ mins m k v) : p = (k, v) ∨ p ∈ m := by
  induction m with
  | nil => simpa [mins] using h
  | cons q r ih =>
    obtain ⟨a, x⟩ := q
    by_cases ha : a < k <;> simp [mins, ha] at h ⊢ <;> tauto

/-- Every write keeps the canonical form. -/
theorem mwf_mset [DecidableEq α] {d : Nat → α} {m : SMap α} (k : Nat) (v : α) (hm : mwf d m = true) :
    mwf d (mset d m k v) = true := by
  simp only [mwf, Bool.and_eq_true, List.all_eq_true, decide_eq_true_eq] at *
  obtain ⟨hr, hd⟩ := hm
  have he : ∀ p ∈ merase m k, p ∈ m ∧ p.1 ≠ k := fun p hp => by simpa [merase] using hp
  unfold mset
  split
  · exact ⟨risingFrom_merase k hr, fun p hp => hd p (he p hp).1⟩
  · refine ⟨risingFrom_mins v (Nat.zero_le k) (fun p hp => (he p hp).2) (risingFrom_merase k hr), fun p hp => ?_⟩
    rcases mem_mins hp with rfl | hp
    · assumption
    · exact hd p (he p hp).1

theorem mwf_foldl [DecidableEq α] {β : Type} {d : Nat → α} (f : SMap α → β → SMap α)
    (hf : ∀ m b, mwf d m = true → mwf d (f m b) = true) (l : List β) {m : SMap α} (hm : mwf d m = true) :
    mwf d (l.foldl f m) = true := by
  induction l generalizing m with
  | nil => exact hm
  | cons b r ih => exact ih (hf m b hm)

theorem mwf_wrByte {top : Nat} {m : SMap Byte} (a : Nat) (b : Byte) (hm : mwf byte0 m = true) : mwf byte0 (wrByte top m a b) = true :=
  mwf_mset _ _ hm

theorem mwf_wrBytes {top : Nat} {m : SMap Byte} (a : Nat) (bs : List Byte) (hm : mwf byte0 m = true) :
    mwf byte0 (wrBytes top m a bs) = true := by
  induction bs generalizing m a with
  | nil => exact hm
  | cons b r ih => exact ih (a + 1) (mwf_wrByte a b hm)

theorem mwf_pmApply {m : SMap Byte} (ws : List MaskedByte) (hm : mwf byte0 m = true) : mwf byte0 (pmApply m ws) = true :=
  mwf_foldl _ (fun _ _ h => mwf_wrByte _ _ h) ws hm

theorem mwf_putBytes {m : SMap Byte} (a : Nat) (bs : List Byte) (hm : mwf byte0 m = true) : mwf byte0 (putBytes m a bs) = true := by
  induction bs generalizing m a with
  | nil => exact hm
  | cons b r ih => exact ih (a + 1) (mwf_mset a b hm)

/-- A byte of LPDDR5X after consecutive bytes are written from `a`. -/
theorem mget_putBytes (m : SMap Byte) (a : Nat) (bs : List Byte) (j : Nat) :
    mget byte0 (putBytes m a bs) j = if a ≤ j ∧ j < a + bs.length then bs.getD (j - a) 0 else mget byte0 m j := by
  induction bs generalizing m a with
  | nil =>
    simp only [putBytes, List.length_nil]; rw [if_neg (by omega)]
  | cons b r ih =>
    rw [putBytes, ih]
    by_cases h : a + 1 ≤ j ∧ j < a + 1 + r.length
    · have h1 : j - a = (j - (a + 1)) + 1 := by omega
      have h2 : a ≤ j ∧ j < a + (b :: r).length := by simp; omega
      rw [if_pos h, if_pos h2, h1]; simp
    · rw [if_neg h]
      by_cases hj : j = a
      · subst hj; simp
      · have h2 : ¬ (a ≤ j ∧ j < a + (b :: r).length) := by simp at *; omega
        rw [if_neg h2, mget_mset_other _ _ _ hj]

/-- A masked write touches the bytes that it names and no other. -/
theorem mget_pmApply_other (m : SMap Byte) (ws : List MaskedByte) {j : Nat} (h : ∀ w ∈ ws, w.1 % pmTop ≠ j) :
    mget byte0 (pmApply m ws) j = mget byte0 m j := by
  unfold pmApply
  induction ws generalizing m with
  | nil => rfl
  | cons w r ih =>
    rw [List.foldl_cons, ih _ (fun w hw => h w (by simp [hw]))]
    exact mget_mset_other _ _ _ (Ne.symm (h w (by simp)))

/-- A bit of a word with a field replaced. -/
theorem bitAt_putFld {n : Nat} (w : BitVec n) (lo len v i : Nat) (h : i < n) :
    bitAt (putFld w lo len v) i = if lo ≤ i ∧ i < lo + len then v.testBit (i - lo) else bitAt w i := by
  simp only [bitAt, putFld, BitVec.getLsbD_or, BitVec.getLsbD_and, BitVec.getLsbD_not, BitVec.getLsbD_ofNat, h, decide_true, Bool.true_and]
  simp only [Nat.testBit_shiftLeft, Nat.testBit_mod_two_pow, Nat.testBit_two_pow_sub_one]
  by_cases a : lo ≤ i
  · by_cases b : i < lo + len
    · have : i - lo < len := by omega
      simp [a, b, this]
    · have : ¬ i - lo < len := by omega
      simp [a, b, this]
  · simp [a]

/-- A field reads as written. -/
theorem fld_putFld_same {n : Nat} (w : BitVec n) (lo len v : Nat) (h : lo + len ≤ n) : fld (putFld w lo len v) lo len = v % 2 ^ len := by
  apply Nat.eq_of_testBit_eq
  intro i
  simp only [fld, Nat.testBit_mod_two_pow, Nat.testBit_shiftRight]
  by_cases hi : i < len
  · have := bitAt_putFld w lo len v (lo + i) (by omega)
    simp only [bitAt, BitVec.getLsbD] at this
    simp only [hi, decide_true, Bool.true_and, this]
    simp [hi]
  · simp [hi]

/-- Another field reads as before. -/
theorem fld_putFld_other {n : Nat} (w : BitVec n) (lo len v a b : Nat) (h : a + b ≤ n) (d : a + b ≤ lo ∨ lo + len ≤ a) :
    fld (putFld w lo len v) a b = fld w a b := by
  apply Nat.eq_of_testBit_eq
  intro i
  simp only [fld, Nat.testBit_mod_two_pow, Nat.testBit_shiftRight]
  by_cases hi : i < b
  · have := bitAt_putFld w lo len v (a + i) (by omega)
    simp only [bitAt, BitVec.getLsbD] at this
    rw [this, if_neg (by omega)]
  · simp [hi]

theorem bitAt_putBit {n : Nat} (w : BitVec n) (k i : Nat) (b : Bool) (h : i < n) : bitAt (putBit w k b) i = if i = k then b else bitAt w i := by
  rw [putBit, bitAt_putFld _ _ _ _ _ h]
  by_cases e : i = k
  · subst e; cases b <;> simp
  · rw [if_neg (by omega), if_neg e]

/-- Bytes written with wrap leave every other byte. -/
theorem mget_wrBytes_other (top : Nat) (m : SMap Byte) (a : Nat) (bs : List Byte) {j : Nat} (h : ∀ k, k < bs.length → (a + k) % top ≠ j) :
    mget byte0 (wrBytes top m a bs) j = mget byte0 m j := by
  induction bs generalizing m a with
  | nil => rfl
  | cons b r ih =>
    rw [wrBytes, ih _ _ (fun k hk => by have := h (k + 1) (by simp; omega); rwa [show a + 1 + k = a + (k + 1) by omega])]
    exact mget_mset_other _ _ _ (Ne.symm (h 0 (by simp)))

/-- Bytes written with wrap that do not run into themselves read as written. -/
theorem mget_wrBytes (top : Nat) (m : SMap Byte) (a : Nat) (bs : List Byte) (hb : bs.length ≤ top) {k : Nat} (hk : k < bs.length) :
    mget byte0 (wrBytes top m a bs) ((a + k) % top) = bs.getD k 0 := by
  induction bs generalizing m a k with
  | nil => cases hk
  | cons b r ih =>
    simp only [List.length_cons] at hb hk
    cases k with
    | zero =>
      rw [wrBytes, mget_wrBytes_other]
      · simp [wrByte]
      · intro q hq he
        have h1 : (a + 1 + q) % top = (a + 0) % top := he
        have h2 : (q + 1) % top = 0 := by
          have := (Nat.ModEq.add_left_cancel' a (show a + (q + 1) ≡ a + 0 [MOD top] by unfold Nat.ModEq; rw [← h1]; congr 1; omega))
          simpa [Nat.ModEq] using this
        have h3 := Nat.le_of_dvd (by omega) (Nat.dvd_of_mod_eq_zero h2)
        omega
    | succ q =>
      rw [wrBytes, show a + (q + 1) = a + 1 + q by omega, ih _ _ (by omega) (by omega)]
      simp

end Sys2Proof.Machine
end

