-- ==== Sys2Proof/Laws/Frames.lean ====
section
/-! SUPPORT. What every operation and every meaning leaves alone: `f_outside` says that `f` keeps the queue, the fuses, LPDDR5X and the flash. -/
set_option linter.all false
set_option maxRecDepth 8000
namespace Sys2Proof.Machine

/-- The queue and the fuses of a state: what nearly every operation leaves alone. -/
def State.outside (s : State) : List Instr × Fuses × SMap Byte × SMap Byte := (s.pending, s.fuses, s.lpddr, s.flash)

@[simp] theorem State.outside_mk (a0 a1 a2 a3 a4 a5 a6 a7 a8 a9 a10 a11 a12 a13 a14 a15 a16 a17 a18 a19 a20 a21 a22 a23 a24 a25 a26 a27) :
    State.outside ⟨a0, a1, a2, a3, a4, a5, a6, a7, a8, a9, a10, a11, a12, a13, a14, a15, a16, a17, a18, a19, a20, a21, a22, a23, a24, a25, a26, a27⟩ = (a27, a15, a2, a14) := Eq.trans rfl rfl

@[simp] theorem State.outside_fold (s : State) : (s.pending, s.fuses, s.lpddr, s.flash) = s.outside := Eq.trans rfl rfl

@[simp] theorem State.outside_foldl {β : Type} (f : State → β → State) (h : ∀ t b, (f t b).outside = t.outside) (l : List β) (s : State) :
    (l.foldl f s).outside = s.outside := by
  induction l generalizing s with
  | nil => rfl
  | cons b r ih => rw [List.foldl_cons, ih, h]

@[simp] theorem State.outside_foldl2 {α β : Type} (f : α × State → β → α × State) (h : ∀ p b, (f p b).2.outside = p.2.outside) (l : List β) (p : α × State) :
    (l.foldl f p).2.outside = p.2.outside := by
  induction l generalizing p with
  | nil => rfl
  | cons b r ih => rw [List.foldl_cons, ih, h]

theorem State.outside_cart (s : State) (c) : State.outside { s with cart := c } = s.outside := Eq.trans rfl rfl

theorem ite_next {c : Prop} [Decidable c] {a b t : State} (h : (if c then Host.Outcome.next a else Host.Outcome.next b : Result) = .next t) : t = a ∨ t = b := by
  split at h <;> cases h <;> simp

theorem State.outside_ite (c : Prop) [Decidable c] (s t : State) : (if c then s else t).outside = if c then s.outside else t.outside :=
  apply_ite State.outside c s t

@[simp] theorem State.setReg_outside (s : State) (a : Nat) (v : Word) : (State.setReg s a v).outside = s.outside :=
  by simp [State.setReg, State.outside_ite]

@[simp] theorem State.bump_outside (s : State) (a k : Nat) : (State.bump s a k).outside = s.outside :=
  by simp [State.bump]

@[simp] theorem State.setFld_outside (s : State) (a lo len v : Nat) : (State.setFld s a lo len v).outside = s.outside :=
  by simp [State.setFld]

@[simp] theorem State.setStn_outside (s : State) (i : Nat) (x : Station) : (State.setStn s i x).outside = s.outside :=
  by simp [State.setStn]

@[simp] theorem State.pbump_outside (s : State) (i o k : Nat) : (State.pbump s i o k).outside = s.outside :=
  by simp [State.pbump]

@[simp] theorem State.fresh_outside (s : State) : (State.fresh s).2.outside = s.outside :=
  by simp [State.fresh]

@[simp] theorem State.emit_outside (s : State) (o : Out) : (State.emit s o).outside = s.outside :=
  by simp [State.emit]

@[simp] theorem State.leaveL1_outside (s : State) : (State.leaveL1 s).outside = s.outside :=
  by simp [State.leaveL1]

@[simp] theorem State.signal_outside (s : State) (v : Nat) : (State.signal s v).outside = s.outside :=
  by simp [State.signal, State.outside_ite]

@[simp] theorem State.enter_outside (s : State) (n : Nat) : (State.enter s n).outside = s.outside :=
  by simp [State.enter, State.outside_ite]

@[simp] theorem State.setGolden_outside (s : State) (b : Bool) : (State.setGolden s b).outside = s.outside :=
  by simp [State.setGolden, State.outside_ite]

@[simp] theorem State.setRegs_outside (s : State) (a : Nat) (l : List Word) : (s.setRegs a l).outside = s.outside := by
  induction l generalizing s a with
  | nil => rfl
  | cons w r ih => rw [State.setRegs, ih]; simp

@[simp] theorem State.logFault_outside (s : State) (code step unit : Nat) (d0 : Word) (d1 : BitVec 64) : (State.logFault s code step unit d0 d1).outside = s.outside :=
  by simp [State.logFault, State.outside_ite]

@[simp] theorem State.ladder_outside (s : State) (code step unit : Nat) (d0 : Word) (d1 : BitVec 64) : (State.ladder s code step unit d0 d1).outside = s.outside :=
  by simp [State.ladder]

@[simp] theorem State.giveToken_outside (s : State) (i t : Nat) : (State.giveToken s i t).outside = s.outside :=
  by simp [State.giveToken, State.outside_ite]

@[simp] theorem State.illegalOp_outside (s : State) (i : Nat) (w : PWord) : (State.illegalOp s i w).outside = s.outside :=
  by simp [State.illegalOp]

@[simp] theorem State.requestWake_outside (s : State) (i : Nat) : (State.requestWake s i).outside = s.outside :=
  by simp [State.requestWake, State.outside_ite]

@[simp] theorem State.addHops_outside (s : State) (n : Nat) : (State.addHops s n).outside = s.outside :=
  by simp [State.addHops]

@[simp] theorem State.setMesh_outside (s : State) (m : List Flit) : (State.setMesh s m).outside = s.outside :=
  by simp [State.setMesh]

@[simp] theorem State.sendAll_outside (s : State) (fs : List Flit) : (State.sendAll s fs).outside = s.outside :=
  by simp [State.sendAll]

@[simp] theorem State.sendFlit_outside (s : State) (f : Flit) : (State.sendFlit s f).outside = s.outside :=
  by simp [State.sendFlit]

@[simp] theorem State.multicast_outside (s : State) (src : Nat) (dests : List Nat) (fs : Nat → List Flit) : (State.multicast s src dests fs).outside = s.outside :=
  by simp [State.multicast]

@[simp] theorem State.setSb_outside (s : State) (i : Nat) (b : SignalBox) : (State.setSb s i b).outside = s.outside :=
  by simp [State.setSb]

@[simp] theorem State.sbTrap_outside (s : State) (i : Nat) (pc : Word) (ins : Nat) : (State.sbTrap s i pc ins).outside = s.outside :=
  by simp [State.sbTrap]

@[simp] theorem State.pushWord_outside (s : State) (i : Nat) (v pcNext : Word) : (State.pushWord s i v pcNext).outside = s.outside :=
  by simp [State.pushWord]

@[simp] theorem State.sleepWrite_outside (s : State) (i : Nat) (v : Word) : (State.sleepWrite s i v).outside = s.outside :=
  by simp [State.sleepWrite, State.outside_ite]

@[simp] theorem State.popSummary_outside (s : State) (i : Nat) : (State.popSummary s i).outside = s.outside :=
  by simp [State.popSummary]

@[simp] theorem State.setPc_outside (s : State) (i : Nat) (pc : Word) : (State.setPc s i pc).outside = s.outside :=
  by simp [State.setPc]

theorem State.portLoad_outside (s : State) (i a : Nat) {v t} (h : s.portLoad i a = some (some (v, t))) : t.outside = s.outside := by
  unfold State.portLoad at h
  dsimp only at h
  (repeat' split at h) <;> simp at h
  all_goals first | (obtain ⟨_, rfl⟩ := h; simp; done) | (obtain ⟨_, _, _, rfl⟩ := h; simp; done)

theorem State.portStore_outside (s : State) (i a : Nat) (w p) {t} (h : s.portStore i a w p = some (some t)) : t.outside = s.outside := by
  unfold State.portStore at h
  dsimp only at h
  (repeat' split at h) <;> simp at h
  all_goals first | (obtain rfl := h; simp; done)

@[simp] theorem State.sbRetire_outside (s : State) (i rd : Nat) (v pc : Word) : (State.sbRetire s i rd v pc).outside = s.outside :=
  by simp [State.sbRetire]

def SbStep.st : SbStep → State → State
  | .retire t _ _ _, _ => t
  | _, s => s
@[simp] theorem SbStep.st_retire (t s : State) (a b c) : (SbStep.retire t a b c).st s = t := rfl
@[simp] theorem SbStep.st_stall (s : State) : SbStep.stall.st s = s := rfl
@[simp] theorem SbStep.st_trap (s : State) (n) : (SbStep.trap n).st s = s := rfl
theorem jumpTo_outside (s : State) (a b c d) : ((jumpTo s a b c d).st s).outside = s.outside := by
  unfold jumpTo; split <;> rfl
theorem State.sbLoad_outside (s : State) (i ins rd n : Nat) (g : Bool) (a : Nat) (p : Word) : ((s.sbLoad i ins rd n g a p).st s).outside = s.outside := by
  unfold State.sbLoad; dsimp only
  (repeat' split) <;> first | rfl | (simp; done) | (rename_i h; simp; exact State.portLoad_outside _ _ _ h)
theorem State.sbStore_outside (s : State) (i ins n : Nat) (a : Nat) (v p : Word) : ((s.sbStore i ins n a v p).st s).outside = s.outside := by
  unfold State.sbStore; dsimp only
  (repeat' split) <;> first | rfl | (simp; done) | (rename_i h; simp; exact State.portStore_outside _ _ _ _ _ h)
theorem State.sbExec_outside (s : State) (i : Nat) : ((s.sbExec i).st s).outside = s.outside := by
  unfold State.sbExec; dsimp only
  (repeat' split) <;> first | rfl | exact jumpTo_outside .. | exact State.sbLoad_outside .. | exact State.sbStore_outside ..
theorem execSbInstruction_outside (i : Stn) (s : State) {t : State} (h : (execSbInstruction i s) = .next t) : t.outside = s.outside := by
  have h0 := State.sbExec_outside s i
  unfold execSbInstruction at h
  split at h
  · split at h <;> cases h <;> simp_all
  · cases h; rfl

theorem execSbIssue3_outside (i : Stn) (v : Word) (s : State) {out : State} (h : (execSbIssue3 i v s) = .next out) : out.outside = s.outside :=
  by unfold execSbIssue3 at h; rcases ite_next h with h1 | h1 <;> simp [h1]

theorem execSbSumHi_outside (i : Stn) (rd : Fin 32) (s : State) {out : State} (h : (execSbSumHi i rd s) = .next out) : out.outside = s.outside :=
  by unfold execSbSumHi at h; (repeat' split at h) <;> cases h <;> simp

theorem execSbSleep_outside (i : Stn) (v : Word) (s : State) {out : State} (h : (execSbSleep i v s) = .next out) : out.outside = s.outside :=
  by unfold execSbSleep at h; rcases ite_next h with h1 | h1 <;> simp [h1]

@[simp] theorem State.issueWord_outside (s : State) (i : Nat) (w : PWord) : (State.issueWord s i w).outside = s.outside :=
  by simp [State.issueWord, State.outside_ite]

theorem execWordIssue_outside (i : Stn) (s : State) {out : State} (h : (execWordIssue i s) = .next out) : out.outside = s.outside :=
  by unfold execWordIssue at h; (repeat' split at h) <;> cases h <;> simp

theorem execNop_outside (i : Stn) (s : State) {out : State} (h : (execNop i s) = .next out) : out.outside = s.outside :=
  by unfold execNop at h; (repeat' split at h) <;> cases h <;> simp

@[simp] theorem State.mbump_outside (s : State) (c o : Nat) : (State.mbump s c o).outside = s.outside :=
  by simp [State.mbump]

@[simp] theorem State.wakeChannel_outside (s : State) (l : Nat) : (State.wakeChannel s l).outside = s.outside :=
  by simp [State.wakeChannel]

@[simp] theorem State.corrected_outside (s : State) (line : Nat) (ce : Bool) : (State.corrected s line ce).outside = s.outside :=
  by simp [State.corrected, State.outside_ite]

@[simp] theorem State.useLines_outside (s : State) (ls ce : List Nat) : (State.useLines s ls ce).outside = s.outside :=
  by simp [State.useLines]

@[simp] theorem State.readUe_outside (s : State) (line : Nat) : (State.readUe s line).outside = s.outside :=
  by simp [State.readUe, State.outside_ite]

@[simp] theorem State.pmPut_outside (s : State) (i a : Nat) (bs : List Byte) : (State.pmPut s i a bs).outside = s.outside :=
  by simp [State.pmPut]

@[simp] theorem State.pmMask_outside (s : State) (i : Nat) (ws : List MaskedByte) : (State.pmMask s i ws).outside = s.outside :=
  by simp [State.pmMask]

@[simp] theorem State.countRefused_outside (s : State) (i : Nat) (rs : List (Fin 5 × Nat)) : (State.countRefused s i rs).outside = s.outside :=
  by simp [State.countRefused, State.outside_ite]

@[simp] theorem State.countBusy_outside (s : State) (i n : Nat) : (State.countBusy s i n).outside = s.outside :=
  by simp [State.countBusy, State.outside_ite]

@[simp] theorem State.seen_outside (s : State) (i : Nat) (clash : List Nat) : (s.seen i clash).2.outside = s.outside := by
  unfold State.seen
  refine State.outside_foldl2 _ (fun p b => ?_) _ _
  split <;> simp

@[simp] theorem State.reload_outside (s : State) (i m k dm dk : Nat) (found : Option Nat) (ce : List Nat) : (State.reload s i m k dm dk found ce).1.outside = s.outside :=
  by unfold State.reload; dsimp only; (repeat' split) <;> simp

@[simp] theorem State.setFlight_outside (s : State) (i : Nat) (f : Flight) : (State.setFlight s i f).outside = s.outside :=
  by simp [State.setFlight]

@[simp] theorem State.draw_outside (s : State) (i cost : Nat) (f : Flight) : (State.draw s i cost f).outside = s.outside :=
  by simp [State.draw]

@[simp] theorem State.slip_outside (s : State) (i : Nat) (f : Flight) (q : Slip) : (State.slip s i f q).outside = s.outside :=
  by simp [State.slip]

@[simp] theorem State.abandon_outside (s : State) (i : Nat) (f : Flight) : (State.abandon s i f).outside = s.outside :=
  by simp [State.abandon]

@[simp] theorem State.detourReady_outside (s : State) (i m k : Nat) (found : Option Nat) (ce : List Nat) : (s.detourReady i m k found ce).1.outside = s.outside := by
  unfold State.detourReady
  dsimp only
  split
  · rfl
  · split <;> simp

@[simp] theorem detourParts_outside (i : Nat) (f : Flight) (o : Obs) (l : List Nat) (s : State) : (detourParts i f o l s).state.outside = s.outside := by
  induction l generalizing s with
  | nil => rfl
  | cons m r ih => unfold detourParts; dsimp only; split <;> simp [ih]

@[simp] theorem State.runPass_outside (s : State) (i : Nat) (f : Flight) (o : Obs) : (State.runPass s i f o).outside = s.outside :=
  by unfold State.runPass; dsimp only; (repeat' split) <;> simp

theorem execPass_outside (i : Stn) (o : Obs) (s : State) {out : State} (h : (execPass i o s) = .next out) : out.outside = s.outside :=
  by unfold execPass at h; (repeat' split at h) <;> cases h <;> simp

theorem execPassr_outside (i : Stn) (o : Obs) (s : State) {out : State} (h : (execPassr i o s) = .next out) : out.outside = s.outside :=
  by unfold execPassr at h; (repeat' split at h) <;> cases h <;> simp

@[simp] theorem State.runWload_outside (s : State) (i : Nat) (f : Flight) (o : Obs) : (State.runWload s i f o).outside = s.outside :=
  by unfold State.runWload; dsimp only; (repeat' split) <;> simp

theorem execWload_outside (i : Stn) (o : Obs) (s : State) {out : State} (h : (execWload i o s) = .next out) : out.outside = s.outside :=
  by unfold execWload at h; (repeat' split at h) <;> cases h <;> simp

theorem execWloadCommit_outside (i : Stn) (s : State) {out : State} (h : (execWloadCommit i s) = .next out) : out.outside = s.outside :=
  by unfold execWloadCommit at h; dsimp only at h; (repeat' split at h) <;> cases h <;> simp

@[simp] theorem State.handOver_outside (s : State) (i : Nat) (f : Flight) : (State.handOver s i f).outside = s.outside :=
  by unfold State.handOver; dsimp only; (repeat' split) <;> simp

theorem execTileHandover_outside (i : Stn) (seq : Nat) (s : State) {out : State} (h : (execTileHandover i seq s) = .next out) : out.outside = s.outside :=
  by unfold execTileHandover at h; (repeat' split at h) <;> cases h <;> simp

@[simp] theorem State.addToSlots_outside (s : State) (i : Nat) (t : Tile) : (State.addToSlots s i t).outside = s.outside :=
  by simp [State.addToSlots, State.outside_ite]

@[simp] theorem State.ackSource_outside (s : State) (i src txn : Nat) : (State.ackSource s i src txn).outside = s.outside :=
  by simp [State.ackSource, State.outside_ite]

@[simp] theorem State.addArrived_outside (s : State) (i : Nat) (result : Bool) : (State.addArrived s i result).outside = s.outside :=
  by unfold State.addArrived; dsimp only; (repeat' split) <;> simp

@[simp] theorem State.addHanded_outside (s : State) (i : Nat) : (State.addHanded s i).outside = s.outside :=
  by unfold State.addHanded; dsimp only; (repeat' split) <;> simp

theorem execReductionAdd_outside (i : Stn) (arr : Bool) (s : State) {out : State} (h : (execReductionAdd i arr s) = .next out) : out.outside = s.outside :=
  by unfold execReductionAdd at h; (repeat' split at h) <;> cases h <;> simp

@[simp] theorem State.runAccrd_outside (s : State) (i : Nat) (f : Flight) : (State.runAccrd s i f).outside = s.outside :=
  by simp [State.runAccrd, State.outside_ite]

theorem execAccrd_outside (i : Stn) (s : State) {out : State} (h : (execAccrd i s) = .next out) : out.outside = s.outside :=
  by unfold execAccrd at h; (repeat' split at h) <;> cases h <;> simp

theorem execAccwr_outside (i : Stn) (s : State) {out : State} (h : (execAccwr i s) = .next out) : out.outside = s.outside :=
  by unfold execAccwr at h; (repeat' split at h) <;> cases h <;> simp

theorem execAccclr_outside (i : Stn) (s : State) {out : State} (h : (execAccclr i s) = .next out) : out.outside = s.outside :=
  by unfold execAccclr at h; (repeat' split at h) <;> cases h <;> simp

@[simp] theorem State.tileBufUe_outside (s : State) (i : Nat) (f : Flight) (u : Nat × Nat) : (State.tileBufUe s i f u).outside = s.outside :=
  by simp [State.tileBufUe]

@[simp] theorem State.consistCounts_outside (s : State) (i : Nat) (out : ConsistOut) : (State.consistCounts s i out).outside = s.outside :=
  by simp [State.consistCounts, State.outside_ite]

@[simp] theorem State.runConsist_outside (s : State) (i : Nat) (f : Flight) (o : Obs) : (State.runConsist s i f o).outside = s.outside :=
  by unfold State.runConsist; dsimp only; (repeat' split) <;> simp

theorem execConsist_outside (i : Stn) (o : Obs) (s : State) {out : State} (h : (execConsist i o s) = .next out) : out.outside = s.outside :=
  by unfold execConsist at h; (repeat' split at h) <;> cases h <;> simp

theorem execConsistComplete_outside (i : Stn) (s : State) {out : State} (h : (execConsistComplete i s) = .next out) : out.outside = s.outside :=
  by unfold execConsistComplete at h; dsimp only at h; (repeat' split at h) <;> cases h <;> simp

theorem execSummary_outside (i : Stn) (s : State) {out : State} (h : (execSummary i s) = .next out) : out.outside = s.outside :=
  by unfold execSummary at h; (repeat' split at h) <;> cases h <;> simp

theorem execSummaryPost_outside (i : Stn) (s : State) {out : State} (h : (execSummaryPost i s) = .next out) : out.outside = s.outside :=
  by unfold execSummaryPost at h; dsimp only at h; (repeat' split at h) <;> cases h <;> simp

@[simp] theorem State.setPort_outside (s : State) (p : Nat) (q : Port) : (State.setPort s p q).outside = s.outside :=
  by simp [State.setPort]

@[simp] theorem State.setNet_outside (s : State) (n : Net) : (State.setNet s n).outside = s.outside :=
  by simp [State.setNet]

@[simp] theorem State.sendCtl_outside (s : State) (p : Nat) (nak : Bool) (cr : Option (Nat × Nat × Nat)) : (State.sendCtl s p nak cr).outside = s.outside :=
  by simp [State.sendCtl]

@[simp] theorem State.freeBuffer_outside (s : State) (origin : Option (Nat × Nat × Nat)) : (State.freeBuffer s origin).outside = s.outside :=
  by unfold State.freeBuffer; split <;> simp

@[simp] theorem State.sendNext_outside (s : State) (p : Nat) (w : Waiting) : (State.sendNext s p w).outside = s.outside :=
  by simp [State.sendNext]

@[simp] theorem State.flushPort_outside (p n : Nat) (s : State) : (State.flushPort p n s).outside = s.outside := by
  induction n generalizing s with
  | zero => rfl
  | succ n ih => unfold State.flushPort; dsimp only; (repeat' split) <;> simp [ih]

@[simp] theorem State.toPort_outside (s : State) (p : Nat) (w : Waiting) : (State.toPort s p w).outside = s.outside :=
  by simp [State.toPort]

@[simp] theorem State.routeWaiting_outside (s : State) (w : Waiting) : (State.routeWaiting s w).outside = s.outside :=
  by unfold State.routeWaiting; split <;> simp

@[simp] theorem State.routeFrame_outside (s : State) (f : Frame) : (State.routeFrame s f).outside = s.outside :=
  by simp [State.routeFrame]

@[simp] theorem State.sendTo_outside (s : State) (dmod pick : Nat) (b : FrameBody) : (State.sendTo s dmod pick b).outside = s.outside :=
  by simp [State.sendTo]

@[simp] theorem State.sendOut_outside (s : State) (node dmod pick : Nat) (fs : List Flit) : (State.sendOut s node dmod pick fs).outside = s.outside :=
  by simp [State.sendOut]

@[simp] theorem State.flood_outside (s : State) (from' : Option Nat) (b : FrameBody) : (State.flood s from' b).outside = s.outside :=
  by simp [State.flood, State.outside_ite]

@[simp] theorem State.respond_outside (s : State) (node : Nat) (f : Flit) (b : FlitBody) : (State.respond s node f b).outside = s.outside :=
  by unfold State.respond; split <;> simp

@[simp] theorem State.dropFlits_outside (s : State) (i : Nat) : (State.dropFlits s i).outside = s.outside :=
  by simp [State.dropFlits]

@[simp] theorem State.moverUe_outside (s : State) (i : Nat) (f : Flight) (l : Nat) : (State.moverUe s i f l).outside = s.outside :=
  by simp [State.moverUe]

@[simp] theorem State.sendLine_outside (s : State) (i : Nat) (f : Flight) (dests : List Nat) (skips : List Nat) (r : Nat) : (State.sendLine s i f dests skips r).outside = s.outside :=
  by simp [State.sendLine]

@[simp] theorem State.sendSkips_outside (s : State) (i : Nat) (f : Flight) (dests skips : List Nat) : (State.sendSkips s i f dests skips).outside = s.outside :=
  by simp [State.sendSkips, State.outside_ite]

@[simp] theorem State.sendLines_outside (s : State) (i : Nat) (f : Flight) (dests skips l : List Nat) : (s.sendLines i f dests skips l).outside = s.outside := by
  cases l with
  | nil => simp [State.sendLines]
  | cons r q => simp [State.sendLines]

@[simp] theorem State.mixWords_outside (s : State) (i : Nat) (ws : List Nat) : (State.mixWords s i ws).2.outside = s.outside :=
  by simp [State.mixWords]

@[simp] theorem State.runReduce_outside (s : State) (i : Nat) (f : Flight) : (State.runReduce s i f).outside = s.outside :=
  by simp [State.runReduce]

@[simp] theorem State.holdAtRouter_outside (s : State) (dst : Nat) (f : Flit) (rest : List Flit) : (State.holdAtRouter s dst f rest).outside = s.outside :=
  by simp [State.holdAtRouter, State.outside_ite]

@[simp] theorem State.acknowledge_outside (s : State) (dst : Nat) (f : Flit) : (State.acknowledge s dst f).outside = s.outside :=
  by simp [State.acknowledge, State.outside_ite]

@[simp] theorem State.slipArrival_outside (s : State) (dst : Nat) (f : Flit) (q : Slip) : (State.slipArrival s dst f q).outside = s.outside :=
  by unfold State.slipArrival; dsimp only; (repeat' split) <;> simp

@[simp] theorem State.serveWr_outside (s : State) (dst : Nat) (f : Flit) (bs : List MaskedByte) (ls : List Nat) (total : Nat) (t : Option Stream) (sl : Option Slip) : (State.serveWr s dst f bs ls total t sl).outside = s.outside :=
  by unfold State.serveWr; dsimp only; (repeat' split) <;> simp

theorem execMeshWrArrival_outside (dst : Stn) (src : Nat) (met : Contended) (sl : Option Slip) (s : State) {out : State} (h : (execMeshWrArrival dst src met sl s) = .next out) : out.outside = s.outside :=
  by unfold execMeshWrArrival at h; (repeat' split at h) <;> cases h <;> simp

@[simp] theorem State.serveToken_outside (s : State) (dst : Nat) (f : Flit) (t : Nat) : (State.serveToken s dst f t).outside = s.outside :=
  by simp [State.serveToken, State.outside_ite]

theorem execTokenArrival_outside (dst : Stn) (src : Nat) (s : State) {out : State} (h : (execTokenArrival dst src s) = .next out) : out.outside = s.outside :=
  by unfold execTokenArrival at h; (repeat' split at h) <;> cases h <;> simp

theorem execReduceArrival_outside (dst src : Stn) (s : State) {out : State} (h : (execReduceArrival dst src s) = .next out) : out.outside = s.outside :=
  by unfold execReduceArrival at h; dsimp only at h; (repeat' split at h) <;> cases h <;> simp

@[simp] theorem State.takeAnswer_outside (s : State) (i : Nat) (f : Flit) : (State.takeAnswer s i f).outside = s.outside :=
  by unfold State.takeAnswer; (repeat' split) <;> first | with_reducible rfl | simp [State.outside_ite]

theorem execAckReceipt_outside (i : Stn) (src : Nat) (s : State) {out : State} (h : (execAckReceipt i src s) = .next out) : out.outside = s.outside :=
  by unfold execAckReceipt at h; (repeat' split at h) <;> cases h <;> simp

theorem execTicket_outside (i : Stn) (s : State) {out : State} (h : (execTicket i s) = .next out) : out.outside = s.outside :=
  by unfold execTicket at h; (repeat' split at h) <;> cases h <;> simp

@[simp] theorem State.serveTicket_outside (s : State) (c : Nat) : (State.serveTicket s c).2.outside = s.outside :=
  by unfold State.serveTicket; dsimp only; split <;> simp

theorem execTktRequest_outside (c : Fin 64) (i : Stn) (s : State) {out : State} (h : (execTktRequest c i s) = .next out) : out.outside = s.outside :=
  by unfold execTktRequest at h; dsimp only at h; (repeat' split at h) <;> cases h <;> simp

theorem execTktval_outside (i : Stn) (s : State) {out : State} (h : (execTktval i s) = .next out) : out.outside = s.outside :=
  by unfold execTktval at h; (repeat' split at h) <;> cases h <;> simp

theorem execLedgerEntryCommit_outside (i : Stn) (s : State) {out : State} (h : (execLedgerEntryCommit i s) = .next out) : out.outside = s.outside :=
  by unfold execLedgerEntryCommit at h; dsimp only at h; (repeat' split at h) <;> cases h <;> simp

theorem execTake_outside (i : Stn) (s : State) {out : State} (h : (execTake i s) = .next out) : out.outside = s.outside :=
  by unfold execTake at h; dsimp only at h; (repeat' split at h) <;> cases h <;> simp

theorem execGive_outside (i : Stn) (s : State) {out : State} (h : (execGive i s) = .next out) : out.outside = s.outside :=
  by unfold execGive at h; (repeat' split at h) <;> cases h <;> simp

@[simp] theorem State.deliver_outside (s : State) (i : Nat) (f : Flight) : (State.deliver s i f).outside = s.outside :=
  by simp [State.deliver, State.outside_ite]

theorem execGiveDeliver_outside (i : Stn) (s : State) {out : State} (h : (execGiveDeliver i s) = .next out) : out.outside = s.outside :=
  by unfold execGiveDeliver at h; (repeat' split at h) <;> cases h <;> simp

@[simp] theorem State.releaseStn_outside (s : State) (i : Nat) : (State.releaseStn s i).outside = s.outside :=
  by simp [State.releaseStn]

@[simp] theorem State.release_outside (s : State) (d : Bool) (k : Nat) : (s.release d k).outside = s.outside := by
  unfold State.release
  apply State.outside_foldl
  intro t b
  cases (t.stn b).iss.posted with
  | none => rfl
  | some p => dsimp only; split <;> [split; skip] <;> simp

@[simp] theorem State.postArrival_outside (s : State) (i : Nat) (w : PWord) : (State.postArrival s i w).outside = s.outside :=
  by simp [State.postArrival, State.outside_ite]

theorem execInterlock_outside (i : Stn) (s : State) {out : State} (h : (execInterlock i s) = .next out) : out.outside = s.outside :=
  by unfold execInterlock at h; (repeat' split at h) <;> cases h <;> simp

@[simp] theorem State.setXq_outside (s : State) (q : Nat) (x : XQueue) : (State.setXq s q x).outside = s.outside :=
  by simp [State.setXq]

@[simp] theorem State.xqRefresh_outside (s : State) (q : Nat) : (State.xqRefresh s q).outside = s.outside :=
  by simp [State.xqRefresh, State.outside_ite]

@[simp] theorem State.xqOpenTo_outside (s : State) (q round : Nat) (ranks : List Nat) : (State.xqOpenTo s q round ranks).outside = s.outside :=
  by unfold State.xqOpenTo; dsimp only; exact State.outside_foldl _ (fun t b => by (repeat' split) <;> simp) _ _

@[simp] theorem State.xqClose_outside (s : State) (q : Nat) : (State.xqClose s q).outside = s.outside :=
  by simp [State.xqClose]

@[simp] theorem State.toQueue_outside (s : State) (i txn : Nat) (md : Option Nat) (b : FlitBody) : (State.toQueue s i txn md b).outside = s.outside :=
  by unfold State.toQueue; split <;> simp

theorem State.shareFor_outside (s : State) (i : Nat) (q : Option Nat × Nat) {n : Nat} {t : State} (h : s.shareFor i q = some (n, t)) : t.outside = s.outside := by
  unfold State.shareFor at h
  dsimp only at h
  (repeat' split at h) <;> simp at h
  all_goals (obtain ⟨_, rfl⟩ := h; simp)

@[simp] theorem State.sendShare_outside (s : State) (i : Nat) (f : Flight) (upto : Option Nat) (q : Option Nat × Nat × Nat) : (s.sendShare i f upto q).outside = s.outside := by
  unfold State.sendShare
  dsimp only
  split
  · rfl
  · split
    · rfl
    · split
      · rfl
      · rename_i h
        have h0 := State.shareFor_outside _ _ _ h
        (repeat' split) <;> simp [h0]

@[simp] theorem State.startDispatch_outside (s : State) (i : Nat) (f : Flight) : (State.startDispatch s i f).outside = s.outside :=
  by simp [State.startDispatch]

@[simp] theorem State.runDispatch_outside (s : State) (i : Nat) (f : Flight) (upto : Option Nat) : (State.runDispatch s i f upto).outside = s.outside :=
  by simp [State.runDispatch]

@[simp] theorem State.pullBack_outside (s : State) (i : Nat) (f : Flight) : (State.pullBack s i f).outside = s.outside :=
  by unfold State.pullBack; split <;> simp

@[simp] theorem State.pullBackAll_outside (s : State) (i : Nat) : (State.pullBackAll s i).outside = s.outside :=
  by simp [State.pullBackAll]

@[simp] theorem State.redispatch_outside (s : State) (i : Nat) (f : Flight) : (State.redispatch s i f).outside = s.outside :=
  by simp [State.redispatch, State.outside_ite]

theorem execDispatch_outside (i : Stn) (o : Obs) (s : State) {out : State} (h : (execDispatch i o s) = .next out) : out.outside = s.outside :=
  by unfold execDispatch at h; dsimp only at h; (repeat' split at h) <;> cases h <;> simp

@[simp] theorem State.xqRefused_outside (s : State) (q : Nat) (f : Flit) : (State.xqRefused s q f).outside = s.outside :=
  by unfold State.xqRefused; (repeat' split) <;> first | with_reducible rfl | simp [State.outside_ite]

@[simp] theorem State.dispatchLanded_outside (s : State) (f : Flit) : (State.dispatchLanded s f).outside = s.outside :=
  by unfold State.dispatchLanded; split <;> simp

@[simp] theorem State.xqAccept_outside (s : State) (q rank : Nat) (f : Flit) (vs : List Flit) : (State.xqAccept s q rank f vs).outside = s.outside :=
  by simp [State.xqAccept, State.outside_ite]

theorem execXqMarker_outside (q : Fin 64) (rank : Nat) (s : State) {out : State} (h : (execXqMarker q rank s) = .next out) : out.outside = s.outside :=
  by unfold execXqMarker at h; dsimp only at h; (repeat' split at h) <;> cases h <;> simp

theorem execXqRoundStart_outside (q : Fin 64) (s : State) {out : State} (h : (execXqRoundStart q s) = .next out) : out.outside = s.outside :=
  by unfold execXqRoundStart at h; dsimp only at h; (repeat' split at h) <;> cases h <;> simp

@[simp] theorem State.xqReturn_outside (s : State) (q : Nat) : (State.xqReturn s q).outside = s.outside :=
  by unfold State.xqReturn; dsimp only; exact State.outside_foldl _ (fun t b => by (repeat' split) <;> simp) _ _

theorem execXqTout_outside (q : Fin 64) (s : State) {out : State} (h : (execXqTout q s) = .next out) : out.outside = s.outside :=
  by unfold execXqTout at h; dsimp only at h; (repeat' split at h) <;> cases h <;> simp

@[simp] theorem State.xqWanted_outside (s : State) (q rank : Nat) : (State.xqWanted s q rank).outside = s.outside :=
  by simp [State.xqWanted]

@[simp] theorem State.askQueue_outside (s : State) (i : Nat) (q : Option Nat × Nat × Nat) : (State.askQueue s i q).outside = s.outside :=
  by unfold State.askQueue; split <;> simp

@[simp] theorem State.startGather_outside (s : State) (i : Nat) (f : Flight) : (State.startGather s i f).outside = s.outside :=
  by unfold State.startGather; dsimp only; split <;> simp

@[simp] theorem placeAll_outside (i q n : Nat) (s : State) : (placeAll i q n s).outside = s.outside := by
  induction n generalizing s with
  | zero => rfl
  | succ n ih => unfold placeAll; dsimp only; (repeat' split) <;> simp [ih]

theorem execGather_outside (i : Stn) (o : Obs) (s : State) {out : State} (h : (execGather i o s) = .next out) : out.outside = s.outside :=
  by unfold execGather at h; dsimp only at h; (repeat' split at h) <;> cases h <;> simp

@[simp] theorem State.serveBar2_outside (s : State) (i off n : Nat) (w : Option (List Byte)) (busy refused : Nat) : (State.serveBar2 s i off n w busy refused).outside = s.outside :=
  by unfold State.serveBar2; dsimp only; (repeat' split) <;> simp

@[simp] theorem State.putCtrl_outside (s : State) (i : Nat) (v : Word) : (State.putCtrl s i v).outside = s.outside :=
  by simp [State.putCtrl, State.outside_ite]

@[simp] theorem State.ctrlWrite_outside (s : State) (i : Nat) (v : Word) : (State.ctrlWrite s i v).outside = s.outside :=
  by simp [State.ctrlWrite, State.outside_ite]

theorem execSleepCommit_outside (i : Stn) (s : State) {out : State} (h : (execSleepCommit i s) = .next out) : out.outside = s.outside :=
  by unfold execSleepCommit at h; rcases ite_next h with h1 | h1 <;> simp [h1]

theorem execRetentionReached_outside (i : Stn) (s : State) {out : State} (h : (execRetentionReached i s) = .next out) : out.outside = s.outside :=
  by unfold execRetentionReached at h; rcases ite_next h with h1 | h1 <;> simp [h1]

theorem State.serveHeld_outside (s : State) (i : Nat) (f : Flit) {t : State} (h : s.serveHeld i f = some t) : t.outside = s.outside := by
  unfold State.serveHeld at h
  dsimp only at h
  (repeat' split at h) <;> simp at h
  all_goals (subst h; simp)

@[simp] theorem State.serveAll_outside (i : Nat) (l : List Flit) (s : State) (stay : List Flit) : (s.serveAll i stay l).1.outside = s.outside := by
  induction l generalizing s stay with
  | nil => rfl
  | cons f r ih =>
    unfold State.serveAll
    split
    · exact ih _ _
    · split
      · rename_i h; rw [ih, State.serveHeld_outside _ _ _ h]
      · exact ih _ _

theorem execWakeComplete_outside (i : Stn) (s : State) {out : State} (h : (execWakeComplete i s) = .next out) : out.outside = s.outside :=
  by unfold execWakeComplete at h; rcases ite_next h with h1 | h1 <;> simp [h1]

@[simp] theorem State.wakeNow_outside (s : State) (i : Nat) : (State.wakeNow s i).outside = s.outside :=
  by simp [State.wakeNow]

@[simp] theorem State.tokClear_outside (s : State) (i k : Nat) (v : Word) : (State.tokClear s i k v).outside = s.outside :=
  by simp [State.tokClear]

@[simp] theorem State.tokSet_outside (s : State) (i k : Nat) (v : Word) : (State.tokSet s i k v).outside = s.outside :=
  by simp [State.tokSet]

theorem execDepartureStagger_outside (i : Stn) (s : State) {out : State} (h : (execDepartureStagger i s) = .next out) : out.outside = s.outside :=
  by unfold execDepartureStagger at h; rcases ite_next h with h1 | h1 <;> simp [h1]

@[simp] theorem State.setKey_outside (s : State) (start key : Nat) : (State.setKey s start key).outside = s.outside :=
  by simp [State.setKey]

@[simp] theorem State.onSnapAck_outside (s : State) (gen : Nat) : (State.onSnapAck s gen).outside = s.outside :=
  by unfold State.onSnapAck; dsimp only; (repeat' split) <;> simp

@[simp] theorem State.endCoast_outside (s : State) (back : Bool) : (State.endCoast s back).outside = s.outside :=
  by simp [State.endCoast, State.outside_ite]

@[simp] theorem State.beginCoast_outside (s : State) : (State.beginCoast s).outside = s.outside :=
  by simp [State.beginCoast, State.outside_ite]

@[simp] theorem State.releaseDomain_outside (s : State) (ilk : Nat) : (State.releaseDomain s ilk).outside = s.outside :=
  by simp [State.releaseDomain]

@[simp] theorem State.onCommit_outside (s : State) : (State.onCommit s).outside = s.outside :=
  by unfold State.onCommit; split <;> simp

@[simp] theorem State.onRollRelease_outside (s : State) (iseq : Word) : (State.onRollRelease s iseq).outside = s.outside :=
  by unfold State.onRollRelease; dsimp only; (repeat' split) <;> simp

@[simp] theorem State.sendIlk_outside (s : State) (m kind : Nat) (k : IlkKind) (ilk count slow reason : Nat) : (State.sendIlk s m kind k ilk count slow reason).outside = s.outside :=
  by simp [State.sendIlk]

@[simp] theorem State.onPresent_outside (s : State) (child ilk lce : Nat) : (State.onPresent s child ilk lce).outside = s.outside :=
  by simp [State.onPresent, State.outside_ite]

theorem execPresent_outside (child ilk lce : Nat) (s : State) {out : State} (h : (execPresent child ilk lce s) = .next out) : out.outside = s.outside :=
  by unfold execPresent at h; rcases ite_next h with h1 | h1 <;> simp [h1]

theorem execSnapLate_outside (s : State) {out : State} (h : (execSnapLate s) = .next out) : out.outside = s.outside :=
  by unfold execSnapLate at h; dsimp only at h; (repeat' split at h) <;> cases h <;> simp

@[simp] theorem State.nextIlk_outside (s : State) : (State.nextIlk s).2.outside = s.outside :=
  by unfold State.nextIlk; split <;> simp

@[simp] theorem State.raiseLate_outside (s : State) (mod cause : Nat) : (State.raiseLate s mod cause).outside = s.outside :=
  by simp [State.raiseLate]

theorem execDeadlineExpiry_outside (s : State) {t : State} (h : (execDeadlineExpiry s) = .next t) : t.outside = s.outside := by
  unfold execDeadlineExpiry at h
  dsimp only at h
  rcases ite_next h with h1 | h1 <;> rw [h1] <;> simp

theorem execNoNoticeExpiry_outside (s : State) {t : State} (h : (execNoNoticeExpiry s) = .next t) : t.outside = s.outside := by
  unfold execNoNoticeExpiry at h
  dsimp only at h
  cases hc : s.silentChild with
  | none => rw [hc] at h; cases h; rfl
  | some c => rw [hc] at h; rcases ite_next h with h1 | h1 <;> rw [h1] <;> simp

@[simp] theorem State.onLate_outside (s : State) (port : Option Nat) (mod ilk cause reason rep : Nat) (iseq : Word) : (State.onLate s port mod ilk cause reason rep iseq).outside = s.outside :=
  by simp [State.onLate, State.outside_ite]

theorem execLateNotice_outside (p : Fin 12) (mod ilk cause reason rep : Nat) (iseq : Word) (s : State) {out : State} (h : (execLateNotice p mod ilk cause reason rep iseq s) = .next out) : out.outside = s.outside :=
  by unfold execLateNotice at h; rcases ite_next h with h1 | h1 <;> simp [h1]

@[simp] theorem State.onHalt_outside (s : State) (port : Option Nat) (mod nseq : Nat) : (State.onHalt s port mod nseq).outside = s.outside :=
  by simp [State.onHalt, State.outside_ite]

theorem execHaltNotice_outside (p : Fin 12) (mod nseq : Nat) (s : State) {out : State} (h : (execHaltNotice p mod nseq s) = .next out) : out.outside = s.outside :=
  by unfold execHaltNotice at h; rcases ite_next h with h1 | h1 <;> simp [h1]

@[simp] theorem State.flushAll_outside (s : State) : (State.flushAll s).outside = s.outside :=
  by simp [State.flushAll]

theorem execHaltAllowanceExpiry_outside (s : State) {out : State} (h : (execHaltAllowanceExpiry s) = .next out) : out.outside = s.outside :=
  by unfold execHaltAllowanceExpiry at h; rcases ite_next h with h1 | h1 <;> simp [h1]

@[simp] theorem State.sendImage_outside (s : State) (m cid k phase mext next : Nat) (a : Slot) : (State.sendImage s m cid k phase mext next a).outside = s.outside :=
  by simp [State.sendImage]

@[simp] theorem State.putInst_outside (s : State) (i : CollInst) : (State.putInst s i).outside = s.outside :=
  by simp [State.putInst]

@[simp] theorem State.distribute_outside (s : State) (c : CollDef) (i : CollInst) (r : Slot) (n : Nat) : (s.distribute c i r n).outside = s.outside := by
  induction n with
  | zero => rfl
  | succ n ih => unfold State.distribute; dsimp only; split <;> simp [ih]

@[simp] theorem State.setResult_outside (s : State) (i : CollInst) (r : Slot) : (State.setResult s i r).outside = s.outside :=
  by simp [State.setResult]

@[simp] theorem State.collAdvance_outside (s : State) (cid k : Nat) : (State.collAdvance s cid k).outside = s.outside :=
  by unfold State.collAdvance; dsimp only; (repeat' split) <;> simp

@[simp] theorem State.collTidy_outside (s : State) (cid k : Nat) : (State.collTidy s cid k).outside = s.outside :=
  by simp [State.collTidy, State.outside_ite]

@[simp] theorem State.joinColl_outside (s : State) (i : Nat) (f : Flight) : (State.joinColl s i f).outside = s.outside :=
  by unfold State.joinColl; dsimp only; (repeat' split) <;> simp

@[simp] theorem State.onColl_outside (s : State) (smod cid k phase mext next : Nat) (img : Slot) : (State.onColl s smod cid k phase mext next img).outside = s.outside :=
  by simp [State.onColl, State.outside_ite]

@[simp] theorem State.feedParts_outside (s : State) (n : Nat) : (s.feedParts n).outside = s.outside := by
  induction n with
  | zero => rfl
  | succ n ih => unfold State.feedParts; dsimp only; split <;> simp [ih]

@[simp] theorem State.onPart_outside (s : State) (a : CollPart) : (State.onPart s a).outside = s.outside :=
  by simp [State.onPart]

theorem execReduce_outside (i : Stn) (s : State) {out : State} (h : (execReduce i s) = .next out) : out.outside = s.outside := by
  unfold execReduce at h
  generalize 64 = n at h
  (repeat' split at h) <;> cases h <;> simp

theorem execColl_outside (smod cid k phase mext next : Nat) (img : Slot) (s : State) {out : State} (h : (execColl smod cid k phase mext next img s) = .next out) : out.outside = s.outside :=
  by unfold execColl at h; rcases ite_next h with h1 | h1 <;> simp [h1]

@[simp] theorem State.feedResult_outside (s : State) (st : Nat) : (State.feedResult s st).outside = s.outside :=
  by unfold State.feedResult; dsimp only; (repeat' split) <;> simp

theorem execCollectiveResultWrite_outside (i : Stn) (s : State) {out : State} (h : (execCollectiveResultWrite i s) = .next out) : out.outside = s.outside := by
  unfold execCollectiveResultWrite at h
  generalize 64 = n at h
  dsimp only at h
  (repeat' split at h) <;> cases h <;> simp

@[simp] theorem State.sessMove_outside (s : State) (i st berth : Nat) : (State.sessMove s i st berth).outside = s.outside :=
  by simp [State.sessMove]

@[simp] theorem State.setBerth_outside (s : State) (b : Nat) (v : Option Nat) : (State.setBerth s b v).outside = s.outside :=
  by simp [State.setBerth]

@[simp] theorem State.unberth_outside (s : State) : s.unberth.outside = s.outside := by
  unfold State.unberth
  apply State.outside_foldl
  rintro t ⟨a, b⟩
  cases b <;> simp

@[simp] theorem State.clearStations_outside (s : State) : (State.clearStations s).outside = s.outside :=
  by simp [State.clearStations]

@[simp] theorem State.clearTickets_outside (s : State) : (State.clearTickets s).outside = s.outside :=
  by simp [State.clearTickets]

@[simp] theorem State.clearQueues_outside (s : State) : (State.clearQueues s).outside = s.outside :=
  by simp [State.clearQueues]

@[simp] theorem State.lineClear_outside (s : State) (lce : Nat) : (State.lineClear s lce).outside = s.outside :=
  by simp [State.lineClear]

@[simp] theorem State.beginRoll_outside (s : State) (w : FaultInfo) (unit : Nat) : (State.beginRoll s w unit).outside = s.outside :=
  by simp [State.beginRoll]

@[simp] theorem State.actClear_outside (s : State) (lce : Nat) (w : FaultInfo) (unit : Nat) : (State.actClear s lce w unit).outside = s.outside :=
  by simp [State.actClear, State.outside_ite]

@[simp] theorem State.startClear_outside (s : State) (w : FaultInfo) (unit : Nat) : (State.startClear s w unit).outside = s.outside :=
  by simp [State.startClear]

@[simp] theorem State.onClear_outside (s : State) (port : Option Nat) (mod e : Nat) : (State.onClear s port mod e).outside = s.outside :=
  by simp [State.onClear, State.outside_ite]

theorem execClearNotice_outside (p : Fin 12) (mod e : Nat) (s : State) {out : State} (h : (execClearNotice p mod e s) = .next out) : out.outside = s.outside :=
  by unfold execClearNotice at h; rcases ite_next h with h1 | h1 <;> simp [h1]

@[simp] theorem State.recovery_outside (s : State) : (State.recovery s).outside = s.outside :=
  by simp [State.recovery]

@[simp] theorem State.takeStep5_outside (s : State) (w : FaultInfo) (unit : Nat) : (State.takeStep5 s w unit).outside = s.outside :=
  by simp [State.takeStep5]

@[simp] theorem State.retire_outside (s : State) (w : FaultInfo) (unit : Nat) : (State.retire s w unit).outside = s.outside :=
  by simp [State.retire, State.outside_ite]

@[simp] theorem State.step5_outside (s : State) (w : FaultInfo) (unit : Nat) (own : Bool) : (State.step5 s w unit own).outside = s.outside :=
  by simp [State.step5, State.outside_ite]

@[simp] theorem State.logRestart_outside (s : State) (r : Roll) : (State.logRestart s r).outside = s.outside :=
  by simp [State.logRestart, State.outside_ite]

@[simp] theorem State.restartJob_outside (s : State) (r : Roll) : (State.restartJob s r).outside = s.outside :=
  by simp [State.restartJob, State.outside_ite]

theorem execNoNoticeRollbackExpiry_outside (s : State) {out : State} (h : (execNoNoticeRollbackExpiry s) = .next out) : out.outside = s.outside :=
  by unfold execNoNoticeRollbackExpiry at h; dsimp only at h; (repeat' split at h) <;> cases h <;> simp

@[simp] theorem State.noteReload_outside (s : State) (i m : Nat) : (State.noteReload s i m).outside = s.outside :=
  by simp [State.noteReload]

@[simp] theorem State.stepTwo_outside (s : State) (i m k : Nat) (w : FaultInfo) (found : Option Nat) (ce : List Nat) : (State.stepTwo s i m k w found ce).1.outside = s.outside :=
  by simp [State.stepTwo, State.outside_ite]

@[simp] theorem State.reloadFor_outside (s : State) (i : Nat) (f : Flight) (found : Option Nat) (ce : List Nat) : (State.reloadFor s i f found ce).outside = s.outside :=
  by unfold State.reloadFor; dsimp only; (repeat' split) <;> simp

@[simp] theorem State.reloadBank_outside (s : State) (i m k : Nat) (w : FaultInfo) (paid : Nat) (r : List (Nat × Nat × FaultInfo × Nat)) (found : Option Nat) (ce : List Nat) : (State.reloadBank s i m k w paid r found ce).outside = s.outside :=
  by simp [State.reloadBank, State.outside_ite]

theorem execMacroReload_outside (i : Stn) (found : SlotRead) (s : State) {out : State} (h : (execMacroReload i found s) = .next out) : out.outside = s.outside :=
  by unfold execMacroReload at h; dsimp only at h; (repeat' split at h) <;> cases h <;> simp

@[simp] theorem State.setFaulty_outside (s : State) (i m : Nat) : (State.setFaulty s i m).outside = s.outside :=
  by simp [State.setFaulty]

@[simp] theorem State.faultMacro_outside (s : State) (i m : Nat) : (State.faultMacro s i m).outside = s.outside :=
  by simp [State.faultMacro, State.outside_ite]

theorem execRouteAround_outside (i : Stn) (s : State) {out : State} (h : (execRouteAround i s) = .next out) : out.outside = s.outside :=
  by unfold execRouteAround at h; dsimp only at h; (repeat' split at h) <;> cases h <;> simp

@[simp] theorem State.dropStation_outside (s : State) (i : Nat) : (State.dropStation s i).outside = s.outside :=
  by simp [State.dropStation]

theorem execStationRestart_outside (i : Stn) (s : State) {out : State} (h : (execStationRestart i s) = .next out) : out.outside = s.outside := by
  unfold execStationRestart at h
  split at h
  · cases h; rfl
  · split at h
    · cases h; simp
    · rw [← Host.Outcome.next.inj h]
      split <;> simp

@[simp] theorem State.scrubFound_outside (s : State) (i m k code d1 : Nat) : (State.scrubFound s i m k code d1).outside = s.outside :=
  by simp [State.scrubFound, State.outside_ite]

@[simp] theorem State.scrubBank_outside (s : State) (i m k : Nat) (found : Option Nat) (ce : List Nat) : (State.scrubBank s i m k found ce).outside = s.outside :=
  by unfold State.scrubBank; dsimp only; (repeat' split) <;> simp

theorem execScrub_outside (i : Stn) (m : Fin 64) (k : Fin 4) (found : SlotRead) (s : State) {out : State} (h : (execScrub i m k found s) = .next out) : out.outside = s.outside :=
  by unfold execScrub at h; rcases ite_next h with h1 | h1 <;> simp [h1]

@[simp] theorem State.setPortState_outside (s : State) (p st : Nat) : (State.setPortState s p st).outside = s.outside :=
  by simp [State.setPortState, State.outside_ite]

@[simp] theorem State.settleLinks_outside (s : State) : (State.settleLinks s).outside = s.outside :=
  by simp [State.settleLinks, State.outside_ite]

@[simp] theorem State.abortFlight_outside (s : State) (w : FaultInfo) (k : Nat × Nat) : (State.abortFlight s w k).outside = s.outside :=
  by unfold State.abortFlight; split <;> simp

@[simp] theorem State.loseDirection_outside (s : State) (d : Nat) : (State.loseDirection s d).outside = s.outside :=
  by simp [State.loseDirection, State.outside_ite]

@[simp] theorem State.failOver_outside (s : State) (p : Nat) : (State.failOver s p).outside = s.outside :=
  by simp [State.failOver, State.outside_ite]

@[simp] theorem State.portFail_outside (s : State) (p : Nat) : (State.portFail s p).outside = s.outside :=
  by simp [State.portFail]

@[simp] theorem State.downshift_outside (s : State) (p : Nat) (lanes : BitVec 4) : (State.downshift s p lanes).outside = s.outside :=
  by simp [State.downshift]

theorem execLaneFail_outside (p : Fin 12) (lane : Fin 4) (s : State) {out : State} (h : (execLaneFail p lane s) = .next out) : out.outside = s.outside :=
  by unfold execLaneFail at h; dsimp only at h; (repeat' split at h) <;> cases h <;> simp

@[simp] theorem State.portComesUp_outside (s : State) (p pm pp : Nat) (bad : BitVec 4) : (State.portComesUp s p pm pp bad).outside = s.outside :=
  by unfold State.portComesUp; dsimp only; (repeat' split) <;> simp

@[simp] theorem State.sendIdent_outside (s : State) (p : Nat) : (State.sendIdent s p).outside = s.outside :=
  by simp [State.sendIdent]

theorem execPortTraining_outside (p : Fin 12) (bad : BitVec 4) (pm pp : Nat) (s : State) {out : State} (h : (execPortTraining p bad pm pp s) = .next out) : out.outside = s.outside :=
  by unfold execPortTraining at h; (repeat' split at h) <;> cases h <;> simp

theorem execTrainingTimeout_outside (p : Fin 12) (s : State) {out : State} (h : (execTrainingTimeout p s) = .next out) : out.outside = s.outside :=
  by unfold execTrainingTimeout at h; rcases ite_next h with h1 | h1 <;> simp [h1]

@[simp] theorem State.trainPort_outside (s : State) (p : Nat) : (State.trainPort s p).outside = s.outside :=
  by simp [State.trainPort, State.outside_ite]

@[simp] theorem State.linkCtrlWrite_outside (s : State) (p : Nat) (v : Word) : (State.linkCtrlWrite s p v).outside = s.outside :=
  by simp [State.linkCtrlWrite, State.outside_ite]

@[simp] theorem State.deliverFlit_outside (s : State) (p smod : Nat) (g : Flit) : (State.deliverFlit s p smod g).outside = s.outside :=
  by unfold State.deliverFlit; dsimp only; (repeat' split) <;> simp

@[simp] theorem State.takeAck_outside (s : State) (p : Nat) (f : Frame) : (State.takeAck s p f).outside = s.outside :=
  by simp [State.takeAck, State.outside_ite]

@[simp] theorem State.badFrame_outside (s : State) (p : Nat) (f : Frame) : (State.badFrame s p f).outside = s.outside :=
  by simp [State.badFrame, State.outside_ite]

@[simp] theorem State.setMeshLink_outside (s : State) (l : MeshLink) : (State.setMeshLink s l).outside = s.outside :=
  by simp [State.setMeshLink]

@[simp] theorem State.stopLink_outside (s : State) (l : MeshLink) : (State.stopLink s l).outside = s.outside :=
  by unfold State.stopLink; dsimp only; (repeat' split) <;> simp

theorem execFlitCrcRetransmit_outside (r : Fin 176) (d : Fin 4) (again : Bool) (s : State) {out : State} (h : (execFlitCrcRetransmit r d again s) = .next out) : out.outside = s.outside :=
  by unfold execFlitCrcRetransmit at h; dsimp only at h; (repeat' split at h) <;> cases h <;> simp

theorem execMeshLinkRetrain_outside (r : Fin 176) (d : Fin 4) (s : State) {out : State} (h : (execMeshLinkRetrain r d s) = .next out) : out.outside = s.outside :=
  by unfold execMeshLinkRetrain at h; rcases ite_next h with h1 | h1 <;> simp [h1]

theorem execChannelRetrain_outside (c : Fin 20) (j : Fin 4) (outcome : Fin 3) (s : State) {out : State} (h : (execChannelRetrain c j outcome s) = .next out) : out.outside = s.outside :=
  by unfold execChannelRetrain at h; dsimp only at h; (repeat' split at h) <;> cases h <;> simp

theorem execMr4Read_outside (c : Fin 20) (rate : Fin 32) (s : State) {out : State} (h : (execMr4Read c rate s) = .next out) : out.outside = s.outside :=
  by unfold execMr4Read at h; rcases ite_next h with h1 | h1 <;> simp [h1]

theorem execRfm_outside (c : Fin 20) (s : State) {out : State} (h : (execRfm c s) = .next out) : out.outside = s.outside :=
  by unfold execRfm at h; rcases ite_next h with h1 | h1 <;> simp [h1]

theorem execPowerDownEntry_outside (c : Fin 20) (j : Fin 4) (s : State) {out : State} (h : (execPowerDownEntry c j s) = .next out) : out.outside = s.outside :=
  by unfold execPowerDownEntry at h; rcases ite_next h with h1 | h1 <;> simp [h1]

theorem execPerBankRefresh_outside (y0 : Fin 20) (y1 : Fin 4) (s : State) {out : State} (h : (execPerBankRefresh y0 y1 s) = .next out) : out.outside = s.outside :=
  by unfold execPerBankRefresh at h; (repeat' split at h) <;> cases h <;> simp

@[simp] theorem State.goldenWrite_outside (s : State) (v : Word) : (State.goldenWrite s v).outside = s.outside :=
  by simp [State.goldenWrite, State.outside_ite]

@[simp] theorem State.memConfigWrite_outside (s : State) (a : Nat) (v : Word) : (State.memConfigWrite s a v).outside = s.outside :=
  by simp [State.memConfigWrite, State.outside_ite]

@[simp] theorem State.setMeas_outside (s : State) (i : Nat) (d : List Byte) : (State.setMeas s i d).outside = s.outside :=
  by simp [State.setMeas]

@[simp] theorem State.measFlags_outside (s : State) : (State.measFlags s).outside = s.outside :=
  by simp [State.measFlags]

@[simp] theorem State.exhausted_outside (s : State) (kind store : Nat) : (State.exhausted s kind store).outside = s.outside :=
  by simp [State.exhausted]

@[simp] theorem State.setGov_outside (s : State) (g : Gov) : (State.setGov s g).outside = s.outside :=
  by simp [State.setGov]

@[simp] theorem State.learn_outside (s : State) : (State.learn s).outside = s.outside :=
  by simp [State.learn]

@[simp] theorem State.grants_outside (s : State) (c : Nat) : (State.grants s c).2.outside = s.outside :=
  by unfold State.grants; dsimp only; (repeat' split) <;> simp

@[simp] theorem State.grantAll_outside (s : State) (gs : List (Nat × Nat)) : (State.grantAll s gs).outside = s.outside :=
  by simp [State.grantAll, State.outside_ite]

@[simp] theorem State.charge_outside (s : State) (r : Nat) : (State.charge s r).outside = s.outside :=
  by simp [State.charge]

@[simp] theorem State.admitWakes_outside (s : State) : (State.admitWakes s).outside = s.outside :=
  by simp [State.admitWakes, State.outside_ite]

@[simp] theorem State.closePeriod_outside (s : State) (lines hops chg : Nat) : (State.closePeriod s lines hops chg).outside = s.outside :=
  by simp [State.closePeriod]

@[simp] theorem State.slew_outside (s : State) : (State.slew s).outside = s.outside :=
  by simp [State.slew]

@[simp] theorem State.checkCoast_outside (s : State) : (State.checkCoast s).outside = s.outside :=
  by simp [State.checkCoast, State.outside_ite]

@[simp] theorem State.settleReturn_outside (s : State) : (State.settleReturn s).outside = s.outside :=
  by simp [State.settleReturn]

@[simp] theorem State.retarget_outside (s : State) : (State.retarget s).outside = s.outside :=
  by simp [State.retarget]

@[simp] theorem State.openPeriod_outside (s : State) : (State.openPeriod s).outside = s.outside :=
  by simp [State.openPeriod]

@[simp] theorem State.takeHops_outside (s : State) (hops : Nat) : (State.takeHops s hops).2.outside = s.outside :=
  by simp [State.takeHops]

theorem execGovernorPeriod_outside (lines hops chg : Nat) (s : State) {out : State} (h : (execGovernorPeriod lines hops chg s) = .next out) : out.outside = s.outside :=
  by unfold execGovernorPeriod at h; rcases ite_next h with h1 | h1 <;> simp [h1]

@[simp] theorem State.settlePoint_outside (s : State) (op : Nat) : (State.settlePoint s op).outside = s.outside :=
  by simp [State.settlePoint]

theorem execClockChange_outside (s : State) {out : State} (h : (execClockChange s) = .next out) : out.outside = s.outside :=
  by unfold execClockChange at h; (repeat' split at h) <;> cases h <;> simp

@[simp] theorem State.addEnergy_outside (s : State) (nj : Nat) : (State.addEnergy s nj).outside = s.outside :=
  by simp [State.addEnergy]

@[simp] theorem State.calibrate_outside (s : State) (m : Nat) : (State.calibrate s m).outside = s.outside :=
  by simp [State.calibrate, State.outside_ite]

@[simp] theorem State.failPmbus_outside (s : State) (reg : Nat) : (State.failPmbus s reg).outside = s.outside :=
  by simp [State.failPmbus, State.outside_ite]

theorem execCalibration_outside (m : Option Nat) (reg : Fin 7) (s : State) {out : State} (h : (execCalibration m reg s) = .next out) : out.outside = s.outside :=
  by unfold execCalibration at h; (repeat' split at h) <;> cases h <;> simp

@[simp] theorem State.alertOn_outside (s : State) : (State.alertOn s).outside = s.outside :=
  by simp [State.alertOn]

@[simp] theorem State.logRegs_outside (s : State) (code : Nat) (regs : List (Fin 7 × BitVec 16)) : (State.logRegs s code regs).outside = s.outside :=
  by simp [State.logRegs]

@[simp] theorem State.judgeInputs_outside (s : State) : (State.judgeInputs s).outside = s.outside :=
  by simp [State.judgeInputs, State.outside_ite]

@[simp] theorem State.setInput_outside (s : State) (reg on : Bool) (words : List (Fin 7 × BitVec 16)) : (State.setInput s reg on words).outside = s.outside :=
  by simp [State.setInput]

theorem execAlertAssert_outside (reg : Bool) (words : List (Fin 7 × BitVec 16)) (s : State) {out : State} (h : (execAlertAssert reg words s) = .next out) : out.outside = s.outside :=
  by unfold execAlertAssert at h; (repeat' split at h) <;> cases h <;> simp

theorem execAlertDeassert_outside (reg : Bool) (s : State) {out : State} (h : (execAlertDeassert reg s) = .next out) : out.outside = s.outside :=
  by unfold execAlertDeassert at h; rcases ite_next h with h1 | h1 <;> simp [h1]

theorem execAlertHoldExpiry_outside (s : State) {out : State} (h : (execAlertHoldExpiry s) = .next out) : out.outside = s.outside :=
  by unfold execAlertHoldExpiry at h; rcases ite_next h with h1 | h1 <;> simp [h1]

theorem execRegAlertLong_outside (words : List (Fin 7 × BitVec 16)) (s : State) {out : State} (h : (execRegAlertLong words s) = .next out) : out.outside = s.outside :=
  by unfold execRegAlertLong at h; rcases ite_next h with h1 | h1 <;> simp [h1]

theorem execSupplyLowEnd_outside (s : State) {out : State} (h : (execSupplyLowEnd s) = .next out) : out.outside = s.outside :=
  by unfold execSupplyLowEnd at h; rcases ite_next h with h1 | h1 <;> simp [h1]

theorem execThermalStepRise_outside (s : State) {out : State} (h : (execThermalStepRise s) = .next out) : out.outside = s.outside :=
  by unfold execThermalStepRise at h; rcases ite_next h with h1 | h1 <;> simp [h1]

theorem execThermalStepFall_outside (s : State) {out : State} (h : (execThermalStepFall s) = .next out) : out.outside = s.outside :=
  by unfold execThermalStepFall at h; rcases ite_next h with h1 | h1 <;> simp [h1]

theorem execCoastReturn_outside (s : State) {out : State} (h : (execCoastReturn s) = .next out) : out.outside = s.outside :=
  by unfold execCoastReturn at h; rcases ite_next h with h1 | h1 <;> simp [h1]

@[simp] theorem State.setTbit_outside (s : State) (i : Nat) (b : Bool) : (State.setTbit s i b).outside = s.outside :=
  by simp [State.setTbit]

@[simp] theorem State.setAuth_outside (s : State) (n : Nat) : (State.setAuth s n).outside = s.outside :=
  by simp [State.setAuth]

@[simp] theorem State.refresh_outside (s : State) : (State.refresh s).outside = s.outside :=
  by simp [State.refresh]

@[simp] theorem State.tellTender_outside (b a : State) : (State.tellTender b a).outside = a.outside := by
  unfold State.tellTender; dsimp only; split <;> simp

@[simp] theorem State.checkEol_outside (s : State) (aged : Bool) : (State.checkEol s aged).outside = s.outside :=
  by simp [State.checkEol, State.outside_ite]

@[simp] theorem State.paths_outside (s : State) : (State.paths s).outside = s.outside :=
  by simp [State.paths]

@[simp] theorem State.startCharge_outside (s : State) (below : Nat) : (State.startCharge s below).outside = s.outside :=
  by simp [State.startCharge, State.outside_ite]

theorem execChargeStart_outside (s : State) {out : State} (h : (execChargeStart s) = .next out) : out.outside = s.outside :=
  by unfold execChargeStart at h; (repeat' split at h) <;> cases h <;> simp

@[simp] theorem State.measured_outside (s : State) (cap : Nat) : (State.measured s cap).outside = s.outside :=
  by simp [State.measured]

@[simp] theorem State.logLoss_outside (s : State) (cause : Nat) : (State.logLoss s cause).outside = s.outside :=
  by simp [State.logLoss]

@[simp] theorem State.smbus_outside (s : State) (code : Nat) (bytes : List Byte) : (State.smbus s code bytes).outside = s.outside :=
  by simp [State.smbus]

@[simp] theorem State.cartGone_outside (s : State) : s.cartGone.outside = s.outside := by
  unfold State.cartGone
  extract_lets s1 s2
  have h : s1.outside = s.outside := by simp [s1]
  rw [State.refresh_outside, ← h]
  exact State.outside_cart s1 _

theorem execCartridgeInsertion_outside (s : State) {out : State} (h : (execCartridgeInsertion s) = .next out) : out.outside = s.outside :=
  by unfold execCartridgeInsertion at h; rcases ite_next h with h1 | h1 <;> simp [h1]

@[simp] theorem State.refuseCart_outside (s : State) (cause : Nat) : (State.refuseCart s cause).outside = s.outside :=
  by simp [State.refuseCart]

@[simp] theorem State.nonce_outside (s : State) : (State.nonce s).2.outside = s.outside :=
  by simp [State.nonce]

@[simp] theorem State.acceptCart_outside (s : State) (r : CartResp) : (State.acceptCart s r).outside = s.outside :=
  by simp [State.acceptCart]

@[simp] theorem State.challenge_outside (s : State) (nonce : List Byte) : (State.challenge s nonce).outside = s.outside :=
  by simp [State.challenge]

@[simp] theorem State.authenticate_outside (s : State) (r : Option CartResp) : (State.authenticate s r).outside = s.outside :=
  by unfold State.authenticate; dsimp only; (repeat' split) <;> simp

theorem execAuthentication_outside (r : Option CartResp) (s : State) {out : State} (h : (execAuthentication r s) = .next out) : out.outside = s.outside :=
  by unfold execAuthentication at h; rcases ite_next h with h1 | h1 <;> simp [h1]

theorem execAuthRetry_outside (r : Option CartResp) (s : State) {out : State} (h : (execAuthRetry r s) = .next out) : out.outside = s.outside :=
  by unfold execAuthRetry at h; rcases ite_next h with h1 | h1 <;> simp [h1]

theorem execCalDischargeEnd_outside (cap : Nat) (s : State) {out : State} (h : (execCalDischargeEnd cap s) = .next out) : out.outside = s.outside :=
  by unfold execCalDischargeEnd at h; rcases ite_next h with h1 | h1 <;> simp [h1]

theorem execCalageDay_outside (aged : Bool) (s : State) {out : State} (h : (execCalageDay aged s) = .next out) : out.outside = s.outside :=
  by unfold execCalageDay at h; dsimp only at h; (repeat' split at h) <;> cases h <;> simp

@[simp] theorem State.tenderCtrl_outside (s : State) (v : Word) : (State.tenderCtrl s v).outside = s.outside :=
  by simp [State.tenderCtrl, State.outside_ite]

@[simp] theorem State.refuseSession_outside (s : State) : (State.refuseSession s).outside = s.outside :=
  by simp [State.refuseSession]

@[simp] theorem State.giveReadySeq_outside (s : State) (i : Nat) : (State.giveReadySeq s i).outside = s.outside :=
  by simp [State.giveReadySeq]

@[simp] theorem State.sessionWrite_outside (s : State) (i k : Nat) (en : BitVec 4) (v : Word) : (State.sessionWrite s i k en v).outside = s.outside :=
  by simp [State.sessionWrite, State.outside_ite]

@[simp] theorem State.sessionCmd_outside (s : State) (v : Word) : (State.sessionCmd s v).outside = s.outside :=
  by simp [State.sessionCmd, State.outside_ite]

@[simp] theorem State.qClear_outside (s : State) (q : Nat) : (State.qClear s q).outside = s.outside :=
  by simp [State.qClear]

@[simp] theorem State.qComplete_outside (s : State) (q status : Nat) (irq : Bool) : (State.qComplete s q status irq).outside = s.outside :=
  by simp [State.qComplete, State.outside_ite]

@[simp] theorem State.grantToken_outside (s : State) (i t : Nat) : (State.grantToken s i t).outside = s.outside :=
  by simp [State.grantToken, State.outside_ite]

@[simp] theorem State.feedSession_outside (s : State) (q sess : Nat) : (State.feedSession s q sess).outside = s.outside :=
  by simp [State.feedSession, State.outside_ite]

@[simp] theorem State.feedToken_outside (s : State) (q : Nat) : (State.feedToken s q).outside = s.outside :=
  by simp [State.feedToken, State.outside_ite]

@[simp] theorem State.logCopy_outside (s : State) (slot reason : Nat) : (State.logCopy s slot reason).outside = s.outside :=
  by simp [State.logCopy, State.outside_ite]

@[simp] theorem State.mbxPost_outside (s : State) (result reason : Nat) : (State.mbxPost s result reason).outside = s.outside :=
  by simp [State.mbxPost]

@[simp] theorem State.mbxWrite_outside (s : State) (v : Word) : (State.mbxWrite s v).outside = s.outside :=
  by simp [State.mbxWrite, State.outside_ite]

@[simp] theorem State.mbxAbandon_outside (s : State) : (State.mbxAbandon s).outside = s.outside :=
  by unfold State.mbxAbandon; split <;> simp

@[simp] theorem State.windowWrite_outside (s : State) (i k : Nat) (v : Word) : (State.windowWrite s i k v).outside = s.outside :=
  by simp [State.windowWrite, State.outside_ite]

@[simp] theorem State.tktValWrite_outside (s : State) (c : Nat) (v : Word) : (State.tktValWrite s c v).outside = s.outside :=
  by simp [State.tktValWrite]

@[simp] theorem State.clearWrite_outside (s : State) (v : Word) : (State.clearWrite s v).outside = s.outside :=
  by simp [State.clearWrite, State.outside_ite]

@[simp] theorem State.faultCtrl_outside (s : State) (v : Word) : (State.faultCtrl s v).outside = s.outside :=
  by simp [State.faultCtrl, State.outside_ite]

@[simp] theorem State.faultRd_outside (s : State) (v : Word) : (State.faultRd s v).outside = s.outside :=
  by simp [State.faultRd]

@[simp] theorem State.msixWrite_outside (s : State) (a : Nat) (en : BitVec 4) (v : Word) : (State.msixWrite s a en v).outside = s.outside :=
  by simp [State.msixWrite, State.outside_ite]

@[simp] theorem State.xqWrite_outside (s : State) (a : Nat) (v : Word) : (State.xqWrite s a v).outside = s.outside :=
  by simp [State.xqWrite]

@[simp] theorem State.setRw_outside (s : State) (a : Nat) (v mask : Word) : (State.setRw s a v mask).outside = s.outside :=
  by simp [State.setRw]

@[simp] theorem State.rwoWrite_outside (s : State) (a : Nat) (v : Word) : (State.rwoWrite s a v).outside = s.outside :=
  by simp [State.rwoWrite, State.outside_ite]

@[simp] theorem State.stnWrite_outside (s : State) (i o : Nat) (v : Word) : (State.stnWrite s i o v).outside = s.outside :=
  by simp [State.stnWrite, State.outside_ite]

@[simp] theorem State.latchRead_outside (s : State) (r a : Nat) : (State.latchRead s r a).2.outside = s.outside :=
  by unfold State.latchRead; (repeat' split) <;> first | with_reducible rfl | simp [State.outside_ite]

@[simp] theorem State.windowMix_outside (s : State) (a : Nat) (old : Word) (new : Option Word) : (State.windowMix s a old new).2.outside = s.outside :=
  by unfold State.windowMix; dsimp only; (repeat' split) <;> simp

theorem execLoLatchRead_outside (r : Fin 5) (a : RegRead) (s : State) {out : State} (h : (execLoLatchRead r a s) = .next out) : out.outside = s.outside :=
  by unfold execLoLatchRead at h; dsimp only at h; (repeat' split at h) <;> cases h <;> simp

@[simp] theorem State.forStns_outside (s : State) (l : List Nat) (f : Station → Station) : (State.forStns s l f).outside = s.outside :=
  by simp [State.forStns]

@[simp] theorem State.runStn_outside (s : State) (i : Nat) : (State.runStn s i).outside = s.outside :=
  by simp [State.runStn]

@[simp] theorem State.presentToken_outside (s : State) (i t : Nat) : (State.presentToken s i t).outside = s.outside :=
  by simp [State.presentToken]

@[simp] theorem State.putCounters_outside (s : State) (step : Nat) : (State.putCounters s step).outside = s.outside :=
  by simp [State.putCounters]

@[simp] theorem State.readGolden_outside (s : State) : (State.readGolden s).outside = s.outside :=
  by simp [State.readGolden]

@[simp] theorem State.launchJob_outside (s : State) : (State.launchJob s).outside = s.outside :=
  by simp [State.launchJob, State.outside_ite]

@[simp] theorem State.sessFull_outside (s : State) (b i : Nat) : (State.sessFull s b i).outside = s.outside :=
  by simp [State.sessFull]

@[simp] theorem State.berthStep_outside (s : State) : (State.berthStep s).outside = s.outside :=
  by simp [State.berthStep, State.outside_ite]

@[simp] theorem State.recordStep_outside (s : State) : (State.recordStep s).outside = s.outside :=
  by simp [State.recordStep]

@[simp] theorem State.setBoot_outside (s : State) (i : Nat) (b : Bool) : (State.setBoot s i b).outside = s.outside :=
  by simp [State.setBoot]

@[simp] theorem State.readTrip_outside (s : State) : (State.readTrip s).outside = s.outside :=
  by simp [State.readTrip, State.outside_ite]

@[simp] theorem State.scanHalts_outside (s : State) : (State.scanHalts s).outside = s.outside :=
  by unfold State.scanHalts; split <;> simp

@[simp] theorem State.loadAge_outside (s : State) : (State.loadAge s).outside = s.outside :=
  by unfold State.loadAge; dsimp only; split <;> simp

@[simp] theorem State.measureBase_outside (s : State) : (State.measureBase s).outside = s.outside :=
  by simp [State.measureBase]

@[simp] theorem State.slowChannel_outside (s : State) (h : Nat) : (State.slowChannel s h).outside = s.outside :=
  by simp [State.slowChannel]

@[simp] theorem State.loseChannel_outside (s : State) (h : Nat) : (State.loseChannel s h).outside = s.outside :=
  by simp [State.loseChannel]

@[simp] theorem State.trainChannels_outside (s : State) (e : BootEnv) : (State.trainChannels s e).outside = s.outside :=
  by simp [State.trainChannels, State.outside_ite]

@[simp] theorem State.readSnapGen_outside (s : State) (old : Word) (n : Nat) : (State.readSnapGen s old n).outside = s.outside :=
  by simp [State.readSnapGen, State.outside_ite]

@[simp] theorem State.selectCopy_outside (s : State) (slot : Nat) : (State.selectCopy s slot).outside = s.outside :=
  by simp [State.selectCopy, State.outside_ite]

@[simp] theorem State.selectNone_outside (s : State) : (State.selectNone s).outside = s.outside :=
  by simp [State.selectNone]

@[simp] theorem State.examine_outside (s : State) (e : BootEnv) : (State.examine s e).outside = s.outside :=
  by unfold State.examine; dsimp only; split <;> simp

@[simp] theorem State.putTorus_outside (s : State) (a : Nat) (v : Word) : (State.putTorus s a v).outside = s.outside :=
  by simp [State.putTorus]

@[simp] theorem State.applyTorus_outside (s : State) : (State.applyTorus s).outside = s.outside :=
  by simp [State.applyTorus, State.outside_ite]

@[simp] theorem State.applyEcc_outside (s : State) : (State.applyEcc s).outside = s.outside :=
  by simp [State.applyEcc]

@[simp] theorem State.startLinks_outside (s : State) (slot : Nat) : (State.startLinks s slot).outside = s.outside :=
  by simp [State.startLinks, State.outside_ite]

@[simp] theorem State.restartBoot_outside (s : State) : (State.restartBoot s).outside = s.outside :=
  by simp [State.restartBoot]

theorem execRailPowerGoodTimeout_outside (reg : Fin 7) (status : BitVec 16) (s : State) {out : State} (h : (execRailPowerGoodTimeout reg status s) = .next out) : out.outside = s.outside :=
  by unfold execRailPowerGoodTimeout at h; rcases ite_next h with h1 | h1 <;> simp [h1]

theorem execUnlock_outside (sig : List Byte) (s : State) {out : State} (h : (execUnlock sig s) = .next out) : out.outside = s.outside :=
  by unfold execUnlock at h; dsimp only at h; (repeat' split at h) <;> cases h <;> simp

@[simp] theorem State.answer_outside (s : State) (smbus : Bool) (bytes : List Byte) : (State.answer s smbus bytes).outside = s.outside :=
  by simp [State.answer, State.outside_ite]

@[simp] theorem State.attest_outside (s : State) (smbus : Bool) (code status : Byte) (payload : List Byte) : (State.attest s smbus code status payload).outside = s.outside :=
  by simp [State.attest]

@[simp] theorem State.infoReply_outside (s : State) (smbus : Bool) (payload : List Byte) : (State.infoReply s smbus payload).outside = s.outside :=
  by simp [State.infoReply, State.outside_ite]

@[simp] theorem State.certReply_outside (s : State) (smbus : Bool) (payload : List Byte) : (State.certReply s smbus payload).outside = s.outside :=
  by simp [State.certReply, State.outside_ite]

@[simp] theorem State.measReply_outside (s : State) (smbus : Bool) (payload : List Byte) : (State.measReply s smbus payload).outside = s.outside :=
  by simp [State.measReply, State.outside_ite]

@[simp] theorem State.auditReply_outside (s : State) (smbus : Bool) (payload : List Byte) : (State.auditReply s smbus payload).outside = s.outside :=
  by simp [State.auditReply, State.outside_ite]

@[simp] theorem State.reply_outside (s : State) (a : Asked) : (State.reply s a).outside = s.outside :=
  by simp [State.reply, State.outside_ite]

@[simp] theorem State.request_outside (s : State) (a : Asked) : (State.request s a).outside = s.outside :=
  by simp [State.request, State.outside_ite]

@[simp] theorem State.replyAll_outside (s : State) : (State.replyAll s).outside = s.outside :=
  by simp [State.replyAll]

theorem execGetInfo_outside (smbus : Bool) (payload : List Byte) (s : State) {out : State} (h : (execGetInfo smbus payload s) = .next out) : out.outside = s.outside :=
  by unfold execGetInfo at h; (repeat' split at h) <;> cases h <;> simp

theorem execGetCert_outside (smbus : Bool) (payload : List Byte) (s : State) {out : State} (h : (execGetCert smbus payload s) = .next out) : out.outside = s.outside :=
  by unfold execGetCert at h; (repeat' split at h) <;> cases h <;> simp

theorem execGetMeas_outside (smbus : Bool) (payload : List Byte) (s : State) {out : State} (h : (execGetMeas smbus payload s) = .next out) : out.outside = s.outside :=
  by unfold execGetMeas at h; (repeat' split at h) <;> cases h <;> simp

theorem execGetAudit_outside (smbus : Bool) (payload : List Byte) (s : State) {out : State} (h : (execGetAudit smbus payload s) = .next out) : out.outside = s.outside :=
  by unfold execGetAudit at h; (repeat' split at h) <;> cases h <;> simp

theorem execAttestationOtherCode_outside (smbus : Bool) (code : Byte) (s : State) {out : State} (h : (execAttestationOtherCode smbus code s) = .next out) : out.outside = s.outside :=
  by unfold execAttestationOtherCode at h; rcases ite_next h with h1 | h1 <;> simp [h1]

@[simp] theorem State.control_outside (s : State) (smbus : Bool) (inst : Nat) (cmd : Byte) (bytes : List Byte) : (State.control s smbus inst cmd bytes).outside = s.outside :=
  by simp [State.control]

@[simp] theorem State.setEid_outside (s : State) (smbus : Bool) (e : Nat) : (State.setEid s smbus e).outside = s.outside :=
  by simp [State.setEid]

theorem execSetEndpointId_outside (smbus : Bool) (inst : Fin 32) (op eid : Byte) (s : State) {out : State} (h : (execSetEndpointId smbus inst op eid s) = .next out) : out.outside = s.outside :=
  by unfold execSetEndpointId at h; (repeat' split at h) <;> cases h <;> simp

theorem execGetEndpointId_outside (smbus : Bool) (inst : Fin 32) (s : State) {out : State} (h : (execGetEndpointId smbus inst s) = .next out) : out.outside = s.outside :=
  by unfold execGetEndpointId at h; rcases ite_next h with h1 | h1 <;> simp [h1]

theorem execGetMctpVersionSupport_outside (smbus : Bool) (inst : Fin 32) (type : Byte) (s : State) {out : State} (h : (execGetMctpVersionSupport smbus inst type s) = .next out) : out.outside = s.outside :=
  by unfold execGetMctpVersionSupport at h; dsimp only at h; (repeat' split at h) <;> cases h <;> simp

theorem execGetMessageTypeSupport_outside (smbus : Bool) (inst : Fin 32) (s : State) {out : State} (h : (execGetMessageTypeSupport smbus inst s) = .next out) : out.outside = s.outside :=
  by unfold execGetMessageTypeSupport at h; rcases ite_next h with h1 | h1 <;> simp [h1]

theorem execGetVendorDefinedMessageSupport_outside (smbus : Bool) (inst : Fin 32) (sel : Byte) (s : State) {out : State} (h : (execGetVendorDefinedMessageSupport smbus inst sel s) = .next out) : out.outside = s.outside :=
  by unfold execGetVendorDefinedMessageSupport at h; dsimp only at h; (repeat' split at h) <;> cases h <;> simp

theorem execMctpUnsupportedMessage_outside (y0 : Bool) (y1 : Byte) (s : State) {out : State} (h : (execMctpUnsupportedMessage y0 y1 s) = .next out) : out.outside = s.outside :=
  by unfold execMctpUnsupportedMessage at h; (repeat' split at h) <;> cases h <;> simp

@[simp] theorem State.setSup_outside (s : State) (n : Nat) : (State.setSup s n).outside = s.outside :=
  by simp [State.setSup]

@[simp] theorem State.beginHalt_outside (s : State) (cause : Nat) : (State.beginHalt s cause).outside = s.outside :=
  by simp [State.beginHalt]

@[simp] theorem State.finishTicket_outside (s : State) (i : Nat) (f : Flight) : (State.finishTicket s i f).outside = s.outside :=
  by unfold State.finishTicket; split <;> simp

@[simp] theorem State.finishTickets_outside (s : State) : (State.finishTickets s).outside = s.outside :=
  by simp [State.finishTickets]

@[simp] theorem State.forwardAll_outside (s : State) : (State.forwardAll s).outside = s.outside :=
  by simp [State.forwardAll, State.outside_ite]

@[simp] theorem State.dieOff_outside (s : State) : (State.dieOff s).outside = s.outside :=
  by simp [State.dieOff]

@[simp] theorem State.resumeGov_outside (s : State) : (State.resumeGov s).outside = s.outside :=
  by simp [State.resumeGov]

@[simp] theorem State.restoreSpill_outside (s : State) (p : Spill) : (State.restoreSpill s p).outside = s.outside :=
  by simp [State.restoreSpill]

@[simp] theorem State.retrainAll_outside (s : State) : (State.retrainAll s).outside = s.outside :=
  by simp [State.retrainAll]

@[simp] theorem State.judgeSupply_outside (s : State) : (State.judgeSupply s).outside = s.outside :=
  by simp [State.judgeSupply]

@[simp] theorem State.cooled_outside (s : State) : (State.cooled s).outside = s.outside :=
  by simp [State.cooled]

@[simp] theorem State.resetEndpoint_outside (s : State) : (State.resetEndpoint s).outside = s.outside :=
  by simp [State.resetEndpoint]

theorem execInputSample_outside (mv10 : BitVec 16) (s : State) {out : State} (h : (execInputSample mv10 s) = .next out) : out.outside = s.outside :=
  by unfold execInputSample at h; rcases ite_next h with h1 | h1 <;> simp [h1]

@[simp] theorem State.judgeHeat_outside (s : State) (old : Nat) : (State.judgeHeat s old).outside = s.outside :=
  by simp [State.judgeHeat, State.outside_ite]

theorem execTemperatureRead_outside (tj : BitVec 7) (s : State) {out : State} (h : (execTemperatureRead tj s) = .next out) : out.outside = s.outside :=
  by unfold execTemperatureRead at h; rcases ite_next h with h1 | h1 <;> simp [h1]

theorem execThermalTrip_outside (s : State) {out : State} (h : (execThermalTrip s) = .next out) : out.outside = s.outside :=
  by unfold execThermalTrip at h; (repeat' split at h) <;> cases h <;> simp

@[simp] theorem State.tickTimers_outside (s : State) : (State.tickTimers s).outside = s.outside :=
  by simp [State.tickTimers]

@[simp] theorem State.tickMc_outside (s : State) : (State.tickMc s).outside = s.outside :=
  by simp [State.tickMc]

theorem execPerstNAssert_outside (s : State) {out : State} (h : (execPerstNAssert s) = .next out) : out.outside = s.outside :=
  by unfold execPerstNAssert at h; (repeat' split at h) <;> cases h <;> simp [State.outside_ite]

theorem execPerstNDeassert_outside (link : Byte) (s : State) {out : State} (h : (execPerstNDeassert link s) = .next out) : out.outside = s.outside :=
  by unfold execPerstNDeassert at h; dsimp only at h; (repeat' split at h) <;> cases h <;> simp

theorem execFunctionLevelReset_outside (s : State) {out : State} (h : (execFunctionLevelReset s) = .next out) : out.outside = s.outside := by
  unfold execFunctionLevelReset at h
  rcases ite_next h with h1 | h1 <;> rw [h1] <;> simp

@[simp] theorem State.sendPending_outside (s : State) : (State.sendPending s).outside = s.outside :=
  by simp [State.sendPending, State.outside_ite]

@[simp] theorem State.setPcie_outside (s : State) (p : Pcie) : (State.setPcie s p).outside = s.outside :=
  by simp [State.setPcie]

@[simp] theorem State.cfgRead_outside (s : State) (dword : Nat) : (State.cfgRead s dword).2.outside = s.outside :=
  by unfold State.cfgRead; dsimp only; (repeat' split) <;> simp

@[simp] theorem State.cfgServe_outside (s : State) (r : CfgReq) : (State.cfgServe s r).outside = s.outside :=
  by unfold State.cfgServe; split <;> simp

theorem execConfigurationRequest_outside (r : CfgReq) (s : State) {out : State} (h : (execConfigurationRequest r s) = .next out) : out.outside = s.outside :=
  by unfold execConfigurationRequest at h; (repeat' split at h) <;> cases h <;> simp

theorem execD3hot_outside (s : State) {out : State} (h : (execD3hot s) = .next out) : out.outside = s.outside :=
  by unfold execD3hot at h; rcases ite_next h with h1 | h1 <;> simp [h1]

theorem execL1Entry_outside (s : State) {out : State} (h : (execL1Entry s) = .next out) : out.outside = s.outside :=
  by unfold execL1Entry at h; rcases ite_next h with h1 | h1 <;> simp [h1]

theorem execBar2Access_outside (i : Stn) (off : Fin 4194304) (n : Fin 65) (w : Option (List Byte)) (met : Contended) (s : State) {out : State} (h : (execBar2Access i off n w met s) = .next out) : out.outside = s.outside :=
  by unfold execBar2Access at h; dsimp only at h; (repeat' split at h) <;> cases h <;> simp

@[simp] theorem State.endBar2_outside (s : State) (f : Flit) : (State.endBar2 s f).outside = s.outside :=
  by unfold State.endBar2; split <;> simp

theorem execBar2Timeout_outside (i : Stn) (s : State) {out : State} (h : (execBar2Timeout i s) = .next out) : out.outside = s.outside :=
  by unfold execBar2Timeout at h; (repeat' split at h) <;> cases h <;> simp

end Sys2Proof.Machine
end

