-- ==== Sys2Proof/Laws/Kept.lean ====
section
/-! SUPPORT. What every operation keeps of the queue, the fuses, LPDDR5X and the flash where it writes one of them: the queue is the same, one-way settings do not go back, and both memories keep their canonical form. `f_kept` says so of `f`. -/
set_option linter.all false
set_option maxRecDepth 8000
namespace Sys2Proof.Machine

theorem Fuses.onward_refl (a : Fuses) : a.onward a := by simp [Fuses.onward]
theorem Fuses.onward_trans {a b c : Fuses} (h : a.onward b) (k : b.onward c) : a.onward c := by
  obtain ⟨h1, h2, h3, h4, h5, h6⟩ := h
  obtain ⟨k1, k2, k3, k4, k5, k6⟩ := k
  exact ⟨h1.trans k1, h2.trans k2, k3.trans h3, h4.trans k4, fun x => k5 (h5 x), h6.trans k6⟩

/-- The relation every operation keeps. -/
def Kept (o p : List Instr × Fuses × SMap Byte × SMap Byte) : Prop :=
  p.1 = o.1 ∧ o.2.1.onward p.2.1 ∧ (mwf byte0 o.2.2.1 = true → mwf byte0 p.2.2.1 = true) ∧ (mwf byteFF o.2.2.2 = true → mwf byteFF p.2.2.2 = true)
theorem Kept.refl (o) : Kept o o := ⟨rfl, Fuses.onward_refl _, id, id⟩
@[simp] theorem Kept.rfl' (o) : Kept o o := Kept.refl o
theorem Kept.trans {o p q} (h : Kept o p) (k : Kept p q) : Kept o q :=
  ⟨k.1.trans h.1, Fuses.onward_trans h.2.1 k.2.1, fun x => k.2.2.1 (h.2.2.1 x), fun x => k.2.2.2 (h.2.2.2 x)⟩
@[simp] theorem kept_ite (o) (c : Prop) [Decidable c] (p q) : Kept o (if c then p else q) = if c then Kept o p else Kept o q := apply_ite (Kept o) c p q
theorem kept_foldl {β : Type} {o} {f : State → β → State} (hf : ∀ t b, Kept o t.outside → Kept o (f t b).outside) (l : List β) {s : State} (h : Kept o s.outside) :
    Kept o (l.foldl f s).outside := by
  induction l generalizing s with
  | nil => exact h
  | cons b r ih => exact ih (hf s b h)

/-- A change of LPDDR5X alone. -/
theorem Kept.lpddr {o q f m g} (h : Kept o (q, f, m, g)) {m'} (hm : mwf byte0 m = true → mwf byte0 m' = true) : Kept o (q, f, m', g) :=
  ⟨h.1, h.2.1, fun x => hm (h.2.2.1 x), h.2.2.2⟩
theorem Kept.flash {o q f m g} (h : Kept o (q, f, m, g)) {g'} (hm : mwf byteFF g = true → mwf byteFF g' = true) : Kept o (q, f, m, g') :=
  ⟨h.1, h.2.1, h.2.2.1, fun x => hm (h.2.2.2 x)⟩
theorem Kept.fuse {o q f m g} (h : Kept o (q, f, m, g)) {f'} (hm : f.onward f') : Kept o (q, f', m, g) :=
  ⟨h.1, Fuses.onward_trans h.2.1 hm, h.2.2.1, h.2.2.2⟩

theorem Kept.of_outside {s t : State} (h : t.outside = s.outside) : Kept s.outside t.outside := by rw [h]; exact Kept.refl _

theorem State.outside_eq (s : State) : s.outside = (s.pending, s.fuses, s.lpddr, s.flash) := rfl
theorem mwf_filter {α : Type} [DecidableEq α] {d : Nat → α} {m : SMap α} (p : Nat × α → Bool) (h : mwf d m = true) : mwf d (m.filter p) = true := by
  simp only [mwf, Bool.and_eq_true, List.all_eq_true, decide_eq_true_eq] at *
  refine ⟨?_, fun x hx => h.2 x (List.mem_filter.1 hx).1⟩
  have := h.1
  clear h
  generalize 0 = lo at *
  induction m generalizing lo with
  | nil => rfl
  | cons q r ih =>
    obtain ⟨a, x⟩ := q
    simp only [risingFrom, Bool.and_eq_true, decide_eq_true_eq] at this
    rw [List.filter_cons]
    split
    · simp only [risingFrom, Bool.and_eq_true, decide_eq_true_eq]; exact ⟨this.1, ih _ this.2⟩
    · exact risingFrom_weaken (by omega) (ih _ this.2)
theorem mwf_flashPut {m : SMap Byte} (a : Nat) (bs : List Byte) (hm : mwf byteFF m = true) : mwf byteFF (flashPut m a bs) = true := by
  induction bs generalizing m a with
  | nil => exact hm
  | cons b r ih => exact ih (a + 1) (mwf_mset a b hm)
@[simp] theorem State.setLine_kept {o} (s : State) (l : Nat) (bs : List Byte) (h : Kept o s.outside) : Kept o (s.setLine l bs).outside :=
  Kept.lpddr h (fun x => mwf_putBytes _ _ x)

@[simp] theorem State.setPart_kept {o} (s : State) (a : Nat) (bs : List Byte) (h : Kept o s.outside) : Kept o (s.setPart a bs).outside :=
  Kept.lpddr h (fun x => mwf_putBytes _ _ x)

@[simp] theorem State.arrayError_kept {o} (s : State) (l : Nat) (h : Kept o s.outside) : Kept o (s.arrayError l).outside := by
  unfold State.arrayError
  split
  · exact h
  · have h1 : Kept o (s.fresh.2).outside := by simpa using h
    exact Kept.lpddr h1 (fun x => mwf_putBytes _ _ x)

@[simp] theorem State.runLd_kept {o} (s : State) (i : Nat) (f : Flight) (dests : List Nat) (ob : Obs) (h : Kept o s.outside) : Kept o (s.runLd i f dests ob).outside := by
  unfold State.runLd
  extract_lets w us s0 rs bad good s1 skips s2
  have h0 : Kept o s0.outside := by
    simp only [s0]; split
    · split <;> simp [h]
    · exact h
  have h2 : Kept o s2.outside := by simp [s2, s1, h0]
  split <;> simp [h2]

theorem execLd_kept (i : Stn) (o : Obs) (s : State) {out : State} (h : (execLd i o s) = .next out) : Kept s.outside out.outside :=
  by unfold execLd at h; (repeat' split at h) <;> cases h <;> simp [State.outside_ite]

theorem execMcast_kept (i : Stn) (o : Obs) (s : State) {out : State} (h : (execMcast i o s) = .next out) : Kept s.outside out.outside :=
  by unfold execMcast at h; (repeat' split at h) <;> cases h <;> simp [State.outside_ite]

@[simp] theorem State.runSt_kept {o} (s : State) (i : Nat) (f : Flight) (ob : Obs) (h : Kept o s.outside) : Kept o (s.runSt i f ob).outside := by
  unfold State.runSt
  extract_lets w dsel dmod far s0
  have h0 : Kept o ((s0.countBusy i (2 * ob.clash.length)).mixWords i ob.clash).2.outside := by simp [s0, h]
  generalize (s0.countBusy i (2 * ob.clash.length)).mixWords i ob.clash = q at h0 ⊢
  obtain ⟨pm, s1⟩ := q
  replace h0 : Kept o s1.outside := h0
  dsimp -zeta only
  extract_lets rs skips s2 cs g s3 s4
  split
  · have h2 : Kept o s2.outside := kept_foldl (fun t b hb => by simp [hb]) _ h0
    have h3 : Kept o s3.outside := by simp [s3, h2]
    split <;> simp [h3]
  · split <;> simp [s4, h0]

theorem execSt_kept (x : Moving) (s : State) {out : State} (h : (execSt x s) = .next out) : Kept s.outside out.outside :=
  by unfold execSt at h; (repeat' split at h) <;> cases h <;> simp [State.outside_ite]

@[simp] theorem State.mixSend_kept {kk} (s : State) (i addr : Nat) (h : Kept kk s.outside) : Kept kk ((State.mixSend s i addr).outside) :=
  by unfold State.mixSend; dsimp only; (repeat' split) <;> simp [State.outside_ite, h]

theorem execMeshReadRetry_kept (i : Stn) (addr : Nat) (again : Bool) (s : State) {out : State} (h : (execMeshReadRetry i addr again s) = .next out) : Kept s.outside out.outside :=
  by unfold execMeshReadRetry at h; (repeat' split at h) <;> cases h <;> simp [State.outside_ite]

@[simp] theorem State.clearCells_kept {o} (s : State) (a n : Nat) (p : Nat → Bool) (h : Kept o s.outside) : Kept o (s.clearCells a n p).outside :=
  Kept.lpddr h (fun x => mwf_filter _ x)

@[simp] theorem State.putCells_kept {o} (s : State) (a : Nat) (cells : List (Nat × Byte)) (h : Kept o s.outside) : Kept o (s.putCells a cells).outside :=
  Kept.lpddr h (fun x => mwf_foldl _ (fun _ _ hm => mwf_mset _ _ hm) _ x)

@[simp] theorem State.writeSpill_kept {o} (s : State) (h : Kept o s.outside) : Kept o s.writeSpill.outside := by
  unfold State.writeSpill
  rw [State.setKey_outside]
  exact State.putCells_kept _ _ _ (State.clearCells_kept _ _ _ _ h)

@[simp] theorem State.storeSnap_kept {kk} (s : State) (key : Nat) (p : Nat → Bool) (cells : List (Nat × Byte)) (h : Kept kk s.outside) : Kept kk ((State.storeSnap s key p cells).outside) :=
  by simp [State.storeSnap, State.outside_ite, h]

@[simp] theorem State.sendSnap_kept {kk} (s : State) (gen : Nat) (h : Kept kk s.outside) : Kept kk ((State.sendSnap s gen).outside) :=
  by unfold State.sendSnap; split <;> simp [h]

@[simp] theorem State.startSnap_kept {kk} (s : State) (gen : Nat) (h : Kept kk s.outside) : Kept kk ((State.startSnap s gen).outside) :=
  by simp [State.startSnap, State.outside_ite, h]

@[simp] theorem State.onSnap_kept {kk} (s : State) (smod gen sib key : Nat) (cells : List (Nat × Byte)) (h : Kept kk s.outside) : Kept kk ((State.onSnap s smod gen sib key cells).outside) :=
  by simp [State.onSnap, State.outside_ite, h]

@[simp] theorem State.snapResume_kept {kk} (s : State) (mod : Nat) (h : Kept kk s.outside) : Kept kk ((State.snapResume s mod).outside) :=
  by unfold State.snapResume; (repeat' split) <;> simp [State.outside_ite, h]

@[simp] theorem State.onRelease_kept {kk} (s : State) (ilk slow reason : Nat) (h : Kept kk s.outside) : Kept kk ((State.onRelease s ilk slow reason).outside) :=
  by simp [State.onRelease, State.outside_ite, h]

@[simp] theorem State.doRelease_kept {kk} (s : State) (k : IlkKind) (ilk : Nat) (iseq : Word) (slow reason : Nat) (h : Kept kk s.outside) : Kept kk ((State.doRelease s k ilk iseq slow reason).outside) :=
  by unfold State.doRelease; split <;> simp [h]

@[simp] theorem State.ilkAdvance_kept {kk} (s : State) (k : IlkKind) (h : Kept kk s.outside) : Kept kk ((State.ilkAdvance s k).outside) :=
  by simp [State.ilkAdvance, State.outside_ite, h]

@[simp] theorem State.ownArrival_kept {kk} (s : State) (k : IlkKind) (ilk : Nat) (h : Kept kk s.outside) : Kept kk ((State.ownArrival s k ilk).outside) :=
  by simp [State.ownArrival, State.outside_ite, h]

@[simp] theorem State.onArrive_kept {kk} (s : State) (child ilk lce count slow reason : Nat) (iseq : Word) (h : Kept kk s.outside) : Kept kk ((State.onArrive s child ilk lce count slow reason iseq).outside) :=
  by simp [State.onArrive, State.outside_ite, h]

@[simp] theorem State.onReleaseMsg_kept {kk} (s : State) (ilk lce slow reason : Nat) (iseq : Word) (h : Kept kk s.outside) : Kept kk ((State.onReleaseMsg s ilk lce slow reason iseq).outside) :=
  by simp [State.onReleaseMsg, State.outside_ite, h]

theorem execModuleArrival_kept (s : State) {out : State} (h : (execModuleArrival s) = .next out) : Kept s.outside out.outside :=
  by unfold execModuleArrival at h; (repeat' split at h) <;> cases h <;> simp [State.outside_ite]

theorem execArrive_kept (child ilk lce count slow reason : Nat) (iseq : Word) (s : State) {out : State} (h : (execArrive child ilk lce count slow reason iseq s) = .next out) : Kept s.outside out.outside :=
  by unfold execArrive at h; rcases ite_next h with h1 | h1 <;> simp [h1]

theorem execRelease_kept (ilk lce slow reason : Nat) (iseq : Word) (s : State) {out : State} (h : (execRelease ilk lce slow reason iseq s) = .next out) : Kept s.outside out.outside :=
  by unfold execRelease at h; rcases ite_next h with h1 | h1 <;> simp [h1]

theorem execSnapshotCopyDone_kept (s : State) {out : State} (h : (execSnapshotCopyDone s) = .next out) : Kept s.outside out.outside :=
  by unfold execSnapshotCopyDone at h; (repeat' split at h) <;> cases h <;> simp [State.outside_ite]

@[simp] theorem State.onResume_kept {kk} (s : State) (port : Option Nat) (mod nseq : Nat) (h : Kept kk s.outside) : Kept kk ((State.onResume s port mod nseq).outside) :=
  by simp [State.onResume, State.outside_ite, h]

theorem execResumeNotice_kept (p : Fin 12) (mod nseq : Nat) (s : State) {out : State} (h : (execResumeNotice p mod nseq s) = .next out) : Kept s.outside out.outside :=
  by unfold execResumeNotice at h; rcases ite_next h with h1 | h1 <;> simp [h1]

theorem mwf_mergeCells {now image : SMap Byte} {rs : List (Nat × Nat)} (h : mwf byte0 now = true) : mwf byte0 (mergeCells now image rs) = true :=
  mwf_foldl _ (fun _ _ hm => mwf_mset _ _ hm) _ (mwf_filter _ h)
@[simp] theorem State.restoreImage_kept {o} (s : State) (i : Snapshot) (r : Roll) (h : Kept o s.outside) : Kept o (s.restoreImage i r).outside := by
  unfold State.restoreImage
  dsimp only
  simp only [State.setReg_outside, State.setGolden_outside]
  exact Kept.lpddr h (fun x => mwf_mergeCells x)

@[simp] theorem State.roundTwo_kept {o} (s : State) (r : Roll) (h : Kept o s.outside) : Kept o (s.roundTwo r).outside := by
  unfold State.roundTwo
  split
  · simp [h]
  · split
    · simp [h]
    · split
      · exact s.restoreImage_kept _ _ h
      · exact h

theorem execRollback_kept (s : State) {out : State} (h : (execRollback s) = .next out) : Kept s.outside out.outside :=
  by unfold execRollback at h; (repeat' split at h) <;> cases h <;> simp [State.outside_ite]

@[simp] theorem State.rerun_kept {o} (s : State) (i : Nat) (f : Flight) (ob : Obs) (h : Kept o s.outside) : Kept o (s.rerun i f ob).outside := by
  unfold State.rerun
  split <;> simp [h]

@[simp] theorem State.replay_kept {kk} (s : State) (i : Nat) (f : Flight) (o : Obs) (h : Kept kk s.outside) : Kept kk ((State.replay s i f o).outside) :=
  by simp [State.replay, State.outside_ite, h]

theorem execTileReplay_kept (i : Stn) (o : Obs) (s : State) {out : State} (h : (execTileReplay i o s) = .next out) : Kept s.outside out.outside :=
  by unfold execTileReplay at h; (repeat' split at h) <;> cases h <;> simp [State.outside_ite]

@[simp] theorem State.deliverFrame_kept {kk} (s : State) (p : Nat) (f : Frame) (h : Kept kk s.outside) : Kept kk ((State.deliverFrame s p f).outside) :=
  by unfold State.deliverFrame; (repeat' split) <;> simp [State.outside_ite, h]

@[simp] theorem State.takeFrame_kept {kk} (s : State) (p : Nat) (f : Frame) (h : Kept kk s.outside) : Kept kk ((State.takeFrame s p f).outside) :=
  by simp [State.takeFrame, State.outside_ite, h]

@[simp] theorem State.goodFrame_kept {kk} (s : State) (p : Nat) (f : Frame) (h : Kept kk s.outside) : Kept kk ((State.goodFrame s p f).outside) :=
  by simp [State.goodFrame, State.outside_ite, h]

theorem execFrameReceive_kept (p : Fin 12) (good : Bool) (ce ue : Nat) (f : Frame) (s : State) {out : State} (h : (execFrameReceive p good ce ue f s) = .next out) : Kept s.outside out.outside :=
  by unfold execFrameReceive at h; (repeat' split at h) <;> cases h <;> simp [State.outside_ite]

@[simp] theorem State.readLine_kept {kk} (s : State) (line : Nat) (ce ue : Bool) (h : Kept kk s.outside) : Kept kk ((State.readLine s line ce ue).outside) :=
  by simp [State.readLine, State.outside_ite, h]

@[simp] theorem State.writeLine_kept {kk} (s : State) (line off : Nat) (bs : List Byte) (ce ue : Bool) (h : Kept kk s.outside) : Kept kk ((State.writeLine s line off bs ce ue).outside) :=
  by simp [State.writeLine, State.outside_ite, h]

@[simp] theorem State.serveReq_kept {kk} (s : State) (r : MemReq) (h : Kept kk s.outside) : Kept kk ((State.serveReq s r).outside) :=
  by unfold State.serveReq; (repeat' split) <;> simp [State.outside_ite, h]

@[simp] theorem State.serveWaiting_kept {o} (s : State) (h : Kept o s.outside) : Kept o s.serveWaiting.outside := by
  have h1 : Kept o ({ s with memWait := [] } : State).outside := h
  exact kept_foldl (fun t b hb => by simp [hb]) _ h1

theorem execLpddrRequest_kept (line : Nat) (w : Option (Fin 64 × List Byte)) (lce ce ue : Bool) (s : State) {out : State} (h : execLpddrRequest line w lce ce ue s = .next out) : Kept s.outside out.outside := by
  have h0 := Kept.refl s.outside
  unfold execLpddrRequest at h
  dsimp only at h
  (repeat' split at h) <;> cases h <;> simp [h0]

theorem execPatrolScrub_kept (line : Nat) (ce ue : Bool) (s : State) {out : State} (h : (execPatrolScrub line ce ue s) = .next out) : Kept s.outside out.outside :=
  by unfold execPatrolScrub at h; rcases ite_next h with h1 | h1 <;> simp [h1]

@[simp] theorem State.putLine_kept {kk} (s : State) (l : Nat) (bs : List Byte) (h : Kept kk s.outside) : Kept kk ((State.putLine s l bs).outside) :=
  by simp [State.putLine, State.outside_ite, h]

@[simp] theorem State.setLines_kept {o} (s : State) (l : Nat) (bs : List Byte) (n : Nat) (h : Kept o s.outside) : Kept o (s.setLines l bs n).outside := by
  induction n generalizing s l bs with
  | zero => exact h
  | succ n ih => exact ih _ _ _ (by simp [h])

@[simp] theorem State.readLines_kept {o} (s : State) (l n : Nat) (h : Kept o s.outside) : Kept o (s.readLines l n).outside :=
  kept_foldl (fun t b hb => by simp [hb]) _ h

theorem execGoldenRebuild_kept (line : Nat) (s : State) {out : State} (h : execGoldenRebuild line s = .next out) : Kept s.outside out.outside := by
  have h0 := Kept.refl s.outside
  unfold execGoldenRebuild at h
  split at h
  · dsimp only at h
    split at h
    · cases h; simp [h0]
    · split at h <;> cases h <;> simp [h0]
  · cases h; exact h0

theorem State.commitFuse_kept {o} (s : State) (k a b : Nat) (d : List Byte) (f : Fuses → Fuses) (hf : s.fuses.onward { f s.fuses with audit := s.fuses.audit + 1 })
    (h : Kept o s.outside) : Kept o (s.commitFuse k a b d f).1.outside := by
  rw [State.commitFuse]
  by_cases hk : 256 ≤ s.fuses.audit
  · rw [if_pos hk]; simpa using h
  · rw [if_neg hk]
    dsimp only
    rw [State.setMeas_outside, State.setMeas_outside, State.outside_mk]
    exact (Kept.flash h (fun x => mwf_flashPut _ _ x)).fuse hf

@[simp] theorem State.ceilingWrite_kept {o} (s : State) (v : Word) (d : List Byte) (h : Kept o s.outside) : Kept o (s.ceilingWrite v d).outside := by
  unfold State.ceilingWrite
  dsimp only
  split
  · simpa using h
  · split
    · simpa using h
    · exact s.commitFuse_kept _ _ _ _ _ (by simp [Fuses.onward]; omega) h

@[simp] theorem State.addTrim_kept {o} (s : State) (h : Kept o s.outside) : Kept o s.addTrim.outside := by
  have hc := s.commitFuse_kept 5 s.trim (s.trim + 5) [] (fun f => f) (by simp [Fuses.onward]) h
  unfold State.addTrim
  split
  · exact h
  · dsimp only; split
    · simpa using hc
    · exact hc

@[simp] theorem State.marginEvent_kept {kk} (s : State) (h : Kept kk s.outside) : Kept kk ((State.marginEvent s).outside) :=
  by simp [State.marginEvent, State.outside_ite, h]

@[simp] theorem State.lowSample_kept {o} (s : State) (m : Nat) (h : Kept o s.outside) : Kept o (s.lowSample m).outside := by
  unfold State.lowSample
  dsimp only
  split <;> simp [h]

theorem execMarginSample_kept (low short : List (Fin 16)) (s : State) {out : State} (h : execMarginSample low short s = .next out) : Kept s.outside out.outside := by
  have h1 : Kept s.outside (low.foldl (fun (t : State) (m : Fin 16) => t.lowSample m.val) s).outside := kept_foldl (fun t b hb => by simp [hb]) _ (Kept.refl _)
  unfold execMarginSample at h
  split at h
  · cases h; split <;> simp [h1]
  · cases h; simp

@[simp] theorem State.govWrite_kept {kk} (s : State) (a : Nat) (v : Word) (h : Kept kk s.outside) : Kept kk ((State.govWrite s a v).outside) :=
  by unfold State.govWrite; (repeat' split) <;> simp [State.outside_ite, h]

@[simp] theorem State.powerLoss_kept {o} (s : State) (h : Kept o s.outside) : Kept o s.powerLoss.outside := by
  have he : (if (s.fresh.2).supState = 0 then s.fresh.2 else (s.fresh.2).emit (.haltOut false)).outside = s.outside := by split <;> simp
  unfold State.powerLoss
  dsimp only
  rw [State.outside_mk]
  have h2 : Kept o (if (s.fresh.2).supState = 0 then s.fresh.2 else (s.fresh.2).emit (.haltOut false)).outside := by rw [he]; exact h
  exact Kept.lpddr h2 (fun _ => rfl)

theorem execCartridgeStatusRead_kept (v : BitVec 16) (t : BitVec 16) (cycles : Word) (cap : Option Nat) (s : State) {out : State} (h : (execCartridgeStatusRead v t cycles cap s) = .next out) : Kept s.outside out.outside := by
  unfold execCartridgeStatusRead at h
  extract_lets s1 s2 s3 at h
  have h1 : s1.outside = s.outside := by simp [s1]
  have h2 : s2.outside = s.outside := by
    rw [← h1]; simp only [s2]; cases cap
    · rfl
    · dsimp only; split <;> simp
  have h3 : s3.outside = s.outside := by rw [← h2]; simp [s3]
  have h0 : Kept s.outside s3.outside := by rw [h3]; exact Kept.refl _
  split at h
  · split at h <;> cases h <;> simp [h0]
  · cases h; exact Kept.refl _

@[simp] theorem State.setProd_kept {kk} (s : State) (q prod count : Nat) (h : Kept kk s.outside) : Kept kk ((State.setProd s q prod count).outside) :=
  by simp [State.setProd, State.outside_ite, h]

@[simp] theorem State.setCons_kept {kk} (s : State) (q cons : Nat) (h : Kept kk s.outside) : Kept kk ((State.setCons s q cons).outside) :=
  by simp [State.setCons, State.outside_ite, h]

@[simp] theorem State.poll_kept {kk} (s : State) (q : Nat) (h : Kept kk s.outside) : Kept kk ((State.poll s q).outside) :=
  by simp [State.poll, State.outside_ite, h]

@[simp] theorem State.readCons_kept {kk} (s : State) (q : Nat) (h : Kept kk s.outside) : Kept kk ((State.readCons s q).outside) :=
  by simp [State.readCons, State.outside_ite, h]

@[simp] theorem State.qCtrl_kept {kk} (s : State) (q : Nat) (v : Word) (h : Kept kk s.outside) : Kept kk ((State.qCtrl s q v).outside) :=
  by simp [State.qCtrl, State.outside_ite, h]

@[simp] theorem State.putPad_kept {kk} (s : State) (q : Nat) (h : Kept kk s.outside) : Kept kk ((State.putPad s q).outside) :=
  by simp [State.putPad, State.outside_ite, h]

@[simp] theorem State.putRecord_kept {o} (s : State) (q : Nat) (d : HostDesc) (buf : List Byte) (dl sl line : Nat) (pad : Bool) (prod : Nat) (h : Kept o s.outside) :
    Kept o (s.putRecord q d buf dl sl line pad prod).outside := by
  unfold State.putRecord
  dsimp only
  simp only [State.bump_outside]
  apply State.setProd_kept
  apply State.setLine_kept
  apply State.setLines_kept
  split
  · simp [h]
  · exact h

theorem execInboundDescriptor_kept (q : Fin 16) (d : HostDesc) (buf : Option (List Byte)) (s : State) {out : State} (h : (execInboundDescriptor q d buf s) = .next out) : Kept s.outside out.outside :=
  by unfold execInboundDescriptor at h; dsimp only at h; (repeat' split at h) <;> cases h <;> simp [State.outside_ite]

@[simp] theorem State.passRecord_kept {o} (s : State) (q l : Nat) (d : Header) (h : Kept o s.outside) : Kept o (s.passRecord q l d).outside := by
  unfold State.passRecord; simp [h]

@[simp] theorem State.copyRecord_kept {o} (s : State) (q l : Nat) (e : Header) (d : HostDesc) (h : Kept o s.outside) : Kept o (s.copyRecord q l e d).outside := by
  unfold State.copyRecord
  dsimp only
  simp only [State.bump_outside]
  apply State.passRecord_kept
  simp [h]

theorem execOutboundDescriptor_kept (q : Fin 16) (d : HostDesc) (ok : Bool) (s : State) {out : State} (h : (execOutboundDescriptor q d ok s) = .next out) : Kept s.outside out.outside := by
  unfold execOutboundDescriptor at h
  extract_lets irq c pad line s0 s1 hd s2 at h
  have h1 : Kept s.outside s1.outside := by simp only [s1, s0]; split <;> simp
  have h2 : Kept s.outside s2.outside := by simp only [s2]; split <;> simp [h1]
  have h0 := Kept.refl s.outside
  (repeat' split at h) <;> rw [← Host.Outcome.next.inj h] <;> simp [h0, h1, h2]

theorem execProducerLinePoll_kept (q : Fin 16) (s : State) {out : State} (h : (execProducerLinePoll q s) = .next out) : Kept s.outside out.outside :=
  by unfold execProducerLinePoll at h; rcases ite_next h with h1 | h1 <;> simp [h1]

@[simp] theorem State.mbxFinish_kept {o} (s : State) (op slot off len : Nat) (data : List Byte) (h : Kept o s.outside) : Kept o (s.mbxFinish op slot off len data).outside := by
  unfold State.mbxFinish
  split
  · dsimp only
    simp only [State.mbxPost_outside]
    exact Kept.flash h (fun x => mwf_filter _ x)
  · dsimp only
    simp only [State.mbxPost_outside]
    exact Kept.flash h (fun x => mwf_flashPut _ _ x)
  · simp [h]

theorem execMailboxComplete_kept (err : Bool) (s : State) {out : State} (h : (execMailboxComplete err s) = .next out) : Kept s.outside out.outside :=
  by unfold execMailboxComplete at h; (repeat' split at h) <;> cases h <;> simp [State.outside_ite]

@[simp] theorem State.regWrite_kept {kk} (s : State) (a : Nat) (v : Word) (h : Kept kk s.outside) : Kept kk ((State.regWrite s a v).outside) :=
  by simp [State.regWrite, State.outside_ite, h]

@[simp] theorem State.bar0Do_kept {kk} (s : State) (a : Nat) (en : BitVec 4) (v : Word) (h : Kept kk s.outside) : Kept kk ((State.bar0Do s a en v).outside) :=
  by simp [State.bar0Do, State.outside_ite, h]

@[simp] theorem State.bar0Write_kept {kk} (s : State) (a : Nat) (en : BitVec 4) (v : Word) (h : Kept kk s.outside) : Kept kk ((State.bar0Write s a en v).outside) :=
  by simp [State.bar0Write, State.outside_ite, h]

theorem execRegisterWrite_kept (a : Nat) (en : BitVec 4) (v : Word) (s : State) {out : State} (h : (execRegisterWrite a en v s) = .next out) : Kept s.outside out.outside :=
  by unfold execRegisterWrite at h; cases h; simp

theorem execRunStart_kept (i : Stn) (v : Word) (s : State) {out : State} (h : (execRunStart i v s) = .next out) : Kept s.outside out.outside :=
  by unfold execRunStart at h; cases h; simp

theorem execRunStop_kept (i : Stn) (v : Word) (s : State) {out : State} (h : (execRunStop i v s) = .next out) : Kept s.outside out.outside :=
  by unfold execRunStop at h; cases h; simp

theorem execWake_kept (i : Stn) (v : Word) (s : State) {out : State} (h : (execWake i v s) = .next out) : Kept s.outside out.outside :=
  by unfold execWake at h; cases h; simp

theorem execStnTokClear_kept (i : Stn) (k : Fin 8) (v : Word) (s : State) {out : State} (h : (execStnTokClear i k v s) = .next out) : Kept s.outside out.outside :=
  by unfold execStnTokClear at h; cases h; simp

theorem execStnTokset_kept (i : Stn) (k : Fin 8) (v : Word) (s : State) {out : State} (h : (execStnTokset i k v s) = .next out) : Kept s.outside out.outside :=
  by unfold execStnTokset at h; cases h; simp

theorem execLocalStoreWindowWrite_kept (i : Stn) (k : Fin 8192) (v : Word) (s : State) {out : State} (h : (execLocalStoreWindowWrite i k v s) = .next out) : Kept s.outside out.outside :=
  by unfold execLocalStoreWindowWrite at h; cases h; simp

theorem execMeshTktValWrite_kept (c : Fin 64) (v : Word) (s : State) {out : State} (h : (execMeshTktValWrite c v s) = .next out) : Kept s.outside out.outside :=
  by unfold execMeshTktValWrite at h; cases h; simp

theorem execMeshTktLimitWrite_kept (c : Fin 64) (v : Word) (s : State) {out : State} (h : (execMeshTktLimitWrite c v s) = .next out) : Kept s.outside out.outside :=
  by unfold execMeshTktLimitWrite at h; cases h; simp

theorem execSessionStateWrite_kept (i : Fin 10240) (k : Fin 16) (en : BitVec 4) (v : Word) (s : State) {out : State} (h : (execSessionStateWrite i k en v s) = .next out) : Kept s.outside out.outside :=
  by unfold execSessionStateWrite at h; cases h; simp

theorem execSessionCmdPark_kept (v : Word) (s : State) {out : State} (h : (execSessionCmdPark v s) = .next out) : Kept s.outside out.outside :=
  by unfold execSessionCmdPark at h; cases h; simp

theorem execGoldenLoad_kept (v : Word) (s : State) {out : State} (h : (execGoldenLoad v s) = .next out) : Kept s.outside out.outside :=
  by unfold execGoldenLoad at h; cases h; simp

theorem execMemConfigWrite_kept (k : Fin 9) (v : Word) (s : State) {out : State} (h : (execMemConfigWrite k v s) = .next out) : Kept s.outside out.outside :=
  by unfold execMemConfigWrite at h; cases h; simp

theorem execLinkEnWrite_kept (p : Fin 12) (v : Word) (s : State) {out : State} (h : (execLinkEnWrite p v s) = .next out) : Kept s.outside out.outside :=
  by unfold execLinkEnWrite at h; cases h; simp

theorem execRetrain_kept (p : Fin 12) (v : Word) (s : State) {out : State} (h : (execRetrain p v s) = .next out) : Kept s.outside out.outside :=
  by unfold execRetrain at h; cases h; simp

theorem execLineClearGo_kept (v : Word) (s : State) {out : State} (h : (execLineClearGo v s) = .next out) : Kept s.outside out.outside :=
  by unfold execLineClearGo at h; cases h; simp

theorem execGovCeilingWrite_kept (v : Word) (s : State) {out : State} (h : (execGovCeilingWrite v s) = .next out) : Kept s.outside out.outside :=
  by unfold execGovCeilingWrite at h; cases h; simp

theorem execClrthr_kept (v : Word) (s : State) {out : State} (h : (execClrthr v s) = .next out) : Kept s.outside out.outside :=
  by unfold execClrthr at h; cases h; simp

theorem execGovLimitWrite_kept (peak : Bool) (v : Word) (s : State) {out : State} (h : (execGovLimitWrite peak v s) = .next out) : Kept s.outside out.outside :=
  by unfold execGovLimitWrite at h; cases h; simp

theorem execCal_kept (v : Word) (s : State) {out : State} (h : (execCal v s) = .next out) : Kept s.outside out.outside :=
  by unfold execCal at h; cases h; simp

theorem execReauth_kept (v : Word) (r : Option CartResp) (s : State) {out : State} (h : (execReauth v r s) = .next out) : Kept s.outside out.outside :=
  by unfold execReauth at h; rcases ite_next h with h1 | h1 <;> simp [h1]

theorem execMbxBegin_kept (v : Word) (s : State) {out : State} (h : (execMbxBegin v s) = .next out) : Kept s.outside out.outside :=
  by unfold execMbxBegin at h; cases h; simp

theorem execChunk_kept (v : Word) (s : State) {out : State} (h : (execChunk v s) = .next out) : Kept s.outside out.outside :=
  by unfold execChunk at h; cases h; simp

theorem execMbxEnd_kept (v : Word) (s : State) {out : State} (h : (execMbxEnd v s) = .next out) : Kept s.outside out.outside :=
  by unfold execMbxEnd at h; cases h; simp

theorem execMailboxOtherOp_kept (v : Word) (s : State) {out : State} (h : (execMailboxOtherOp v s) = .next out) : Kept s.outside out.outside :=
  by unfold execMailboxOtherOp at h; cases h; simp

theorem execHostqTailWrite_kept (q : Fin 16) (v : Word) (s : State) {out : State} (h : (execHostqTailWrite q v s) = .next out) : Kept s.outside out.outside :=
  by unfold execHostqTailWrite at h; cases h; simp

theorem execHostqEn_kept (q : Fin 16) (v : Word) (s : State) {out : State} (h : (execHostqEn q v s) = .next out) : Kept s.outside out.outside :=
  by unfold execHostqEn at h; cases h; simp

theorem execQreset_kept (q : Fin 16) (v : Word) (s : State) {out : State} (h : (execQreset q v s) = .next out) : Kept s.outside out.outside :=
  by unfold execQreset at h; cases h; simp

theorem execMsixUnmask_kept (i : Fin 64) (s : State) {out : State} (h : (execMsixUnmask i s) = .next out) : Kept s.outside out.outside :=
  by unfold execMsixUnmask at h; cases h; simp

theorem execFaultRdWrite_kept (v : Word) (s : State) {out : State} (h : (execFaultRdWrite v s) = .next out) : Kept s.outside out.outside :=
  by unfold execFaultRdWrite at h; cases h; simp

theorem execRoll_kept (v : Word) (s : State) {out : State} (h : (execRoll v s) = .next out) : Kept s.outside out.outside :=
  by unfold execRoll at h; cases h; simp

@[simp] theorem State.putRecords_kept {o} (s : State) (rs) (h : Kept o s.outside) : Kept o (s.putRecords rs).outside :=
  kept_foldl (fun t b hb => by simp [hb]) _ h

@[simp] theorem State.putChain_kept {o} (s : State) (c) (h : Kept o s.outside) : Kept o (s.putChain c).outside :=
  kept_foldl (fun _ _ hb => kept_foldl (fun t b hb => by simp [hb]) _ hb) _ h

@[simp] theorem State.putDescs_kept {o} (s : State) (h : Kept o s.outside) : Kept o s.putDescs.outside := by
  unfold State.putDescs
  exact kept_foldl (fun t b hb => by simp [hb]) _ (Kept.lpddr h (fun x => mwf_filter _ x))

@[simp] theorem State.applyPhases_kept {o} (s : State) (h : Kept o s.outside) : Kept o s.applyPhases.outside :=
  kept_foldl (fun t b hb => by split <;> simp [hb]) _ h

@[simp] theorem State.beginJob_kept {o} (s : State) (h : Kept o s.outside) : Kept o s.beginJob.outside := by
  unfold State.beginJob
  have h1 := kept_foldl (f := fun (t : State) c => t.putChain c) (fun t b hb => by simp [hb]) s.plan.chains (s.putRecords_kept s.plan.jobRegs h)
  dsimp only
  simp [h1]

theorem execJobStart_kept (s : State) {out : State} (h : (execJobStart s) = .next out) : Kept s.outside out.outside :=
  by unfold execJobStart at h; (repeat' split at h) <;> cases h <;> simp [State.outside_ite]

@[simp] theorem State.appendStep_kept {kk} (s : State) (b : Nat) (h : Kept kk s.outside) : Kept kk ((State.appendStep s b).outside) :=
  by unfold State.appendStep; (repeat' split) <;> simp [State.outside_ite, h]

@[simp] theorem State.parkStep_kept {kk} (s : State) (b : Nat) (h : Kept kk s.outside) : Kept kk ((State.parkStep s b).outside) :=
  by unfold State.parkStep; (repeat' split) <;> simp [State.outside_ite, h]

@[simp] theorem State.sessionBoundary_kept {o} (s : State) (h : Kept o s.outside) : Kept o s.sessionBoundary.outside := by
  have h1 := kept_foldl (f := fun (t : State) b => t.appendStep b) (fun t b hb => by simp [hb]) (List.range 64) h
  have h2 := kept_foldl (f := fun (t : State) b => t.parkStep b) (fun t b hb => by simp [hb]) (List.range 64) h1
  unfold State.sessionBoundary
  dsimp only
  simp [h2]

@[simp] theorem State.stepWork_kept {kk} (s : State) (h : Kept kk s.outside) : Kept kk ((State.stepWork s).outside) :=
  by simp [State.stepWork, State.outside_ite, h]

theorem execStepBoundary_kept (s : State) {out : State} (h : (execStepBoundary s) = .next out) : Kept s.outside out.outside :=
  by unfold execStepBoundary at h; (repeat' split at h) <;> cases h <;> simp [State.outside_ite]

theorem execExponentDerivation_kept (b : Fin 32768) (recs : List Nat) (e f : Nat) (tok : Byte) (s : State) {out : State} (h : execExponentDerivation b recs e f tok s = .next out) : Kept s.outside out.outside := by
  unfold execExponentDerivation at h
  split at h
  · cases h
    have h1 := kept_foldl (f := fun (t : State) l => t.readLines l 5) (fun t b hb => by simp [hb]) recs (Kept.refl s.outside)
    simp [h1]
  · cases h; exact Kept.refl _

@[simp] theorem State.settleAudit_kept {o} (s : State) (h : Kept o s.outside) : Kept o s.settleAudit.outside := by
  unfold State.settleAudit
  dsimp only
  split
  · split
    · exact Kept.fuse h (by simp [Fuses.onward])
    · refine Kept.flash h (fun x => ?_)
      exact mwf_mset (auditAt (s.fuses.audit + 1) + 0xF0) 0 x
  · exact h

@[simp] theorem State.reconcile_kept {o} (s : State) (h : Kept o s.outside) : Kept o s.reconcile.outside := by
  unfold State.reconcile
  dsimp only
  split <;> simp [h]

@[simp] theorem State.applyCopy_kept {o} (s : State) (h : Kept o s.outside) : Kept o s.applyCopy.outside := by
  unfold State.applyCopy
  extract_lets s1 s2 colls d s3
  have h1 : Kept o s1.outside := by simp [s1, h]
  have h2 : Kept o s2.outside := by simp [s2, h1]
  have h3 : Kept o s3.outside := by simp [s3, h2]
  simp [h3]

@[simp] theorem State.applyFuses_kept {o} (s : State) (slot : Nat) (h : Kept o s.outside) : Kept o (s.applyFuses slot).outside := by
  unfold State.applyFuses
  extract_lets hh v s1 s2 s3
  have h1 : Kept o s1.outside := by
    simp only [s1]; split
    · exact s.commitFuse_kept _ _ _ _ _ (by simp [Fuses.onward]; omega) h
    · exact h
  have h2 : Kept o s2.outside := by
    simp only [s2]; split
    · exact s1.commitFuse_kept _ _ _ _ _ (by simp [Fuses.onward]) h1
    · exact h1
  have h3 : Kept o s3.outside := by
    simp only [s3]; split
    · exact s2.commitFuse_kept _ _ _ _ _ (by simp [Fuses.onward]) h2
    · exact h2
  split
  · split
    · simp [h3]
    · exact h3
  · exact h3

@[simp] theorem State.afterTest_kept {o} (s : State) (e : BootEnv) (slot : Nat) (h : Kept o s.outside) : Kept o (s.afterTest e slot).outside := by
  unfold State.afterTest
  split <;> simp [h]

@[simp] theorem State.fromRails_kept {o} (s : State) (e : BootEnv) (g : Word) (n : Nat) (h : Kept o s.outside) : Kept o (s.fromRails e g n).outside := by
  unfold State.fromRails
  extract_lets a1 s1 s2 bad d su s3 s4 s5
  have h1 : Kept o s1.outside := by simp [s1, a1, h]
  have h2 : Kept o s2.outside := by simp [s2, h1]
  have h3 : Kept o s3.outside := by simp [s3, h2]
  have h4 : Kept o s4.outside := by simp only [s4]; split <;> simp [h3]
  have h5 : Kept o s5.outside := by simp [s5, h4]
  split
  · simp [h5]
  · split <;> simp [h5]

@[simp] theorem State.bringUp_kept {o} (s : State) (e : BootEnv) (h : Kept o s.outside) : Kept o (s.bringUp e).outside := by
  unfold State.bringUp
  extract_lets s1
  have h1 : Kept o s1.outside := by simp [s1, h]
  exact State.fromRails_kept _ _ _ _ h1

@[simp] theorem State.restart_kept {o} (s : State) (e : BootEnv) (h : Kept o s.outside) : Kept o (s.restart e).outside := by
  unfold State.restart
  extract_lets k s1 s2
  have h1 : Kept o s1.outside := (by simp [h] : Kept o (s.restartBoot).outside)
  have h2 : Kept o s2.outside := by simp [s2, h1]
  exact State.fromRails_kept _ _ _ _ h2

theorem execRestart_kept (v : Word) (e : BootEnv) (s : State) {out : State} (h : execRestart v e s = .next out) : Kept s.outside out.outside := by
  have h0 := Kept.refl s.outside
  unfold execRestart at h
  split at h
  · split at h
    · cases h; exact h0
    · split at h <;> cases h <;> simp [h0]
  · cases h; simp [h0]

theorem execBringupRepeat_kept (e : BootEnv) (s : State) {out : State} (h : (execBringupRepeat e s) = .next out) : Kept s.outside out.outside :=
  by unfold execBringupRepeat at h; rcases ite_next h with h1 | h1 <;> simp [h1]

@[simp] theorem State.enterHold_kept {kk} (s : State) (h : Kept kk s.outside) : Kept kk ((State.enterHold s).outside) :=
  by simp [State.enterHold, State.outside_ite, h]

@[simp] theorem State.restore_kept {kk} (s : State) (p : Spill) (h : Kept kk s.outside) : Kept kk ((State.restore s p).outside) :=
  by simp [State.restore, State.outside_ite, h]

@[simp] theorem State.snapAgain_kept {kk} (s : State) (h : Kept kk s.outside) : Kept kk ((State.snapAgain s).outside) :=
  by unfold State.snapAgain; split <;> simp [h]

@[simp] theorem State.finishResume_kept {kk} (s : State) (p : Spill) (h : Kept kk s.outside) : Kept kk ((State.finishResume s p).outside) :=
  by simp [State.finishResume, State.outside_ite, h]

@[simp] theorem State.spillLost_kept {o} (s : State) (p : Spill) (l : Nat) (e : BootEnv) (h : Kept o s.outside) : Kept o (s.spillLost p l e).outside := by
  unfold State.spillLost
  extract_lets a su s1 s2 b
  have h1 : Kept o s1.outside := by simp [s1, a, h]
  have h2 : Kept o b.outside := by simp [b, s2, h1]
  apply State.fromRails_kept
  simpa using h2

@[simp] theorem State.startResume_kept {kk} (s : State) (e : BootEnv) (h : Kept kk s.outside) : Kept kk ((State.startResume s e).outside) :=
  by unfold State.startResume; (repeat' split) <;> simp [State.outside_ite, h]

@[simp] theorem State.inputFails_kept {kk} (s : State) (cause : Nat) (h : Kept kk s.outside) : Kept kk ((State.inputFails s cause).outside) :=
  by unfold State.inputFails; (repeat' split) <;> simp [State.outside_ite, h]

theorem execBrownout_kept (s : State) {out : State} (h : (execBrownout s) = .next out) : Kept s.outside out.outside :=
  by unfold execBrownout at h; cases h; simp

theorem execOvervoltage_kept (s : State) {out : State} (h : (execOvervoltage s) = .next out) : Kept s.outside out.outside :=
  by unfold execOvervoltage at h; cases h; simp

theorem execInputQualified_kept (e : BootEnv) (s : State) {out : State} (h : execInputQualified e s = .next out) : Kept s.outside out.outside := by
  unfold execInputQualified at h
  extract_lets s1 su s2 at h
  have h1 : Kept s.outside s1.outside := by simp [s1]
  have h2 : Kept s.outside s2.outside := h1
  (repeat' split at h) <;> rw [← Host.Outcome.next.inj h] <;> first | exact h1 | exact State.startResume_kept _ _ h1 | exact State.bringUp_kept _ _ h2

theorem execStateLost_kept (s : State) {out : State} (h : (execStateLost s) = .next out) : Kept s.outside out.outside :=
  by unfold execStateLost at h; rcases ite_next h with h1 | h1 <;> simp [h1]

theorem execCartridgeRemoval_kept (s : State) {out : State} (h : execCartridgeRemoval s = .next out) : Kept s.outside out.outside := by
  have h0 := Kept.refl s.outside
  unfold execCartridgeRemoval at h
  extract_lets s1 at h
  have h1 : Kept s.outside s1.outside := by simp [s1]
  rcases ite_next h with h2 | h2 <;> rw [h2]
  · split <;> simp [h1]
  · exact h0

theorem execAlwaysOnPowerLoss_kept (s : State) {out : State} (h : execAlwaysOnPowerLoss s = .next out) : Kept s.outside out.outside := by
  cases h; simp

theorem execThermalResume_kept (e : BootEnv) (s : State) {out : State} (h : (execThermalResume e s) = .next out) : Kept s.outside out.outside :=
  by unfold execThermalResume at h; (repeat' split at h) <;> cases h <;> simp [State.outside_ite]

@[simp] theorem State.tickSup_kept {kk} (s : State) (h : Kept kk s.outside) : Kept kk ((State.tickSup s).outside) :=
  by unfold State.tickSup; dsimp only; (repeat' split) <;> simp [State.outside_ite, h]

@[simp] theorem State.tick_kept {o} (s : State) (h : Kept o s.outside) : Kept o s.tick.outside := by
  unfold State.tick
  extract_lets t
  have h1 : Kept o t.outside := h
  (repeat' split) <;> simp [h1]

@[simp] theorem State.bar4Read_kept {o} (s : State) (a n : Nat) (ce ue : Bool) (h : Kept o s.outside) : Kept o (s.bar4Read a n ce ue).outside := by
  have h1 := kept_foldl (f := fun (t : State) l => t.readLine l ce ue) (fun t b hb => by simp [hb]) ((linesOf a n).filter s.bar4Reads) h
  unfold State.bar4Read
  dsimp only
  simp [h1]

@[simp] theorem State.bar4Write_kept {o} (s : State) (a : Nat) (bs : List Byte) (ce ue : Bool) (h : Kept o s.outside) : Kept o (s.bar4Write a bs ce ue).outside := by
  have hf := kept_foldl (f := fun (t : State) l => t.writeLine l (pieceOf a bs l).1 (pieceOf a bs l).2 ce ue) (fun t b hb => by simp [hb]) (linesOf a bs.length) h
  unfold State.bar4Write
  split
  · exact hf
  · exact hf
  · exact h
  · simp [h]

theorem execBar4Access_kept (off n : Nat) (w : Option (List Byte)) (ce ue : Bool) (s : State) {out : State} (h : (execBar4Access off n w ce ue s) = .next out) : Kept s.outside out.outside :=
  by unfold execBar4Access at h; dsimp only at h; (repeat' split at h) <;> cases h <;> simp [State.outside_ite]

end Sys2Proof.Machine
end

