-- ==== Sys2Proof/Laws/State.lean ====
section
/-! SUPPORT. One lemma per field and update: what the shared updates of the state leave alone, and what a register, a station, a byte reads as afterwards. -/
set_option linter.all false
namespace Sys2Proof.Machine

@[simp] theorem State.reg_setReg (s : State) (a b : Nat) (v : Word) : (s.setReg a v).reg b = if b = a then v else s.reg b := by
  unfold State.setReg State.reg
  by_cases h : alwaysOn a <;> by_cases k : alwaysOn b <;> by_cases e : b = a <;> simp_all [mget_mset]

@[simp] theorem State.stn_setStn (s : State) (i j : Nat) (x : Station) : (s.setStn i x).stn j = if j = i then x else s.stn j := by
  simp [State.stn, State.setStn, mget_mset]

@[simp] theorem State.stn_setReg (s : State) (a : Nat) (v : Word) (i : Nat) : (s.setReg a v).stn i = s.stn i := by
  unfold State.setReg State.stn; split <;> rfl

@[simp] theorem State.stns_setReg (s : State) (a : Nat) (v : Word) : (s.setReg a v).die.stns = s.die.stns := by
  unfold State.setReg; split <;> rfl

@[simp] theorem State.reg_setStn (s : State) (i : Nat) (x : Station) (a : Nat) : (s.setStn i x).reg a = s.reg a := rfl
@[simp] theorem State.dreg_setStn (s : State) (i : Nat) (x : Station) : (s.setStn i x).die.reg = s.die.reg := rfl
@[simp] theorem State.aoReg_setStn (s : State) (i : Nat) (x : Station) : (s.setStn i x).aoReg = s.aoReg := rfl
@[simp] theorem State.reg_emit (s : State) (x : Out) (a : Nat) : (s.emit x).reg a = s.reg a := rfl
@[simp] theorem State.stn_emit (s : State) (x : Out) (i : Nat) : (s.emit x).stn i = s.stn i := rfl
@[simp] theorem State.out_emit (s : State) (x : Out) : (s.emit x).out = s.out ++ [x] := rfl
@[simp] theorem State.reg_setMesh (s : State) (m : List Flit) (a : Nat) : (s.setMesh m).reg a = s.reg a := rfl
@[simp] theorem State.stn_setMesh (s : State) (m : List Flit) (i : Nat) : (s.setMesh m).stn i = s.stn i := rfl
@[simp] theorem State.mesh_setMesh (s : State) (m : List Flit) : (s.setMesh m).die.mesh = m := rfl
@[simp] theorem State.reg_sendFlit (s : State) (f : Flit) (a : Nat) : (s.sendFlit f).reg a = s.reg a := rfl
@[simp] theorem State.stn_sendFlit (s : State) (f : Flit) (i : Nat) : (s.sendFlit f).stn i = s.stn i := rfl
@[simp] theorem State.mesh_sendFlit (s : State) (f : Flit) : (s.sendFlit f).die.mesh = s.die.mesh ++ [f] := rfl
@[simp] theorem State.reg_sendAll (s : State) (l : List Flit) (a : Nat) : (s.sendAll l).reg a = s.reg a := rfl
@[simp] theorem State.stn_sendAll (s : State) (l : List Flit) (i : Nat) : (s.sendAll l).stn i = s.stn i := rfl
@[simp] theorem State.mesh_sendAll (s : State) (l : List Flit) : (s.sendAll l).die.mesh = s.die.mesh ++ l := rfl
@[simp] theorem State.reg_multicast (s : State) (n : Nat) (ds : List Nat) (fs : Nat → List Flit) (a : Nat) : (s.multicast n ds fs).reg a = s.reg a := rfl
@[simp] theorem State.stn_multicast (s : State) (n : Nat) (ds : List Nat) (fs : Nat → List Flit) (i : Nat) : (s.multicast n ds fs).stn i = s.stn i := rfl
@[simp] theorem State.mesh_multicast (s : State) (n : Nat) (ds : List Nat) (fs : Nat → List Flit) : (s.multicast n ds fs).die.mesh = s.die.mesh ++ ds.flatMap fs := rfl
@[simp] theorem State.reg_addHops (s : State) (n a : Nat) : (s.addHops n).reg a = s.reg a := rfl
@[simp] theorem State.stn_addHops (s : State) (n i : Nat) : (s.addHops n).stn i = s.stn i := rfl
@[simp] theorem State.reg_leaveL1 (s : State) (a : Nat) : s.leaveL1.reg a = s.reg a := rfl
@[simp] theorem State.stn_leaveL1 (s : State) (i : Nat) : s.leaveL1.stn i = s.stn i := rfl
@[simp] theorem State.reg_signal (s : State) (v a : Nat) : (s.signal v).reg a = s.reg a := by
  unfold State.signal; dsimp only; (repeat' split) <;> rfl
@[simp] theorem State.stn_signal (s : State) (v i : Nat) : (s.signal v).stn i = s.stn i := by
  unfold State.signal; dsimp only; (repeat' split) <;> rfl
@[simp] theorem State.reg_bump (s : State) (a b k : Nat) : (s.bump a k).reg b = if b = a then satAdd (s.reg a) k else s.reg b := by simp [State.bump]
@[simp] theorem State.stn_bump (s : State) (a k i : Nat) : (s.bump a k).stn i = s.stn i := by simp [State.bump]
@[simp] theorem State.reg_setFld (s : State) (a b lo len v : Nat) : (s.setFld a lo len v).reg b = if b = a then putFld (s.reg a) lo len v else s.reg b := by simp [State.setFld]
@[simp] theorem State.stn_setFld (s : State) (a lo len v i : Nat) : (s.setFld a lo len v).stn i = s.stn i := by simp [State.setFld]

theorem State.reg_setRegs (s : State) (a b : Nat) (l : List Word) (h : b < a) : (s.setRegs a l).reg b = s.reg b := by
  induction l generalizing s a with
  | nil => rfl
  | cons w r ih => rw [State.setRegs, ih _ _ (by omega)]; simp; omega

@[simp] theorem State.stn_setRegs (s : State) (a : Nat) (l : List Word) (i : Nat) : (s.setRegs a l).stn i = s.stn i := by
  induction l generalizing s a with
  | nil => rfl
  | cons w r ih => rw [State.setRegs, ih]; simp

/-- What the shared updates change of the state besides registers: nothing, or the PCIe function and the log of outputs. -/
theorem State.setReg_eq (s : State) (a : Nat) (v : Word) : ∃ r q, s.setReg a v = { s with die := { s.die with reg := r }, aoReg := q } := by
  unfold State.setReg; split
  · exact ⟨s.die.reg, _, rfl⟩
  · exact ⟨_, s.aoReg, rfl⟩

theorem State.setRegs_eq (s : State) (a : Nat) (l : List Word) : ∃ r q, s.setRegs a l = { s with die := { s.die with reg := r }, aoReg := q } := by
  induction l generalizing s a with
  | nil => exact ⟨_, _, rfl⟩
  | cons w r ih =>
    obtain ⟨x, y, h⟩ := s.setReg_eq a w
    obtain ⟨x', y', h'⟩ := ih (s.setReg a w) (a + 4)
    exact ⟨x', y', by rw [State.setRegs, h', h]⟩

theorem State.signal_eq (s : State) (v : Nat) : ∃ p o, s.signal v = { s with die := { s.die with pcie := p }, out := o } := by
  unfold State.signal; dsimp only
  split
  · split
    · exact ⟨_, s.out, rfl⟩
    · exact ⟨_, _, rfl⟩
  · exact ⟨s.die.pcie, s.out, rfl⟩

theorem State.logFault_eq (s : State) (c p u : Nat) (d : Word) (e : BitVec 64) :
    ∃ r q x o, s.logFault c p u d e = { s with die := { s.die with reg := r, pcie := x }, aoReg := q, out := o } := by
  unfold State.logFault
  extract_lets wr ws s1 s2 s3 s4
  obtain ⟨r1, q1, h1⟩ : ∃ r q, s1 = { s with die := { s.die with reg := r }, aoReg := q } := s.setRegs_eq _ _
  obtain ⟨r2, q2, h2⟩ : ∃ r q, s2 = { s with die := { s.die with reg := r }, aoReg := q } := by
    simp only [s2]; split
    · obtain ⟨r, q, h⟩ := s1.setReg_eq 0x60014 (satAdd (s1.reg 0x60014) 1)
      exact ⟨r, q, by rw [State.bump, h, h1]⟩
    · exact ⟨_, _, h1⟩
  obtain ⟨r3, q3, h3⟩ := s2.setReg_eq 0x6000C (wr + 1)
  obtain ⟨o4, h4⟩ : ∃ o, s4 = { s3 with out := o } := by
    simp only [s4]; split
    · exact ⟨_, rfl⟩
    · exact ⟨s3.out, rfl⟩
  obtain ⟨x, o, h5⟩ := s4.signal_eq 0
  exact ⟨r3, q3, x, o, by rw [h5, h4]; simp only [s3]; rw [h3, h2]⟩

@[simp] theorem State.stn_logFault (s : State) (c p u : Nat) (d : Word) (e : BitVec 64) (i : Nat) : (s.logFault c p u d e).stn i = s.stn i := by
  obtain ⟨r, q, x, o, h⟩ := s.logFault_eq c p u d e
  rw [h]; rfl

theorem State.reg_setRegs_out (s : State) (a b : Nat) (l : List Word) (h : b < a ∨ a + 4 * l.length ≤ b) : (s.setRegs a l).reg b = s.reg b := by
  induction l generalizing s a with
  | nil => rfl
  | cons w r ih =>
    simp only [List.length_cons] at h
    rw [State.setRegs, ih _ _ (by omega)]; simp; omega

@[simp] theorem faultWords_length (s : State) (c p u : Nat) (d : Word) (e : BitVec 64) : (faultWords s c p u d e).length = 8 := rfl

/-- A fault record leaves every register outside the ring, FAULT_WR and the overwrite count. -/
theorem State.reg_logFault (s : State) (c p u : Nat) (d : Word) (e : BitVec 64) (a : Nat) (h : a < 0x68000 ∨ 0x70000 ≤ a) (h1 : a ≠ 0x6000C) (h2 : a ≠ 0x60014) :
    (s.logFault c p u d e).reg a = s.reg a := by
  have hw : (s.reg 0x6000C).toNat % 1024 < 1024 := Nat.mod_lt _ (by omega)
  have hr := State.reg_setRegs_out s (0x68000 + 32 * ((s.reg 0x6000C).toNat % 1024)) a (faultWords s c p u d e) (by simp; omega)
  unfold State.logFault; dsimp only; simp
  (repeat' split) <;> simp_all

/-- FAULT_WR counts the record. -/
@[simp] theorem State.wr_logFault (s : State) (c p u : Nat) (d : Word) (e : BitVec 64) : (s.logFault c p u d e).reg 0x6000C = s.reg 0x6000C + 1 := by
  unfold State.logFault; dsimp only; simp
  (repeat' split) <;> simp

@[simp] theorem State.lpddr_setReg (s : State) (a : Nat) (v : Word) : (s.setReg a v).lpddr = s.lpddr := by unfold State.setReg; split <;> rfl
@[simp] theorem State.poison_setReg (s : State) (a : Nat) (v : Word) : (s.setReg a v).poison = s.poison := by unfold State.setReg; split <;> rfl
@[simp] theorem State.images_setReg (s : State) (a : Nat) (v : Word) : (s.setReg a v).images = s.images := by unfold State.setReg; split <;> rfl
@[simp] theorem State.snapHalf_setReg (s : State) (a : Nat) (v : Word) : (s.setReg a v).snapHalf = s.snapHalf := by unfold State.setReg; split <;> rfl
@[simp] theorem State.memWait_setReg (s : State) (a : Nat) (v : Word) : (s.setReg a v).memWait = s.memWait := by unfold State.setReg; split <;> rfl
@[simp] theorem State.uptime_setReg (s : State) (a : Nat) (v : Word) : (s.setReg a v).uptime = s.uptime := by unfold State.setReg; split <;> rfl
@[simp] theorem State.powered_setReg (s : State) (a : Nat) (v : Word) : (s.setReg a v).powered = s.powered := by unfold State.setReg; split <;> rfl
@[simp] theorem State.l480_setReg (s : State) (a : Nat) (v : Word) : (s.setReg a v).l480 = s.l480 := by unfold State.setReg; split <;> rfl
@[simp] theorem State.snaps_setReg (s : State) (a : Nat) (v : Word) : (s.setReg a v).snaps = s.snaps := by unfold State.setReg; split <;> rfl
@[simp] theorem State.snapOut_setReg (s : State) (a : Nat) (v : Word) : (s.setReg a v).snapOut = s.snapOut := by unfold State.setReg; split <;> rfl
@[simp] theorem State.spill_setReg (s : State) (a : Nat) (v : Word) : (s.setReg a v).spill = s.spill := by unfold State.setReg; split <;> rfl
@[simp] theorem State.haltLog_setReg (s : State) (a : Nat) (v : Word) : (s.setReg a v).haltLog = s.haltLog := by unfold State.setReg; split <;> rfl
@[simp] theorem State.flash_setReg (s : State) (a : Nat) (v : Word) : (s.setReg a v).flash = s.flash := by unfold State.setReg; split <;> rfl
@[simp] theorem State.fuses_setReg (s : State) (a : Nat) (v : Word) : (s.setReg a v).fuses = s.fuses := by unfold State.setReg; split <;> rfl
@[simp] theorem State.plan_setReg (s : State) (a : Nat) (v : Word) : (s.setReg a v).plan = s.plan := by unfold State.setReg; split <;> rfl
@[simp] theorem State.image_setReg (s : State) (a : Nat) (v : Word) : (s.setReg a v).image = s.image := by unfold State.setReg; split <;> rfl
@[simp] theorem State.meas_setReg (s : State) (a : Nat) (v : Word) : (s.setReg a v).meas = s.meas := by unfold State.setReg; split <;> rfl
@[simp] theorem State.mbx_setReg (s : State) (a : Nat) (v : Word) : (s.setReg a v).mbx = s.mbx := by unfold State.setReg; split <;> rfl
@[simp] theorem State.cart_setReg (s : State) (a : Nat) (v : Word) : (s.setReg a v).cart = s.cart := by unfold State.setReg; split <;> rfl
@[simp] theorem State.sup_setReg (s : State) (a : Nat) (v : Word) : (s.setReg a v).sup = s.sup := by unfold State.setReg; split <;> rfl
@[simp] theorem State.asked_setReg (s : State) (a : Nat) (v : Word) : (s.setReg a v).asked = s.asked := by unfold State.setReg; split <;> rfl
@[simp] theorem State.latch_setReg (s : State) (a : Nat) (v : Word) : (s.setReg a v).latch = s.latch := by unfold State.setReg; split <;> rfl
@[simp] theorem State.ownSteps_setReg (s : State) (a : Nat) (v : Word) : (s.setReg a v).ownSteps = s.ownSteps := by unfold State.setReg; split <;> rfl
@[simp] theorem State.out_setReg (s : State) (a : Nat) (v : Word) : (s.setReg a v).out = s.out := by unfold State.setReg; split <;> rfl
@[simp] theorem State.free_setReg (s : State) (a : Nat) (v : Word) : (s.setReg a v).free = s.free := by unfold State.setReg; split <;> rfl
@[simp] theorem State.pending_setReg (s : State) (a : Nat) (v : Word) : (s.setReg a v).pending = s.pending := by unfold State.setReg; split <;> rfl
@[simp] theorem State.mesh_setReg (s : State) (a : Nat) (v : Word) : (s.setReg a v).die.mesh = s.die.mesh := by unfold State.setReg; split <;> rfl
@[simp] theorem State.wakeQ_setReg (s : State) (a : Nat) (v : Word) : (s.setReg a v).die.wakeQ = s.die.wakeQ := by unfold State.setReg; split <;> rfl
@[simp] theorem State.pcie_setReg (s : State) (a : Nat) (v : Word) : (s.setReg a v).die.pcie = s.die.pcie := by unfold State.setReg; split <;> rfl
@[simp] theorem State.jobStns_setReg (s : State) (a : Nat) (v : Word) : (s.setReg a v).die.jobStns = s.die.jobStns := by unfold State.setReg; split <;> rfl
@[simp] theorem State.jobStarted_setReg (s : State) (a : Nat) (v : Word) : (s.setReg a v).die.jobStarted = s.die.jobStarted := by unfold State.setReg; split <;> rfl
@[simp] theorem State.runSet_setReg (s : State) (a : Nat) (v : Word) : (s.setReg a v).die.runSet = s.die.runSet := by unfold State.setReg; split <;> rfl
@[simp] theorem State.colls_setReg (s : State) (a : Nat) (v : Word) : (s.setReg a v).die.colls = s.die.colls := by unfold State.setReg; split <;> rfl
@[simp] theorem State.xqs_setReg (s : State) (a : Nat) (v : Word) : (s.setReg a v).die.xqs = s.die.xqs := by unfold State.setReg; split <;> rfl
@[simp] theorem State.sess_setReg (s : State) (a : Nat) (v : Word) : (s.setReg a v).die.sess = s.die.sess := by unfold State.setReg; split <;> rfl
@[simp] theorem State.net_setReg (s : State) (a : Nat) (v : Word) : (s.setReg a v).die.net = s.die.net := by unfold State.setReg; split <;> rfl
@[simp] theorem State.gov_setReg (s : State) (a : Nat) (v : Word) : (s.setReg a v).die.gov = s.die.gov := by unfold State.setReg; split <;> rfl
@[simp] theorem State.links_setReg (s : State) (a : Nat) (v : Word) : (s.setReg a v).die.links = s.die.links := by unfold State.setReg; split <;> rfl
@[simp] theorem State.job_setReg (s : State) (a : Nat) (v : Word) : (s.setReg a v).die.job = s.die.job := by unfold State.setReg; split <;> rfl
@[simp] theorem State.rwo_setReg (s : State) (a : Nat) (v : Word) : (s.setReg a v).die.rwo = s.die.rwo := by unfold State.setReg; split <;> rfl
@[simp] theorem State.polled_setReg (s : State) (a : Nat) (v : Word) : (s.setReg a v).die.polled = s.die.polled := by unfold State.setReg; split <;> rfl
@[simp] theorem State.eids_setReg (s : State) (a : Nat) (v : Word) : (s.setReg a v).die.eids = s.die.eids := by unfold State.setReg; split <;> rfl
@[simp] theorem State.refresh_setReg (s : State) (a : Nat) (v : Word) : (s.setReg a v).die.refresh = s.die.refresh := by unfold State.setReg; split <;> rfl
@[simp] theorem State.pdown_setReg (s : State) (a : Nat) (v : Word) : (s.setReg a v).die.pdown = s.die.pdown := by unfold State.setReg; split <;> rfl
@[simp] theorem State.hops_setReg (s : State) (a : Nat) (v : Word) : (s.setReg a v).die.hops = s.die.hops := by unfold State.setReg; split <;> rfl
@[simp] theorem State.lpddr_setStn (s : State) (i : Nat) (x : Station) : (s.setStn i x).lpddr = s.lpddr := rfl
@[simp] theorem State.poison_setStn (s : State) (i : Nat) (x : Station) : (s.setStn i x).poison = s.poison := rfl
@[simp] theorem State.images_setStn (s : State) (i : Nat) (x : Station) : (s.setStn i x).images = s.images := rfl
@[simp] theorem State.snapHalf_setStn (s : State) (i : Nat) (x : Station) : (s.setStn i x).snapHalf = s.snapHalf := rfl
@[simp] theorem State.memWait_setStn (s : State) (i : Nat) (x : Station) : (s.setStn i x).memWait = s.memWait := rfl
@[simp] theorem State.uptime_setStn (s : State) (i : Nat) (x : Station) : (s.setStn i x).uptime = s.uptime := rfl
@[simp] theorem State.powered_setStn (s : State) (i : Nat) (x : Station) : (s.setStn i x).powered = s.powered := rfl
@[simp] theorem State.l480_setStn (s : State) (i : Nat) (x : Station) : (s.setStn i x).l480 = s.l480 := rfl
@[simp] theorem State.snaps_setStn (s : State) (i : Nat) (x : Station) : (s.setStn i x).snaps = s.snaps := rfl
@[simp] theorem State.snapOut_setStn (s : State) (i : Nat) (x : Station) : (s.setStn i x).snapOut = s.snapOut := rfl
@[simp] theorem State.spill_setStn (s : State) (i : Nat) (x : Station) : (s.setStn i x).spill = s.spill := rfl
@[simp] theorem State.haltLog_setStn (s : State) (i : Nat) (x : Station) : (s.setStn i x).haltLog = s.haltLog := rfl
@[simp] theorem State.flash_setStn (s : State) (i : Nat) (x : Station) : (s.setStn i x).flash = s.flash := rfl
@[simp] theorem State.fuses_setStn (s : State) (i : Nat) (x : Station) : (s.setStn i x).fuses = s.fuses := rfl
@[simp] theorem State.plan_setStn (s : State) (i : Nat) (x : Station) : (s.setStn i x).plan = s.plan := rfl
@[simp] theorem State.image_setStn (s : State) (i : Nat) (x : Station) : (s.setStn i x).image = s.image := rfl
@[simp] theorem State.meas_setStn (s : State) (i : Nat) (x : Station) : (s.setStn i x).meas = s.meas := rfl
@[simp] theorem State.mbx_setStn (s : State) (i : Nat) (x : Station) : (s.setStn i x).mbx = s.mbx := rfl
@[simp] theorem State.cart_setStn (s : State) (i : Nat) (x : Station) : (s.setStn i x).cart = s.cart := rfl
@[simp] theorem State.sup_setStn (s : State) (i : Nat) (x : Station) : (s.setStn i x).sup = s.sup := rfl
@[simp] theorem State.asked_setStn (s : State) (i : Nat) (x : Station) : (s.setStn i x).asked = s.asked := rfl
@[simp] theorem State.latch_setStn (s : State) (i : Nat) (x : Station) : (s.setStn i x).latch = s.latch := rfl
@[simp] theorem State.ownSteps_setStn (s : State) (i : Nat) (x : Station) : (s.setStn i x).ownSteps = s.ownSteps := rfl
@[simp] theorem State.out_setStn (s : State) (i : Nat) (x : Station) : (s.setStn i x).out = s.out := rfl
@[simp] theorem State.free_setStn (s : State) (i : Nat) (x : Station) : (s.setStn i x).free = s.free := rfl
@[simp] theorem State.pending_setStn (s : State) (i : Nat) (x : Station) : (s.setStn i x).pending = s.pending := rfl
@[simp] theorem State.mesh_setStn (s : State) (i : Nat) (x : Station) : (s.setStn i x).die.mesh = s.die.mesh := rfl
@[simp] theorem State.wakeQ_setStn (s : State) (i : Nat) (x : Station) : (s.setStn i x).die.wakeQ = s.die.wakeQ := rfl
@[simp] theorem State.pcie_setStn (s : State) (i : Nat) (x : Station) : (s.setStn i x).die.pcie = s.die.pcie := rfl
@[simp] theorem State.jobStns_setStn (s : State) (i : Nat) (x : Station) : (s.setStn i x).die.jobStns = s.die.jobStns := rfl
@[simp] theorem State.jobStarted_setStn (s : State) (i : Nat) (x : Station) : (s.setStn i x).die.jobStarted = s.die.jobStarted := rfl
@[simp] theorem State.runSet_setStn (s : State) (i : Nat) (x : Station) : (s.setStn i x).die.runSet = s.die.runSet := rfl
@[simp] theorem State.colls_setStn (s : State) (i : Nat) (x : Station) : (s.setStn i x).die.colls = s.die.colls := rfl
@[simp] theorem State.xqs_setStn (s : State) (i : Nat) (x : Station) : (s.setStn i x).die.xqs = s.die.xqs := rfl
@[simp] theorem State.sess_setStn (s : State) (i : Nat) (x : Station) : (s.setStn i x).die.sess = s.die.sess := rfl
@[simp] theorem State.net_setStn (s : State) (i : Nat) (x : Station) : (s.setStn i x).die.net = s.die.net := rfl
@[simp] theorem State.gov_setStn (s : State) (i : Nat) (x : Station) : (s.setStn i x).die.gov = s.die.gov := rfl
@[simp] theorem State.links_setStn (s : State) (i : Nat) (x : Station) : (s.setStn i x).die.links = s.die.links := rfl
@[simp] theorem State.job_setStn (s : State) (i : Nat) (x : Station) : (s.setStn i x).die.job = s.die.job := rfl
@[simp] theorem State.rwo_setStn (s : State) (i : Nat) (x : Station) : (s.setStn i x).die.rwo = s.die.rwo := rfl
@[simp] theorem State.polled_setStn (s : State) (i : Nat) (x : Station) : (s.setStn i x).die.polled = s.die.polled := rfl
@[simp] theorem State.eids_setStn (s : State) (i : Nat) (x : Station) : (s.setStn i x).die.eids = s.die.eids := rfl
@[simp] theorem State.refresh_setStn (s : State) (i : Nat) (x : Station) : (s.setStn i x).die.refresh = s.die.refresh := rfl
@[simp] theorem State.pdown_setStn (s : State) (i : Nat) (x : Station) : (s.setStn i x).die.pdown = s.die.pdown := rfl
@[simp] theorem State.hops_setStn (s : State) (i : Nat) (x : Station) : (s.setStn i x).die.hops = s.die.hops := rfl
@[simp] theorem State.lpddr_setMesh (s : State) (m : List Flit) : (s.setMesh m).lpddr = s.lpddr := rfl
@[simp] theorem State.poison_setMesh (s : State) (m : List Flit) : (s.setMesh m).poison = s.poison := rfl
@[simp] theorem State.images_setMesh (s : State) (m : List Flit) : (s.setMesh m).images = s.images := rfl
@[simp] theorem State.snapHalf_setMesh (s : State) (m : List Flit) : (s.setMesh m).snapHalf = s.snapHalf := rfl
@[simp] theorem State.memWait_setMesh (s : State) (m : List Flit) : (s.setMesh m).memWait = s.memWait := rfl
@[simp] theorem State.uptime_setMesh (s : State) (m : List Flit) : (s.setMesh m).uptime = s.uptime := rfl
@[simp] theorem State.powered_setMesh (s : State) (m : List Flit) : (s.setMesh m).powered = s.powered := rfl
@[simp] theorem State.l480_setMesh (s : State) (m : List Flit) : (s.setMesh m).l480 = s.l480 := rfl
@[simp] theorem State.snaps_setMesh (s : State) (m : List Flit) : (s.setMesh m).snaps = s.snaps := rfl
@[simp] theorem State.snapOut_setMesh (s : State) (m : List Flit) : (s.setMesh m).snapOut = s.snapOut := rfl
@[simp] theorem State.spill_setMesh (s : State) (m : List Flit) : (s.setMesh m).spill = s.spill := rfl
@[simp] theorem State.haltLog_setMesh (s : State) (m : List Flit) : (s.setMesh m).haltLog = s.haltLog := rfl
@[simp] theorem State.flash_setMesh (s : State) (m : List Flit) : (s.setMesh m).flash = s.flash := rfl
@[simp] theorem State.fuses_setMesh (s : State) (m : List Flit) : (s.setMesh m).fuses = s.fuses := rfl
@[simp] theorem State.plan_setMesh (s : State) (m : List Flit) : (s.setMesh m).plan = s.plan := rfl
@[simp] theorem State.image_setMesh (s : State) (m : List Flit) : (s.setMesh m).image = s.image := rfl
@[simp] theorem State.meas_setMesh (s : State) (m : List Flit) : (s.setMesh m).meas = s.meas := rfl
@[simp] theorem State.mbx_setMesh (s : State) (m : List Flit) : (s.setMesh m).mbx = s.mbx := rfl
@[simp] theorem State.cart_setMesh (s : State) (m : List Flit) : (s.setMesh m).cart = s.cart := rfl
@[simp] theorem State.sup_setMesh (s : State) (m : List Flit) : (s.setMesh m).sup = s.sup := rfl
@[simp] theorem State.asked_setMesh (s : State) (m : List Flit) : (s.setMesh m).asked = s.asked := rfl
@[simp] theorem State.latch_setMesh (s : State) (m : List Flit) : (s.setMesh m).latch = s.latch := rfl
@[simp] theorem State.ownSteps_setMesh (s : State) (m : List Flit) : (s.setMesh m).ownSteps = s.ownSteps := rfl
@[simp] theorem State.out_setMesh (s : State) (m : List Flit) : (s.setMesh m).out = s.out := rfl
@[simp] theorem State.free_setMesh (s : State) (m : List Flit) : (s.setMesh m).free = s.free := rfl
@[simp] theorem State.pending_setMesh (s : State) (m : List Flit) : (s.setMesh m).pending = s.pending := rfl
@[simp] theorem State.wakeQ_setMesh (s : State) (m : List Flit) : (s.setMesh m).die.wakeQ = s.die.wakeQ := rfl
@[simp] theorem State.pcie_setMesh (s : State) (m : List Flit) : (s.setMesh m).die.pcie = s.die.pcie := rfl
@[simp] theorem State.jobStns_setMesh (s : State) (m : List Flit) : (s.setMesh m).die.jobStns = s.die.jobStns := rfl
@[simp] theorem State.jobStarted_setMesh (s : State) (m : List Flit) : (s.setMesh m).die.jobStarted = s.die.jobStarted := rfl
@[simp] theorem State.runSet_setMesh (s : State) (m : List Flit) : (s.setMesh m).die.runSet = s.die.runSet := rfl
@[simp] theorem State.colls_setMesh (s : State) (m : List Flit) : (s.setMesh m).die.colls = s.die.colls := rfl
@[simp] theorem State.xqs_setMesh (s : State) (m : List Flit) : (s.setMesh m).die.xqs = s.die.xqs := rfl
@[simp] theorem State.sess_setMesh (s : State) (m : List Flit) : (s.setMesh m).die.sess = s.die.sess := rfl
@[simp] theorem State.net_setMesh (s : State) (m : List Flit) : (s.setMesh m).die.net = s.die.net := rfl
@[simp] theorem State.gov_setMesh (s : State) (m : List Flit) : (s.setMesh m).die.gov = s.die.gov := rfl
@[simp] theorem State.links_setMesh (s : State) (m : List Flit) : (s.setMesh m).die.links = s.die.links := rfl
@[simp] theorem State.job_setMesh (s : State) (m : List Flit) : (s.setMesh m).die.job = s.die.job := rfl
@[simp] theorem State.rwo_setMesh (s : State) (m : List Flit) : (s.setMesh m).die.rwo = s.die.rwo := rfl
@[simp] theorem State.polled_setMesh (s : State) (m : List Flit) : (s.setMesh m).die.polled = s.die.polled := rfl
@[simp] theorem State.eids_setMesh (s : State) (m : List Flit) : (s.setMesh m).die.eids = s.die.eids := rfl
@[simp] theorem State.refresh_setMesh (s : State) (m : List Flit) : (s.setMesh m).die.refresh = s.die.refresh := rfl
@[simp] theorem State.pdown_setMesh (s : State) (m : List Flit) : (s.setMesh m).die.pdown = s.die.pdown := rfl
@[simp] theorem State.hops_setMesh (s : State) (m : List Flit) : (s.setMesh m).die.hops = s.die.hops := rfl
@[simp] theorem State.lpddr_sendFlit (s : State) (f : Flit) : (s.sendFlit f).lpddr = s.lpddr := rfl
@[simp] theorem State.poison_sendFlit (s : State) (f : Flit) : (s.sendFlit f).poison = s.poison := rfl
@[simp] theorem State.images_sendFlit (s : State) (f : Flit) : (s.sendFlit f).images = s.images := rfl
@[simp] theorem State.snapHalf_sendFlit (s : State) (f : Flit) : (s.sendFlit f).snapHalf = s.snapHalf := rfl
@[simp] theorem State.memWait_sendFlit (s : State) (f : Flit) : (s.sendFlit f).memWait = s.memWait := rfl
@[simp] theorem State.uptime_sendFlit (s : State) (f : Flit) : (s.sendFlit f).uptime = s.uptime := rfl
@[simp] theorem State.powered_sendFlit (s : State) (f : Flit) : (s.sendFlit f).powered = s.powered := rfl
@[simp] theorem State.l480_sendFlit (s : State) (f : Flit) : (s.sendFlit f).l480 = s.l480 := rfl
@[simp] theorem State.snaps_sendFlit (s : State) (f : Flit) : (s.sendFlit f).snaps = s.snaps := rfl
@[simp] theorem State.snapOut_sendFlit (s : State) (f : Flit) : (s.sendFlit f).snapOut = s.snapOut := rfl
@[simp] theorem State.spill_sendFlit (s : State) (f : Flit) : (s.sendFlit f).spill = s.spill := rfl
@[simp] theorem State.haltLog_sendFlit (s : State) (f : Flit) : (s.sendFlit f).haltLog = s.haltLog := rfl
@[simp] theorem State.flash_sendFlit (s : State) (f : Flit) : (s.sendFlit f).flash = s.flash := rfl
@[simp] theorem State.fuses_sendFlit (s : State) (f : Flit) : (s.sendFlit f).fuses = s.fuses := rfl
@[simp] theorem State.plan_sendFlit (s : State) (f : Flit) : (s.sendFlit f).plan = s.plan := rfl
@[simp] theorem State.image_sendFlit (s : State) (f : Flit) : (s.sendFlit f).image = s.image := rfl
@[simp] theorem State.meas_sendFlit (s : State) (f : Flit) : (s.sendFlit f).meas = s.meas := rfl
@[simp] theorem State.mbx_sendFlit (s : State) (f : Flit) : (s.sendFlit f).mbx = s.mbx := rfl
@[simp] theorem State.cart_sendFlit (s : State) (f : Flit) : (s.sendFlit f).cart = s.cart := rfl
@[simp] theorem State.sup_sendFlit (s : State) (f : Flit) : (s.sendFlit f).sup = s.sup := rfl
@[simp] theorem State.asked_sendFlit (s : State) (f : Flit) : (s.sendFlit f).asked = s.asked := rfl
@[simp] theorem State.latch_sendFlit (s : State) (f : Flit) : (s.sendFlit f).latch = s.latch := rfl
@[simp] theorem State.ownSteps_sendFlit (s : State) (f : Flit) : (s.sendFlit f).ownSteps = s.ownSteps := rfl
@[simp] theorem State.out_sendFlit (s : State) (f : Flit) : (s.sendFlit f).out = s.out := rfl
@[simp] theorem State.free_sendFlit (s : State) (f : Flit) : (s.sendFlit f).free = s.free := rfl
@[simp] theorem State.pending_sendFlit (s : State) (f : Flit) : (s.sendFlit f).pending = s.pending := rfl
@[simp] theorem State.wakeQ_sendFlit (s : State) (f : Flit) : (s.sendFlit f).die.wakeQ = s.die.wakeQ := rfl
@[simp] theorem State.pcie_sendFlit (s : State) (f : Flit) : (s.sendFlit f).die.pcie = s.die.pcie := rfl
@[simp] theorem State.jobStns_sendFlit (s : State) (f : Flit) : (s.sendFlit f).die.jobStns = s.die.jobStns := rfl
@[simp] theorem State.jobStarted_sendFlit (s : State) (f : Flit) : (s.sendFlit f).die.jobStarted = s.die.jobStarted := rfl
@[simp] theorem State.runSet_sendFlit (s : State) (f : Flit) : (s.sendFlit f).die.runSet = s.die.runSet := rfl
@[simp] theorem State.colls_sendFlit (s : State) (f : Flit) : (s.sendFlit f).die.colls = s.die.colls := rfl
@[simp] theorem State.xqs_sendFlit (s : State) (f : Flit) : (s.sendFlit f).die.xqs = s.die.xqs := rfl
@[simp] theorem State.sess_sendFlit (s : State) (f : Flit) : (s.sendFlit f).die.sess = s.die.sess := rfl
@[simp] theorem State.net_sendFlit (s : State) (f : Flit) : (s.sendFlit f).die.net = s.die.net := rfl
@[simp] theorem State.gov_sendFlit (s : State) (f : Flit) : (s.sendFlit f).die.gov = s.die.gov := rfl
@[simp] theorem State.links_sendFlit (s : State) (f : Flit) : (s.sendFlit f).die.links = s.die.links := rfl
@[simp] theorem State.job_sendFlit (s : State) (f : Flit) : (s.sendFlit f).die.job = s.die.job := rfl
@[simp] theorem State.rwo_sendFlit (s : State) (f : Flit) : (s.sendFlit f).die.rwo = s.die.rwo := rfl
@[simp] theorem State.polled_sendFlit (s : State) (f : Flit) : (s.sendFlit f).die.polled = s.die.polled := rfl
@[simp] theorem State.eids_sendFlit (s : State) (f : Flit) : (s.sendFlit f).die.eids = s.die.eids := rfl
@[simp] theorem State.refresh_sendFlit (s : State) (f : Flit) : (s.sendFlit f).die.refresh = s.die.refresh := rfl
@[simp] theorem State.pdown_sendFlit (s : State) (f : Flit) : (s.sendFlit f).die.pdown = s.die.pdown := rfl
@[simp] theorem State.lpddr_sendAll (s : State) (l : List Flit) : (s.sendAll l).lpddr = s.lpddr := rfl
@[simp] theorem State.poison_sendAll (s : State) (l : List Flit) : (s.sendAll l).poison = s.poison := rfl
@[simp] theorem State.images_sendAll (s : State) (l : List Flit) : (s.sendAll l).images = s.images := rfl
@[simp] theorem State.snapHalf_sendAll (s : State) (l : List Flit) : (s.sendAll l).snapHalf = s.snapHalf := rfl
@[simp] theorem State.memWait_sendAll (s : State) (l : List Flit) : (s.sendAll l).memWait = s.memWait := rfl
@[simp] theorem State.uptime_sendAll (s : State) (l : List Flit) : (s.sendAll l).uptime = s.uptime := rfl
@[simp] theorem State.powered_sendAll (s : State) (l : List Flit) : (s.sendAll l).powered = s.powered := rfl
@[simp] theorem State.l480_sendAll (s : State) (l : List Flit) : (s.sendAll l).l480 = s.l480 := rfl
@[simp] theorem State.snaps_sendAll (s : State) (l : List Flit) : (s.sendAll l).snaps = s.snaps := rfl
@[simp] theorem State.snapOut_sendAll (s : State) (l : List Flit) : (s.sendAll l).snapOut = s.snapOut := rfl
@[simp] theorem State.spill_sendAll (s : State) (l : List Flit) : (s.sendAll l).spill = s.spill := rfl
@[simp] theorem State.haltLog_sendAll (s : State) (l : List Flit) : (s.sendAll l).haltLog = s.haltLog := rfl
@[simp] theorem State.flash_sendAll (s : State) (l : List Flit) : (s.sendAll l).flash = s.flash := rfl
@[simp] theorem State.fuses_sendAll (s : State) (l : List Flit) : (s.sendAll l).fuses = s.fuses := rfl
@[simp] theorem State.plan_sendAll (s : State) (l : List Flit) : (s.sendAll l).plan = s.plan := rfl
@[simp] theorem State.image_sendAll (s : State) (l : List Flit) : (s.sendAll l).image = s.image := rfl
@[simp] theorem State.meas_sendAll (s : State) (l : List Flit) : (s.sendAll l).meas = s.meas := rfl
@[simp] theorem State.mbx_sendAll (s : State) (l : List Flit) : (s.sendAll l).mbx = s.mbx := rfl
@[simp] theorem State.cart_sendAll (s : State) (l : List Flit) : (s.sendAll l).cart = s.cart := rfl
@[simp] theorem State.sup_sendAll (s : State) (l : List Flit) : (s.sendAll l).sup = s.sup := rfl
@[simp] theorem State.asked_sendAll (s : State) (l : List Flit) : (s.sendAll l).asked = s.asked := rfl
@[simp] theorem State.latch_sendAll (s : State) (l : List Flit) : (s.sendAll l).latch = s.latch := rfl
@[simp] theorem State.ownSteps_sendAll (s : State) (l : List Flit) : (s.sendAll l).ownSteps = s.ownSteps := rfl
@[simp] theorem State.out_sendAll (s : State) (l : List Flit) : (s.sendAll l).out = s.out := rfl
@[simp] theorem State.free_sendAll (s : State) (l : List Flit) : (s.sendAll l).free = s.free := rfl
@[simp] theorem State.pending_sendAll (s : State) (l : List Flit) : (s.sendAll l).pending = s.pending := rfl
@[simp] theorem State.wakeQ_sendAll (s : State) (l : List Flit) : (s.sendAll l).die.wakeQ = s.die.wakeQ := rfl
@[simp] theorem State.pcie_sendAll (s : State) (l : List Flit) : (s.sendAll l).die.pcie = s.die.pcie := rfl
@[simp] theorem State.jobStns_sendAll (s : State) (l : List Flit) : (s.sendAll l).die.jobStns = s.die.jobStns := rfl
@[simp] theorem State.jobStarted_sendAll (s : State) (l : List Flit) : (s.sendAll l).die.jobStarted = s.die.jobStarted := rfl
@[simp] theorem State.runSet_sendAll (s : State) (l : List Flit) : (s.sendAll l).die.runSet = s.die.runSet := rfl
@[simp] theorem State.colls_sendAll (s : State) (l : List Flit) : (s.sendAll l).die.colls = s.die.colls := rfl
@[simp] theorem State.xqs_sendAll (s : State) (l : List Flit) : (s.sendAll l).die.xqs = s.die.xqs := rfl
@[simp] theorem State.sess_sendAll (s : State) (l : List Flit) : (s.sendAll l).die.sess = s.die.sess := rfl
@[simp] theorem State.net_sendAll (s : State) (l : List Flit) : (s.sendAll l).die.net = s.die.net := rfl
@[simp] theorem State.gov_sendAll (s : State) (l : List Flit) : (s.sendAll l).die.gov = s.die.gov := rfl
@[simp] theorem State.links_sendAll (s : State) (l : List Flit) : (s.sendAll l).die.links = s.die.links := rfl
@[simp] theorem State.job_sendAll (s : State) (l : List Flit) : (s.sendAll l).die.job = s.die.job := rfl
@[simp] theorem State.rwo_sendAll (s : State) (l : List Flit) : (s.sendAll l).die.rwo = s.die.rwo := rfl
@[simp] theorem State.polled_sendAll (s : State) (l : List Flit) : (s.sendAll l).die.polled = s.die.polled := rfl
@[simp] theorem State.eids_sendAll (s : State) (l : List Flit) : (s.sendAll l).die.eids = s.die.eids := rfl
@[simp] theorem State.refresh_sendAll (s : State) (l : List Flit) : (s.sendAll l).die.refresh = s.die.refresh := rfl
@[simp] theorem State.pdown_sendAll (s : State) (l : List Flit) : (s.sendAll l).die.pdown = s.die.pdown := rfl
@[simp] theorem State.lpddr_multicast (s : State) (n : Nat) (ds : List Nat) (fs : Nat → List Flit) : (s.multicast n ds fs).lpddr = s.lpddr := rfl
@[simp] theorem State.poison_multicast (s : State) (n : Nat) (ds : List Nat) (fs : Nat → List Flit) : (s.multicast n ds fs).poison = s.poison := rfl
@[simp] theorem State.images_multicast (s : State) (n : Nat) (ds : List Nat) (fs : Nat → List Flit) : (s.multicast n ds fs).images = s.images := rfl
@[simp] theorem State.snapHalf_multicast (s : State) (n : Nat) (ds : List Nat) (fs : Nat → List Flit) : (s.multicast n ds fs).snapHalf = s.snapHalf := rfl
@[simp] theorem State.memWait_multicast (s : State) (n : Nat) (ds : List Nat) (fs : Nat → List Flit) : (s.multicast n ds fs).memWait = s.memWait := rfl
@[simp] theorem State.uptime_multicast (s : State) (n : Nat) (ds : List Nat) (fs : Nat → List Flit) : (s.multicast n ds fs).uptime = s.uptime := rfl
@[simp] theorem State.powered_multicast (s : State) (n : Nat) (ds : List Nat) (fs : Nat → List Flit) : (s.multicast n ds fs).powered = s.powered := rfl
@[simp] theorem State.l480_multicast (s : State) (n : Nat) (ds : List Nat) (fs : Nat → List Flit) : (s.multicast n ds fs).l480 = s.l480 := rfl
@[simp] theorem State.snaps_multicast (s : State) (n : Nat) (ds : List Nat) (fs : Nat → List Flit) : (s.multicast n ds fs).snaps = s.snaps := rfl
@[simp] theorem State.snapOut_multicast (s : State) (n : Nat) (ds : List Nat) (fs : Nat → List Flit) : (s.multicast n ds fs).snapOut = s.snapOut := rfl
@[simp] theorem State.spill_multicast (s : State) (n : Nat) (ds : List Nat) (fs : Nat → List Flit) : (s.multicast n ds fs).spill = s.spill := rfl
@[simp] theorem State.haltLog_multicast (s : State) (n : Nat) (ds : List Nat) (fs : Nat → List Flit) : (s.multicast n ds fs).haltLog = s.haltLog := rfl
@[simp] theorem State.flash_multicast (s : State) (n : Nat) (ds : List Nat) (fs : Nat → List Flit) : (s.multicast n ds fs).flash = s.flash := rfl
@[simp] theorem State.fuses_multicast (s : State) (n : Nat) (ds : List Nat) (fs : Nat → List Flit) : (s.multicast n ds fs).fuses = s.fuses := rfl
@[simp] theorem State.plan_multicast (s : State) (n : Nat) (ds : List Nat) (fs : Nat → List Flit) : (s.multicast n ds fs).plan = s.plan := rfl
@[simp] theorem State.image_multicast (s : State) (n : Nat) (ds : List Nat) (fs : Nat → List Flit) : (s.multicast n ds fs).image = s.image := rfl
@[simp] theorem State.meas_multicast (s : State) (n : Nat) (ds : List Nat) (fs : Nat → List Flit) : (s.multicast n ds fs).meas = s.meas := rfl
@[simp] theorem State.mbx_multicast (s : State) (n : Nat) (ds : List Nat) (fs : Nat → List Flit) : (s.multicast n ds fs).mbx = s.mbx := rfl
@[simp] theorem State.cart_multicast (s : State) (n : Nat) (ds : List Nat) (fs : Nat → List Flit) : (s.multicast n ds fs).cart = s.cart := rfl
@[simp] theorem State.sup_multicast (s : State) (n : Nat) (ds : List Nat) (fs : Nat → List Flit) : (s.multicast n ds fs).sup = s.sup := rfl
@[simp] theorem State.asked_multicast (s : State) (n : Nat) (ds : List Nat) (fs : Nat → List Flit) : (s.multicast n ds fs).asked = s.asked := rfl
@[simp] theorem State.latch_multicast (s : State) (n : Nat) (ds : List Nat) (fs : Nat → List Flit) : (s.multicast n ds fs).latch = s.latch := rfl
@[simp] theorem State.ownSteps_multicast (s : State) (n : Nat) (ds : List Nat) (fs : Nat → List Flit) : (s.multicast n ds fs).ownSteps = s.ownSteps := rfl
@[simp] theorem State.out_multicast (s : State) (n : Nat) (ds : List Nat) (fs : Nat → List Flit) : (s.multicast n ds fs).out = s.out := rfl
@[simp] theorem State.free_multicast (s : State) (n : Nat) (ds : List Nat) (fs : Nat → List Flit) : (s.multicast n ds fs).free = s.free := rfl
@[simp] theorem State.pending_multicast (s : State) (n : Nat) (ds : List Nat) (fs : Nat → List Flit) : (s.multicast n ds fs).pending = s.pending := rfl
@[simp] theorem State.wakeQ_multicast (s : State) (n : Nat) (ds : List Nat) (fs : Nat → List Flit) : (s.multicast n ds fs).die.wakeQ = s.die.wakeQ := rfl
@[simp] theorem State.pcie_multicast (s : State) (n : Nat) (ds : List Nat) (fs : Nat → List Flit) : (s.multicast n ds fs).die.pcie = s.die.pcie := rfl
@[simp] theorem State.jobStns_multicast (s : State) (n : Nat) (ds : List Nat) (fs : Nat → List Flit) : (s.multicast n ds fs).die.jobStns = s.die.jobStns := rfl
@[simp] theorem State.jobStarted_multicast (s : State) (n : Nat) (ds : List Nat) (fs : Nat → List Flit) : (s.multicast n ds fs).die.jobStarted = s.die.jobStarted := rfl
@[simp] theorem State.runSet_multicast (s : State) (n : Nat) (ds : List Nat) (fs : Nat → List Flit) : (s.multicast n ds fs).die.runSet = s.die.runSet := rfl
@[simp] theorem State.colls_multicast (s : State) (n : Nat) (ds : List Nat) (fs : Nat → List Flit) : (s.multicast n ds fs).die.colls = s.die.colls := rfl
@[simp] theorem State.xqs_multicast (s : State) (n : Nat) (ds : List Nat) (fs : Nat → List Flit) : (s.multicast n ds fs).die.xqs = s.die.xqs := rfl
@[simp] theorem State.sess_multicast (s : State) (n : Nat) (ds : List Nat) (fs : Nat → List Flit) : (s.multicast n ds fs).die.sess = s.die.sess := rfl
@[simp] theorem State.net_multicast (s : State) (n : Nat) (ds : List Nat) (fs : Nat → List Flit) : (s.multicast n ds fs).die.net = s.die.net := rfl
@[simp] theorem State.gov_multicast (s : State) (n : Nat) (ds : List Nat) (fs : Nat → List Flit) : (s.multicast n ds fs).die.gov = s.die.gov := rfl
@[simp] theorem State.links_multicast (s : State) (n : Nat) (ds : List Nat) (fs : Nat → List Flit) : (s.multicast n ds fs).die.links = s.die.links := rfl
@[simp] theorem State.job_multicast (s : State) (n : Nat) (ds : List Nat) (fs : Nat → List Flit) : (s.multicast n ds fs).die.job = s.die.job := rfl
@[simp] theorem State.rwo_multicast (s : State) (n : Nat) (ds : List Nat) (fs : Nat → List Flit) : (s.multicast n ds fs).die.rwo = s.die.rwo := rfl
@[simp] theorem State.polled_multicast (s : State) (n : Nat) (ds : List Nat) (fs : Nat → List Flit) : (s.multicast n ds fs).die.polled = s.die.polled := rfl
@[simp] theorem State.eids_multicast (s : State) (n : Nat) (ds : List Nat) (fs : Nat → List Flit) : (s.multicast n ds fs).die.eids = s.die.eids := rfl
@[simp] theorem State.refresh_multicast (s : State) (n : Nat) (ds : List Nat) (fs : Nat → List Flit) : (s.multicast n ds fs).die.refresh = s.die.refresh := rfl
@[simp] theorem State.pdown_multicast (s : State) (n : Nat) (ds : List Nat) (fs : Nat → List Flit) : (s.multicast n ds fs).die.pdown = s.die.pdown := rfl
@[simp] theorem State.lpddr_addHops (s : State) (n : Nat) : (s.addHops n).lpddr = s.lpddr := rfl
@[simp] theorem State.poison_addHops (s : State) (n : Nat) : (s.addHops n).poison = s.poison := rfl
@[simp] theorem State.images_addHops (s : State) (n : Nat) : (s.addHops n).images = s.images := rfl
@[simp] theorem State.snapHalf_addHops (s : State) (n : Nat) : (s.addHops n).snapHalf = s.snapHalf := rfl
@[simp] theorem State.memWait_addHops (s : State) (n : Nat) : (s.addHops n).memWait = s.memWait := rfl
@[simp] theorem State.uptime_addHops (s : State) (n : Nat) : (s.addHops n).uptime = s.uptime := rfl
@[simp] theorem State.powered_addHops (s : State) (n : Nat) : (s.addHops n).powered = s.powered := rfl
@[simp] theorem State.l480_addHops (s : State) (n : Nat) : (s.addHops n).l480 = s.l480 := rfl
@[simp] theorem State.snaps_addHops (s : State) (n : Nat) : (s.addHops n).snaps = s.snaps := rfl
@[simp] theorem State.snapOut_addHops (s : State) (n : Nat) : (s.addHops n).snapOut = s.snapOut := rfl
@[simp] theorem State.spill_addHops (s : State) (n : Nat) : (s.addHops n).spill = s.spill := rfl
@[simp] theorem State.haltLog_addHops (s : State) (n : Nat) : (s.addHops n).haltLog = s.haltLog := rfl
@[simp] theorem State.flash_addHops (s : State) (n : Nat) : (s.addHops n).flash = s.flash := rfl
@[simp] theorem State.fuses_addHops (s : State) (n : Nat) : (s.addHops n).fuses = s.fuses := rfl
@[simp] theorem State.plan_addHops (s : State) (n : Nat) : (s.addHops n).plan = s.plan := rfl
@[simp] theorem State.image_addHops (s : State) (n : Nat) : (s.addHops n).image = s.image := rfl
@[simp] theorem State.meas_addHops (s : State) (n : Nat) : (s.addHops n).meas = s.meas := rfl
@[simp] theorem State.mbx_addHops (s : State) (n : Nat) : (s.addHops n).mbx = s.mbx := rfl
@[simp] theorem State.cart_addHops (s : State) (n : Nat) : (s.addHops n).cart = s.cart := rfl
@[simp] theorem State.sup_addHops (s : State) (n : Nat) : (s.addHops n).sup = s.sup := rfl
@[simp] theorem State.asked_addHops (s : State) (n : Nat) : (s.addHops n).asked = s.asked := rfl
@[simp] theorem State.latch_addHops (s : State) (n : Nat) : (s.addHops n).latch = s.latch := rfl
@[simp] theorem State.ownSteps_addHops (s : State) (n : Nat) : (s.addHops n).ownSteps = s.ownSteps := rfl
@[simp] theorem State.out_addHops (s : State) (n : Nat) : (s.addHops n).out = s.out := rfl
@[simp] theorem State.free_addHops (s : State) (n : Nat) : (s.addHops n).free = s.free := rfl
@[simp] theorem State.pending_addHops (s : State) (n : Nat) : (s.addHops n).pending = s.pending := rfl
@[simp] theorem State.mesh_addHops (s : State) (n : Nat) : (s.addHops n).die.mesh = s.die.mesh := rfl
@[simp] theorem State.wakeQ_addHops (s : State) (n : Nat) : (s.addHops n).die.wakeQ = s.die.wakeQ := rfl
@[simp] theorem State.pcie_addHops (s : State) (n : Nat) : (s.addHops n).die.pcie = s.die.pcie := rfl
@[simp] theorem State.jobStns_addHops (s : State) (n : Nat) : (s.addHops n).die.jobStns = s.die.jobStns := rfl
@[simp] theorem State.jobStarted_addHops (s : State) (n : Nat) : (s.addHops n).die.jobStarted = s.die.jobStarted := rfl
@[simp] theorem State.runSet_addHops (s : State) (n : Nat) : (s.addHops n).die.runSet = s.die.runSet := rfl
@[simp] theorem State.colls_addHops (s : State) (n : Nat) : (s.addHops n).die.colls = s.die.colls := rfl
@[simp] theorem State.xqs_addHops (s : State) (n : Nat) : (s.addHops n).die.xqs = s.die.xqs := rfl
@[simp] theorem State.sess_addHops (s : State) (n : Nat) : (s.addHops n).die.sess = s.die.sess := rfl
@[simp] theorem State.net_addHops (s : State) (n : Nat) : (s.addHops n).die.net = s.die.net := rfl
@[simp] theorem State.gov_addHops (s : State) (n : Nat) : (s.addHops n).die.gov = s.die.gov := rfl
@[simp] theorem State.links_addHops (s : State) (n : Nat) : (s.addHops n).die.links = s.die.links := rfl
@[simp] theorem State.job_addHops (s : State) (n : Nat) : (s.addHops n).die.job = s.die.job := rfl
@[simp] theorem State.rwo_addHops (s : State) (n : Nat) : (s.addHops n).die.rwo = s.die.rwo := rfl
@[simp] theorem State.polled_addHops (s : State) (n : Nat) : (s.addHops n).die.polled = s.die.polled := rfl
@[simp] theorem State.eids_addHops (s : State) (n : Nat) : (s.addHops n).die.eids = s.die.eids := rfl
@[simp] theorem State.refresh_addHops (s : State) (n : Nat) : (s.addHops n).die.refresh = s.die.refresh := rfl
@[simp] theorem State.pdown_addHops (s : State) (n : Nat) : (s.addHops n).die.pdown = s.die.pdown := rfl
@[simp] theorem State.lpddr_emit (s : State) (x : Out) : (s.emit x).lpddr = s.lpddr := rfl
@[simp] theorem State.poison_emit (s : State) (x : Out) : (s.emit x).poison = s.poison := rfl
@[simp] theorem State.images_emit (s : State) (x : Out) : (s.emit x).images = s.images := rfl
@[simp] theorem State.snapHalf_emit (s : State) (x : Out) : (s.emit x).snapHalf = s.snapHalf := rfl
@[simp] theorem State.memWait_emit (s : State) (x : Out) : (s.emit x).memWait = s.memWait := rfl
@[simp] theorem State.uptime_emit (s : State) (x : Out) : (s.emit x).uptime = s.uptime := rfl
@[simp] theorem State.powered_emit (s : State) (x : Out) : (s.emit x).powered = s.powered := rfl
@[simp] theorem State.l480_emit (s : State) (x : Out) : (s.emit x).l480 = s.l480 := rfl
@[simp] theorem State.snaps_emit (s : State) (x : Out) : (s.emit x).snaps = s.snaps := rfl
@[simp] theorem State.snapOut_emit (s : State) (x : Out) : (s.emit x).snapOut = s.snapOut := rfl
@[simp] theorem State.spill_emit (s : State) (x : Out) : (s.emit x).spill = s.spill := rfl
@[simp] theorem State.haltLog_emit (s : State) (x : Out) : (s.emit x).haltLog = s.haltLog := rfl
@[simp] theorem State.flash_emit (s : State) (x : Out) : (s.emit x).flash = s.flash := rfl
@[simp] theorem State.fuses_emit (s : State) (x : Out) : (s.emit x).fuses = s.fuses := rfl
@[simp] theorem State.plan_emit (s : State) (x : Out) : (s.emit x).plan = s.plan := rfl
@[simp] theorem State.image_emit (s : State) (x : Out) : (s.emit x).image = s.image := rfl
@[simp] theorem State.meas_emit (s : State) (x : Out) : (s.emit x).meas = s.meas := rfl
@[simp] theorem State.mbx_emit (s : State) (x : Out) : (s.emit x).mbx = s.mbx := rfl
@[simp] theorem State.cart_emit (s : State) (x : Out) : (s.emit x).cart = s.cart := rfl
@[simp] theorem State.sup_emit (s : State) (x : Out) : (s.emit x).sup = s.sup := rfl
@[simp] theorem State.asked_emit (s : State) (x : Out) : (s.emit x).asked = s.asked := rfl
@[simp] theorem State.latch_emit (s : State) (x : Out) : (s.emit x).latch = s.latch := rfl
@[simp] theorem State.ownSteps_emit (s : State) (x : Out) : (s.emit x).ownSteps = s.ownSteps := rfl
@[simp] theorem State.free_emit (s : State) (x : Out) : (s.emit x).free = s.free := rfl
@[simp] theorem State.pending_emit (s : State) (x : Out) : (s.emit x).pending = s.pending := rfl
@[simp] theorem State.mesh_emit (s : State) (x : Out) : (s.emit x).die.mesh = s.die.mesh := rfl
@[simp] theorem State.wakeQ_emit (s : State) (x : Out) : (s.emit x).die.wakeQ = s.die.wakeQ := rfl
@[simp] theorem State.pcie_emit (s : State) (x : Out) : (s.emit x).die.pcie = s.die.pcie := rfl
@[simp] theorem State.jobStns_emit (s : State) (x : Out) : (s.emit x).die.jobStns = s.die.jobStns := rfl
@[simp] theorem State.jobStarted_emit (s : State) (x : Out) : (s.emit x).die.jobStarted = s.die.jobStarted := rfl
@[simp] theorem State.runSet_emit (s : State) (x : Out) : (s.emit x).die.runSet = s.die.runSet := rfl
@[simp] theorem State.colls_emit (s : State) (x : Out) : (s.emit x).die.colls = s.die.colls := rfl
@[simp] theorem State.xqs_emit (s : State) (x : Out) : (s.emit x).die.xqs = s.die.xqs := rfl
@[simp] theorem State.sess_emit (s : State) (x : Out) : (s.emit x).die.sess = s.die.sess := rfl
@[simp] theorem State.net_emit (s : State) (x : Out) : (s.emit x).die.net = s.die.net := rfl
@[simp] theorem State.gov_emit (s : State) (x : Out) : (s.emit x).die.gov = s.die.gov := rfl
@[simp] theorem State.links_emit (s : State) (x : Out) : (s.emit x).die.links = s.die.links := rfl
@[simp] theorem State.job_emit (s : State) (x : Out) : (s.emit x).die.job = s.die.job := rfl
@[simp] theorem State.rwo_emit (s : State) (x : Out) : (s.emit x).die.rwo = s.die.rwo := rfl
@[simp] theorem State.polled_emit (s : State) (x : Out) : (s.emit x).die.polled = s.die.polled := rfl
@[simp] theorem State.eids_emit (s : State) (x : Out) : (s.emit x).die.eids = s.die.eids := rfl
@[simp] theorem State.refresh_emit (s : State) (x : Out) : (s.emit x).die.refresh = s.die.refresh := rfl
@[simp] theorem State.pdown_emit (s : State) (x : Out) : (s.emit x).die.pdown = s.die.pdown := rfl
@[simp] theorem State.hops_emit (s : State) (x : Out) : (s.emit x).die.hops = s.die.hops := rfl
@[simp] theorem State.lpddr_bump (s : State) (a k : Nat) : (s.bump a k).lpddr = s.lpddr := by simp [State.bump]
@[simp] theorem State.poison_bump (s : State) (a k : Nat) : (s.bump a k).poison = s.poison := by simp [State.bump]
@[simp] theorem State.images_bump (s : State) (a k : Nat) : (s.bump a k).images = s.images := by simp [State.bump]
@[simp] theorem State.snapHalf_bump (s : State) (a k : Nat) : (s.bump a k).snapHalf = s.snapHalf := by simp [State.bump]
@[simp] theorem State.memWait_bump (s : State) (a k : Nat) : (s.bump a k).memWait = s.memWait := by simp [State.bump]
@[simp] theorem State.uptime_bump (s : State) (a k : Nat) : (s.bump a k).uptime = s.uptime := by simp [State.bump]
@[simp] theorem State.powered_bump (s : State) (a k : Nat) : (s.bump a k).powered = s.powered := by simp [State.bump]
@[simp] theorem State.l480_bump (s : State) (a k : Nat) : (s.bump a k).l480 = s.l480 := by simp [State.bump]
@[simp] theorem State.snaps_bump (s : State) (a k : Nat) : (s.bump a k).snaps = s.snaps := by simp [State.bump]
@[simp] theorem State.snapOut_bump (s : State) (a k : Nat) : (s.bump a k).snapOut = s.snapOut := by simp [State.bump]
@[simp] theorem State.spill_bump (s : State) (a k : Nat) : (s.bump a k).spill = s.spill := by simp [State.bump]
@[simp] theorem State.haltLog_bump (s : State) (a k : Nat) : (s.bump a k).haltLog = s.haltLog := by simp [State.bump]
@[simp] theorem State.flash_bump (s : State) (a k : Nat) : (s.bump a k).flash = s.flash := by simp [State.bump]
@[simp] theorem State.fuses_bump (s : State) (a k : Nat) : (s.bump a k).fuses = s.fuses := by simp [State.bump]
@[simp] theorem State.plan_bump (s : State) (a k : Nat) : (s.bump a k).plan = s.plan := by simp [State.bump]
@[simp] theorem State.image_bump (s : State) (a k : Nat) : (s.bump a k).image = s.image := by simp [State.bump]
@[simp] theorem State.meas_bump (s : State) (a k : Nat) : (s.bump a k).meas = s.meas := by simp [State.bump]
@[simp] theorem State.mbx_bump (s : State) (a k : Nat) : (s.bump a k).mbx = s.mbx := by simp [State.bump]
@[simp] theorem State.cart_bump (s : State) (a k : Nat) : (s.bump a k).cart = s.cart := by simp [State.bump]
@[simp] theorem State.sup_bump (s : State) (a k : Nat) : (s.bump a k).sup = s.sup := by simp [State.bump]
@[simp] theorem State.asked_bump (s : State) (a k : Nat) : (s.bump a k).asked = s.asked := by simp [State.bump]
@[simp] theorem State.latch_bump (s : State) (a k : Nat) : (s.bump a k).latch = s.latch := by simp [State.bump]
@[simp] theorem State.ownSteps_bump (s : State) (a k : Nat) : (s.bump a k).ownSteps = s.ownSteps := by simp [State.bump]
@[simp] theorem State.out_bump (s : State) (a k : Nat) : (s.bump a k).out = s.out := by simp [State.bump]
@[simp] theorem State.free_bump (s : State) (a k : Nat) : (s.bump a k).free = s.free := by simp [State.bump]
@[simp] theorem State.pending_bump (s : State) (a k : Nat) : (s.bump a k).pending = s.pending := by simp [State.bump]
@[simp] theorem State.mesh_bump (s : State) (a k : Nat) : (s.bump a k).die.mesh = s.die.mesh := by simp [State.bump]
@[simp] theorem State.wakeQ_bump (s : State) (a k : Nat) : (s.bump a k).die.wakeQ = s.die.wakeQ := by simp [State.bump]
@[simp] theorem State.pcie_bump (s : State) (a k : Nat) : (s.bump a k).die.pcie = s.die.pcie := by simp [State.bump]
@[simp] theorem State.jobStns_bump (s : State) (a k : Nat) : (s.bump a k).die.jobStns = s.die.jobStns := by simp [State.bump]
@[simp] theorem State.jobStarted_bump (s : State) (a k : Nat) : (s.bump a k).die.jobStarted = s.die.jobStarted := by simp [State.bump]
@[simp] theorem State.runSet_bump (s : State) (a k : Nat) : (s.bump a k).die.runSet = s.die.runSet := by simp [State.bump]
@[simp] theorem State.colls_bump (s : State) (a k : Nat) : (s.bump a k).die.colls = s.die.colls := by simp [State.bump]
@[simp] theorem State.xqs_bump (s : State) (a k : Nat) : (s.bump a k).die.xqs = s.die.xqs := by simp [State.bump]
@[simp] theorem State.sess_bump (s : State) (a k : Nat) : (s.bump a k).die.sess = s.die.sess := by simp [State.bump]
@[simp] theorem State.net_bump (s : State) (a k : Nat) : (s.bump a k).die.net = s.die.net := by simp [State.bump]
@[simp] theorem State.gov_bump (s : State) (a k : Nat) : (s.bump a k).die.gov = s.die.gov := by simp [State.bump]
@[simp] theorem State.links_bump (s : State) (a k : Nat) : (s.bump a k).die.links = s.die.links := by simp [State.bump]
@[simp] theorem State.job_bump (s : State) (a k : Nat) : (s.bump a k).die.job = s.die.job := by simp [State.bump]
@[simp] theorem State.rwo_bump (s : State) (a k : Nat) : (s.bump a k).die.rwo = s.die.rwo := by simp [State.bump]
@[simp] theorem State.polled_bump (s : State) (a k : Nat) : (s.bump a k).die.polled = s.die.polled := by simp [State.bump]
@[simp] theorem State.eids_bump (s : State) (a k : Nat) : (s.bump a k).die.eids = s.die.eids := by simp [State.bump]
@[simp] theorem State.refresh_bump (s : State) (a k : Nat) : (s.bump a k).die.refresh = s.die.refresh := by simp [State.bump]
@[simp] theorem State.pdown_bump (s : State) (a k : Nat) : (s.bump a k).die.pdown = s.die.pdown := by simp [State.bump]
@[simp] theorem State.hops_bump (s : State) (a k : Nat) : (s.bump a k).die.hops = s.die.hops := by simp [State.bump]
@[simp] theorem State.lpddr_setFld (s : State) (a lo len v : Nat) : (s.setFld a lo len v).lpddr = s.lpddr := by simp [State.setFld]
@[simp] theorem State.poison_setFld (s : State) (a lo len v : Nat) : (s.setFld a lo len v).poison = s.poison := by simp [State.setFld]
@[simp] theorem State.images_setFld (s : State) (a lo len v : Nat) : (s.setFld a lo len v).images = s.images := by simp [State.setFld]
@[simp] theorem State.snapHalf_setFld (s : State) (a lo len v : Nat) : (s.setFld a lo len v).snapHalf = s.snapHalf := by simp [State.setFld]
@[simp] theorem State.memWait_setFld (s : State) (a lo len v : Nat) : (s.setFld a lo len v).memWait = s.memWait := by simp [State.setFld]
@[simp] theorem State.uptime_setFld (s : State) (a lo len v : Nat) : (s.setFld a lo len v).uptime = s.uptime := by simp [State.setFld]
@[simp] theorem State.powered_setFld (s : State) (a lo len v : Nat) : (s.setFld a lo len v).powered = s.powered := by simp [State.setFld]
@[simp] theorem State.l480_setFld (s : State) (a lo len v : Nat) : (s.setFld a lo len v).l480 = s.l480 := by simp [State.setFld]
@[simp] theorem State.snaps_setFld (s : State) (a lo len v : Nat) : (s.setFld a lo len v).snaps = s.snaps := by simp [State.setFld]
@[simp] theorem State.snapOut_setFld (s : State) (a lo len v : Nat) : (s.setFld a lo len v).snapOut = s.snapOut := by simp [State.setFld]
@[simp] theorem State.spill_setFld (s : State) (a lo len v : Nat) : (s.setFld a lo len v).spill = s.spill := by simp [State.setFld]
@[simp] theorem State.haltLog_setFld (s : State) (a lo len v : Nat) : (s.setFld a lo len v).haltLog = s.haltLog := by simp [State.setFld]
@[simp] theorem State.flash_setFld (s : State) (a lo len v : Nat) : (s.setFld a lo len v).flash = s.flash := by simp [State.setFld]
@[simp] theorem State.fuses_setFld (s : State) (a lo len v : Nat) : (s.setFld a lo len v).fuses = s.fuses := by simp [State.setFld]
@[simp] theorem State.plan_setFld (s : State) (a lo len v : Nat) : (s.setFld a lo len v).plan = s.plan := by simp [State.setFld]
@[simp] theorem State.image_setFld (s : State) (a lo len v : Nat) : (s.setFld a lo len v).image = s.image := by simp [State.setFld]
@[simp] theorem State.meas_setFld (s : State) (a lo len v : Nat) : (s.setFld a lo len v).meas = s.meas := by simp [State.setFld]
@[simp] theorem State.mbx_setFld (s : State) (a lo len v : Nat) : (s.setFld a lo len v).mbx = s.mbx := by simp [State.setFld]
@[simp] theorem State.cart_setFld (s : State) (a lo len v : Nat) : (s.setFld a lo len v).cart = s.cart := by simp [State.setFld]
@[simp] theorem State.sup_setFld (s : State) (a lo len v : Nat) : (s.setFld a lo len v).sup = s.sup := by simp [State.setFld]
@[simp] theorem State.asked_setFld (s : State) (a lo len v : Nat) : (s.setFld a lo len v).asked = s.asked := by simp [State.setFld]
@[simp] theorem State.latch_setFld (s : State) (a lo len v : Nat) : (s.setFld a lo len v).latch = s.latch := by simp [State.setFld]
@[simp] theorem State.ownSteps_setFld (s : State) (a lo len v : Nat) : (s.setFld a lo len v).ownSteps = s.ownSteps := by simp [State.setFld]
@[simp] theorem State.out_setFld (s : State) (a lo len v : Nat) : (s.setFld a lo len v).out = s.out := by simp [State.setFld]
@[simp] theorem State.free_setFld (s : State) (a lo len v : Nat) : (s.setFld a lo len v).free = s.free := by simp [State.setFld]
@[simp] theorem State.pending_setFld (s : State) (a lo len v : Nat) : (s.setFld a lo len v).pending = s.pending := by simp [State.setFld]
@[simp] theorem State.mesh_setFld (s : State) (a lo len v : Nat) : (s.setFld a lo len v).die.mesh = s.die.mesh := by simp [State.setFld]
@[simp] theorem State.wakeQ_setFld (s : State) (a lo len v : Nat) : (s.setFld a lo len v).die.wakeQ = s.die.wakeQ := by simp [State.setFld]
@[simp] theorem State.pcie_setFld (s : State) (a lo len v : Nat) : (s.setFld a lo len v).die.pcie = s.die.pcie := by simp [State.setFld]
@[simp] theorem State.jobStns_setFld (s : State) (a lo len v : Nat) : (s.setFld a lo len v).die.jobStns = s.die.jobStns := by simp [State.setFld]
@[simp] theorem State.jobStarted_setFld (s : State) (a lo len v : Nat) : (s.setFld a lo len v).die.jobStarted = s.die.jobStarted := by simp [State.setFld]
@[simp] theorem State.runSet_setFld (s : State) (a lo len v : Nat) : (s.setFld a lo len v).die.runSet = s.die.runSet := by simp [State.setFld]
@[simp] theorem State.colls_setFld (s : State) (a lo len v : Nat) : (s.setFld a lo len v).die.colls = s.die.colls := by simp [State.setFld]
@[simp] theorem State.xqs_setFld (s : State) (a lo len v : Nat) : (s.setFld a lo len v).die.xqs = s.die.xqs := by simp [State.setFld]
@[simp] theorem State.sess_setFld (s : State) (a lo len v : Nat) : (s.setFld a lo len v).die.sess = s.die.sess := by simp [State.setFld]
@[simp] theorem State.net_setFld (s : State) (a lo len v : Nat) : (s.setFld a lo len v).die.net = s.die.net := by simp [State.setFld]
@[simp] theorem State.gov_setFld (s : State) (a lo len v : Nat) : (s.setFld a lo len v).die.gov = s.die.gov := by simp [State.setFld]
@[simp] theorem State.links_setFld (s : State) (a lo len v : Nat) : (s.setFld a lo len v).die.links = s.die.links := by simp [State.setFld]
@[simp] theorem State.job_setFld (s : State) (a lo len v : Nat) : (s.setFld a lo len v).die.job = s.die.job := by simp [State.setFld]
@[simp] theorem State.rwo_setFld (s : State) (a lo len v : Nat) : (s.setFld a lo len v).die.rwo = s.die.rwo := by simp [State.setFld]
@[simp] theorem State.polled_setFld (s : State) (a lo len v : Nat) : (s.setFld a lo len v).die.polled = s.die.polled := by simp [State.setFld]
@[simp] theorem State.eids_setFld (s : State) (a lo len v : Nat) : (s.setFld a lo len v).die.eids = s.die.eids := by simp [State.setFld]
@[simp] theorem State.refresh_setFld (s : State) (a lo len v : Nat) : (s.setFld a lo len v).die.refresh = s.die.refresh := by simp [State.setFld]
@[simp] theorem State.pdown_setFld (s : State) (a lo len v : Nat) : (s.setFld a lo len v).die.pdown = s.die.pdown := by simp [State.setFld]
@[simp] theorem State.hops_setFld (s : State) (a lo len v : Nat) : (s.setFld a lo len v).die.hops = s.die.hops := by simp [State.setFld]
@[simp] theorem State.lpddr_leaveL1 (s : State) : (s.leaveL1).lpddr = s.lpddr := rfl
@[simp] theorem State.poison_leaveL1 (s : State) : (s.leaveL1).poison = s.poison := rfl
@[simp] theorem State.images_leaveL1 (s : State) : (s.leaveL1).images = s.images := rfl
@[simp] theorem State.snapHalf_leaveL1 (s : State) : (s.leaveL1).snapHalf = s.snapHalf := rfl
@[simp] theorem State.memWait_leaveL1 (s : State) : (s.leaveL1).memWait = s.memWait := rfl
@[simp] theorem State.uptime_leaveL1 (s : State) : (s.leaveL1).uptime = s.uptime := rfl
@[simp] theorem State.powered_leaveL1 (s : State) : (s.leaveL1).powered = s.powered := rfl
@[simp] theorem State.l480_leaveL1 (s : State) : (s.leaveL1).l480 = s.l480 := rfl
@[simp] theorem State.snaps_leaveL1 (s : State) : (s.leaveL1).snaps = s.snaps := rfl
@[simp] theorem State.snapOut_leaveL1 (s : State) : (s.leaveL1).snapOut = s.snapOut := rfl
@[simp] theorem State.spill_leaveL1 (s : State) : (s.leaveL1).spill = s.spill := rfl
@[simp] theorem State.haltLog_leaveL1 (s : State) : (s.leaveL1).haltLog = s.haltLog := rfl
@[simp] theorem State.flash_leaveL1 (s : State) : (s.leaveL1).flash = s.flash := rfl
@[simp] theorem State.fuses_leaveL1 (s : State) : (s.leaveL1).fuses = s.fuses := rfl
@[simp] theorem State.plan_leaveL1 (s : State) : (s.leaveL1).plan = s.plan := rfl
@[simp] theorem State.image_leaveL1 (s : State) : (s.leaveL1).image = s.image := rfl
@[simp] theorem State.meas_leaveL1 (s : State) : (s.leaveL1).meas = s.meas := rfl
@[simp] theorem State.mbx_leaveL1 (s : State) : (s.leaveL1).mbx = s.mbx := rfl
@[simp] theorem State.cart_leaveL1 (s : State) : (s.leaveL1).cart = s.cart := rfl
@[simp] theorem State.sup_leaveL1 (s : State) : (s.leaveL1).sup = s.sup := rfl
@[simp] theorem State.asked_leaveL1 (s : State) : (s.leaveL1).asked = s.asked := rfl
@[simp] theorem State.latch_leaveL1 (s : State) : (s.leaveL1).latch = s.latch := rfl
@[simp] theorem State.ownSteps_leaveL1 (s : State) : (s.leaveL1).ownSteps = s.ownSteps := rfl
@[simp] theorem State.out_leaveL1 (s : State) : (s.leaveL1).out = s.out := rfl
@[simp] theorem State.free_leaveL1 (s : State) : (s.leaveL1).free = s.free := rfl
@[simp] theorem State.pending_leaveL1 (s : State) : (s.leaveL1).pending = s.pending := rfl
@[simp] theorem State.mesh_leaveL1 (s : State) : (s.leaveL1).die.mesh = s.die.mesh := rfl
@[simp] theorem State.wakeQ_leaveL1 (s : State) : (s.leaveL1).die.wakeQ = s.die.wakeQ := rfl
@[simp] theorem State.jobStns_leaveL1 (s : State) : (s.leaveL1).die.jobStns = s.die.jobStns := rfl
@[simp] theorem State.jobStarted_leaveL1 (s : State) : (s.leaveL1).die.jobStarted = s.die.jobStarted := rfl
@[simp] theorem State.runSet_leaveL1 (s : State) : (s.leaveL1).die.runSet = s.die.runSet := rfl
@[simp] theorem State.colls_leaveL1 (s : State) : (s.leaveL1).die.colls = s.die.colls := rfl
@[simp] theorem State.xqs_leaveL1 (s : State) : (s.leaveL1).die.xqs = s.die.xqs := rfl
@[simp] theorem State.sess_leaveL1 (s : State) : (s.leaveL1).die.sess = s.die.sess := rfl
@[simp] theorem State.net_leaveL1 (s : State) : (s.leaveL1).die.net = s.die.net := rfl
@[simp] theorem State.gov_leaveL1 (s : State) : (s.leaveL1).die.gov = s.die.gov := rfl
@[simp] theorem State.links_leaveL1 (s : State) : (s.leaveL1).die.links = s.die.links := rfl
@[simp] theorem State.job_leaveL1 (s : State) : (s.leaveL1).die.job = s.die.job := rfl
@[simp] theorem State.rwo_leaveL1 (s : State) : (s.leaveL1).die.rwo = s.die.rwo := rfl
@[simp] theorem State.polled_leaveL1 (s : State) : (s.leaveL1).die.polled = s.die.polled := rfl
@[simp] theorem State.eids_leaveL1 (s : State) : (s.leaveL1).die.eids = s.die.eids := rfl
@[simp] theorem State.refresh_leaveL1 (s : State) : (s.leaveL1).die.refresh = s.die.refresh := rfl
@[simp] theorem State.pdown_leaveL1 (s : State) : (s.leaveL1).die.pdown = s.die.pdown := rfl
@[simp] theorem State.hops_leaveL1 (s : State) : (s.leaveL1).die.hops = s.die.hops := rfl
@[simp] theorem State.lpddr_signal (s : State) (v : Nat) : (s.signal v).lpddr = s.lpddr := by obtain ⟨p, o, h⟩ := s.signal_eq v; rw [h]
@[simp] theorem State.poison_signal (s : State) (v : Nat) : (s.signal v).poison = s.poison := by obtain ⟨p, o, h⟩ := s.signal_eq v; rw [h]
@[simp] theorem State.images_signal (s : State) (v : Nat) : (s.signal v).images = s.images := by obtain ⟨p, o, h⟩ := s.signal_eq v; rw [h]
@[simp] theorem State.snapHalf_signal (s : State) (v : Nat) : (s.signal v).snapHalf = s.snapHalf := by obtain ⟨p, o, h⟩ := s.signal_eq v; rw [h]
@[simp] theorem State.memWait_signal (s : State) (v : Nat) : (s.signal v).memWait = s.memWait := by obtain ⟨p, o, h⟩ := s.signal_eq v; rw [h]
@[simp] theorem State.uptime_signal (s : State) (v : Nat) : (s.signal v).uptime = s.uptime := by obtain ⟨p, o, h⟩ := s.signal_eq v; rw [h]
@[simp] theorem State.powered_signal (s : State) (v : Nat) : (s.signal v).powered = s.powered := by obtain ⟨p, o, h⟩ := s.signal_eq v; rw [h]
@[simp] theorem State.l480_signal (s : State) (v : Nat) : (s.signal v).l480 = s.l480 := by obtain ⟨p, o, h⟩ := s.signal_eq v; rw [h]
@[simp] theorem State.snaps_signal (s : State) (v : Nat) : (s.signal v).snaps = s.snaps := by obtain ⟨p, o, h⟩ := s.signal_eq v; rw [h]
@[simp] theorem State.snapOut_signal (s : State) (v : Nat) : (s.signal v).snapOut = s.snapOut := by obtain ⟨p, o, h⟩ := s.signal_eq v; rw [h]
@[simp] theorem State.spill_signal (s : State) (v : Nat) : (s.signal v).spill = s.spill := by obtain ⟨p, o, h⟩ := s.signal_eq v; rw [h]
@[simp] theorem State.haltLog_signal (s : State) (v : Nat) : (s.signal v).haltLog = s.haltLog := by obtain ⟨p, o, h⟩ := s.signal_eq v; rw [h]
@[simp] theorem State.flash_signal (s : State) (v : Nat) : (s.signal v).flash = s.flash := by obtain ⟨p, o, h⟩ := s.signal_eq v; rw [h]
@[simp] theorem State.fuses_signal (s : State) (v : Nat) : (s.signal v).fuses = s.fuses := by obtain ⟨p, o, h⟩ := s.signal_eq v; rw [h]
@[simp] theorem State.plan_signal (s : State) (v : Nat) : (s.signal v).plan = s.plan := by obtain ⟨p, o, h⟩ := s.signal_eq v; rw [h]
@[simp] theorem State.image_signal (s : State) (v : Nat) : (s.signal v).image = s.image := by obtain ⟨p, o, h⟩ := s.signal_eq v; rw [h]
@[simp] theorem State.meas_signal (s : State) (v : Nat) : (s.signal v).meas = s.meas := by obtain ⟨p, o, h⟩ := s.signal_eq v; rw [h]
@[simp] theorem State.mbx_signal (s : State) (v : Nat) : (s.signal v).mbx = s.mbx := by obtain ⟨p, o, h⟩ := s.signal_eq v; rw [h]
@[simp] theorem State.cart_signal (s : State) (v : Nat) : (s.signal v).cart = s.cart := by obtain ⟨p, o, h⟩ := s.signal_eq v; rw [h]
@[simp] theorem State.sup_signal (s : State) (v : Nat) : (s.signal v).sup = s.sup := by obtain ⟨p, o, h⟩ := s.signal_eq v; rw [h]
@[simp] theorem State.asked_signal (s : State) (v : Nat) : (s.signal v).asked = s.asked := by obtain ⟨p, o, h⟩ := s.signal_eq v; rw [h]
@[simp] theorem State.latch_signal (s : State) (v : Nat) : (s.signal v).latch = s.latch := by obtain ⟨p, o, h⟩ := s.signal_eq v; rw [h]
@[simp] theorem State.ownSteps_signal (s : State) (v : Nat) : (s.signal v).ownSteps = s.ownSteps := by obtain ⟨p, o, h⟩ := s.signal_eq v; rw [h]
@[simp] theorem State.free_signal (s : State) (v : Nat) : (s.signal v).free = s.free := by obtain ⟨p, o, h⟩ := s.signal_eq v; rw [h]
@[simp] theorem State.pending_signal (s : State) (v : Nat) : (s.signal v).pending = s.pending := by obtain ⟨p, o, h⟩ := s.signal_eq v; rw [h]
@[simp] theorem State.mesh_signal (s : State) (v : Nat) : (s.signal v).die.mesh = s.die.mesh := by obtain ⟨p, o, h⟩ := s.signal_eq v; rw [h]
@[simp] theorem State.wakeQ_signal (s : State) (v : Nat) : (s.signal v).die.wakeQ = s.die.wakeQ := by obtain ⟨p, o, h⟩ := s.signal_eq v; rw [h]
@[simp] theorem State.jobStns_signal (s : State) (v : Nat) : (s.signal v).die.jobStns = s.die.jobStns := by obtain ⟨p, o, h⟩ := s.signal_eq v; rw [h]
@[simp] theorem State.jobStarted_signal (s : State) (v : Nat) : (s.signal v).die.jobStarted = s.die.jobStarted := by obtain ⟨p, o, h⟩ := s.signal_eq v; rw [h]
@[simp] theorem State.runSet_signal (s : State) (v : Nat) : (s.signal v).die.runSet = s.die.runSet := by obtain ⟨p, o, h⟩ := s.signal_eq v; rw [h]
@[simp] theorem State.colls_signal (s : State) (v : Nat) : (s.signal v).die.colls = s.die.colls := by obtain ⟨p, o, h⟩ := s.signal_eq v; rw [h]
@[simp] theorem State.xqs_signal (s : State) (v : Nat) : (s.signal v).die.xqs = s.die.xqs := by obtain ⟨p, o, h⟩ := s.signal_eq v; rw [h]
@[simp] theorem State.sess_signal (s : State) (v : Nat) : (s.signal v).die.sess = s.die.sess := by obtain ⟨p, o, h⟩ := s.signal_eq v; rw [h]
@[simp] theorem State.net_signal (s : State) (v : Nat) : (s.signal v).die.net = s.die.net := by obtain ⟨p, o, h⟩ := s.signal_eq v; rw [h]
@[simp] theorem State.gov_signal (s : State) (v : Nat) : (s.signal v).die.gov = s.die.gov := by obtain ⟨p, o, h⟩ := s.signal_eq v; rw [h]
@[simp] theorem State.links_signal (s : State) (v : Nat) : (s.signal v).die.links = s.die.links := by obtain ⟨p, o, h⟩ := s.signal_eq v; rw [h]
@[simp] theorem State.job_signal (s : State) (v : Nat) : (s.signal v).die.job = s.die.job := by obtain ⟨p, o, h⟩ := s.signal_eq v; rw [h]
@[simp] theorem State.rwo_signal (s : State) (v : Nat) : (s.signal v).die.rwo = s.die.rwo := by obtain ⟨p, o, h⟩ := s.signal_eq v; rw [h]
@[simp] theorem State.polled_signal (s : State) (v : Nat) : (s.signal v).die.polled = s.die.polled := by obtain ⟨p, o, h⟩ := s.signal_eq v; rw [h]
@[simp] theorem State.eids_signal (s : State) (v : Nat) : (s.signal v).die.eids = s.die.eids := by obtain ⟨p, o, h⟩ := s.signal_eq v; rw [h]
@[simp] theorem State.refresh_signal (s : State) (v : Nat) : (s.signal v).die.refresh = s.die.refresh := by obtain ⟨p, o, h⟩ := s.signal_eq v; rw [h]
@[simp] theorem State.pdown_signal (s : State) (v : Nat) : (s.signal v).die.pdown = s.die.pdown := by obtain ⟨p, o, h⟩ := s.signal_eq v; rw [h]
@[simp] theorem State.hops_signal (s : State) (v : Nat) : (s.signal v).die.hops = s.die.hops := by obtain ⟨p, o, h⟩ := s.signal_eq v; rw [h]
@[simp] theorem State.lpddr_setRegs (s : State) (a : Nat) (l : List Word) : (s.setRegs a l).lpddr = s.lpddr := by obtain ⟨r, q, h⟩ := s.setRegs_eq a l; rw [h]
@[simp] theorem State.poison_setRegs (s : State) (a : Nat) (l : List Word) : (s.setRegs a l).poison = s.poison := by obtain ⟨r, q, h⟩ := s.setRegs_eq a l; rw [h]
@[simp] theorem State.images_setRegs (s : State) (a : Nat) (l : List Word) : (s.setRegs a l).images = s.images := by obtain ⟨r, q, h⟩ := s.setRegs_eq a l; rw [h]
@[simp] theorem State.snapHalf_setRegs (s : State) (a : Nat) (l : List Word) : (s.setRegs a l).snapHalf = s.snapHalf := by obtain ⟨r, q, h⟩ := s.setRegs_eq a l; rw [h]
@[simp] theorem State.memWait_setRegs (s : State) (a : Nat) (l : List Word) : (s.setRegs a l).memWait = s.memWait := by obtain ⟨r, q, h⟩ := s.setRegs_eq a l; rw [h]
@[simp] theorem State.uptime_setRegs (s : State) (a : Nat) (l : List Word) : (s.setRegs a l).uptime = s.uptime := by obtain ⟨r, q, h⟩ := s.setRegs_eq a l; rw [h]
@[simp] theorem State.powered_setRegs (s : State) (a : Nat) (l : List Word) : (s.setRegs a l).powered = s.powered := by obtain ⟨r, q, h⟩ := s.setRegs_eq a l; rw [h]
@[simp] theorem State.l480_setRegs (s : State) (a : Nat) (l : List Word) : (s.setRegs a l).l480 = s.l480 := by obtain ⟨r, q, h⟩ := s.setRegs_eq a l; rw [h]
@[simp] theorem State.snaps_setRegs (s : State) (a : Nat) (l : List Word) : (s.setRegs a l).snaps = s.snaps := by obtain ⟨r, q, h⟩ := s.setRegs_eq a l; rw [h]
@[simp] theorem State.snapOut_setRegs (s : State) (a : Nat) (l : List Word) : (s.setRegs a l).snapOut = s.snapOut := by obtain ⟨r, q, h⟩ := s.setRegs_eq a l; rw [h]
@[simp] theorem State.spill_setRegs (s : State) (a : Nat) (l : List Word) : (s.setRegs a l).spill = s.spill := by obtain ⟨r, q, h⟩ := s.setRegs_eq a l; rw [h]
@[simp] theorem State.haltLog_setRegs (s : State) (a : Nat) (l : List Word) : (s.setRegs a l).haltLog = s.haltLog := by obtain ⟨r, q, h⟩ := s.setRegs_eq a l; rw [h]
@[simp] theorem State.flash_setRegs (s : State) (a : Nat) (l : List Word) : (s.setRegs a l).flash = s.flash := by obtain ⟨r, q, h⟩ := s.setRegs_eq a l; rw [h]
@[simp] theorem State.fuses_setRegs (s : State) (a : Nat) (l : List Word) : (s.setRegs a l).fuses = s.fuses := by obtain ⟨r, q, h⟩ := s.setRegs_eq a l; rw [h]
@[simp] theorem State.plan_setRegs (s : State) (a : Nat) (l : List Word) : (s.setRegs a l).plan = s.plan := by obtain ⟨r, q, h⟩ := s.setRegs_eq a l; rw [h]
@[simp] theorem State.image_setRegs (s : State) (a : Nat) (l : List Word) : (s.setRegs a l).image = s.image := by obtain ⟨r, q, h⟩ := s.setRegs_eq a l; rw [h]
@[simp] theorem State.meas_setRegs (s : State) (a : Nat) (l : List Word) : (s.setRegs a l).meas = s.meas := by obtain ⟨r, q, h⟩ := s.setRegs_eq a l; rw [h]
@[simp] theorem State.mbx_setRegs (s : State) (a : Nat) (l : List Word) : (s.setRegs a l).mbx = s.mbx := by obtain ⟨r, q, h⟩ := s.setRegs_eq a l; rw [h]
@[simp] theorem State.cart_setRegs (s : State) (a : Nat) (l : List Word) : (s.setRegs a l).cart = s.cart := by obtain ⟨r, q, h⟩ := s.setRegs_eq a l; rw [h]
@[simp] theorem State.sup_setRegs (s : State) (a : Nat) (l : List Word) : (s.setRegs a l).sup = s.sup := by obtain ⟨r, q, h⟩ := s.setRegs_eq a l; rw [h]
@[simp] theorem State.asked_setRegs (s : State) (a : Nat) (l : List Word) : (s.setRegs a l).asked = s.asked := by obtain ⟨r, q, h⟩ := s.setRegs_eq a l; rw [h]
@[simp] theorem State.latch_setRegs (s : State) (a : Nat) (l : List Word) : (s.setRegs a l).latch = s.latch := by obtain ⟨r, q, h⟩ := s.setRegs_eq a l; rw [h]
@[simp] theorem State.ownSteps_setRegs (s : State) (a : Nat) (l : List Word) : (s.setRegs a l).ownSteps = s.ownSteps := by obtain ⟨r, q, h⟩ := s.setRegs_eq a l; rw [h]
@[simp] theorem State.out_setRegs (s : State) (a : Nat) (l : List Word) : (s.setRegs a l).out = s.out := by obtain ⟨r, q, h⟩ := s.setRegs_eq a l; rw [h]
@[simp] theorem State.free_setRegs (s : State) (a : Nat) (l : List Word) : (s.setRegs a l).free = s.free := by obtain ⟨r, q, h⟩ := s.setRegs_eq a l; rw [h]
@[simp] theorem State.pending_setRegs (s : State) (a : Nat) (l : List Word) : (s.setRegs a l).pending = s.pending := by obtain ⟨r, q, h⟩ := s.setRegs_eq a l; rw [h]
@[simp] theorem State.mesh_setRegs (s : State) (a : Nat) (l : List Word) : (s.setRegs a l).die.mesh = s.die.mesh := by obtain ⟨r, q, h⟩ := s.setRegs_eq a l; rw [h]
@[simp] theorem State.wakeQ_setRegs (s : State) (a : Nat) (l : List Word) : (s.setRegs a l).die.wakeQ = s.die.wakeQ := by obtain ⟨r, q, h⟩ := s.setRegs_eq a l; rw [h]
@[simp] theorem State.pcie_setRegs (s : State) (a : Nat) (l : List Word) : (s.setRegs a l).die.pcie = s.die.pcie := by obtain ⟨r, q, h⟩ := s.setRegs_eq a l; rw [h]
@[simp] theorem State.jobStns_setRegs (s : State) (a : Nat) (l : List Word) : (s.setRegs a l).die.jobStns = s.die.jobStns := by obtain ⟨r, q, h⟩ := s.setRegs_eq a l; rw [h]
@[simp] theorem State.jobStarted_setRegs (s : State) (a : Nat) (l : List Word) : (s.setRegs a l).die.jobStarted = s.die.jobStarted := by obtain ⟨r, q, h⟩ := s.setRegs_eq a l; rw [h]
@[simp] theorem State.runSet_setRegs (s : State) (a : Nat) (l : List Word) : (s.setRegs a l).die.runSet = s.die.runSet := by obtain ⟨r, q, h⟩ := s.setRegs_eq a l; rw [h]
@[simp] theorem State.colls_setRegs (s : State) (a : Nat) (l : List Word) : (s.setRegs a l).die.colls = s.die.colls := by obtain ⟨r, q, h⟩ := s.setRegs_eq a l; rw [h]
@[simp] theorem State.xqs_setRegs (s : State) (a : Nat) (l : List Word) : (s.setRegs a l).die.xqs = s.die.xqs := by obtain ⟨r, q, h⟩ := s.setRegs_eq a l; rw [h]
@[simp] theorem State.sess_setRegs (s : State) (a : Nat) (l : List Word) : (s.setRegs a l).die.sess = s.die.sess := by obtain ⟨r, q, h⟩ := s.setRegs_eq a l; rw [h]
@[simp] theorem State.net_setRegs (s : State) (a : Nat) (l : List Word) : (s.setRegs a l).die.net = s.die.net := by obtain ⟨r, q, h⟩ := s.setRegs_eq a l; rw [h]
@[simp] theorem State.gov_setRegs (s : State) (a : Nat) (l : List Word) : (s.setRegs a l).die.gov = s.die.gov := by obtain ⟨r, q, h⟩ := s.setRegs_eq a l; rw [h]
@[simp] theorem State.links_setRegs (s : State) (a : Nat) (l : List Word) : (s.setRegs a l).die.links = s.die.links := by obtain ⟨r, q, h⟩ := s.setRegs_eq a l; rw [h]
@[simp] theorem State.job_setRegs (s : State) (a : Nat) (l : List Word) : (s.setRegs a l).die.job = s.die.job := by obtain ⟨r, q, h⟩ := s.setRegs_eq a l; rw [h]
@[simp] theorem State.rwo_setRegs (s : State) (a : Nat) (l : List Word) : (s.setRegs a l).die.rwo = s.die.rwo := by obtain ⟨r, q, h⟩ := s.setRegs_eq a l; rw [h]
@[simp] theorem State.polled_setRegs (s : State) (a : Nat) (l : List Word) : (s.setRegs a l).die.polled = s.die.polled := by obtain ⟨r, q, h⟩ := s.setRegs_eq a l; rw [h]
@[simp] theorem State.eids_setRegs (s : State) (a : Nat) (l : List Word) : (s.setRegs a l).die.eids = s.die.eids := by obtain ⟨r, q, h⟩ := s.setRegs_eq a l; rw [h]
@[simp] theorem State.refresh_setRegs (s : State) (a : Nat) (l : List Word) : (s.setRegs a l).die.refresh = s.die.refresh := by obtain ⟨r, q, h⟩ := s.setRegs_eq a l; rw [h]
@[simp] theorem State.pdown_setRegs (s : State) (a : Nat) (l : List Word) : (s.setRegs a l).die.pdown = s.die.pdown := by obtain ⟨r, q, h⟩ := s.setRegs_eq a l; rw [h]
@[simp] theorem State.hops_setRegs (s : State) (a : Nat) (l : List Word) : (s.setRegs a l).die.hops = s.die.hops := by obtain ⟨r, q, h⟩ := s.setRegs_eq a l; rw [h]
@[simp] theorem State.lpddr_logFault (s : State) (c p u : Nat) (d : Word) (e : BitVec 64) : (s.logFault c p u d e).lpddr = s.lpddr := by obtain ⟨r, q, x, o, h⟩ := s.logFault_eq c p u d e; rw [h]
@[simp] theorem State.poison_logFault (s : State) (c p u : Nat) (d : Word) (e : BitVec 64) : (s.logFault c p u d e).poison = s.poison := by obtain ⟨r, q, x, o, h⟩ := s.logFault_eq c p u d e; rw [h]
@[simp] theorem State.images_logFault (s : State) (c p u : Nat) (d : Word) (e : BitVec 64) : (s.logFault c p u d e).images = s.images := by obtain ⟨r, q, x, o, h⟩ := s.logFault_eq c p u d e; rw [h]
@[simp] theorem State.snapHalf_logFault (s : State) (c p u : Nat) (d : Word) (e : BitVec 64) : (s.logFault c p u d e).snapHalf = s.snapHalf := by obtain ⟨r, q, x, o, h⟩ := s.logFault_eq c p u d e; rw [h]
@[simp] theorem State.memWait_logFault (s : State) (c p u : Nat) (d : Word) (e : BitVec 64) : (s.logFault c p u d e).memWait = s.memWait := by obtain ⟨r, q, x, o, h⟩ := s.logFault_eq c p u d e; rw [h]
@[simp] theorem State.uptime_logFault (s : State) (c p u : Nat) (d : Word) (e : BitVec 64) : (s.logFault c p u d e).uptime = s.uptime := by obtain ⟨r, q, x, o, h⟩ := s.logFault_eq c p u d e; rw [h]
@[simp] theorem State.powered_logFault (s : State) (c p u : Nat) (d : Word) (e : BitVec 64) : (s.logFault c p u d e).powered = s.powered := by obtain ⟨r, q, x, o, h⟩ := s.logFault_eq c p u d e; rw [h]
@[simp] theorem State.l480_logFault (s : State) (c p u : Nat) (d : Word) (e : BitVec 64) : (s.logFault c p u d e).l480 = s.l480 := by obtain ⟨r, q, x, o, h⟩ := s.logFault_eq c p u d e; rw [h]
@[simp] theorem State.snaps_logFault (s : State) (c p u : Nat) (d : Word) (e : BitVec 64) : (s.logFault c p u d e).snaps = s.snaps := by obtain ⟨r, q, x, o, h⟩ := s.logFault_eq c p u d e; rw [h]
@[simp] theorem State.snapOut_logFault (s : State) (c p u : Nat) (d : Word) (e : BitVec 64) : (s.logFault c p u d e).snapOut = s.snapOut := by obtain ⟨r, q, x, o, h⟩ := s.logFault_eq c p u d e; rw [h]
@[simp] theorem State.spill_logFault (s : State) (c p u : Nat) (d : Word) (e : BitVec 64) : (s.logFault c p u d e).spill = s.spill := by obtain ⟨r, q, x, o, h⟩ := s.logFault_eq c p u d e; rw [h]
@[simp] theorem State.haltLog_logFault (s : State) (c p u : Nat) (d : Word) (e : BitVec 64) : (s.logFault c p u d e).haltLog = s.haltLog := by obtain ⟨r, q, x, o, h⟩ := s.logFault_eq c p u d e; rw [h]
@[simp] theorem State.flash_logFault (s : State) (c p u : Nat) (d : Word) (e : BitVec 64) : (s.logFault c p u d e).flash = s.flash := by obtain ⟨r, q, x, o, h⟩ := s.logFault_eq c p u d e; rw [h]
@[simp] theorem State.fuses_logFault (s : State) (c p u : Nat) (d : Word) (e : BitVec 64) : (s.logFault c p u d e).fuses = s.fuses := by obtain ⟨r, q, x, o, h⟩ := s.logFault_eq c p u d e; rw [h]
@[simp] theorem State.plan_logFault (s : State) (c p u : Nat) (d : Word) (e : BitVec 64) : (s.logFault c p u d e).plan = s.plan := by obtain ⟨r, q, x, o, h⟩ := s.logFault_eq c p u d e; rw [h]
@[simp] theorem State.image_logFault (s : State) (c p u : Nat) (d : Word) (e : BitVec 64) : (s.logFault c p u d e).image = s.image := by obtain ⟨r, q, x, o, h⟩ := s.logFault_eq c p u d e; rw [h]
@[simp] theorem State.meas_logFault (s : State) (c p u : Nat) (d : Word) (e : BitVec 64) : (s.logFault c p u d e).meas = s.meas := by obtain ⟨r, q, x, o, h⟩ := s.logFault_eq c p u d e; rw [h]
@[simp] theorem State.mbx_logFault (s : State) (c p u : Nat) (d : Word) (e : BitVec 64) : (s.logFault c p u d e).mbx = s.mbx := by obtain ⟨r, q, x, o, h⟩ := s.logFault_eq c p u d e; rw [h]
@[simp] theorem State.cart_logFault (s : State) (c p u : Nat) (d : Word) (e : BitVec 64) : (s.logFault c p u d e).cart = s.cart := by obtain ⟨r, q, x, o, h⟩ := s.logFault_eq c p u d e; rw [h]
@[simp] theorem State.sup_logFault (s : State) (c p u : Nat) (d : Word) (e : BitVec 64) : (s.logFault c p u d e).sup = s.sup := by obtain ⟨r, q, x, o, h⟩ := s.logFault_eq c p u d e; rw [h]
@[simp] theorem State.asked_logFault (s : State) (c p u : Nat) (d : Word) (e : BitVec 64) : (s.logFault c p u d e).asked = s.asked := by obtain ⟨r, q, x, o, h⟩ := s.logFault_eq c p u d e; rw [h]
@[simp] theorem State.latch_logFault (s : State) (c p u : Nat) (d : Word) (e : BitVec 64) : (s.logFault c p u d e).latch = s.latch := by obtain ⟨r, q, x, o, h⟩ := s.logFault_eq c p u d e; rw [h]
@[simp] theorem State.ownSteps_logFault (s : State) (c p u : Nat) (d : Word) (e : BitVec 64) : (s.logFault c p u d e).ownSteps = s.ownSteps := by obtain ⟨r, q, x, o, h⟩ := s.logFault_eq c p u d e; rw [h]
@[simp] theorem State.free_logFault (s : State) (c p u : Nat) (d : Word) (e : BitVec 64) : (s.logFault c p u d e).free = s.free := by obtain ⟨r, q, x, o, h⟩ := s.logFault_eq c p u d e; rw [h]
@[simp] theorem State.pending_logFault (s : State) (c p u : Nat) (d : Word) (e : BitVec 64) : (s.logFault c p u d e).pending = s.pending := by obtain ⟨r, q, x, o, h⟩ := s.logFault_eq c p u d e; rw [h]
@[simp] theorem State.mesh_logFault (s : State) (c p u : Nat) (d : Word) (e : BitVec 64) : (s.logFault c p u d e).die.mesh = s.die.mesh := by obtain ⟨r, q, x, o, h⟩ := s.logFault_eq c p u d e; rw [h]
@[simp] theorem State.wakeQ_logFault (s : State) (c p u : Nat) (d : Word) (e : BitVec 64) : (s.logFault c p u d e).die.wakeQ = s.die.wakeQ := by obtain ⟨r, q, x, o, h⟩ := s.logFault_eq c p u d e; rw [h]
@[simp] theorem State.jobStns_logFault (s : State) (c p u : Nat) (d : Word) (e : BitVec 64) : (s.logFault c p u d e).die.jobStns = s.die.jobStns := by obtain ⟨r, q, x, o, h⟩ := s.logFault_eq c p u d e; rw [h]
@[simp] theorem State.jobStarted_logFault (s : State) (c p u : Nat) (d : Word) (e : BitVec 64) : (s.logFault c p u d e).die.jobStarted = s.die.jobStarted := by obtain ⟨r, q, x, o, h⟩ := s.logFault_eq c p u d e; rw [h]
@[simp] theorem State.runSet_logFault (s : State) (c p u : Nat) (d : Word) (e : BitVec 64) : (s.logFault c p u d e).die.runSet = s.die.runSet := by obtain ⟨r, q, x, o, h⟩ := s.logFault_eq c p u d e; rw [h]
@[simp] theorem State.colls_logFault (s : State) (c p u : Nat) (d : Word) (e : BitVec 64) : (s.logFault c p u d e).die.colls = s.die.colls := by obtain ⟨r, q, x, o, h⟩ := s.logFault_eq c p u d e; rw [h]
@[simp] theorem State.xqs_logFault (s : State) (c p u : Nat) (d : Word) (e : BitVec 64) : (s.logFault c p u d e).die.xqs = s.die.xqs := by obtain ⟨r, q, x, o, h⟩ := s.logFault_eq c p u d e; rw [h]
@[simp] theorem State.sess_logFault (s : State) (c p u : Nat) (d : Word) (e : BitVec 64) : (s.logFault c p u d e).die.sess = s.die.sess := by obtain ⟨r, q, x, o, h⟩ := s.logFault_eq c p u d e; rw [h]
@[simp] theorem State.net_logFault (s : State) (c p u : Nat) (d : Word) (e : BitVec 64) : (s.logFault c p u d e).die.net = s.die.net := by obtain ⟨r, q, x, o, h⟩ := s.logFault_eq c p u d e; rw [h]
@[simp] theorem State.gov_logFault (s : State) (c p u : Nat) (d : Word) (e : BitVec 64) : (s.logFault c p u d e).die.gov = s.die.gov := by obtain ⟨r, q, x, o, h⟩ := s.logFault_eq c p u d e; rw [h]
@[simp] theorem State.links_logFault (s : State) (c p u : Nat) (d : Word) (e : BitVec 64) : (s.logFault c p u d e).die.links = s.die.links := by obtain ⟨r, q, x, o, h⟩ := s.logFault_eq c p u d e; rw [h]
@[simp] theorem State.job_logFault (s : State) (c p u : Nat) (d : Word) (e : BitVec 64) : (s.logFault c p u d e).die.job = s.die.job := by obtain ⟨r, q, x, o, h⟩ := s.logFault_eq c p u d e; rw [h]
@[simp] theorem State.rwo_logFault (s : State) (c p u : Nat) (d : Word) (e : BitVec 64) : (s.logFault c p u d e).die.rwo = s.die.rwo := by obtain ⟨r, q, x, o, h⟩ := s.logFault_eq c p u d e; rw [h]
@[simp] theorem State.polled_logFault (s : State) (c p u : Nat) (d : Word) (e : BitVec 64) : (s.logFault c p u d e).die.polled = s.die.polled := by obtain ⟨r, q, x, o, h⟩ := s.logFault_eq c p u d e; rw [h]
@[simp] theorem State.eids_logFault (s : State) (c p u : Nat) (d : Word) (e : BitVec 64) : (s.logFault c p u d e).die.eids = s.die.eids := by obtain ⟨r, q, x, o, h⟩ := s.logFault_eq c p u d e; rw [h]
@[simp] theorem State.refresh_logFault (s : State) (c p u : Nat) (d : Word) (e : BitVec 64) : (s.logFault c p u d e).die.refresh = s.die.refresh := by obtain ⟨r, q, x, o, h⟩ := s.logFault_eq c p u d e; rw [h]
@[simp] theorem State.pdown_logFault (s : State) (c p u : Nat) (d : Word) (e : BitVec 64) : (s.logFault c p u d e).die.pdown = s.die.pdown := by obtain ⟨r, q, x, o, h⟩ := s.logFault_eq c p u d e; rw [h]
@[simp] theorem State.hops_logFault (s : State) (c p u : Nat) (d : Word) (e : BitVec 64) : (s.logFault c p u d e).die.hops = s.die.hops := by obtain ⟨r, q, x, o, h⟩ := s.logFault_eq c p u d e; rw [h]

end Sys2Proof.Machine
end

