-- ==== Sys2Proof/Laws/Station.lean ====
section
/-! SUPPORT. What the shared updates of a station leave alone, and what becomes of its flights. -/
set_option linter.all false
namespace Sys2Proof.Machine

@[simp] theorem Station.sb_setFlight (x : Station) (g : Flight) : (x.setFlight g).sb = x.sb := rfl
@[simp] theorem Station.pm_setFlight (x : Station) (g : Flight) : (x.setFlight g).pm = x.pm := rfl
@[simp] theorem Station.slots_setFlight (x : Station) (g : Flight) : (x.setFlight g).slots = x.slots := rfl
@[simp] theorem Station.banks_setFlight (x : Station) (g : Flight) : (x.setFlight g).banks = x.banks := rfl
@[simp] theorem Station.tokens_setFlight (x : Station) (g : Flight) : (x.setFlight g).tokens = x.tokens := rfl
@[simp] theorem Station.redq_setFlight (x : Station) (g : Flight) : (x.setFlight g).redq = x.redq := rfl
@[simp] theorem Station.arrive_setFlight (x : Station) (g : Flight) : (x.setFlight g).arrive = x.arrive := rfl
@[simp] theorem Station.routerHeld_setFlight (x : Station) (g : Flight) : (x.setFlight g).routerHeld = x.routerHeld := rfl
@[simp] theorem Station.result_setFlight (x : Station) (g : Flight) : (x.setFlight g).result = x.result := rfl
@[simp] theorem Station.disp_setFlight (x : Station) (g : Flight) : (x.setFlight g).disp = x.disp := rfl
@[simp] theorem Station.restart_setFlight (x : Station) (g : Flight) : (x.setFlight g).restart = x.restart := rfl
@[simp] theorem Station.nextRestart_setFlight (x : Station) (g : Flight) : (x.setFlight g).nextRestart = x.nextRestart := rfl
@[simp] theorem Station.step4_setFlight (x : Station) (g : Flight) : (x.setFlight g).step4 = x.step4 := rfl
@[simp] theorem Station.detour_setFlight (x : Station) (g : Flight) : (x.setFlight g).detour = x.detour := rfl
@[simp] theorem Station.reloads_setFlight (x : Station) (g : Flight) : (x.setFlight g).reloads = x.reloads := rfl
@[simp] theorem Station.reloadBuf_setFlight (x : Station) (g : Flight) : (x.setFlight g).reloadBuf = x.reloadBuf := rfl
@[simp] theorem Station.xopen_setFlight (x : Station) (g : Flight) : (x.setFlight g).xopen = x.xopen := rfl
@[simp] theorem Station.toReload_setFlight (x : Station) (g : Flight) : (x.setFlight g).toReload = x.toReload := rfl
@[simp] theorem Station.toFault_setFlight (x : Station) (g : Flight) : (x.setFlight g).toFault = x.toFault := rfl
@[simp] theorem Station.got_setFlight (x : Station) (g : Flight) : (x.setFlight g).got = x.got := rfl
@[simp] theorem Station.ctl_setFlight (x : Station) (g : Flight) : (x.setFlight g).ctl = x.ctl := rfl
@[simp] theorem Station.ledger_setFlight (x : Station) (g : Flight) : (x.setFlight g).ledger = x.ledger := rfl
@[simp] theorem Station.iss_queue_setFlight (x : Station) (g : Flight) : (x.setFlight g).iss.queue = x.iss.queue := rfl
@[simp] theorem Station.iss_fifo_setFlight (x : Station) (g : Flight) : (x.setFlight g).iss.fifo = x.iss.fifo := rfl
@[simp] theorem Station.iss_next_setFlight (x : Station) (g : Flight) : (x.setFlight g).iss.next = x.iss.next := rfl
@[simp] theorem Station.iss_posted_setFlight (x : Station) (g : Flight) : (x.setFlight g).iss.posted = x.iss.posted := rfl
@[simp] theorem Station.iss_stagger_setFlight (x : Station) (g : Flight) : (x.setFlight g).iss.stagger = x.iss.stagger := rfl
@[simp] theorem Station.iss_phase_setFlight (x : Station) (g : Flight) : (x.setFlight g).iss.phase = x.iss.phase := rfl
@[simp] theorem Station.iss_account_setFlight (x : Station) (g : Flight) : (x.setFlight g).iss.account = x.iss.account := rfl
@[simp] theorem Station.iss_spent_setFlight (x : Station) (g : Flight) : (x.setFlight g).iss.spent = x.iss.spent := rfl
@[simp] theorem Station.sb_settle (x : Station) : (x.settle).sb = x.sb := by unfold Station.settle; split <;> rfl
@[simp] theorem Station.pm_settle (x : Station) : (x.settle).pm = x.pm := by unfold Station.settle; split <;> rfl
@[simp] theorem Station.slots_settle (x : Station) : (x.settle).slots = x.slots := by unfold Station.settle; split <;> rfl
@[simp] theorem Station.banks_settle (x : Station) : (x.settle).banks = x.banks := by unfold Station.settle; split <;> rfl
@[simp] theorem Station.tokens_settle (x : Station) : (x.settle).tokens = x.tokens := by unfold Station.settle; split <;> rfl
@[simp] theorem Station.redq_settle (x : Station) : (x.settle).redq = x.redq := by unfold Station.settle; split <;> rfl
@[simp] theorem Station.arrive_settle (x : Station) : (x.settle).arrive = x.arrive := by unfold Station.settle; split <;> rfl
@[simp] theorem Station.routerHeld_settle (x : Station) : (x.settle).routerHeld = x.routerHeld := by unfold Station.settle; split <;> rfl
@[simp] theorem Station.result_settle (x : Station) : (x.settle).result = x.result := by unfold Station.settle; split <;> rfl
@[simp] theorem Station.disp_settle (x : Station) : (x.settle).disp = x.disp := by unfold Station.settle; split <;> rfl
@[simp] theorem Station.restart_settle (x : Station) : (x.settle).restart = x.restart := by unfold Station.settle; split <;> rfl
@[simp] theorem Station.nextRestart_settle (x : Station) : (x.settle).nextRestart = x.nextRestart := by unfold Station.settle; split <;> rfl
@[simp] theorem Station.step4_settle (x : Station) : (x.settle).step4 = x.step4 := by unfold Station.settle; split <;> rfl
@[simp] theorem Station.detour_settle (x : Station) : (x.settle).detour = x.detour := by unfold Station.settle; split <;> rfl
@[simp] theorem Station.reloads_settle (x : Station) : (x.settle).reloads = x.reloads := by unfold Station.settle; split <;> rfl
@[simp] theorem Station.reloadBuf_settle (x : Station) : (x.settle).reloadBuf = x.reloadBuf := by unfold Station.settle; split <;> rfl
@[simp] theorem Station.xopen_settle (x : Station) : (x.settle).xopen = x.xopen := by unfold Station.settle; split <;> rfl
@[simp] theorem Station.toReload_settle (x : Station) : (x.settle).toReload = x.toReload := by unfold Station.settle; split <;> rfl
@[simp] theorem Station.toFault_settle (x : Station) : (x.settle).toFault = x.toFault := by unfold Station.settle; split <;> rfl
@[simp] theorem Station.got_settle (x : Station) : (x.settle).got = x.got := by unfold Station.settle; split <;> rfl
@[simp] theorem Station.ledger_settle (x : Station) : (x.settle).ledger = x.ledger := by unfold Station.settle; split <;> rfl
@[simp] theorem Station.iss_queue_settle (x : Station) : (x.settle).iss.queue = x.iss.queue := by unfold Station.settle; split <;> rfl
@[simp] theorem Station.iss_fifo_settle (x : Station) : (x.settle).iss.fifo = x.iss.fifo := by unfold Station.settle; split <;> rfl
@[simp] theorem Station.iss_next_settle (x : Station) : (x.settle).iss.next = x.iss.next := by unfold Station.settle; split <;> rfl
@[simp] theorem Station.iss_posted_settle (x : Station) : (x.settle).iss.posted = x.iss.posted := by unfold Station.settle; split <;> rfl
@[simp] theorem Station.iss_stagger_settle (x : Station) : (x.settle).iss.stagger = x.iss.stagger := by unfold Station.settle; split <;> rfl
@[simp] theorem Station.iss_phase_settle (x : Station) : (x.settle).iss.phase = x.iss.phase := by unfold Station.settle; split <;> rfl
@[simp] theorem Station.iss_account_settle (x : Station) : (x.settle).iss.account = x.iss.account := by unfold Station.settle; split <;> rfl
@[simp] theorem Station.iss_spent_settle (x : Station) : (x.settle).iss.spent = x.iss.spent := by unfold Station.settle; split <;> rfl
@[simp] theorem Station.flight_settle (x : Station) : x.settle.iss.flight = x.iss.flight := by unfold Station.settle; split <;> rfl
@[simp] theorem Station.sb_guardDone (x : Station) (g : Option (Nat × Nat)) : (x.guardDone g).sb = x.sb := by unfold Station.guardDone; split <;> rfl
@[simp] theorem Station.pm_guardDone (x : Station) (g : Option (Nat × Nat)) : (x.guardDone g).pm = x.pm := by unfold Station.guardDone; split <;> rfl
@[simp] theorem Station.slots_guardDone (x : Station) (g : Option (Nat × Nat)) : (x.guardDone g).slots = x.slots := by unfold Station.guardDone; split <;> rfl
@[simp] theorem Station.banks_guardDone (x : Station) (g : Option (Nat × Nat)) : (x.guardDone g).banks = x.banks := by unfold Station.guardDone; split <;> rfl
@[simp] theorem Station.tokens_guardDone (x : Station) (g : Option (Nat × Nat)) : (x.guardDone g).tokens = x.tokens := by unfold Station.guardDone; split <;> rfl
@[simp] theorem Station.redq_guardDone (x : Station) (g : Option (Nat × Nat)) : (x.guardDone g).redq = x.redq := by unfold Station.guardDone; split <;> rfl
@[simp] theorem Station.arrive_guardDone (x : Station) (g : Option (Nat × Nat)) : (x.guardDone g).arrive = x.arrive := by unfold Station.guardDone; split <;> rfl
@[simp] theorem Station.routerHeld_guardDone (x : Station) (g : Option (Nat × Nat)) : (x.guardDone g).routerHeld = x.routerHeld := by unfold Station.guardDone; split <;> rfl
@[simp] theorem Station.result_guardDone (x : Station) (g : Option (Nat × Nat)) : (x.guardDone g).result = x.result := by unfold Station.guardDone; split <;> rfl
@[simp] theorem Station.disp_guardDone (x : Station) (g : Option (Nat × Nat)) : (x.guardDone g).disp = x.disp := by unfold Station.guardDone; split <;> rfl
@[simp] theorem Station.restart_guardDone (x : Station) (g : Option (Nat × Nat)) : (x.guardDone g).restart = x.restart := by unfold Station.guardDone; split <;> rfl
@[simp] theorem Station.nextRestart_guardDone (x : Station) (g : Option (Nat × Nat)) : (x.guardDone g).nextRestart = x.nextRestart := by unfold Station.guardDone; split <;> rfl
@[simp] theorem Station.step4_guardDone (x : Station) (g : Option (Nat × Nat)) : (x.guardDone g).step4 = x.step4 := by unfold Station.guardDone; split <;> rfl
@[simp] theorem Station.detour_guardDone (x : Station) (g : Option (Nat × Nat)) : (x.guardDone g).detour = x.detour := by unfold Station.guardDone; split <;> rfl
@[simp] theorem Station.reloads_guardDone (x : Station) (g : Option (Nat × Nat)) : (x.guardDone g).reloads = x.reloads := by unfold Station.guardDone; split <;> rfl
@[simp] theorem Station.reloadBuf_guardDone (x : Station) (g : Option (Nat × Nat)) : (x.guardDone g).reloadBuf = x.reloadBuf := by unfold Station.guardDone; split <;> rfl
@[simp] theorem Station.xopen_guardDone (x : Station) (g : Option (Nat × Nat)) : (x.guardDone g).xopen = x.xopen := by unfold Station.guardDone; split <;> rfl
@[simp] theorem Station.toReload_guardDone (x : Station) (g : Option (Nat × Nat)) : (x.guardDone g).toReload = x.toReload := by unfold Station.guardDone; split <;> rfl
@[simp] theorem Station.toFault_guardDone (x : Station) (g : Option (Nat × Nat)) : (x.guardDone g).toFault = x.toFault := by unfold Station.guardDone; split <;> rfl
@[simp] theorem Station.got_guardDone (x : Station) (g : Option (Nat × Nat)) : (x.guardDone g).got = x.got := by unfold Station.guardDone; split <;> rfl
@[simp] theorem Station.ctl_guardDone (x : Station) (g : Option (Nat × Nat)) : (x.guardDone g).ctl = x.ctl := by unfold Station.guardDone; split <;> rfl
@[simp] theorem Station.iss_queue_guardDone (x : Station) (g : Option (Nat × Nat)) : (x.guardDone g).iss.queue = x.iss.queue := by unfold Station.guardDone; split <;> rfl
@[simp] theorem Station.iss_fifo_guardDone (x : Station) (g : Option (Nat × Nat)) : (x.guardDone g).iss.fifo = x.iss.fifo := by unfold Station.guardDone; split <;> rfl
@[simp] theorem Station.iss_next_guardDone (x : Station) (g : Option (Nat × Nat)) : (x.guardDone g).iss.next = x.iss.next := by unfold Station.guardDone; split <;> rfl
@[simp] theorem Station.iss_posted_guardDone (x : Station) (g : Option (Nat × Nat)) : (x.guardDone g).iss.posted = x.iss.posted := by unfold Station.guardDone; split <;> rfl
@[simp] theorem Station.iss_stagger_guardDone (x : Station) (g : Option (Nat × Nat)) : (x.guardDone g).iss.stagger = x.iss.stagger := by unfold Station.guardDone; split <;> rfl
@[simp] theorem Station.iss_phase_guardDone (x : Station) (g : Option (Nat × Nat)) : (x.guardDone g).iss.phase = x.iss.phase := by unfold Station.guardDone; split <;> rfl
@[simp] theorem Station.iss_account_guardDone (x : Station) (g : Option (Nat × Nat)) : (x.guardDone g).iss.account = x.iss.account := by unfold Station.guardDone; split <;> rfl
@[simp] theorem Station.iss_spent_guardDone (x : Station) (g : Option (Nat × Nat)) : (x.guardDone g).iss.spent = x.iss.spent := by unfold Station.guardDone; split <;> rfl
@[simp] theorem Station.flight_guardDone (x : Station) (g : Option (Nat × Nat)) : (x.guardDone g).iss.flight = x.iss.flight := by unfold Station.guardDone; split <;> rfl
@[simp] theorem Station.sb_complete (x : Station) (k : Nat) : (x.complete k).sb = x.sb := by unfold Station.complete; split <;> simp
@[simp] theorem Station.pm_complete (x : Station) (k : Nat) : (x.complete k).pm = x.pm := by unfold Station.complete; split <;> simp
@[simp] theorem Station.slots_complete (x : Station) (k : Nat) : (x.complete k).slots = x.slots := by unfold Station.complete; split <;> simp
@[simp] theorem Station.banks_complete (x : Station) (k : Nat) : (x.complete k).banks = x.banks := by unfold Station.complete; split <;> simp
@[simp] theorem Station.tokens_complete (x : Station) (k : Nat) : (x.complete k).tokens = x.tokens := by unfold Station.complete; split <;> simp
@[simp] theorem Station.redq_complete (x : Station) (k : Nat) : (x.complete k).redq = x.redq := by unfold Station.complete; split <;> simp
@[simp] theorem Station.arrive_complete (x : Station) (k : Nat) : (x.complete k).arrive = x.arrive := by unfold Station.complete; split <;> simp
@[simp] theorem Station.routerHeld_complete (x : Station) (k : Nat) : (x.complete k).routerHeld = x.routerHeld := by unfold Station.complete; split <;> simp
@[simp] theorem Station.result_complete (x : Station) (k : Nat) : (x.complete k).result = x.result := by unfold Station.complete; split <;> simp
@[simp] theorem Station.disp_complete (x : Station) (k : Nat) : (x.complete k).disp = x.disp := by unfold Station.complete; split <;> simp
@[simp] theorem Station.restart_complete (x : Station) (k : Nat) : (x.complete k).restart = x.restart := by unfold Station.complete; split <;> simp
@[simp] theorem Station.nextRestart_complete (x : Station) (k : Nat) : (x.complete k).nextRestart = x.nextRestart := by unfold Station.complete; split <;> simp
@[simp] theorem Station.step4_complete (x : Station) (k : Nat) : (x.complete k).step4 = x.step4 := by unfold Station.complete; split <;> simp
@[simp] theorem Station.detour_complete (x : Station) (k : Nat) : (x.complete k).detour = x.detour := by unfold Station.complete; split <;> simp
@[simp] theorem Station.reloads_complete (x : Station) (k : Nat) : (x.complete k).reloads = x.reloads := by unfold Station.complete; split <;> simp
@[simp] theorem Station.reloadBuf_complete (x : Station) (k : Nat) : (x.complete k).reloadBuf = x.reloadBuf := by unfold Station.complete; split <;> simp
@[simp] theorem Station.xopen_complete (x : Station) (k : Nat) : (x.complete k).xopen = x.xopen := by unfold Station.complete; split <;> simp
@[simp] theorem Station.toReload_complete (x : Station) (k : Nat) : (x.complete k).toReload = x.toReload := by unfold Station.complete; split <;> simp
@[simp] theorem Station.toFault_complete (x : Station) (k : Nat) : (x.complete k).toFault = x.toFault := by unfold Station.complete; split <;> simp
@[simp] theorem Station.got_complete (x : Station) (k : Nat) : (x.complete k).got = x.got := by unfold Station.complete; split <;> simp
@[simp] theorem Station.iss_queue_complete (x : Station) (k : Nat) : (x.complete k).iss.queue = x.iss.queue := by unfold Station.complete; split <;> simp
@[simp] theorem Station.iss_fifo_complete (x : Station) (k : Nat) : (x.complete k).iss.fifo = x.iss.fifo := by unfold Station.complete; split <;> simp
@[simp] theorem Station.iss_next_complete (x : Station) (k : Nat) : (x.complete k).iss.next = x.iss.next := by unfold Station.complete; split <;> simp
@[simp] theorem Station.iss_posted_complete (x : Station) (k : Nat) : (x.complete k).iss.posted = x.iss.posted := by unfold Station.complete; split <;> simp
@[simp] theorem Station.iss_stagger_complete (x : Station) (k : Nat) : (x.complete k).iss.stagger = x.iss.stagger := by unfold Station.complete; split <;> simp
@[simp] theorem Station.iss_phase_complete (x : Station) (k : Nat) : (x.complete k).iss.phase = x.iss.phase := by unfold Station.complete; split <;> simp
@[simp] theorem Station.iss_account_complete (x : Station) (k : Nat) : (x.complete k).iss.account = x.iss.account := by unfold Station.complete; split <;> simp
@[simp] theorem Station.iss_spent_complete (x : Station) (k : Nat) : (x.complete k).iss.spent = x.iss.spent := by unfold Station.complete; split <;> simp

/-- A completed instruction is in flight no more, and every other one stays. -/
theorem Station.flight_complete (x : Station) (k : Nat) : (x.complete k).iss.flight = x.iss.flight.filter (fun g => decide (g.seq ≠ k)) := by
  unfold Station.complete Station.flightOf
  split
  · rename_i h
    symm
    rw [List.filter_eq_self]
    intro g hg
    have := List.find?_eq_none.1 h g hg
    simpa using this
  · simp

@[simp] theorem Station.flightOf_complete (x : Station) (k : Nat) : (x.complete k).flightOf k = none := by
  simp only [Station.flightOf, Station.flight_complete, List.find?_eq_none]
  intro g hg
  simpa using (List.mem_filter.1 hg).2

/-- A flight found by number after a flight of that number is replaced. -/
theorem Station.flightOf_setFlight (x : Station) {f g : Flight} (h : f ∈ x.iss.flight) (hs : g.seq = f.seq) : (x.setFlight g).flightOf f.seq = some g := by
  unfold Station.flightOf Station.setFlight
  dsimp only
  generalize x.iss.flight = l at h
  induction l with
  | nil => cases h
  | cons a r ih =>
    simp only [List.map_cons, List.find?_cons]
    by_cases ha : a.seq = g.seq
    · simp [ha, hs]
    · have hne : a ≠ f := fun e => ha (by rw [e, hs])
      have hm : f ∈ r := by
        rcases List.mem_cons.1 h with e | e
        · exact absurd e.symm hne
        · exact e
      rw [if_neg ha]
      have : ¬ a.seq = f.seq := by rw [← hs]; exact ha
      simp only [this, decide_false]
      exact ih hm

theorem State.mem_headOf {s : State} {i : Nat} {u : PUnit} {f : Flight} (h : s.headOf i u = some f) : f ∈ (s.stn i).iss.flight ∧ f.stage = .issued := by
  unfold State.headOf at h
  dsimp only at h
  split at h
  · rename_i g hg
    split at h
    · cases h
    · cases h
      exact ⟨List.mem_of_find?_eq_some hg, by have := List.find?_some hg; simp at this; exact this.2⟩
  · cases h

theorem Station.mem_flightOf {x : Station} {k : Nat} {f : Flight} (h : x.flightOf k = some f) : f ∈ x.iss.flight ∧ f.seq = k :=
  ⟨List.mem_of_find?_eq_some h, by simpa using List.find?_some h⟩

@[simp] theorem Station.slot_setSlot (x : Station) (a b : Nat) (v : Slot) : (x.setSlot a v).slot b = if b = a then v else x.slot b := by
  simp [Station.slot, Station.setSlot, mget_mset]

/-- A field of the state other than stations is as before a station is replaced, and the reverse. -/
theorem OnlyChanges.setStn (s : State) (i : Nat) (x : Station) (r l : List Nat) (h : i ∈ l) : OnlyChanges s (s.setStn i x) r l :=
  ⟨fun _ _ => rfl, fun j hj => by
    have : j ≠ i := fun e => hj (e ▸ h)
    simp [this], rfl⟩

theorem OnlyChanges.bump {s t : State} {r l : List Nat} {a : Nat} (k : Nat) (h : OnlyChanges s t r l) (ha : a ∈ r) : OnlyChanges s (t.bump a k) r l :=
  ⟨fun b hb => by
    have : b ≠ a := fun e => hb (e ▸ ha)
    simp [this, h.1 b hb], fun j hj => by simp [h.2.1 j hj], by
    obtain ⟨q, p, e⟩ := t.setReg_eq a (satAdd (t.reg a) k)
    rw [State.bump, e]; exact h.2.2⟩

theorem OnlyChanges.trans {s t u : State} {r l : List Nat} (h : OnlyChanges s t r l) (k : OnlyChanges t u r l) : OnlyChanges s u r l :=
  ⟨fun a ha => (k.1 a ha).trans (h.1 a ha), fun j hj => (k.2.1 j hj).trans (h.2.1 j hj), k.2.2.trans h.2.2⟩

end Sys2Proof.Machine
end

