-- ==== Sys2Proof/Laws/Commands.lean ====
section
/-! SUPPORT. How a statement that a command runs is met, and the frame of the shared updates. -/
namespace Sys2Proof.Machine

theorem runs_of {c : Instr} {s t : State} {P : State → Prop} (h : exec c s = .next t) (hp : P t) : Runs c s P := ⟨t, h, hp⟩

@[simp] theorem State.core_setReg (s : State) (a : Nat) (v : Word) : (s.setReg a v).core = s.core := by
  obtain ⟨r, q, h⟩ := s.setReg_eq a v; rw [h]; rfl
@[simp] theorem State.core_setStn (s : State) (i : Nat) (x : Station) : (s.setStn i x).core = s.core := rfl
@[simp] theorem State.core_bump (s : State) (a k : Nat) : (s.bump a k).core = s.core := by simp [State.bump]
@[simp] theorem State.core_setFld (s : State) (a lo len v : Nat) : (s.setFld a lo len v).core = s.core := by simp [State.setFld]
@[simp] theorem State.core_setRegs (s : State) (a : Nat) (l : List Word) : (s.setRegs a l).core = s.core := by
  obtain ⟨r, q, h⟩ := s.setRegs_eq a l; rw [h]; rfl

@[simp] theorem OnlyChanges.refl (s : State) (r i : List Nat) : OnlyChanges s s r i := ⟨fun _ _ => rfl, fun _ _ => rfl, rfl⟩

/-- What a credit draw changes: the account, what is spent and what the instruction owes. -/
theorem State.draw_eq (s : State) (i cost : Nat) (f : Flight) :
    ∃ a b o, s.draw i cost f = s.setStn i (({ s.stn i with iss := { (s.stn i).iss with account := a, spent := b } } : Station).setFlight { f with owed := o }) := ⟨_, _, _, rfl⟩
@[simp] theorem detourParts_nil (i : Nat) (f : Flight) (o : Obs) (s : State) : detourParts i f o [] s = ⟨s, [], [], 0, none⟩ := rfl

/-- Counting refused requests changes the BCONF counters of the station alone. -/
theorem State.countRefused_only (i : Nat) (rs : List (Fin 5 × Nat)) (s : State) : OnlyChanges s (s.countRefused i rs) (obsRegs i) [] := by
  induction rs generalizing s with
  | nil => exact OnlyChanges.refl s _ _
  | cons p r ih =>
    refine OnlyChanges.trans ?_ (ih _)
    dsimp only
    split
    · exact OnlyChanges.refl s _ _
    · exact (OnlyChanges.refl s _ _).bump _ (List.mem_cons_of_mem _ (List.mem_map.mpr ⟨p.1.val, List.mem_range.mpr p.1.isLt, Nat.add_assoc _ _ _⟩))
/-- What a station port reads beside colliding writes changes BUSY and the count of free values alone. -/
theorem State.seen_only (s : State) (i : Nat) (clash : List Nat) :
    ∃ k, OnlyChanges { s with free := k } (s.seen i clash).2 (obsRegs i) [] := by
  unfold State.seen
  generalize clash.dedup = l
  suffices h : ∀ (l : List Nat) (a : SMap Byte × State), (∃ k, OnlyChanges { s with free := k } a.2 (obsRegs i) []) →
      ∃ k, OnlyChanges { s with free := k } (l.foldl (fun (a : SMap Byte × State) wd =>
        match a.2.clashWrite i wd with
        | none => a
        | some ws =>
          let (r, t) := a.2.fresh
          (mixWord a.1 ws r, t.countBusy i 1)) a).2 (obsRegs i) [] from h l _ ⟨s.free, OnlyChanges.refl s _ _⟩
  intro l
  induction l with
  | nil => exact fun a h => h
  | cons wd r ih =>
    intro a ⟨k, h⟩
    rw [List.foldl_cons]
    apply ih
    split
    · exact ⟨k, h⟩
    · refine ⟨a.2.free + 1, ?_⟩
      have e : OnlyChanges { s with free := a.2.free + 1 } a.2.fresh.2 (obsRegs i) [] :=
        ⟨h.1, h.2.1, congrArg (fun c : State => { c with free := a.2.free + 1 }) h.2.2⟩
      exact e.bump 1 (by simp [obsRegs])
/-- A pass on macros that are not faulted, whose banks agree and which no slip meets, computes a tile, whatever refused requests and collisions come with it. -/
theorem State.runPass_computes (s : State) (i : Nat) (f : Flight) (o : Obs) (hsl : slipAt (s.stn i) f o.slip = none)
    (hf : ∀ m ∈ mgrp f.word, bitAt (s.faultBits i) m = false)
    (ha : passAgrees f.word (((mgrp f.word).map (fun m => (s.stn i).bank m (bankOf f.word))).filter (fun b => !b.zero)) = true) :
    ∃ n need g, s.runPass i f o = (if n = 0 then ((s.countRefused i o.refused).seen i o.clash).2
        else ((s.countRefused i o.refused).seen i o.clash).2.pbump i 0x124 n).draw i need g ∧ g.seq = f.seq ∧ g.stage = .computed ∧ g.word = f.word ∧ g.tile.isSome = true := by
  obtain ⟨k, h⟩ := (s.countRefused i o.refused).seen_only i o.clash
  have h1 := State.countRefused_only i o.refused s
  have hx : ((s.countRefused i o.refused).seen i o.clash).2.stn i = s.stn i := (h.2.1 i (by simp)).trans (h1.2.1 i (by simp))
  have hr (a : Nat) (ha : a ∉ obsRegs i) : ((s.countRefused i o.refused).seen i o.clash).2.reg a = s.reg a := (h.1 a ha).trans (h1.1 a ha)
  have hb : ((s.countRefused i o.refused).seen i o.clash).2.faultBits i = s.faultBits i := by
    unfold State.faultBits State.preg
    rw [hr _ (by simp only [obsRegs, pageBase, List.mem_cons, List.mem_map, List.mem_range]; omega), hr _ (by simp only [obsRegs, pageBase, List.mem_cons, List.mem_map, List.mem_range]; omega)]
  unfold State.runPass
  dsimp only
  rw [hsl]
  generalize (s.countRefused i o.refused).seen i o.clash = p at hx hb ⊢
  obtain ⟨pm, s0⟩ := p
  dsimp only at hx hb ⊢
  rw [hb, hx]
  have hg : (mgrp f.word).filter (fun m => bitAt (s.faultBits i) m) = [] := by
    rw [List.filter_eq_nil_iff]; intro m hm; simp [hf m hm]
  have hg2 : (mgrp f.word).filter (fun m => !bitAt (s.faultBits i) m) = mgrp f.word := by
    rw [List.filter_eq_self]; intro m hm; simp [hf m hm]
  rw [hg, hg2, detourParts_nil]
  dsimp only
  rw [List.append_nil, if_neg (by rw [ha]; simp)]
  exact ⟨_, _, _, rfl, rfl, rfl, rfl, rfl⟩

theorem slotOf_modSlot (ss : SMap Slot) (a b : Nat) (f : Slot → Slot) : slotOf (modSlot ss a f) b = if b = a then f (slotOf ss a) else slotOf ss b := by
  simp [slotOf, modSlot, mget_mset]

theorem slotOf_fold {β : Type} (g : β → Nat) (f : β → Slot → Slot) (l : List β) (ss : SMap Slot) (b : Nat) (h : ∀ z ∈ l, g z ≠ b) :
    slotOf (l.foldl (fun u z => modSlot u (g z) (f z)) ss) b = slotOf ss b := by
  induction l generalizing ss with
  | nil => rfl
  | cons z r ih =>
    rw [List.foldl_cons, ih _ (fun y hy => h y (by simp [hy])), slotOf_modSlot, if_neg (Ne.symm (h z (by simp)))]

/-- A tile leaves the slots that it does not name. -/
theorem slotOf_addTile (ss : SMap Slot) (t : Tile) (b : Nat) (ha : ∀ a ∈ t.adds, a.slot ∈ t.slots) (hz : ∀ z ∈ t.zero, z.1 ∈ t.slots) (hb : b ∉ t.slots) :
    slotOf (addTile ss t) b = slotOf ss b := by
  have h3 : ∀ a ∈ t.slots, a ≠ b := fun a h e => hb (e ▸ h)
  have e1 : slotOf (zeroEntries ss t.zero) b = slotOf ss b :=
    slotOf_fold (fun z : Nat × Nat × Nat => z.1) (fun z s => s.setEntry z.2.1 z.2.2 ⟨0, 0⟩) t.zero ss b (fun z h => h3 _ (hz z h))
  have e2 : ∀ u, slotOf (t.adds.foldl (fun u c => modSlot u c.slot (fun s => s.addOne c)) u) b = slotOf u b := fun u =>
    slotOf_fold (fun c : Contrib => c.slot) (fun c s => s.addOne c) t.adds u b (fun z h => h3 _ (ha z h))
  have e3 : ∀ u, slotOf (t.slots.foldl (fun u a => modSlot u a (fun s => { s with chain := t.chain })) u) b = slotOf u b := fun u =>
    slotOf_fold (fun a : Nat => a) (fun _ s => { s with chain := t.chain }) t.slots u b h3
  have e4 : ∀ u, slotOf (t.slots.foldl (fun u a => modSlot u a (fun s => { s with range := true })) u) b = slotOf u b := fun u =>
    slotOf_fold (fun a : Nat => a) (fun _ s => { s with range := true }) t.slots u b h3
  unfold addTile
  dsimp only
  split <;> split <;> simp only [e4, e3, e2, e1]

/-! ### Register writes of the host -/

/-- A served write to a register that takes whole dwords. -/
theorem State.bar0Write_eq {s : State} {a : Nat} {v : Word} (h : s.writeServed a = true) (hs : s.supState = 0)
    (hm : (rwMask a).isSome = true) (hb : byteWritable a = false) : s.bar0Write a 0xF v = s.leaveL1.regWrite a v := by
  have h1 : s.leaveL1.supState = 0 := hs
  unfold State.bar0Write State.bar0Do
  rw [h, h1, hb]
  simp [Option.isNone_iff_eq_none, Option.isSome_iff_ne_none.mp hm]

/-- A served write to an area that takes single bytes. -/
theorem State.bar0Write_bytes {s : State} {a : Nat} {en : BitVec 4} {v : Word} (h : s.writeServed a = true) (hs : s.supState = 0)
    (hm : (rwMask a).isSome = true) (hb : byteWritable a = true) (he : en ≠ 0) : s.bar0Write a en v =
      if 0x400000 ≤ a then s.leaveL1.sessionWrite ((a - 0x400000) / 64) (a % 64 / 4) en v
      else if 0x58000 ≤ a then s.leaveL1.msixWrite a en v
      else s.leaveL1.setReg a (enabled (s.reg a) en v) := by
  have h1 : s.leaveL1.supState = 0 := hs
  unfold State.bar0Write State.bar0Do
  rw [h, h1, hb, if_neg (by simp; exact he), if_neg (by simp), if_neg (by simp [Option.isNone_iff_eq_none, Option.isSome_iff_ne_none.mp hm]), if_pos rfl]
  rfl

/-- The registers of a station page. -/
theorem rwMask_page (i : Stn) (o : Nat) (ho : o < 0x10000) (h4 : o % 4 = 0) : rwMask (pageBase i + o) = stnMask o := by
  have h1 := i.isLt
  have e : (pageBase i.val + o) % 0x10000 = o := by unfold pageBase; omega
  unfold rwMask
  rw [e]
  have hb : 0x2000000 ≤ pageBase i.val + o := by unfold pageBase; omega
  have ht : pageBase i.val + o ≤ 0x27FFFFF := by unfold pageBase; omega
  have h4' : (pageBase i.val + o) % 4 = 0 := by unfold pageBase; omega
  generalize pageBase i.val + o = a at *
  repeat (refine (if_neg (by omega)).trans ?_)
  exact if_pos (by omega)

/-- A served write to a register of a station page. -/
theorem State.bar0Write_page {s : State} {i : Stn} {o : Nat} {v : Word} (h : s.writeServed (pageBase i + o) = true) (hs : s.supState = 0)
    (ho : o < 0x10000) (h4 : o % 4 = 0) (hm : (stnMask o).isSome = true) : s.bar0Write (pageBase i + o) 0xF v = s.leaveL1.stnWrite i o v := by
  have h1 := i.isLt
  rw [State.bar0Write_eq h hs (by rw [rwMask_page i o ho h4]; exact hm) (by unfold byteWritable pageBase; simp only [Bool.or_eq_false_iff, Bool.and_eq_false_iff, decide_eq_false_iff_not]; omega)]
  unfold State.regWrite
  rw [if_pos (by unfold pageBase; omega)]
  congr 1 <;> (unfold pageBase; omega)

end Sys2Proof.Machine
end

