-- ==== Sys2Proof/Laws/PerInstr.lean ====
section
/-! SUPPORT. The family Unchecked, one lemma per command: a command that carries no operand of a checked kind is well formed whatever its operands are. -/
namespace Sys2Proof.Laws.Unchecked
open Sys2Proof.Machine

/-- The commands that carry an operand of a checked kind. -/
def checked (i : Instr) : Bool :=
  match i with
  | .pass _ _ => true
  | .passr _ _ => true
  | .wload _ _ => true
  | .ld _ _ => true
  | .st _ => true
  | .mcast _ _ => true
  | .consist _ _ => true
  | .dispatch _ _ => true
  | .gather _ _ => true
  | .tileReplay _ _ => true
  | .registerWrite _ _ _ => true
  | .loLatchRead _ _ => true
  | .exponentDerivation _ _ _ _ _ => true
  | .frameReceive _ _ _ _ _ => true
  | .inboundDescriptor _ _ _ => true
  | .outboundDescriptor _ _ _ => true
  | .authentication _ => true
  | .authRetry _ => true
  | .reauth _ _ => true
  | .inputQualified _ => true
  | .bringupRepeat _ => true
  | .restart _ _ => true
  | .thermalResume _ => true
  | .bar2Access _ _ _ _ _ => true
  | .lpddrRequest _ _ _ _ _ => true
  | .unlock _ => true
  | _ => false

/-- Without an operand of a checked kind the command is well formed. -/
def Statement (i : Instr) : Prop := checked i = false → i.wf = true

theorem sbInstruction (s : Stn) : Statement (.sbInstruction s) := fun _ => rfl
theorem sbIssue3 (s : Stn) (v : Word) : Statement (.sbIssue3 s v) := fun _ => rfl
theorem sbSumHi (s : Stn) (rd : Fin 32) : Statement (.sbSumHi s rd) := fun _ => rfl
theorem sbSleep (s : Stn) (v : Word) : Statement (.sbSleep s v) := fun _ => rfl
theorem wordIssue (s : Stn) : Statement (.wordIssue s) := fun _ => rfl
theorem nop (s : Stn) : Statement (.nop s) := fun _ => rfl
theorem pass (s : Stn) (o : Obs) : Statement (.pass s o) := fun h => by cases h
theorem passr (s : Stn) (o : Obs) : Statement (.passr s o) := fun h => by cases h
theorem wload (s : Stn) (o : Obs) : Statement (.wload s o) := fun h => by cases h
theorem wloadCommit (s : Stn) : Statement (.wloadCommit s) := fun _ => rfl
theorem ld (s : Stn) (o : Obs) : Statement (.ld s o) := fun h => by cases h
theorem st (s : Moving) : Statement (.st s) := fun h => by cases h
theorem mcast (s : Stn) (o : Obs) : Statement (.mcast s o) := fun h => by cases h
theorem accrd (s : Stn) : Statement (.accrd s) := fun _ => rfl
theorem accwr (s : Stn) : Statement (.accwr s) := fun _ => rfl
theorem accclr (s : Stn) : Statement (.accclr s) := fun _ => rfl
theorem reduce (s : Stn) : Statement (.reduce s) := fun _ => rfl
theorem consist (s : Stn) (o : Obs) : Statement (.consist s o) := fun h => by cases h
theorem consistComplete (s : Stn) : Statement (.consistComplete s) := fun _ => rfl
theorem summary (s : Stn) : Statement (.summary s) := fun _ => rfl
theorem summaryPost (s : Stn) : Statement (.summaryPost s) := fun _ => rfl
theorem ticket (s : Stn) : Statement (.ticket s) := fun _ => rfl
theorem take (s : Stn) : Statement (.take s) := fun _ => rfl
theorem give (s : Stn) : Statement (.give s) := fun _ => rfl
theorem giveDeliver (s : Stn) : Statement (.giveDeliver s) := fun _ => rfl
theorem interlock (s : Stn) : Statement (.interlock s) := fun _ => rfl
theorem dispatch (s : Stn) (o : Obs) : Statement (.dispatch s o) := fun h => by cases h
theorem gather (s : Stn) (o : Obs) : Statement (.gather s o) := fun h => by cases h
theorem tileHandover (s : Stn) (seq : Nat) : Statement (.tileHandover s seq) := fun _ => rfl
theorem reductionAdd (s : Stn) (arr : Bool) : Statement (.reductionAdd s arr) := fun _ => rfl
theorem reduceArrival (dst : Stn) (src : Stn) : Statement (.reduceArrival dst src) := fun _ => rfl
theorem ackReceipt (s : Stn) (src : Nat) : Statement (.ackReceipt s src) := fun _ => rfl
theorem tokenArrival (dst : Stn) (src : Nat) : Statement (.tokenArrival dst src) := fun _ => rfl
theorem runStart (s : Stn) (v : Word) : Statement (.runStart s v) := fun _ => rfl
theorem runStop (s : Stn) (v : Word) : Statement (.runStop s v) := fun _ => rfl
theorem wake (s : Stn) (v : Word) : Statement (.wake s v) := fun _ => rfl
theorem sleepCommit (s : Stn) : Statement (.sleepCommit s) := fun _ => rfl
theorem retentionReached (s : Stn) : Statement (.retentionReached s) := fun _ => rfl
theorem wakeComplete (s : Stn) : Statement (.wakeComplete s) := fun _ => rfl
theorem stnTokClear (s : Stn) (i : Fin 8) (v : Word) : Statement (.stnTokClear s i v) := fun _ => rfl
theorem stnTokset (s : Stn) (i : Fin 8) (v : Word) : Statement (.stnTokset s i v) := fun _ => rfl
theorem localStoreWindowWrite (s : Stn) (k : Fin 8192) (v : Word) : Statement (.localStoreWindowWrite s k v) := fun _ => rfl
theorem meshReadRetry (s : Stn) (addr : Nat) (again : Bool) : Statement (.meshReadRetry s addr again) := fun _ => rfl
theorem tktRequest (ctr : Fin 64) (s : Stn) : Statement (.tktRequest ctr s) := fun _ => rfl
theorem tktval (s : Stn) : Statement (.tktval s) := fun _ => rfl
theorem meshTktValWrite (ctr : Fin 64) (v : Word) : Statement (.meshTktValWrite ctr v) := fun _ => rfl
theorem meshTktLimitWrite (ctr : Fin 64) (v : Word) : Statement (.meshTktLimitWrite ctr v) := fun _ => rfl
theorem ledgerEntryCommit (s : Stn) : Statement (.ledgerEntryCommit s) := fun _ => rfl
theorem jobStart : Statement (.jobStart) := fun _ => rfl
theorem stepBoundary : Statement (.stepBoundary) := fun _ => rfl
theorem exponentDerivation (b : Fin 32768) (recs : List Nat) (expLine : Nat) (foldLine : Nat) (tok : Byte) : Statement (.exponentDerivation b recs expLine foldLine tok) := fun h => by cases h
theorem sessionStateWrite (i : Fin 10240) (k : Fin 16) (en : BitVec 4) (v : Word) : Statement (.sessionStateWrite i k en v) := fun _ => rfl
theorem sessionCmdPark (v : Word) : Statement (.sessionCmdPark v) := fun _ => rfl
theorem xqMarker (q : Fin 64) (rank : Nat) : Statement (.xqMarker q rank) := fun _ => rfl
theorem xqRoundStart (q : Fin 64) : Statement (.xqRoundStart q) := fun _ => rfl
theorem xqTout (q : Fin 64) : Statement (.xqTout q) := fun _ => rfl
theorem flitCrcRetransmit (r : Fin 176) (d : Fin 4) (again : Bool) : Statement (.flitCrcRetransmit r d again) := fun _ => rfl
theorem meshLinkRetrain (r : Fin 176) (d : Fin 4) : Statement (.meshLinkRetrain r d) := fun _ => rfl
theorem meshWrArrival (dst : Stn) (src : Nat) (met : Contended) (slip : Option Slip) : Statement (.meshWrArrival dst src met slip) := fun _ => rfl
theorem lpddrRequest (line : Nat) (w : Option (Fin 64 × List Byte)) (lce : Bool) (ce : Bool) (ue : Bool) : Statement (.lpddrRequest line w lce ce ue) := fun h => by cases h
theorem channelRetrain (c : Fin 20) (j : Fin 4) (outcome : Fin 3) : Statement (.channelRetrain c j outcome) := fun _ => rfl
theorem mr4Read (c : Fin 20) (rate : Fin 32) : Statement (.mr4Read c rate) := fun _ => rfl
theorem rfm (c : Fin 20) : Statement (.rfm c) := fun _ => rfl
theorem powerDownEntry (c : Fin 20) (j : Fin 4) : Statement (.powerDownEntry c j) := fun _ => rfl
theorem patrolScrub (line : Nat) (ce : Bool) (ue : Bool) : Statement (.patrolScrub line ce ue) := fun _ => rfl
theorem goldenRebuild (line : Nat) : Statement (.goldenRebuild line) := fun _ => rfl
theorem goldenLoad (v : Word) : Statement (.goldenLoad v) := fun _ => rfl
theorem memConfigWrite (k : Fin 9) (v : Word) : Statement (.memConfigWrite k v) := fun _ => rfl
theorem frameReceive (p : Fin 12) (good : Bool) (ce : Nat) (ue : Nat) (f : Machine.Frame) : Statement (.frameReceive p good ce ue f) := fun h => by cases h
theorem portTraining (p : Fin 12) (bad : BitVec 4) (pm : Nat) (pp : Nat) : Statement (.portTraining p bad pm pp) := fun _ => rfl
theorem trainingTimeout (p : Fin 12) : Statement (.trainingTimeout p) := fun _ => rfl
theorem laneFail (p : Fin 12) (lane : Fin 4) : Statement (.laneFail p lane) := fun _ => rfl
theorem linkEnWrite (p : Fin 12) (v : Word) : Statement (.linkEnWrite p v) := fun _ => rfl
theorem retrain (p : Fin 12) (v : Word) : Statement (.retrain p v) := fun _ => rfl
theorem moduleArrival : Statement (.moduleArrival) := fun _ => rfl
theorem present (child : Nat) (ilk : Nat) (lce : Nat) : Statement (.present child ilk lce) := fun _ => rfl
theorem arrive (child : Nat) (ilk : Nat) (lce : Nat) (count : Nat) (slow : Nat) (reason : Nat) (iseq : Word) : Statement (.arrive child ilk lce count slow reason iseq) := fun _ => rfl
theorem release (ilk : Nat) (lce : Nat) (slow : Nat) (reason : Nat) (iseq : Word) : Statement (.release ilk lce slow reason iseq) := fun _ => rfl
theorem snapshotCopyDone : Statement (.snapshotCopyDone) := fun _ => rfl
theorem snapLate : Statement (.snapLate) := fun _ => rfl
theorem departureStagger (s : Stn) : Statement (.departureStagger s) := fun _ => rfl
theorem deadlineExpiry : Statement (.deadlineExpiry) := fun _ => rfl
theorem noNoticeExpiry : Statement (.noNoticeExpiry) := fun _ => rfl
theorem lateNotice (p : Fin 12) (mod : Nat) (ilk : Nat) (cause : Nat) (reason : Nat) (rep : Nat) (iseq : Word) : Statement (.lateNotice p mod ilk cause reason rep iseq) := fun _ => rfl
theorem haltNotice (p : Fin 12) (mod : Nat) (nseq : Nat) : Statement (.haltNotice p mod nseq) := fun _ => rfl
theorem resumeNotice (p : Fin 12) (mod : Nat) (nseq : Nat) : Statement (.resumeNotice p mod nseq) := fun _ => rfl
theorem haltAllowanceExpiry : Statement (.haltAllowanceExpiry) := fun _ => rfl
theorem coll (smod : Nat) (cid : Nat) (k : Nat) (phase : Nat) (mext : Nat) (next : Nat) (img : Machine.Slot) : Statement (.coll smod cid k phase mext next img) := fun _ => rfl
theorem collectiveResultWrite (s : Stn) : Statement (.collectiveResultWrite s) := fun _ => rfl
theorem lineClearGo (v : Word) : Statement (.lineClearGo v) := fun _ => rfl
theorem clearNotice (p : Fin 12) (mod : Nat) (e : Nat) : Statement (.clearNotice p mod e) := fun _ => rfl
theorem governorPeriod (lines : Nat) (hops : Nat) (chg : Nat) : Statement (.governorPeriod lines hops chg) := fun _ => rfl
theorem clockChange : Statement (.clockChange) := fun _ => rfl
theorem calibration (m : Option Nat) (reg : Fin 7) : Statement (.calibration m reg) := fun _ => rfl
theorem alertAssert (reg : Bool) (words : List (Fin 7 × BitVec 16)) : Statement (.alertAssert reg words) := fun _ => rfl
theorem alertDeassert (reg : Bool) : Statement (.alertDeassert reg) := fun _ => rfl
theorem alertHoldExpiry : Statement (.alertHoldExpiry) := fun _ => rfl
theorem regAlertLong (words : List (Fin 7 × BitVec 16)) : Statement (.regAlertLong words) := fun _ => rfl
theorem supplyLowEnd : Statement (.supplyLowEnd) := fun _ => rfl
theorem temperatureRead (tj : BitVec 7) : Statement (.temperatureRead tj) := fun _ => rfl
theorem thermalStepRise : Statement (.thermalStepRise) := fun _ => rfl
theorem thermalStepFall : Statement (.thermalStepFall) := fun _ => rfl
theorem thermalResume (e : Machine.BootEnv) : Statement (.thermalResume e) := fun h => by cases h
theorem thermalTrip : Statement (.thermalTrip) := fun _ => rfl
theorem marginSample (low : List (Fin 16)) (short : List (Fin 16)) : Statement (.marginSample low short) := fun _ => rfl
theorem coastReturn : Statement (.coastReturn) := fun _ => rfl
theorem govCeilingWrite (v : Word) : Statement (.govCeilingWrite v) := fun _ => rfl
theorem clrthr (v : Word) : Statement (.clrthr v) := fun _ => rfl
theorem govLimitWrite (peak : Bool) (v : Word) : Statement (.govLimitWrite peak v) := fun _ => rfl
theorem inputSample (mv10 : BitVec 16) : Statement (.inputSample mv10) := fun _ => rfl
theorem brownout : Statement (.brownout) := fun _ => rfl
theorem overvoltage : Statement (.overvoltage) := fun _ => rfl
theorem inputQualified (e : Machine.BootEnv) : Statement (.inputQualified e) := fun h => by cases h
theorem stateLost : Statement (.stateLost) := fun _ => rfl
theorem cartridgeRemoval : Statement (.cartridgeRemoval) := fun _ => rfl
theorem cartridgeInsertion : Statement (.cartridgeInsertion) := fun _ => rfl
theorem authentication (r : Option Machine.CartResp) : Statement (.authentication r) := fun h => by cases h
theorem authRetry (r : Option Machine.CartResp) : Statement (.authRetry r) := fun h => by cases h
theorem reauth (v : Word) (r : Option Machine.CartResp) : Statement (.reauth v r) := fun h => by cases h
theorem chargeStart : Statement (.chargeStart) := fun _ => rfl
theorem cal (v : Word) : Statement (.cal v) := fun _ => rfl
theorem calDischargeEnd (cap : Nat) : Statement (.calDischargeEnd cap) := fun _ => rfl
theorem calageDay (aged : Bool) : Statement (.calageDay aged) := fun _ => rfl
theorem railPowerGoodTimeout (reg : Fin 7) (status : BitVec 16) : Statement (.railPowerGoodTimeout reg status) := fun _ => rfl
theorem bringupRepeat (e : Machine.BootEnv) : Statement (.bringupRepeat e) := fun h => by cases h
theorem perstNAssert : Statement (.perstNAssert) := fun _ => rfl
theorem perstNDeassert (link : Byte) : Statement (.perstNDeassert link) := fun _ => rfl
theorem functionLevelReset : Statement (.functionLevelReset) := fun _ => rfl
theorem configurationRequest (r : Machine.CfgReq) : Statement (.configurationRequest r) := fun _ => rfl
theorem mbxBegin (v : Word) : Statement (.mbxBegin v) := fun _ => rfl
theorem chunk (v : Word) : Statement (.chunk v) := fun _ => rfl
theorem mbxEnd (v : Word) : Statement (.mbxEnd v) := fun _ => rfl
theorem restart (v : Word) (e : Machine.BootEnv) : Statement (.restart v e) := fun h => by cases h
theorem mailboxOtherOp (v : Word) : Statement (.mailboxOtherOp v) := fun _ => rfl
theorem mailboxComplete (err : Bool) : Statement (.mailboxComplete err) := fun _ => rfl
theorem unlock (sig : List Byte) : Statement (.unlock sig) := fun h => by cases h
theorem getInfo (smbus : Bool) (payload : List Byte) : Statement (.getInfo smbus payload) := fun _ => rfl
theorem getCert (smbus : Bool) (payload : List Byte) : Statement (.getCert smbus payload) := fun _ => rfl
theorem getMeas (smbus : Bool) (payload : List Byte) : Statement (.getMeas smbus payload) := fun _ => rfl
theorem getAudit (smbus : Bool) (payload : List Byte) : Statement (.getAudit smbus payload) := fun _ => rfl
theorem attestationOtherCode (smbus : Bool) (code : Byte) : Statement (.attestationOtherCode smbus code) := fun _ => rfl
theorem setEndpointId (smbus : Bool) (inst : Fin 32) (op : Byte) (eid : Byte) : Statement (.setEndpointId smbus inst op eid) := fun _ => rfl
theorem getEndpointId (smbus : Bool) (inst : Fin 32) : Statement (.getEndpointId smbus inst) := fun _ => rfl
theorem getMctpVersionSupport (smbus : Bool) (inst : Fin 32) (type : Byte) : Statement (.getMctpVersionSupport smbus inst type) := fun _ => rfl
theorem getMessageTypeSupport (smbus : Bool) (inst : Fin 32) : Statement (.getMessageTypeSupport smbus inst) := fun _ => rfl
theorem getVendorDefinedMessageSupport (smbus : Bool) (inst : Fin 32) (sel : Byte) : Statement (.getVendorDefinedMessageSupport smbus inst sel) := fun _ => rfl
theorem registerWrite (a : Nat) (en : BitVec 4) (v : Word) : Statement (.registerWrite a en v) := fun h => by cases h
theorem loLatchRead (r : Fin 5) (a : RegRead) : Statement (.loLatchRead r a) := fun h => by cases h
theorem bar2Access (s : Stn) (off : Fin 4194304) (n : Fin 65) (w : Option (List Byte)) (met : Contended) : Statement (.bar2Access s off n w met) := fun h => by cases h
theorem bar2Timeout (s : Stn) : Statement (.bar2Timeout s) := fun _ => rfl
theorem bar4Access (off : Nat) (n : Nat) (w : Option (List Byte)) (ce : Bool) (ue : Bool) : Statement (.bar4Access off n w ce ue) := fun _ => rfl
theorem hostqTailWrite (q : Fin 16) (v : Word) : Statement (.hostqTailWrite q v) := fun _ => rfl
theorem hostqEn (q : Fin 16) (v : Word) : Statement (.hostqEn q v) := fun _ => rfl
theorem qreset (q : Fin 16) (v : Word) : Statement (.qreset q v) := fun _ => rfl
theorem inboundDescriptor (q : Fin 16) (d : Machine.HostDesc) (buf : Option (List Byte)) : Statement (.inboundDescriptor q d buf) := fun h => by cases h
theorem outboundDescriptor (q : Fin 16) (d : Machine.HostDesc) (ok : Bool) : Statement (.outboundDescriptor q d ok) := fun h => by cases h
theorem producerLinePoll (q : Fin 16) : Statement (.producerLinePoll q) := fun _ => rfl
theorem msixUnmask (i : Fin 64) : Statement (.msixUnmask i) := fun _ => rfl
theorem d3hot : Statement (.d3hot) := fun _ => rfl
theorem l1Entry : Statement (.l1Entry) := fun _ => rfl
theorem faultRdWrite (v : Word) : Statement (.faultRdWrite v) := fun _ => rfl
theorem tileReplay (s : Stn) (o : Obs) : Statement (.tileReplay s o) := fun h => by cases h
theorem macroReload (s : Stn) (found : SlotRead) : Statement (.macroReload s found) := fun _ => rfl
theorem routeAround (s : Stn) : Statement (.routeAround s) := fun _ => rfl
theorem stationRestart (s : Stn) : Statement (.stationRestart s) := fun _ => rfl
theorem rollback : Statement (.rollback) := fun _ => rfl
theorem roll (v : Word) : Statement (.roll v) := fun _ => rfl
theorem scrub (s : Stn) (m : Fin 64) (k : Fin 4) (found : SlotRead) : Statement (.scrub s m k found) := fun _ => rfl
theorem noNoticeRollbackExpiry : Statement (.noNoticeRollbackExpiry) := fun _ => rfl
theorem alwaysOnPowerLoss : Statement (.alwaysOnPowerLoss) := fun _ => rfl
theorem cartridgeStatusRead (v : BitVec 16) (t : BitVec 16) (cycles : Word) (cap : Option Nat) : Statement (.cartridgeStatusRead v t cycles cap) := fun _ => rfl
theorem perBankRefresh (c : Fin 20) (j : Fin 4) : Statement (.perBankRefresh c j) := fun _ => rfl
theorem mctpUnsupportedMessage (smbus : Bool) (type : Byte) : Statement (.mctpUnsupportedMessage smbus type) := fun _ => rfl

end Sys2Proof.Laws.Unchecked
end

