-- ==== Sys2Proof/Tests/Slice0.lean ====
section
/-! SUPPORT. The model's own tests: ill-formed operands refused, small facts from the manual, and for each statement with hypotheses states and operands that meet them. -/
namespace Sys2Proof.Tests
set_option Elab.async false
open Sys2Proof.Machine

/-! ### Small states -/

/-- A Porix word from its fields: lowest bit and value. -/
def pw (fs : List (Nat × Nat)) : PWord := BitVec.ofNat 128 ((fs.map (fun p => p.2 * 2 ^ p.1)).sum)

/-- No captures. -/
def cap0 : Capture := ⟨0, 0, [], 0, [], [], [], false, []⟩

/-- An instruction in flight with number 4. -/
def fl (fs : List (Nat × Nat)) : Flight := newFlight 4 (pw fs) cap0 none none

/-- A module in READY with a little in its registers, memory and mesh, and station 9 not empty. -/
def up : State :=
  { State.reset with
    powered := true
    uptime := 100000
    aoReg := [(0x24, 5), (0x10000, 5), (0x6000C, 1023)]
    lpddr := [(6401, 0xAB), (6464, 0xCD), (19205, 1)]
    sup := { State.reset.sup with perst := false }
    die := { Die.reset with
      reg := [(0x54004, 3), (0x80830, 7), (0x208004, 2)]
      mesh := [⟨9, 10, 9, 77, none, .token 3⟩]
      stns := [(9, { Station.reset with pm := [(3, 7)], tokens := 6, slots := [(1, { Slot.clear with ts := 4 })] })] } }

/-- Station 3 awake, with something in every memory. -/
def aw : Station :=
  { Station.reset with
    ctl := { Station.reset.ctl with run := .awake }
    sb := { Station.reset.sb with pc := 8, regs := [(1, 5), (2, 7)] }
    pm := [(0, 1), (64, 2), (130, 3)]
    tokens := 0x12
    slots := [(2, { Slot.clear with ts := 1 })]
    banks := [(0, { Bank.reset with sumw := [(0, 1)] })] }

/-- `up` with station 3 given. -/
def wx (x : Station) : State := up.setStn 3 x

/-- `aw` with flights. -/
def withFl (fs : List Flight) : Station := { aw with iss := { aw.iss with flight := fs, next := 9 } }

/-- `aw` with queued words. -/
def withQ (ws : List PWord) : Station := { aw with iss := { aw.iss with queue := ws } }

/-- What the unit meets when nothing goes wrong. -/
def ob : Obs := ⟨[], none, none, [], [], [], none⟩

/-- Local store bytes of a word at address 8. -/
def code8 (w : Nat) : SMap Byte := smapOf 0 (List.replicate 8 0 ++ leBytes 4 w)

/-! ### Witnesses: stations -/

def sAdd : State := wx { aw with sb := { aw.sb with store := code8 (0x33 + 3 * 2 ^ 7 + 1 * 2 ^ 15 + 2 * 2 ^ 20) } }
theorem witness_SignalBoxArithmeticRetires :
    sAdd.live = true ∧ (sAdd.stn 3).sbRuns = true ∧ (sAdd.stn 3).sb.pc.toNat + 4 ≤ 0x10000 ∧
    (sAdd.stn 3).sb.word (sAdd.stn 3).sb.pc.toNat = BitVec.ofNat 32 (0x33 + 3 * 2 ^ 7 + 0 * 2 ^ 12 + 1 * 2 ^ 15 + 2 * 2 ^ 20 + 0 * 2 ^ 25) := by decide

def sEcall : State := wx { aw with sb := { aw.sb with store := code8 0x73 } }
theorem witness_EcallAndEbreakTrap :
    sEcall.live = true ∧ (sEcall.stn 3).sbRuns = true ∧ (sEcall.stn 3).sb.word (sEcall.stn 3).sb.pc.toNat = 0x73 := by decide

def sPort : State := (wx { aw with iss := { aw.iss with fifo := [⟨1, some 0x2100000000000005⟩] } }).setReg (pageBase 3 + 4) 3 |>.setReg 0x30404 4
def sPortFull : State := wx (withQ (List.replicate 32 0))
theorem witness_SignalBoxPortsRetire :
    sPort.live = true ∧ (sPort.stn 3).sbRuns = true ∧ (sPort.stn 3).iss.queue.length < 32 ∧
    (sPort.stn 3).iss.fifo = [⟨1, some 0x2100000000000005⟩] ∧ bitAt (sPort.preg 3 4) 1 = true ∧ sPort.phaseSleeps 3 = true ∧
    sPortFull.live = true ∧ (sPortFull.stn 3).sbRuns = true ∧ (sPortFull.stn 3).iss.queue.length = 32 := by decide

def sClr : State := wx (withQ [pw [(0, 0x12), (20, 63)], pw []])
def sNop : State := wx (withQ [pw [(8, 5)]])
def sIll : State := wx (withQ [pw [(0, 0x7F)]])
/-- A zero-extent PASS of two banks that do not agree. -/
def wMis : PWord := pw [(0, 1), (36, 1), (49, 1), (64, 3)]
def bMis : List (Nat × Bank) := [(0, { Bank.reset with zero := false }), (4, { Bank.reset with zero := false, fmt := 1 })]
def sMis : State := wx { withQ [wMis] with banks := bMis }
def sFull : State := wx { withFl (List.replicate 16 (fl [(0, 0x12)])) with iss := { (withFl (List.replicate 16 (fl [(0, 0x12)]))).iss with queue := [pw [(0, 0x12), (20, 63)]] } }
theorem witness_WordsIssueOrStop :
    (sClr.live = true ∧ (sClr.stn 3).mayIssue = true ∧ sClr.legal 3 (pw [(0, 0x12), (20, 63)]) = true ∧ (sClr.stn 3).zeroFits (pw [(0, 0x12), (20, 63)]) = true ∧
      (sClr.stn 3).awaitsRouting (pw [(0, 0x12), (20, 63)]) = false ∧ sClr.stalled 3 (pw [(0, 0x12), (20, 63)]) = false ∧ (sClr.stn 3).ledger.replay = false) ∧
    (sFull.live = true ∧ (sFull.stn 3).mayIssue = true ∧ sFull.legal 3 (pw [(0, 0x12), (20, 63)]) = true ∧ sFull.stalled 3 (pw [(0, 0x12), (20, 63)]) = true) ∧
    (sMis.live = true ∧ (sMis.stn 3).mayIssue = true ∧ (sMis.stn 3).awaitsRouting wMis = false ∧ (sMis.stn 3).zeroFits wMis = false) ∧
    (sNop.live = true ∧ (sNop.stn 3).mayIssue = true ∧ sNop.legal 3 (pw [(8, 5)]) = true ∧ opc (pw [(8, 5)]) = 0) ∧
    (sIll.live = true ∧ (sIll.stn 3).mayIssue = true ∧ sIll.legal 3 (pw [(0, 0x7F)]) = false) := by decide

def sPass (o : Nat) : State := wx (withFl [fl [(0, o), (36, 1), (44, 1), (49, 1), (64, 1)]])
def sPassBad : State :=
  wx { withFl [fl [(0, 1), (36, 1), (44, 1), (49, 1), (64, 3)]] with
    banks := bMis }
def passHyp (s : State) (f : Flight) (b : Bool) : Bool :=
  s.works && decide (s.headOf 3 .mac = some f) && !(s.stn 3).bankPending f && decide (slipAt (s.stn 3) f ob.slip = none) &&
  (mgrp f.word).all (fun m => !bitAt (s.faultBits 3) m) &&
  (passAgrees f.word (((mgrp f.word).map (fun m => (s.stn 3).bank m (bankOf f.word))).filter (fun b => !b.zero)) == b)
theorem witness_PassesComputeOrStop :
    passHyp (sPass 1) (fl [(0, 1), (36, 1), (44, 1), (49, 1), (64, 1)]) true = true ∧
    passHyp (sPass 2) (fl [(0, 2), (36, 1), (44, 1), (49, 1), (64, 1)]) true = true ∧
    passHyp sPassBad (fl [(0, 1), (36, 1), (44, 1), (49, 1), (64, 3)]) false = true := by decide

def tl0 : Tile := ⟨some 4, 3, 4, [2], 1, 0, [], [⟨2, 0, 0, 5, 127, 127, false⟩], false, false, none, none⟩
def fComp : Flight := { fl [(0, 1)] with stage := .computed, tile := some tl0 }
def fFail : Flight := { fComp with fails := 1 }
def sHand : State := wx (withFl [fComp])
def sHandF : State := wx (withFl [fFail])
theorem witness_HandoverOfTiles :
    (sHand.works = true ∧ (sHand.stn 3).flightOf 4 = some fComp ∧ fComp.stage = .computed ∧ fComp.owed = 0 ∧
      (sHand.stn 3).chainBefore 3 fComp = false ∧ fComp.fails = 0 ∧ fComp.tile = some tl0) ∧
    (sHandF.works = true ∧ (sHandF.stn 3).flightOf 4 = some fFail ∧ (sHandF.stn 3).chainBefore 3 fFail = false ∧ fFail.fails ≠ 0 ∧ fFail.attempts = 0) ∧
    ((wx (withFl [{ fComp with owed := 2 }])).works = true ∧ ((wx (withFl [{ fComp with owed := 2 }])).stn 3).flightOf 4 = some { fComp with owed := 2 }) := by decide

def sAdds : State := wx { withFl [{ fComp with stage := .handed }] with redq := [tl0] }
def tlArr : Tile := { tl0 with seq := none, src := 9, txn := 6 }
def sArr : State := wx { aw with arrive := [tlArr] }
def sArrOwn : State := wx { withFl [{ fl [(0, 0x13), (20, 5), (26, 2)] with stage := .sent, acks := 1 }] with arrive := [{ tlArr with src := 3, txn := 4 }] }
def sArrWait : State := wx { withFl [fl [(0, 0x10), (20, 2)]] with arrive := [tlArr] }
theorem witness_TilesAreAddedToTheirSlots :
    (sAdds.adds 3 = true ∧ (∀ a ∈ tl0.adds, a.slot ∈ tl0.slots) ∧ (∀ z ∈ tl0.zero, z.1 ∈ tl0.slots) ∧ tl0.write = false ∧
      (sAdds.stn 3).redq = [tl0] ∧ tl0.seq = some 4) ∧
    (sArr.adds 3 = true ∧ (sArr.stn 3).arrive = [tlArr] ∧ tlArr.rtok = none ∧ tlArr.src ≠ 3 ∧ (sArr.stn 3).slotsFree 3 false tlArr.named = true ∧ tlArr.write = false) ∧
    (sArrOwn.adds 3 = true ∧ (sArrOwn.stn 3).slotsFree 3 false { tlArr with src := 3, txn := 4 }.named = true) ∧
    (sArrWait.adds 3 = true ∧ (sArrWait.stn 3).slotsFree 3 false tlArr.named = false) := by decide

def fWl : Flight := fl [(0, 3), (20, 2), (28, 2), (64, 1)]
def sWl : State := wx (withFl [fWl])
def sWlWait : State := wx (withFl [{ fWl with stage := .written }, { fWl with seq := 5 }])
def fWr : Flight := { fWl with stage := .written, pend := [(0, { Bank.reset with zero := false }), (5, Bank.reset)] }
def sWr : State := wx (withFl [fWr])
theorem witness_WeightLoadsCommit :
    (sWl.works = true ∧ sWl.headOf 3 .mac = some fWl ∧ opc fWl.word = 3 ∧ (sWl.stn 3).wloadWaits fWl = false ∧ slipAt (sWl.stn 3) fWl ob.slip = none) ∧
    (sWlWait.works = true ∧ sWlWait.headOf 3 .mac = some { fWl with seq := 5 } ∧ (sWlWait.stn 3).wloadWaits { fWl with seq := 5 } = true) ∧
    (sWr.works = true ∧ (sWr.stn 3).iss.flight = [fWr] ∧ fWr.stage = .written ∧ fWr.owed = 0) ∧
    ((wx (withFl [{ fWr with owed := 1 }])).stn 3).iss.flight.find? (fun f => f.stage = .written) = some { fWr with owed := 1 } := by decide

def fAcc (o : Nat) : Flight := fl [(0, o), (20, 2), (26, 1), (31, 2), (38, 1)]
def sAcc (o : Nat) : State := wx (withFl [fAcc o])
theorem witness_SlotInstructionsComplete :
    (sAcc 0x12).accHead 3 0x12 = some (fAcc 0x12) ∧ (sAcc 0x10).accHead 3 0x10 = some (fAcc 0x10) ∧ (sAcc 0x11).accHead 3 0x11 = some (fAcc 0x11) := by decide

def fRed : Flight := fl [(0, 0x13), (20, 2), (26, 5), (32, 9), (49, 1), (54, 1)]
def sRed : State := wx (withFl [fRed])
def sRedTo (x : Station) : State := (wx x).sendFlit ⟨9, 3, 9, 6, none, .red tlArr⟩
def sRedArr : State := sRedTo aw
/-- `aw` asleep. -/
def zz : Station := { aw with ctl := { aw.ctl with run := .asleep } }
/-- `s` in the first 170 µs of a halt. -/
def halting (s : State) : State := s.setReg 0x40000 1
def fSent : Flight := { fRed with stage := .sent, acks := 1 }
def sAck : State := (wx (withFl [fSent])).sendFlit ⟨9, 3, 3, 4, none, .ack⟩
def sAck2 : State := (wx (withFl [{ fSent with acks := 2 }])).sendFlit ⟨9, 3, 3, 4, none, .ack⟩
def sNack : State := (wx (withFl [fSent])).sendFlit ⟨9, 3, 3, 4, none, .nack 0 1⟩
theorem witness_ReductionsTravel :
    (sRed.accHead 3 0x13 = some fRed ∧ bitAt fRed.word 61 = false ∧ sRed.live = true) ∧
    ((halting sRed).accHead 3 0x13 = some fRed ∧ (halting sRed).live = false) ∧
    (sRedArr.works = true ∧ (sRedArr.nextRequest 9 3).isSome = true ∧ (sRedArr.stn 3).sleeps = false ∧ (sRedArr.stn 3).arrive.length < 2) ∧
    ((sRedTo { aw with arrive := [tl0, tl0] }).nextRequest 9 3).isSome = true ∧
    ((sRedTo zz).works = true ∧ ((sRedTo zz).nextRequest 9 3).isSome = true ∧ ((sRedTo zz).stn 3).sleeps = true ∧ ((sRedTo zz).stn 3).routerHeld.length < 128) ∧
    (sAck.works = true ∧ (sAck.nextAck 9 3).isSome = true ∧ (sAck.stn 3).flightOf 4 = some fSent ∧ opc fSent.word ≠ 0x20) ∧
    ((sAck2.nextAck 9 3).isSome = true ∧ (sAck2.stn 3).flightOf 4 = some { fSent with acks := 2 }) ∧
    ((sNack.nextAck 9 3).isSome = true ∧ (sNack.stn 3).flightOf 4 = some fSent) := by decide

/-! ### Witnesses: sync unit, mover, mesh, consist engine -/

def sTkt (v l : Word) : State := ((((wx aw).setReg (tktBase 5) v).setReg (tktBase 5 + 4) l).setReg (tktBase 5 + 12) 0xFFFFFFFF).sendFlit ⟨3, syncHub, 3, 4, none, .tkt 5⟩
theorem witness_TicketCountersServeRequests :
    ((sTkt 0xFFFFFFFE 0xFFFFFFFF).works = true ∧ ((sTkt 0xFFFFFFFE 0xFFFFFFFF).nextTkt 3).isSome = true ∧
      ((sTkt 0xFFFFFFFE 0xFFFFFFFF).reg (tktBase 5)).toNat < ((sTkt 0xFFFFFFFE 0xFFFFFFFF).reg (tktBase 5 + 4)).toNat) ∧
    (((sTkt 8 8).nextTkt 3).isSome = true ∧ ((sTkt 8 8).reg (tktBase 5 + 4)).toNat ≤ ((sTkt 8 8).reg (tktBase 5)).toNat) ∧ FlitBody.tkt 5 ≠ .tkt 6 := by decide

def fTk : Flight := fl [(0, 0x30), (20, 5)]
def sTk : State := wx (withFl [fTk])
def tvStn (fs : List SumEntry) : Station := { withFl [{ fTk with stage := .sent }] with iss := { (withFl [{ fTk with stage := .sent }]).iss with fifo := fs } }
def sTvOf (fs : List SumEntry) : State := (wx (tvStn fs)).sendFlit ⟨syncHub, 3, 3, 4, none, .tktval 17⟩
def sTv : State := sTvOf [⟨4, none⟩, ⟨6, none⟩]
/-- A summary before it is not posted yet. -/
def sTvLate : State := sTvOf [⟨2, none⟩, ⟨4, none⟩]
def fSum (st : Stage) : Flight := { fl [(0, 0x21), (20, 2), (26, 1)] with stage := st }
def sSum (st : Stage) : State := wx { withFl [fSum st] with iss := { (withFl [fSum st]).iss with fifo := [⟨4, none⟩] } }
def sSumBusy : State := wx { withFl [{ fl [(0, 0x20)] with seq := 2 }, fSum .held] with iss := { (withFl [{ fl [(0, 0x20)] with seq := 2 }, fSum .held]).iss with fifo := [⟨4, none⟩] } }
theorem witness_SummariesArePosted :
    (sTk.live = true ∧ (sTk.stn 3).iss.flight.find? (fun f => opc f.word = 0x30 && f.stage = .issued) = some fTk) ∧
    (sTv.works = true ∧ sTv.pathOpen syncHub 3 = true ∧ (takeFlit (isTktval 3) sTv.die.mesh).isSome = true ∧ ((sTv.stn 3).flightOf 4).isSome = true) ∧
    ((takeFlit (isTktval 3) sTvLate.die.mesh).isSome = true ∧ ((sTvLate.stn 3).flightOf 4).isSome = true) ∧
    ((sSum .issued).works = true ∧ (sSum .issued).headOf 3 .consist = some (fSum .issued) ∧ opc (fSum .issued).word = 0x21) ∧
    ((sSum .held).works = true ∧ ((sSum .held).stn 3).iss.flight.find? (fun f => opc f.word = 0x21 && f.stage = .held) = some (fSum .held) ∧
      ((sSum .held).stn 3).iss.flight.any (fun g => decide (g.seq < 4) && decide (opc g.word = 0x20)) = false) ∧
    ((sSumBusy.stn 3).iss.flight.find? (fun f => opc f.word = 0x21 && f.stage = .held) = some (fSum .held) ∧
      (sSumBusy.stn 3).iss.flight.any (fun g => decide (g.seq < 4) && decide (opc g.word = 0x20)) = true) := by decide

def wTake (t : Nat) : PWord := pw [(0, 0x31), (20, t)]
def sTake (t : Nat) : State := wx (withQ [wTake t, wTake 0])
/-- A TAKE of a replay whose first run took the token. -/
def sTakeRe : State := wx { withQ [wTake 255] with ledger := ⟨true, [⟨some 5, 2, 1, 1, false, 0, false⟩], 3, true, 3, 0⟩ }
theorem witness_TakeWaitsForItsToken :
    ((sTake 255).headWord 3 0x31 = some (wTake 255) ∧ ((sTake 255).stn 3).ledger.replay = false ∧ bitAt ((sTake 255).stn 3).tokens 255 = false) ∧
    ((sTake 4).headWord 3 0x31 = some (wTake 4) ∧ bitAt ((sTake 4).stn 3).tokens (fld (wTake 4) 20 8) = true) ∧
    (sTakeRe.headWord 3 0x31 = some (wTake 255) ∧ (((sTakeRe.stn 3).popHead (wTake 255)).takeGuard true).2.2 = true) := by decide

def fGive (st : Stage) (k d : Nat) : Flight := { fl [(0, 0x32), (20, 255), (28, k)] with stage := st, cap := { cap0 with dests := List.replicate d 9 } }
def sGive (st : Stage) (k d : Nat) : State := wx (withFl [fGive st k d])
def sGivePres : State := wx { withFl [fGive .held 0 0] with tokens := 1 <<< 255 }
def sGiveLate : State := wx (withFl [{ fl [(0, 0x12)] with seq := 2 }, fGive .held 0 0])
def sTokFrom (x : Station) (src t : Nat) : State := (wx x).sendFlit ⟨src, 3, src, 7, none, .token t⟩
def sTok (t : Nat) : State := sTokFrom aw 142 t
theorem witness_TokensPassBetweenStations :
    ((sGive .issued 0 0).live = true ∧ ((sGive .issued 0 0).stn 3).iss.flight.find? (fun f => opc f.word = 0x32 && f.stage = .issued) = some (fGive .issued 0 0)) ∧
    ((sGive .held 0 0).live = true ∧ ((sGive .held 0 0).stn 3).iss.flight.find? (fun f => opc f.word = 0x32 && f.stage = .held) = some (fGive .held 0 0) ∧
      ((sGive .held 0 0).stn 3).earlierOpen 4 = false ∧ bitAt ((sGive .held 0 0).stn 3).tokens 255 = false) ∧
    (((sGive .held 1 1).stn 3).iss.flight.find? (fun f => opc f.word = 0x32 && f.stage = .held) = some (fGive .held 1 1) ∧ fld (fGive .held 1 1).word 28 2 ≠ 0) ∧
    ((sTok 200).works = true ∧ ((sTok 200).nextRequest 142 3).isSome = true ∧ bitAt ((sTok 200).stn 3).tokens 200 = false) ∧
    (((sTok 4).nextRequest 142 3).isSome = true ∧ bitAt ((sTok 4).stn 3).tokens 4 = true) ∧
    (((sTokFrom aw 9 200).nextRequest 9 3).isSome = true ∧ (9 : Nat) < 128 ∧ 9 ≠ (3 : Stn).val) ∧
    (((sTokFrom zz 9 200).nextRequest 9 3).isSome = true ∧ ((sTokFrom zz 9 200).stn 3).sleeps = true) ∧
    ((sGivePres.stn 3).earlierOpen 4 = false ∧ bitAt (sGivePres.stn 3).tokens 255 = true) ∧
    ((sGiveLate.stn 3).iss.flight.find? (fun f => opc f.word = 0x32 && f.stage = .held) = some (fGive .held 0 0) ∧ (sGiveLate.stn 3).earlierOpen 4 = true) := by decide

def wIlk (d : Nat) : PWord := pw [(0, 0x38), (20, 6), (28, d)]
def sIlk (d : Nat) : State :=
  let s := wx (withQ [wIlk d])
  { s with die := { s.die with runSet := [3, 9] } }
/-- Station 3 has an INTERLOCK at its head and has posted `p`; station 9, of the same job, has posted `q`. -/
def sIlk2 (d : Nat) (p q : Option Posted) (fs : List Flight) : State :=
  let s := (wx { aw with iss := { aw.iss with queue := [wIlk d], posted := p, flight := fs, next := 9 } }).setStn 9 { aw with iss := { aw.iss with posted := q } }
  { s with die := { s.die with runSet := [3, 9] } }
def sIlkBusy : State := sIlk2 0 none none [fl [(0, 0x12)]]
def sIlkPassed : State := sIlk2 0 (some ⟨false, 6, 2, false, true⟩) none []
def sIlkLast : State := sIlk2 0 none (some ⟨false, 6, 2, true, false⟩) []
def sIlkOther : State := sIlk2 1 none (some ⟨true, 7, 2, true, false⟩) []
def le0 : LedgerEntry := ⟨some 5, 2, 0, 0, false, 0, true⟩
def sLed : State := wx { aw with ledger := ⟨true, [le0, ⟨none, 3, 0, 0, false, 0, false⟩], 4, false, 0, 0⟩ }
theorem witness_ArrivalsPostAndLedgerEntriesCommit :
    ((sIlk 0).headWord 3 0x38 = some (wIlk 0) ∧ ((sIlk 0).stn 3).earlierOpen ((sIlk 0).stn 3).iss.next = false ∧ ((sIlk 0).stn 3).passedPost (wIlk 0) = false ∧
      9 ∈ (sIlk 0).jobSet ∧ ((sIlk 0).stn 9).iss.posted = none) ∧
    ((sIlk 1).headWord 3 0x38 = some (wIlk 1) ∧ (sIlk 1).otherIlk 6 = false ∧ bitAt (wIlk 1) 28 = true) ∧
    (sIlkBusy.headWord 3 0x38 = some (wIlk 0) ∧ (sIlkBusy.stn 3).earlierOpen 9 = true) ∧
    (sIlkPassed.headWord 3 0x38 = some (wIlk 0) ∧ (sIlkPassed.stn 3).earlierOpen 9 = false ∧ (sIlkPassed.stn 3).passedPost (wIlk 0) = true) ∧
    (sIlkLast.headWord 3 0x38 = some (wIlk 0) ∧ sIlkLast.jobSet = [3, 9] ∧ (sIlkLast.stn 9).iss.posted = some ⟨false, fld (wIlk 0) 20 8, 2, true, false⟩) ∧
    (sIlkOther.headWord 3 0x38 = some (wIlk 1) ∧ sIlkOther.otherIlk 6 = true) ∧
    (sLed.works = true ∧ (sLed.stn 3).commitable = some le0) := by decide

def fLd : Flight := fl [(0, 8), (20, 16383), (34, 100), (102, 2)]
def sLd : State := wx (withFl [fLd])
def fSt : Flight := fl [(0, 9), (20, 16383), (34, 100), (104, 2)]
def sSt : State := wx (withFl [fSt])
def fMc : Flight := { fl [(0, 0xA), (20, 1), (34, 100), (102, 2)] with cap := { cap0 with dests := [9, 10] } }
def sMc : State := wx (withFl [fMc])
/-- An LD of two blocks of S4 with their items in one line, and the state in which it meets an uncorrectable code line under inline ECC. -/
def fLdS : Flight := fl [(0, 8), (20, 5), (34, 100), (67, 300), (100, 1), (102, 4)]
def sLdUe : State := { (wx (withFl [fLd])).setReg 0x100814 1 with poison := [101] }
/-- An ST of one line to station 9. -/
def fStTo : Flight := { fl [(0, 9), (20, 5), (34, 100), (104, 1), (121, 1)] with cap := { cap0 with dests := [9] } }
theorem witness_MoverMovesLines :
    (sLd.live = true ∧ sLd.headOf 3 .mover = some fLd ∧ opc fLd.word = 8 ∧ (sLd.ldReads fLd.word (fLd.chunk (sLd.ldRoom 3 fLd [3]) none)).any (fun p => sLd.lineBad (ldLine fLd.word p.1) false) = false) ∧
    (sLdUe.live = true ∧ sLdUe.headOf 3 .mover = some fLd ∧ (sLdUe.ldReads fLd.word (fLd.chunk (sLdUe.ldRoom 3 fLd [3]) none)).find? (fun p => sLdUe.lineBad (ldLine fLd.word p.1) false) = some (1, true)) ∧
    (sSt.live = true ∧ sSt.headOf 3 .mover = some fSt ∧ opc fSt.word = 9 ∧ fld fSt.word 121 2 = 0) ∧
    ((wx (withFl [fStTo])).headOf 3 .mover = some fStTo ∧ opc fStTo.word = 9 ∧ fld fStTo.word 121 2 ≠ 0) ∧
    (sMc.live = true ∧ sMc.headOf 3 .mover = some fMc ∧ opc fMc.word = 0xA) := by decide

/-- A WR flit of `src` with line `l` of a transaction of `n` lines. -/
def wrF (src l n : Nat) (st : Option Stream) : Flit := ⟨src, 3, src, 6, none, .wr [(0xFFFFF, 0xFF, 9), (64, 0xF, 0xFF)] [l] n st⟩
def sWrA : State := (wx aw).sendFlit (wrF 9 0 1 none)
def sWrPart : State := (wx aw).sendFlit (wrF 9 0 2 none)
def sWrZ : State := (wx zz).sendFlit (wrF 9 0 1 none)
/-- The last line of an LD of the station itself. -/
def sWrOwn : State := (wx (withFl [{ fLd with stage := .sent, acks := 1, seq := 6 }])).sendFlit ⟨147, 3, 3, 6, none, .wr [(64, 0xFF, 9)] [0] 1 none⟩
/-- The line that completes block 0 of a stream of station 9. -/
def sWrSlip : State :=
  ((wx { aw with got := [⟨9, none, 4, [0]⟩] }).setStn 9 (withFl [{ fStTo with stage := .sent, acks := 1 }])).sendFlit ⟨9, 3, 9, 4, none, .wr [(64, 0xFF, 9)] [1] 2 (some ⟨2, 1, 0⟩)⟩
theorem witness_MeshPortAccesses :
    (sWrA.works = true ∧ (sWrA.nextRequest 9 3).isSome = true ∧ (sWrA.stn 3).sleeps = false ∧ arrivalSlip none [] [0] none = none) ∧
    ((sWrPart.nextRequest 9 3).isSome = true ∧ ((sWrPart.stn 3).gotOf 9 none 6 ++ [0]).dedup.length < 2) ∧
    ((sWrOwn.nextRequest 147 3).isSome = true ∧ ((sWrOwn.stn 3).flightOf 6).isSome = true) ∧
    ((sWrSlip.nextRequest 9 3).isSome = true ∧ arrivalSlip (some ⟨2, 1, 0⟩) ((sWrSlip.stn 3).gotOf 9 none 4) [0, 1] (some ⟨0, 1⟩) = some ⟨0, 1⟩ ∧ ((sWrSlip.stn 9).flightOf 4).isSome = true) ∧
    ((sWrZ.nextRequest 9 3).isSome = true ∧ (sWrZ.stn 3).sleeps = true ∧ (sWrZ.stn 3).routerHeld.length < 128) := by decide

def fCon : Flight := { fl [(0, 0x20), (111, 1), (116, 1), (88, 3)] with cap := { cap0 with desc := List.replicate 32 0 } }
def sCon : State := wx (withFl [fCon])
def fConS : Flight := { fCon with stage := .sent, result := 5 }
def sConS : State := wx (withFl [fConS])
def fConFar : Flight := { fl [(0, 0x20), (111, 1), (116, 1), (88, 3), (102, 1)] with cap := { cap0 with desc := List.replicate 32 0, dests := [9] } }
theorem witness_ConsistRunsAndCompletes :
    (sCon.works = true ∧ sCon.headOf 3 .consist = some fCon ∧ opc fCon.word = 0x20 ∧ slipAt (sCon.stn 3) fCon ob.slip = none ∧ ob.ue = none ∧ fld fCon.word 102 2 = 0) ∧
    ((wx (withFl [fConFar])).headOf 3 .consist = some fConFar ∧ fld fConFar.word 102 2 = 1) ∧
    ((wx (withFl [{ fConS with acks := 1 }])).stn 3).iss.flight.find? (fun f => opc f.word = 0x20) = some { fConS with acks := 1 } ∧
    (sConS.works = true ∧ (sConS.stn 3).iss.flight.find? (fun f => opc f.word = 0x20) = some fConS ∧ fConS.stage = .sent ∧ fConS.acks = 0 ∧ fConS.owed = 0) := by decide

/-! ### Witnesses: run control, tokens, sessions, jobs, experts -/

def sStop : State := wx { aw with ctl := { aw.ctl with run := .stopped, issueOff := true }, iss := { aw.iss with queue := [0x7F] } }
def sAwk : State := wx aw
def sSleep : State := wx zz
def sStopping : State := wx { aw with ctl := { aw.ctl with sleepReq := true } }
def sWaked : State := wx { zz with ctl := { zz.ctl with wakeReq := true } }
theorem witness_RunControlWrites :
    (sStop.writeServed (pageBase 3 + 4) = true ∧ sStop.supState = 0 ∧ (sStop.stn 3).ctl.run = .stopped) ∧
    (sAwk.writeServed (pageBase 3 + 4) = true ∧ (sAwk.stn 3).ctl.run = .awake ∧ (sAwk.stn 3).ctl.sleepReq = false) ∧
    (sSleep.writeServed (pageBase 3 + 4) = true ∧ (sSleep.stn 3).ctl.run = .asleep ∧ (sSleep.stn 3).ctl.wakeReq = false ∧ (sSleep.stn 3).ctl.admitted = false) ∧
    ((sStopping.stn 3).ctl.run = .awake ∧ (sStopping.stn 3).ctl.sleepReq = true ∧ (sWaked.stn 3).ctl.wakeReq = true) := by decide

def sReq : State := wx { aw with ctl := { aw.ctl with sleepReq := true } }
def sReqBusy : State := sReq.sendFlit ⟨9, 3, 9, 6, none, .token 5⟩
def sWaking (h : List Flit) : State := wx { aw with ctl := { aw.ctl with run := .waking, retention := true, stopHeld := true }, routerHeld := h }
def sStag : State := wx { aw with iss := { aw.iss with stagger := true } }
def sStagHeld : State := { sStag with die := { sStag.die with gov := { sStag.die.gov with returning := true } } }
theorem witness_StationsSleepAndWake :
    (sReq.live = true ∧ (sReq.stn 3).ctl.sleepReq = true ∧ (sReq.stn 3).iss.queue = [] ∧ (sReq.stn 3).iss.flight = [] ∧ (sReq.stn 3).atPost = false ∧ sReq.accessPending 3 = false) ∧
    ((sReqBusy.stn 3).ctl.sleepReq = true ∧ sReqBusy.accessPending 3 = true) ∧
    (sSleep.live = true ∧ (sSleep.stn 3).ctl.run = .asleep ∧ (sSleep.stn 3).ctl.retention = false) ∧
    ((sWaking []).live = true ∧ ((sWaking []).stn 3).ctl.run = .waking ∧ ((sWaking []).stn 3).ctl.retention = true ∧ ((sWaking []).stn 3).routerHeld = [] ∧
      (sWaking []).die.mesh.any (isBar2To 3) = false) ∧
    (((sWaking [⟨9, 3, 9, 6, none, .token 255⟩]).stn 3).routerHeld = [⟨9, 3, 9, 6, none, .token 255⟩] ∧ bitAt ((sWaking [⟨9, 3, 9, 6, none, .token 255⟩]).stn 3).tokens 255 = false) ∧
    ((sWaking [wrF 9 0 1 none]).stn 3).routerHeld = [wrF 9 0 1 none] ∧
    (sStag.live = true ∧ (sStag.stn 3).iss.stagger = true ∧ sStag.departuresHeld = false) ∧ ((sStagHeld.stn 3).iss.stagger = true ∧ sStagHeld.departuresHeld = true) := by decide

theorem witness_TokenWindowAndTicketWrites :
    (sAwk.supState = 0 ∧ sAwk.writeServed (pageBase 3 + 0x300 + 4 * 7) = true ∧ sAwk.writeServed (pageBase 3 + 0x320 + 4 * 7) = true ∧
      sAwk.writeServed (pageBase 3 + 0x8000 + 4 * 8191) = true ∧ (sAwk.stn 3).ctl.run ≠ .stopped ∧ sAwk.writeServed 0x208000 = true) ∧
    (sStop.writeServed (pageBase 3 + 0x8000 + 4 * 8191) = true ∧ (sStop.stn 3).ctl.run = .stopped) := by decide

def sSess (st : Word) : State := (up.setReg (sessAddr 10239 0) st).setReg (sessAddr 10239 5) 0x01020304
theorem witness_SessionWrites :
    ((sSess 1).supState = 0 ∧ (sSess 1).writeServed 0x400000 = true ∧ (sSess 1).sessState 10239 ≠ 3 ∧ ((sSess 1).sessState 10239, 2) ∈ [(0, 1), (1, 2), (1, 0), (2, 0), (4, 0)]) ∧
    ((sSess 3).sessState 10239 = 3 ∧ fld (BitVec.ofNat 32 (10239 + 2 ^ 14)) 0 14 = 10239 ∧ fld (BitVec.ofNat 32 (10239 + 2 ^ 14)) 14 2 = 1) ∧
    ((sSess 2).sessState 10239 = 2 ∧ (2, 2) ∉ [(0, 1), (1, 2), (1, 0), (2, 0), (4, (0 : Nat))]) := by decide

def sJob (p : Nat) : State :=
  let s := up.setReg 0x1001C 1
  { s with plan := { Plan.none with job := true, loader := [0x73, 0, 0, 0], programs := [(1 <<< 3, [1])] }, die := { s.die with job := ⟨p, 0, false⟩ } }
def sBound (serving : Bool) (cs : List (List (Nat × Word × Word))) : State :=
  let s := wx { aw with iss := { aw.iss with posted := some ⟨true, 6, 2, true, false⟩ } }
  { s with plan := { Plan.none with stepIlk := 6, serving := serving, counters := cs }, die := { s.die with jobStarted := true, jobStns := [3], job := ⟨2, 4, false⟩ } }
def sBound2 : State := { sBound false [] with plan := Plan.none }
def sJobBusy : State := (sJob 1).setStn 9 aw
theorem witness_JobsStartAndStep :
    ((sJob 0).mayStartJob = true ∧ (sJob 0).die.job.phase = 0 ∧ (sJob 0).plan.loader.length ≤ 0x10000) ∧
    ((sJob 1).mayStartJob = true ∧ (sJob 1).die.job.phase = 1 ∧ (sJob 1).allStopped = true) ∧
    (sBound2.postedIlk = some 6 ∧ sBound2.live = true ∧ sBound2.die.jobStarted = true ∧ sBound2.die.net.boundary = false ∧ sBound2.die.net.ilk.own = false ∧
      sBound2.die.net.snap = none ∧ sBound2.die.net.roll = none ∧ 6 ≠ sBound2.plan.stepIlk) ∧
    ((sBound false []).postedIlk = some 6 ∧ 6 = (sBound false []).plan.stepIlk ∧ (sBound false []).plan.serving = false ∧ (sBound false []).plan.counters.getD 5 [] = []) ∧
    ((sBound true []).postedIlk = some 6 ∧ (sBound true []).plan.serving = true ∧ (sJob 1).planStns ≠ [] ∧ sJobBusy.mayStartJob = true ∧ sJobBusy.allStopped = false) ∧
    ((sBound false [[], [], [], [], [], [(63, 1, 9)]]).postedIlk = some 6 ∧ (sBound false [[], [], [], [], [], [(63, 1, 9)]]).plan.counters.getD 5 [] = [(63, 1, 9)]) := by decide

def sExp : State := up.setStn 127 aw
theorem witness_RefreshExponentsAreDerived :
    sExp.live = true ∧ sExp.poison = [] ∧ (sExp.stn (32767 / 256)).sleeps = false ∧ (400 : Nat) < 401 ∧ ((up.setStn 127 zz).stn (32767 / 256)).sleeps = true ∧ ((up.setStn 127 zz).stn (32767 / 256)).routerHeld.length < 128 := by decide

def xq5 (busy : Bool) (round : Nat) (marks : List (Nat × Nat × Bool)) : XQueue :=
  { XQueue.reset with cfg := [BitVec.ofNat 32 (1 + 9 * 2 + 1 * 2 ^ 8 + 1 * 2 ^ 18 + 1 * 2 ^ 14), BitVec.ofNat 32 (2 + 2 * 256 + 7 * 2 ^ 16 + 1 * 2 ^ 24), 0, 0, 0, 0, 0], busy := busy, round := round, marks := marks }
def fDis : Flight := { fl [(0, 0x40), (48, 3), (62, 3), (67, 2), (81, 1)] with cap := { cap0 with xmap := [BitVec.ofNat 32 (1 + 5 * 4)] } }
def dr0 : DispRec := ⟨4, fDis.word, false, [], [], [], [], [], [], [], none⟩
/-- Routing record: each of three tokens has expert 0. -/
def routePm : SMap Byte := [(196, 1), (304, 1), (368, 1), (432, 1)]
def sDis (x : XQueue) : State :=
  (wx { withFl [fDis] with disp := [dr0], pm := routePm }).setXq 5 x
def fGat : Flight := fl [(0, 0x41), (62, 1), (67, 2), (81, 1)]
def dr1 (us : List Routed) : DispRec := ⟨2, fDis.word, true, [(none, 5, 0)], [⟨0, 0, none, 5, 0⟩], [], us, [(none, 5)], [(none, 5)], [], some 4⟩
def sGat (st : Stage) (us : List Routed) : State := wx { withFl [{ fGat with stage := st }] with disp := [dr1 us] }
/-- The result that the GATHER waits for is in the mesh. -/
def sGatRes : State := (sGat .sent [⟨0, 0, none, 5, 0⟩]).sendFlit ⟨syncHub, 3, syncHub, 2, none, .xqRes 5 0 0 (List.replicate 128 7) (List.replicate 4 1)⟩
def obSlip : Obs := { ob with slip := some ⟨1, 9⟩ }
theorem witness_DispatchSendsItsShare :
    ((sDis (xq5 false 1 [])).live = true ∧ (sDis (xq5 false 1 [])).headOf 3 .mover = some fDis ∧ (sDis (xq5 false 1 [])).dispatchSlip 3 ob.slip = none ∧
      ((sDis (xq5 false 1 [])).stn 3).iss.flight = [fDis] ∧ opc fDis.word = 0x40 ∧ (sDis (xq5 false 1 [])).queuesOf fDis = [(none, 5, 0)] ∧
      ((sDis (xq5 false 1 [])).stn 3).disp = [dr0] ∧ dr0.seq = fDis.seq ∧ dr0.sentTo = [] ∧ dr0.part = [] ∧ ((sDis (xq5 false 1 [])).xq 5).serves = true ∧
      (((sDis (xq5 false 1 [])).stn 3).known none 5).round = some 1 ∧ ob.upto = none ∧
      ((sDis (xq5 false 1 [])).xq 5).share < ((sDis (xq5 false 1 [])).routesOf ((sDis (xq5 false 1 [])).stn 3).pm fDis).length) ∧
    ((sDis XQueue.reset).queuesOf fDis = [(none, 5, 0)] ∧ ((sDis XQueue.reset).xq 5).serves = false) ∧
    (sDis XQueue.reset).dispatchSlip 3 obSlip.slip = some (fDis, ⟨1, 9⟩) ∧
    ((sGat .issued []).live = true ∧ (sGat .issued []).headOf 3 .mover = some fGat ∧ ob.slip = none) ∧
    ((sGat .sent []).headOf 3 .mover = none ∧ ((sGat .sent []).stn 3).flightOf 4 = some { fGat with stage := .sent } ∧
      ((sGat .sent []).stn 3).disp.find? (fun d => d.gather = some 4) = some (dr1 []) ∧ (dr1 []).unplaced = []) ∧
    (sGatRes.headOf 3 .mover = none ∧ (takeFlit (fun g => awaited 3 (dr1 [⟨0, 0, none, 5, 0⟩]) g && sGatRes.pathOpen g.src 3) sGatRes.die.mesh).isSome = true ∧
      fld fGat.word 67 8 * 64 = 128) := by decide

def sMarkOf (len n : Nat) (more : Bool) : State :=
  (((up.setStn 9 { aw with tokens := 0x12 }).setXq 5 (xq5 false 1 [])).sendFlit ⟨3, syncHub, 3, 4, none, .xqVec 5 1 0 0 1 (List.replicate len 1) (List.replicate 4 2)⟩).sendFlit ⟨3, syncHub, 3, 4, none, .xqMark 5 1 n more⟩
def sMark : Nat → Bool → State := sMarkOf 128
/-- A vector of another length, of a station whose DISPATCH is in flight. -/
def sMarkBad : State := (sMarkOf 64 1 false).setStn 3 (withFl [{ fDis with stage := .sent, acks := 1 }])
/-- The only rank has nothing for the queue. -/
def sMarkNone : State :=
  (up.setXq 5 { xq5 false 1 [] with cfg := [BitVec.ofNat 32 (1 + 9 * 2 + 1 * 2 ^ 18)] }).sendFlit ⟨3, syncHub, 3, 4, none, .xqMark 5 0 0 false⟩
/-- As `s`, with the first link of station 3 towards the sync hub stopped. -/
def cut (s : State) : State := { s with die := { s.die with links := ((route 3 syncHub).take 1).map (fun c => ⟨c.1, c.2, true, 8, none⟩) } }
def sRound : State := (up.setStn 9 aw).setXq 5 { xq5 false 2 [(0, 1, true), (1, 0, false)] with expect := [0, 1], vecs := [(0, 0, 0, List.replicate 128 1, List.replicate 4 2)], srcs := [(0, 3, none)] }
def sTout (m : Bool) : State := (up.setStn 9 aw).setXq 5 { xq5 true 2 [(0, 1, m), (1, 0, false)] with expect := [0, 1], served := [(0, 0, 0, 0)], srcs := [(0, 3, none)] }
def sToutZ : State := (sTout true).setStn 9 zz
theorem witness_ExpertQueuesRunRounds :
    ((sMark 1 true).live = true ∧ ((sMark 1 true).xq 5).serves = true ∧ ((sMark 1 true).xq 5).busy = false ∧ 1 ∈ ((sMark 1 true).xq 5).expected ∧
      (takeFlit (isMarkOf 5 1) (sMark 1 true).die.mesh).isSome = true ∧ (sMark 1 true).pathOpen 3 syncHub = true) ∧
    ((takeFlit (isMarkOf 5 1) sMarkBad.die.mesh).isSome = true ∧ ((sMarkBad.xq 5).takes ⟨3, syncHub, 3, 4, none, .xqVec 5 1 0 0 1 (List.replicate 64 1) (List.replicate 4 2)⟩) = false ∧ ((sMarkBad.stn 3).flightOf 4).isSome = true) ∧
    ((sMarkNone.xq 5).expected = [0] ∧ (takeFlit (isMarkOf 5 0) sMarkNone.die.mesh).isSome = true) ∧ (cut (sMark 1 true)).pathOpen 3 syncHub = false ∧
    (sRound.live = true ∧ (sRound.xq 5).serves = true ∧ (sRound.xq 5).busy = false ∧ (sRound.xq 5).full = true ∧ (∃ k ∈ (sRound.xq 5).marks, 0 < k.2.1)) ∧
    ((sTout true).live = true ∧ ((sTout true).xq 5).serves = true ∧ ((sTout true).xq 5).busy = true ∧ ((sTout true).xq 5).awaitedBy = true ∧ ((sTout true).stn 9).sleeps = false ∧
      bitAt ((sTout true).stn ((sTout true).xq 5).owner).tokens (fld (((sTout true).xq 5).word 1) 24 8) = true) ∧
    ((sToutZ.stn (sToutZ.xq 5).owner).sleeps = true ∧ bitAt (sToutZ.stn (sToutZ.xq 5).owner).tokens 1 = true) := by decide

/-! ### Witnesses: links, memory, interlocks, collectives -/

/-- The link into the router of station 127 from its −x side: stopped or not, failures, last retraining. -/
def sFlk (st : Bool) (n : Nat) (r : Option Nat) : State := { up with die := { up.die with links := [⟨127, 1, st, n, r⟩] } }
theorem witness_MeshLinksRetryAndStop :
    (linkExists 127 1 = true ∧ (sFlk false 6 none).powered = true ∧ (sFlk false 6 none).supState = 0 ∧ ((sFlk false 6 none).meshLink 127 1).stopped = false ∧
      ((sFlk false 6 none).meshLink 127 1).fails + 1 < 8) ∧
    (((sFlk false 7 none).meshLink 127 1).stopped = false ∧ 7 ≤ ((sFlk false 7 none).meshLink 127 1).fails ∧ ((sFlk false 7 none).meshLink 127 1).retrained = none ∧ (127, 1) ∈ route 126 127) ∧
    (((sFlk false 7 (some 99999)).meshLink 127 1).retrained = some 99999 ∧ (sFlk false 7 (some 99999)).uptime - 99999 < day) ∧
    (((sFlk true 8 none).meshLink 127 1).stopped = true ∧ (sFlk true 8 none).isRetired = false) ∧ linkExists 0 3 = false := by decide

def sBadLine : State := { up with poison := [100, 5368709119, 4844421119] }
/-- The last line of 320 GiB. -/
def lastLine : Nat := 5368709119
def sHaltLate : State := { up.setReg 0x40000 1 with sup := { up.sup with ticks := 2800 } }
theorem witness_ControllersServeRequests :
    (up.capBytes ≤ (lastLine + 1) * 64 ∧ lastLine * 64 < up.capBytes ∧ up.memUp = true ∧ up.lineBad lastLine false = false ∧ up.inEcc 0 = false ∧ up.inEcc lastLine = true) ∧
    (sBadLine.memUp = true ∧ sBadLine.lineBad lastLine false = true ∧ up.patrolled lastLine = true ∧ up.patrolled 0 = false) ∧
    (sHaltLate.memUp = false ∧ sHaltLate.powered = true ∧ State.reset.memUp = false ∧ State.reset.powered = false) := by decide

def sSlow : State := (up.setReg 0x113000 0xFF).setReg 0x60000 1
theorem witness_ControllersKeepChannels :
    (up.memUp = true ∧ bitAt (up.reg (0x100000 + 0x1000 * 19)) (4 + 3) = false ∧ up.isRetired = false) ∧
    (sSlow.memUp = true ∧ bitAt (sSlow.reg (0x100000 + 0x1000 * 19)) (4 + 3) = true ∧ sSlow.isRetired = true) ∧ sHaltLate.memUp = false := by decide

def gLine (k j : Nat) : Nat := up.goldenLine + 80 * k + j
/-- In RUNNING with the loaders done, with a golden line uncorrectable. -/
def sGold (k j : Nat) : State :=
  let s := (up.setReg 0x10000 6).setStn 3 { aw with banks := [(4, { Bank.reset with zero := false, rows := [(5, 9)], fmt := 0, wexp := [(0, 127)] })] }
  { s with poison := [gLine k j], die := { s.die with job := ⟨2, 0, false⟩ } }
def sGoldReady : State := { up with poison := [gLine (3 * 256 + 4) 5] }
def sSusp : State := (sGold (3 * 256 + 4) 5).setReg (pageBase 3 + 0x15C) 2
def sRwo : State := { up with die := { up.die with rwo := [0x100804] } }
theorem witness_GoldenCopyAndRegions :
    ((sGold 772 79).live = true ∧ (sGold 772 79).region (gLine 772 79 * 64) = .golden ∧ gLine 772 79 ∈ (sGold 772 79).poison ∧
      (sGold 772 79).itemEnd 772 (((sGold 772 79).stn 3).bank 1 0) ≤ 79) ∧
    ((sGold 772 65).region (gLine 772 65 * 64) = .golden ∧ gLine 772 65 ∈ (sGold 772 65).poison ∧ (sGold 772 65).suspect 3 1 = false ∧ (sGold 772 65).macrosLoaded = true ∧
      65 < (sGold 772 65).itemEnd 772 (((sGold 772 65).stn 3).bank 1 0)) ∧
    (sSusp.live = true ∧ sSusp.region (gLine 772 5 * 64) = .golden ∧ gLine 772 5 ∈ sSusp.poison ∧ sSusp.suspect 3 1 = true) ∧
    (sGoldReady.live = true ∧ gLine 772 5 ∈ sGoldReady.poison ∧ sGoldReady.macrosLoaded = false) ∧
    (up.supState = 0 ∧ up.writeServed 0x1001C = true ∧ up.mstate = 5 ∧ up.writeServed 0x100804 = true ∧ 0x100804 ∉ up.die.rwo ∧ up.memRefused 0x100804 64 = false) ∧
    (0x100814 ∉ up.die.rwo ∧ up.memRefused 0x100814 0x3FF = true) ∧ (0x100804 ∈ sRwo.die.rwo ∧ sRwo.writeServed 0x100804 = true) := by decide

/-- Module 1 of a domain of two: port `p` in state `st` with all lanes. -/
def dom (p : Nat) (st : Nat) (q : Port) : State :=
  (((((up.setReg 0x80800 1).setReg 0x80804 0x1042).setReg 0x80808 0x10000).setReg (portBase p) (BitVec.ofNat 32 (st + 0x3C))).setReg (portBase p + 4) 1).setPort p q
def frm (b : FrameBody) (sq : Nat) : Frame := ⟨0, 0, 0, sq, 4095, false, 1, 0, 1, 0, none, none, b⟩
def fTok : FrameBody := .data [⟨9, 3, 9, 6, none, .token 5⟩]
/-- A NAK for frame 3 by a LINKCTL frame. -/
def frmNak : Frame := ⟨4, 2, 0, 9, 2, true, 1, 0, 0, 0, none, none, .linkctl none⟩
/-- A module of a domain of three with the ports of both its X directions up. -/
def dom3 : State := ((((dom 0 2 Port.reset).setReg 0x80804 0x1043).setReg (portBase 2) 0x3E).setReg (portBase 2 + 4) 1).setReg 0x80808 0x10000
theorem witness_PortsReceiveFrames :
    ((dom 11 2 { Port.reset with fails := 6 }).linked = true ∧ (dom 11 2 { Port.reset with fails := 6 }).portUp 11 = true ∧ ((dom 11 2 { Port.reset with fails := 6 }).port 11).fails < 7) ∧
    ((dom 0 2 { Port.reset with fails := 7 }).portUp 0 = true ∧ (dom 0 2 { Port.reset with fails := 7 }).isAwaited 0 (frm fTok 0) = true) ∧
    ((dom 0 2 Port.reset).portUp 0 = true ∧ (dom 0 2 Port.reset).isAwaited 0 (frm fTok 0) = true ∧ (frm fTok 0).legal = true ∧
      (frm fTok 0).dmod = (dom 0 2 Port.reset).modid ∧ (frm fTok 0).nak = false ∧ (frm fTok 0).orig = none) ∧
    ((dom 0 2 Port.reset).isAwaited 0 (frm fTok 1) = false ∧ notAfter ((dom 0 2 Port.reset).port 0).rxLast 1 = false) ∧
    (dom3.portUp 0 = true ∧ dom3.isAwaited 0 { frm fTok 0 with dmod := 2 } = true ∧ 2 ≠ dom3.modid ∧ (dom3.exitPort 2 0).isSome = true) ∧
    (notAfter ((dom 0 2 Port.reset).port (sibling 0)).rxLast 4095 = true) ∧
    ((ackedAway 2 [frm fTok 2, frm fTok 3]).length = 1 ∧ frmNak.legal = true ∧ frmNak.nak = true) ∧
    ({ frm fTok 0 with cls := 3 } : Frame).legal = false := by decide

/-- Two siblings up; the first has a bad half and keeps a frame and a waiting one. -/
def sPair : State :=
  ((dom 0 2 { Port.reset with badLanes := 1, sent := [frm fTok 3], wait := [⟨frm fTok 4, none⟩] }).setReg (portBase (sibling 0)) 0x3E).setReg (portBase (sibling 0) + 4) 1
theorem witness_PortsTrainAndFail :
    ((dom 0 1 Port.reset).linked = true ∧ (dom 0 1 Port.reset).portUsed 0 = true ∧ (dom 0 1 Port.reset).portState 0 = 1 ∧ lanesFor 0x9 = 0 ∧ lanesFor 0x1 ≠ 0 ∧ (dom 0 1 Port.reset).wantedPeer 0 = (0, 2)) ∧
    ((dom 0 2 Port.reset).portUp 0 = true ∧ bitAt ((dom 0 2 Port.reset).reg (portBase 0)) (2 + 3) = true ∧ lanesFor (putBit ((dom 0 2 Port.reset).port 0).badLanes 3 true) ≠ 0) ∧
    (bitAt ((dom 0 2 { Port.reset with badLanes := 1 }).reg (portBase 0)) (2 + 3) = true ∧ lanesFor (putBit ((dom 0 2 { Port.reset with badLanes := 1 }).port 0).badLanes 3 true) = 0) ∧
    ((dom 0 0 Port.reset).supState = 0 ∧ (dom 0 0 Port.reset).writeServed (portBase 0 + 4) = true ∧ (dom 0 0 Port.reset).portEn 0 = true ∧
      ((dom 0 0 Port.reset).setReg (portBase 0 + 4) 0).portEn 0 = false ∧ ((dom 0 0 Port.reset).setReg (portBase 0 + 4) 0).portUsed 0 = true) ∧
    ((dom 0 1 Port.reset).inTraining 0 = true ∧ (dom 0 2 Port.reset).inTraining 0 = false) ∧
    (sPair.portUp 0 = true ∧ sPair.portUp (sibling 0) = true ∧ bitAt (sPair.reg (portBase 0)) (2 + 3) = true ∧ lanesFor (putBit (sPair.port 0).badLanes 3 true) = 0) := by decide

/-- Module `m` of a domain of two, root 0, its station 3 waiting at domain interlock 6. -/
def ilkAt (m : Nat) (n : Net) : State :=
  let s := ((((up.setReg 0x80800 (BitVec.ofNat 32 m)).setReg 0x80804 0x1042).setReg 0x80808 (BitVec.ofNat 32 (m * 65536))).setReg 0x80810 1000).setStn 3 { aw with iss := { aw.iss with posted := some ⟨true, 6, 2, true, false⟩ } }
  { s with die := { s.die with runSet := [3], net := n } }
def ilkSolo (n : Net) : State := (ilkAt 0 n).setReg 0x80804 0x1041
def nBnd : Net := { Net.reset with boundary := true }
def nOwn : Net := { Net.reset with ilk := { Ilk.reset with ilk := 6, own := true } }
def run7 : SnapRun := ⟨7, 0, false, false⟩
/-- A snapshot into the own region is due at the release. -/
def ilkSnap : State := ((ilkSolo nBnd).setReg 0x80818 13).setReg 0x80820 6
/-- The copy of generation 7 runs; `own` says that the module has arrived at the commit interlock. -/
def ilkCopy (s : Net → State) (own : Bool) : State :=
  let t := (s { nOwn with snap := some run7, snapIlk := { Ilk.reset with ilk := 6, own := own } }).setReg 0x80820 6
  { t with snapOut := some ⟨7, (wx aw).die, [], []⟩ }
def ilkLinks : State := (ilkAt 1 Net.reset).setReg 0x10000 4
theorem witness_InterlocksAndCommitsRunOnTheTree :
    ((ilkAt 0 nBnd).postedIlk = some 6 ∧ (ilkAt 0 nBnd).live = true ∧ (ilkAt 0 nBnd).die.net.ilk.own = false ∧ (ilkAt 0 nBnd).die.net.snap = none ∧ (ilkAt 0 nBnd).die.net.roll = none ∧
      (ilkAt 0 nBnd).die.net.boundary = true ∧ (ilkAt 0 nBnd).die.net.ilk.arrived = [] ∧ (ilkAt 0 nBnd).children = [1] ∧ (ilkAt 0 nBnd).die.net.ilk.sentUp = false) ∧
    ((ilkSolo nBnd).postedIlk = some 6 ∧ (ilkSolo nBnd).children = [] ∧ (ilkSolo nBnd).isRoot = true ∧ (ilkSolo nBnd).domainSize = 1) ∧
    ((ilkAt 0 nBnd).linked = true ∧ (ilkAt 0 nBnd).staleLce 0 = false ∧ 1 ∈ (ilkAt 0 nBnd).children ∧ 1 ∉ ((ilkAt 0 nBnd).die.net.ilkOf ((ilkAt 0 nBnd).kindOf 6)).present ∧
      (ilkAt 0 nBnd).arriveFits ((ilkAt 0 nBnd).kindOf 6) 6 0 8 = true ∧ (ilkAt 0 nBnd).arriveFits ((ilkAt 0 nBnd).kindOf 6) 6 0 9 = false ∧
      ((ilkAt 0 nBnd).setReg 0x80834 5).staleLce 4 = true) ∧
    ((ilkAt 1 nOwn).linked = true ∧ (ilkAt 1 nOwn).mstate ≠ 4 ∧ (ilkAt 1 nOwn).kindOf 6 = .domain ∧ (ilkAt 1 nOwn).staleLce 0 = false ∧ (ilkAt 1 nOwn).die.net.ilk.own = true ∧
      (ilkAt 1 nOwn).die.net.ilk.ilk = 6 ∧ (ilkAt 1 nBnd).die.net.ilk.own = false) ∧
    ((ilkAt 1 nBnd).postedIlk = some 6 ∧ (ilkAt 1 nBnd).children = [] ∧ (ilkAt 1 nBnd).isRoot = false) ∧
    (ilkSnap.postedIlk = some 6 ∧ ilkSnap.snapDue 6 (ilkSnap.iseq + 1).toNat = true) ∧
    ((ilkAt 0 nOwn).arriveFits ((ilkAt 0 nOwn).kindOf 6) 6 0 8 = true ∧ (ilkAt 0 nOwn).isRoot = true ∧ (ilkAt 0 nOwn).domainSize = 2) ∧
    (ilkLinks.linked = true ∧ ilkLinks.mstate = 4 ∧ ilkLinks.die.net.roll = none) ∧
    ((ilkCopy (ilkAt 1) true).kindOf 6 = .commit ∧ (ilkCopy (ilkAt 1) true).die.net.snap = some run7 ∧ (ilkCopy (ilkAt 1) true).die.net.snapIlk.own = true) ∧
    ((ilkCopy (ilkAt 0) false).live = true ∧ (ilkCopy (ilkAt 0) false).copiesDone run7 = true ∧ (ilkCopy (ilkAt 0) false).children ≠ []) ∧
    ((ilkCopy ilkSolo false).copiesDone run7 = true ∧ (ilkCopy ilkSolo false).children = [] ∧ (ilkCopy ilkSolo false).domainSize = 1) ∧
    ((ilkCopy (ilkAt 0) false).setReg 0x80820 0).copiesDone run7 = false := by decide

def nTim (k : Nat) : Net := { Net.reset with timer := ⟨k, true, []⟩, snap := some ⟨7, 2000, false, false⟩ }
def sDead (k : Nat) : State := (ilkAt 0 (nTim k)).setReg 0x8081C 2000
def sPaus : State := (ilkAt 0 { Net.reset with halts := [(1, 4)], paused := 4000 }).setReg 0x80814 1
theorem witness_DeadlinesAndNotices :
    ((sDead 1000).live = true ∧ (sDead 1000).die.net.timer.running = true ∧ (sDead 1000).deadline = 1000 ∧ (sDead 1000).die.net.ilk.own = false ∧ (sDead 1000).modid ∉ (sDead 1000).die.net.timer.named) ∧
    ((sDead 1062).silentChild = some 1 ∧ (sDead 1062).deadline + (sDead 1062).deadline / 16 ≤ (sDead 1062).die.net.timer.ticks) ∧
    ((sDead 0).die.net.snap = some ⟨7, 2000, false, false⟩ ∧ ((sDead 0).reg 0x8081C).toNat = 2000) ∧
    ((sDead 0).linked = true ∧ (2, 1, 8, 3) ∉ (sDead 0).die.net.seen ∧ (0, 1, 8, 0) ∉ (sDead 0).die.net.seen ∧ (1, 1, 8, 0) ∉ (sDead 0).die.net.seen) ∧
    (sPaus.linked = true ∧ sPaus.die.net.halts ≠ [] ∧ fld (sPaus.reg 0x80814) 0 24 * 4000 ≤ sPaus.die.net.paused) := by decide

def fCol : Flight := fl [(0, 0x13), (20, 2), (49, 1), (54, 1), (61, 1), (62, 5)]
def inst5 : CollInst := ⟨5, 0, 1, 1, [], [], none, false, false, some Slot.clear, [(3, 2)]⟩
def sCol (n : Net) (x : Station) : State :=
  let s := (((up.setReg 0x80800 1).setReg 0x80804 0x1042).setReg 0x80808 0x10000).setStn 3 x
  { s with die := { s.die with net := n, colls := [(5, ⟨1, 9, 7, [0, 0, 0], [2, 1, 1], [1, 1, 1], [0, 0, 0], 0⟩)] } }
/-- This module's own contribution is in and the image of module 0 awaited; `kind` 1 combines, 3 hands on. -/
def sColIn : State := sCol { Net.reset with insts := [{ inst5 with own := [(9, 2)], result := none }] } aw
/-- As `sColIn` at the root member. -/
def sColRoot : State := (sColIn.setReg 0x80800 0).setReg 0x80808 0
def tlRes : Tile := { tl0 with seq := none, src := 0, write := true, rtok := some 255 }
theorem witness_CollectivesCombine :
    ((sCol Net.reset (withFl [fCol])).accHead 3 0x13 = some fCol ∧ bitAt fCol.word 61 = true ∧ (sCol Net.reset (withFl [fCol])).collRoom 5 0 = true) ∧
    ((sCol { Net.reset with insts := List.replicate 4 { inst5 with inst := 9 } } (withFl [fCol])).collRoom 5 0 = false) ∧
    ((sCol Net.reset aw).linked = true ∧ ((sCol Net.reset aw).die.net.inst 5 0).bad = false ∧ ((sCol Net.reset aw).die.net.inst 5 0).own = [] ∧
      ((sCol Net.reset aw).die.net.inst 5 0).images = [] ∧ (sCol Net.reset aw).ownIn ((sCol Net.reset aw).coll 5) ((sCol Net.reset aw).die.net.inst 5 0) = false) ∧
    (((sCol { Net.reset with insts := [{ inst5 with result := none }] } aw).die.net.inst 5 0).due ≠ [] ∧ ((sCol { Net.reset with insts := [{ inst5 with result := none }] } aw).die.net.inst 5 0).mext = 1) ∧
    ((sCol { Net.reset with insts := [inst5] } (withFl [fl [(0, 1), (20, 2), (26, 1), (36, 1), (44, 1), (49, 1), (64, 1)]])).live = true ∧
      ((sCol { Net.reset with insts := [inst5] } (withFl [fl [(0, 1), (20, 2), (26, 1), (36, 1), (44, 1), (49, 1), (64, 1)]])).stn 3).arrive = [] ∧
      ((sCol { Net.reset with insts := [inst5] } (withFl [fl [(0, 1), (20, 2), (26, 1), (36, 1), (44, 1), (49, 1), (64, 1)]])).stn 3).slotsFree 3 false
        (resultTile ((sCol { Net.reset with insts := [inst5] } aw).coll 5) inst5 2 Slot.clear).named = false) ∧
    ((sCol Net.reset { aw with arrive := [tlRes] }).adds 3 = true ∧ tlRes.write = true ∧ ((sCol Net.reset { aw with arrive := [tlRes] }).stn 3).slotsFree 3 false tlRes.named = true ∧
      bitAt ((sCol Net.reset { aw with arrive := [tlRes] }).stn 3).tokens 255 = false) ∧
    (sColIn.collRoom 5 0 = true ∧ (sColIn.die.net.inst 5 0).bad = false ∧ sColIn.ownIn (sColIn.coll 5) (sColIn.die.net.inst 5 0) = true ∧ (sColIn.coll 5).kind ≠ 3 ∧
      (sColIn.die.net.inst 5 0).sent = false ∧ (sColIn.die.net.inst 5 0).due ≠ [] ∧ (sColIn.die.net.inst 5 0).mext = 1 ∧ (sColIn.die.net.inst 5 0).next = 1) ∧
    (sColIn.die.net.inst 5 0).mext ≠ 2 ∧ (sColRoot.ownIn (sColRoot.coll 5) (sColRoot.die.net.inst 5 0) = true ∧ sColRoot.modid = 0) ∧
    ((sCol { Net.reset with insts := [inst5] } zz).stn 3).sleeps = true ∧
    ((sCol Net.reset { zz with arrive := [tlRes] }).stn 3).sleeps = true := by decide

def sLine : State := (sCol { Net.reset with insts := [inst5] } { withFl [fCol] with arrive := [tlRes] }).setReg (tktBase 63) 9
theorem witness_LineClears :
    (sLine.live = true ∧ sLine.writeServed 0x80838 = true ∧ bitAt (1 : Word) 0 = true) ∧
    (sLine.linked = true ∧ 1 ≤ (1 + 65536 - sLine.lce) % 65536 ∧ (1 + 65536 - sLine.lce) % 65536 < 32768) ∧
    ((32767 + 65536 - sLine.lce) % 65536 < 32768 ∧ 32768 ≤ (32768 + 65536 - sLine.lce) % 65536 ∧ (0 + 65536 - sLine.lce) % 65536 = 0) := by decide

/-! ### Witnesses: governor, supply, bring-up, cartridge -/

/-- A period under way: GOV_OP 5 in force, a lower target, credits spent, nine failed readings. -/
def sGov : State :=
  let x : Station := withFl [{ fl [(0, 1)] with owed := 5 }]
  let s := (((wx { x with iss := { x.iss with account := 9, spent := 4 } }).setReg 0x30000 0x7F0014).setReg 0x40008 460).setReg 0x40004 1
  { s with die := { s.die with wakeQ := [3, 9, 10, 11, 12], gov := { s.die.gov with pmFails := 9, volt := 650 } } }

/-- At OP2 of OP2 with enough voltage. -/
def sGov2 : State :=
  let s := up.setReg 0x30000 0x12
  { s with die := { s.die with gov := { s.die.gov with volt := 800, pmFails := 8 } } }

/-- The same before the regulators reach the voltage. -/
def sGovLow : State := { sGov2 with die := { sGov2.die with gov := { sGov2.die.gov with volt := 650 } } }

theorem witness_GovernorClosesPeriods_period : sGov.governed = true ∧ sGov.target < sGov.op ∧ sGov.die.gov.pmFails = 9 ∧ State.reset.governed = false := by decide
theorem witness_GovernorClosesPeriods_point :
    (sGov2.governed = true ∧ sGov2.op ≤ sGov2.target ∧ sGov2.op ≤ sGov2.goalPoint ∧ sGov2.voltOf sGov2.goalPoint ≤ sGov2.die.gov.volt ∧ sGov2.die.gov.pmFails ≠ 9 ∧
      sGov2.coasting = false ∧ sGov2.preferred ≠ 7 ∧ sGov2.alerting = false) ∧
    (sGovLow.governed = true ∧ sGovLow.op ≤ sGovLow.target ∧ sGovLow.die.gov.volt < sGovLow.voltOf sGovLow.goalPoint) := by decide +kernel

/-- An alert from the regulators whose hold has begun, with SUPPLY_LOW at its end. -/
def sAl : State :=
  let s := (sGov2.setReg 0x30000 0x152).setReg 0x40008 4150
  { s with sup := { s.sup with pinReg := true }, die := { s.die with gov := { s.die.gov with hold := true } } }

/-- HALTING. -/
def sHalt : State := up.setReg 0x40000 1

theorem witness_AlertsHoldThePoint :
    (up.governed = true ∧ sHalt.governed = false ∧ up.alerting = false) ∧
    (sAl.powered = true ∧ sAl.alerting = true ∧ sAl.die.gov.hold = true ∧ sAl.sup.pinReg = true ∧ sAl.sup.pinSupply = false ∧
      sAl.supplyLow = true ∧ (fld (sAl.reg 0x30020) 0 9 + 5) * 10 ≤ (sAl.reg 0x40008).toNat) ∧
    (sAl.setReg 0x40008 4149).supplyLow = true ∧ ((sAl.setReg 0x40008 4149).reg 0x40008).toNat < (fld ((sAl.setReg 0x40008 4149).reg 0x30020) 0 9 + 5) * 10 := by decide

/-- A temperature and a thermal step count. -/
def sHot (tj st : Nat) : State := up.setReg 0x30000 (BitVec.ofNat 32 (tj * 2 ^ 16 + st * 2 ^ 9 + 0x92))

/-- A trim in mV. -/
def sTrim (n : Nat) : State := (sHot 50 2).setReg 0x30038 (BitVec.ofNat 32 n)

/-- A job loaded. -/
def loaded (s : State) : State := { s with die := { s.die with job := ⟨2, 1, false⟩ } }

/-- 1,000 low samples of a macro in the hour. -/
def sLows : State := let s := sTrim 45; { s with die := { s.die with gov := { s.die.gov with lows := [(15, List.range 1000)] } } }

theorem witness_TemperatureAndMargin_heat :
    ((sHot 105 6).powered = true ∧ (sHot 105 6).supState = 0 ∧ (sHot 105 6).tj < 115 ∧ (sHot 105 6).jobLoaded = false) ∧
    (115 ≤ (sHot 125 6).tj ∧ 125 ≤ (sHot 125 6).tj ∧ (loaded (sHot 125 6)).jobLoaded = true) ∧
    ((sHot 105 6).governed = true ∧ (sHot 105 6).throttle ≤ (sHot 105 6).tj ∧ (sHot 105 6).tsteps < 7) ∧ ((sHot 104 0).tj < (sHot 104 0).throttle ∧ (sHot 105 7).tsteps = 7) ∧
    ((sHot 101 1).governed = true ∧ (sHot 101 1).tj + 3 < (sHot 101 1).throttle ∧ 0 < (sHot 101 1).tsteps ∧ (sHot 101 1).live = true ∧ (sHot 101 1).coasting = true) ∧
    ((sHot 102 1).throttle ≤ (sHot 102 1).tj + 3 ∧ up.coasting = false ∧ sHalt.governed = false) := by decide
theorem witness_TemperatureAndMargin_margin :
    (sTrim 45).governed = true ∧ (sTrim 45).trim < 50 ∧ (sTrim 45).fuses.audit < 256 ∧ 50 ≤ (sTrim 50).trim ∧ (mget (fun _ => ([] : List Nat)) (sTrim 45).die.gov.lows 15).length < 1000 := by decide
theorem witness_TemperatureAndMargin_lows :
    sLows.governed = true ∧ 1000 < (sLows.uptime :: (mget (fun _ => ([] : List Nat)) sLows.die.gov.lows 15).filter (fun u => decide (sLows.uptime - u < 14400000000))).length := by decide +kernel

theorem witness_GovernorWrites : up.supState = 0 ∧ up.writeServed 0x30028 = true ∧ fld (6 : Word) 0 3 < up.fuses.opmax ∧ up.fuses.ceilUsed < 16 ∧ up.fuses.audit < 256 ∧ up.fuses.opmax ≤ fld (7 : Word) 0 3 := by decide
theorem witness_GovernorWrites_used : 16 ≤ ({ up with fuses := { up.fuses with ceilUsed := 16 } }).fuses.ceilUsed ∧ ({ up with fuses := { up.fuses with ceilUsed := 16 } }).writeServed 0x30028 = true := by decide

/-- A supply state and a halt's cause. -/
def sSup (n cause : Nat) : State := let s := up.setReg 0x40000 (BitVec.ofNat 32 n); { s with sup := { s.sup with cause := cause } }

theorem witness_InputFailures :
    (fld (up.reg 0x30020) 0 9 * 10 ≤ (4100 : BitVec 16).toNat ∧ (4099 : BitVec 16).toNat < fld (up.reg 0x30020) 0 9 * 10 ∧ up.powered = true ∧ up.supState = 0 ∧ up.jobLoaded = false) ∧
    ((loaded sGov).supState = 0 ∧ (loaded sGov).powered = true ∧ (loaded sGov).jobLoaded = true) ∧
    (sSup 1 2).supState = 1 ∧ (sSup 1 2).sup.cause = 2 ∧ (sSup 2 0).supState = 2 ∧ (sSup 3 2).supState = 3 ∧ (sSup 3 2).sup.cause = 2 := by decide

/-- A bring-up in which no copy can be read. -/
def env0 : BootEnv := ⟨0, [], [], true, true, none, 5, none⟩

/-- The same with an uncorrectable line of the spill image. -/
def envUe : BootEnv := { env0 with spillUe := some 7 }

/-- An image of NSEQ 3. -/
def sp0 : Spill := ⟨3, 0, 10, true, (wx aw).die⟩

/-- HOLD with an image, after NSEQ `n`. -/
def sHold (cause n : Nat) (v : Bool) : State :=
  let s := (up.setReg 0x40000 0x66).setReg 0x4002C (BitVec.ofNat 32 n)
  let s := s.setReg 0x4000C (BitVec.ofNat 32 2000)
  { s with powered := false, spill := some { sp0 with valid := v }, haltLog := [⟨2, true, 0⟩, ⟨3, false, 0⟩], cart := { s.cart with cap := 30 }, sup := { s.sup with cause := cause } }

theorem witness_HoldEndsInResumeOrLoss :
    ((sHold 0 3 true).supState = 2 ∧ (sHold 0 3 true).spill = some sp0 ∧ sp0.valid = true ∧ sp0.nseq = (sHold 0 3 true).hseq ∧ env0.spillUe = none ∧
      (∀ l ∈ (sHold 0 3 true).poison, (sHold 0 3 true).region (l * 64) ≠ .spill) ∧ (sHold 0 3 true).sup.cause < 2) ∧
    ((sHold 1 3 false).spill = some { sp0 with valid := false } ∧ (sHold 1 3 false).sup.cause < 2 ∧ sp0.nseq ≠ (sHold 1 4 true).hseq ∧ envUe.spillUe ≠ none) ∧
    ((sHold 2 3 true).supState = 2 ∧ (sHold 2 3 true).sup.cause = 2) ∧ ((sHold 3 3 true).supState = 2 ∧ (sHold 3 3 true).sup.cause = 3) ∧
    ((sHold 0 3 true).onCartridge = true ∧ up.onCartridge = false) ∧
    up.powered = true ∧ State.reset.powered = false ∧ up.supState ≠ 2 := by decide

theorem witness_HoldEndsInResumeOrLoss_reserve : energyAt (sHold 0 3 true).cart.cap (sHold 0 3 true).vcart ≤ 60 := by decide +kernel

/-- The die off after rails that failed. -/
def sOff (fails : Nat) : State := { State.reset with lpddr := [(5, 6)], sup := { State.reset.sup with railFails := fails, repeatDue := decide (fails = 1) } }

/-- RUNNING. -/
def sRunning : State := up.setReg 0x10000 6

theorem witness_BringUpEndsInItsState :
    (env0.badA = true ∧ env0.badB = true ∧ (sOff 0).mayBoot = true ∧ (sOff 0).sup.railFails = 0) ∧
    ((sOff 1).mayBoot = true ∧ (sOff 1).sup.repeatDue = true ∧ (sOff 1).sup.railFails = 1 ∧ 2 ≤ (sOff 2).sup.railFails) ∧
    (up.writeServed 0x10010 = true ∧ up.supState = 0 ∧ bitAt (up.reg 0x10018) 0 = false ∧ up.mstate ≠ 6) ∧ (up.mayBoot = false ∧ up.supState ≠ 2) ∧
    (sRunning.writeServed 0x10010 = true ∧ sRunning.supState = 0 ∧ bitAt (sRunning.reg 0x10018) 0 = false ∧ sRunning.mstate = 6) ∧
    (bitAt ((up.setReg 0x10018 1).reg 0x10018) 0 = true ∧ (up.setReg 0x10018 1).writeServed 0x10010 = true) ∧
    (sHalt.writeServed 0x10010 = true ∧ sHalt.supState ≠ 0) ∧ State.reset.writeServed 0x10010 = false := by decide

/-- A cartridge in: AUTH, failures to respond, discharge for measurement. -/
def sCart (auth n : Nat) (cal : Bool) : State :=
  let s := ((up.setReg 0x10000 0xD).setReg 0x40000 (BitVec.ofNat 32 (0x64 + auth * 8))).setReg 0x4000C (BitVec.ofNat 32 (2999 + 250 * 65536))
  { s with cart := { s.cart with noResp := n, cal := cal, cap := 3000 } }

theorem witness_CartridgesComeGoAndAreCalibrated_answers :
    ((sCart 1 0 false).tbit 2 = true ∧ (sCart 1 0 false).supState = 0 ∧ (sCart 1 0 false).mayAuth = true ∧ (sCart 1 0 false).cart.noResp < 2 ∧ (sCart 1 0 false).selected = true ∧
      (sCart 1 0 false).auth ≠ 2 ∧ (sCart 1 0 false).holdBroken = false ∧ 0 < (sCart 1 1 false).cart.noResp) ∧
    (up.tbit 2 = false ∧ up.mayAuth = false) ∧ ((sHold 0 3 true).tbit 2 = true ∧ (sHold 0 3 true).holdBroken = true ∧ (sHold 0 3 true).tbit 6 = true) ∧
    ((sCart 2 2 false).mayAuth = true ∧ 2 ≤ (sCart 2 2 false).cart.noResp ∧ (sCart 2 2 false).writeServed 0x40004 = true ∧ (sCart 2 2 false).auth = 2) := by decide
theorem witness_CartridgesComeGoAndAreCalibrated_charge :
    ((sCart 2 2 false).mayCharge = true ∧ (sCart 2 2 false).vcart < 3000 ∧ (sCart 2 2 false).tbit 5 = true) ∧ (sCart 2 0 true).cart.cal = true ∧ up.cart.cal = false ∧
    (30 ≤ ((up.setReg 0x40020 30).reg 0x40020).toNat) ∧ 3000 ≤ ((sCart 2 0 false).setReg 0x4000C 3000).vcart ∧
    ((sHold 0 3 true).setReg 0x10000 8).selected = true ∧ (((sHold 0 3 true).setReg 0x10000 8).holdBroken && ((sHold 0 3 true).setReg 0x10000 8).tbit 6) = true := by decide

/-! ### Witnesses: endpoint, mailbox, management, registers, windows, queues, ladder -/

/-- An endpoint up for 80,000 ticks, with a vector masked and pending. -/
def sEp : State :=
  let s := ((up.setReg (qBase 15 + 0x14) 3).setReg 0x5800C 1).setReg 0x58008 7
  { s with uptime := 2300000, sup := { s.sup with perstTick := 20000 }, die := { s.die with pcie := ⟨true, false, 1, true, false, true, false⟩ } }

/-- A tick too soon for configuration requests. -/
def sEpSoon : State := { sEp with sup := { sEp.sup with perstTick := 2299999 } }

/-- PERST_N low. -/
def sPerst : State := { sEp with sup := { sEp.sup with perst := true } }

/-- The same endpoint 700 µs into a halt. -/
def sEpHalt : State := let s := sEp.setReg 0x40000 1; { s with sup := { s.sup with ticks := 2800 } }

theorem witness_EndpointResetsAndRequests :
    (sEp.powered = true ∧ sEp.endpointUp = true ∧ sEp.aborting = false ∧ sEp.cfgWaits = false ∧ sEp.die.pcie.l1En = true ∧ sEp.die.pcie.l1 = false) ∧
    (sEpSoon.endpointUp = true ∧ sEpSoon.cfgWaits = true) ∧ (sEpHalt.endpointUp = true ∧ sEpHalt.aborting = true) ∧
    (sPerst.powered = true ∧ sPerst.sup.perst = true ∧ sPerst.endpointUp = false ∧ sPerst.mayBoot = false) ∧
    (State.reset.powered = false ∧ ({ State.reset with sup := { State.reset.sup with perst := false } }).mayBoot = true) ∧ up.die.pcie.msixEn = false ∧ up.die.pcie.l1En = false ∧
    (sEp.supState = 0 ∧ sEp.writeServed (0x5800C + 16 * 0) = true ∧ sEp.die.pcie.msixEn = true ∧ sEp.die.pcie.msixMask = false ∧ bitAt sEp.die.pcie.pba 0 = true) := by decide

/-- A LEN of 15 at OFFSET 255, with BEGINs seen. -/
def sMbx (begun : List Nat) : State := { up.setReg 0x10014 0xF0FF with mbx := ⟨none, begun, []⟩ }

/-- A command running on copy B. -/
def sMbxRun (op : Nat) : State := { up.setReg 0x10018 1 with mbx := ⟨some (op, 1, 0, 2, [1, 2]), [], []⟩, flash := [(0x5, 2), (0x1000005, 1)] }

theorem witness_MailboxCommandsRun :
    fld ((sMbx []).reg 0x10014) 0 12 = 255 ∧ fld ((sMbx []).reg 0x10014) 12 13 = 15 ∧
    ((sMbx []).supState = 0 ∧ (sMbx []).writeServed 0x10010 = true ∧ bitAt ((sMbx []).reg 0x10018) 0 = false ∧
      (sMbx []).mbxRefuses 1 1 255 15 = false ∧ (sMbx [1]).mbxRefuses 2 1 255 15 = false ∧ (sMbx [1]).mbxRefuses 3 1 255 15 = false ∧ (sMbx []).mbxRefuses 3 1 255 15 = true) := by decide
theorem witness_MailboxCommandsRun_running :
    (sMbxRun 1).mbx.run = some (1, 1, 0, 2, [1, 2]) ∧ (sMbxRun 2).mbx.run = some (2, 1, 0, 2, [1, 2]) ∧ (sMbxRun 3).mbx.run = some (3, 1, 0, 2, [1, 2]) := ⟨rfl, rfl, rfl⟩
theorem witness_MailboxCommandsRun_complete :
    (sMbxRun 1).supState = 0 ∧ bitAt ((sMbxRun 1).reg 0x10018) 0 = true ∧ (sMbxRun 1).writeServed 0x10010 = true ∧
    up.powered = true ∧ up.mbx.run.isNone = true ∧ ((sMbxRun 1).setReg 0x40000 1).supState ≠ 0 ∧ State.reset.powered = false := by decide

/-- The same endpoint late in a halt, which keeps the requests of a medium. -/
theorem witness_ManagementMessagesAreAnswered :
    sEp.hears true = true ∧ sEp.hears false = true ∧ sEp.defers false = false ∧ sEpHalt.defers true = true ∧ State.reset.hears true = false ∧ State.reset.defers true = false ∧ sEp.die.pcie.bme = true ∧
    (List.replicate 33 (0 : Byte)).length = 33 ∧ ([0, 0, 0, 4] : List Byte).length = 4 ∧ leNat (([0, 0, 0, 4] : List Byte).drop 2) ≤ 1024 ∧
    ([1, 0] : List Byte).length = 2 ∧ 0 < leNat [1, 0] ∧ fld (1 : Byte) 0 2 < 2 ∧ (8 : Byte) ≠ 0 ∧ (8 : Byte) ≠ 0xFF ∧ sEp.die.eids.length = 2 ∧ 4 < (5 : Byte).toNat := by decide

/-- HELD. -/
def sHeld : State := up.setReg 0x10000 1

/-- A latch of the host with a value. -/
def sLat : State := { up with latch := [(latchKey 0 0x40024, some 9)] }

/-- Station 3 awake and the local store of it at 0x2038000. -/
def sWin : State := wx { aw with sb := { aw.sb with store := code8 7 } }

theorem witness_RegisterAccesses_writes :
    (sHeld.writeServed 0x200010 = false ∧ up.writeServed 0x202800 = true ∧ rwMask 0x202800 = none ∧ up.supState = 0 ∧ up.writeServed 0x2027FC = true ∧
      (rwMask 0x2027FC).isSome = true ∧ (rwMask 0x201000).isSome = true ∧ rwMask 0x30030 = some 0 ∧ up.writeServed 0x30030 = true ∧ up.writeServed 0x11004 = true ∧
      sHalt.supState ≠ 0 ∧ sHalt.writeServed 0x10000 = true ∧ byteWritable 0x10000 = false) := by decide
theorem witness_RegisterAccesses_reads :
    (up.pcieUp = true ∧ State.reset.pcieUp = false ∧ up.readStatus 0x18 = 0 ∧ latches 0x18 = true) ∧ (sHeld.pcieUp = true ∧ sHeld.readStatus 0x200010 ≠ 0) ∧
    (sLat.readStatus 0x40028 = 0 ∧ latches 0x40028 = false ∧ latchedLo 0x40028 = some 0x40024 ∧ mget (fun _ => (none : Option Word)) sLat.latch (latchKey 0 0x40024) = some 9) ∧
    (latches 0x2038008 = false ∧ latchedLo 0x2038008 = none ∧ (sWin.stn ((0x2038008 - 0x2000000) / 0x10000)).ctl.run = .awake ∧ sWin.readStatus 0x2038008 = 0 ∧ 0x8000 ≤ 0x2038008 % 0x10000) ∧
    ({ up with latch := [(latchKey 2 0x40024, some 9)] }).latch ≠ [] := by decide

/-- A PASS at a step of the ladder, with macros to reload and macros to route around. -/
def fRec (st : Nat) (l m : List Nat) : Flight := { fl [(0, 1), (57, 3), (64, 2)] with stage := .recover st, toReload := l, toFault := m, why := ⟨0x101, 0, 0⟩, ueLine := some (gLine 768 3) }

/-- Station 3 with it. -/
def sRec (st : Nat) (l m : List Nat) : State := wx (withFl [fRec st l m])

/-- Its line still poisoned in the golden copy. -/
def sRecP : State := { sRec 1 [] [] with poison := [gLine 768 3] }

/-- A BAR2 access 90 µs old at the router of station 3, or in the mesh. -/
def sRouter (w : Option (List Byte)) (inMesh : Bool) : State :=
  let f : Flit := ⟨pcieNode, 3, pcieNode, 99640, none, .bar2 64 4 w⟩
  let s := wx { aw with ctl := { aw.ctl with run := .asleep }, routerHeld := if inMesh then [] else [f] }
  { s with die := { s.die with mesh := if inMesh then [f] else s.die.mesh } }

theorem witness_WindowAccesses_bar2 :
    ((wx aw).endpointUp = true ∧ (wx aw).aborting = false ∧ (wx aw).memServed = true ∧ ((wx aw).stn 3).ctl.run = .awake ∧ ((wx aw).stn 3).sleeps = false ∧
      winSlots 0x100000 ([0, 1, 2, 3, 4, 5, 6, 7] : List Byte).length = true ∧ winSlots 0xFFFC ([0, 1, 2, 3] : List Byte).length = false ∧ (up.stn 9).ctl.run = .stopped) ∧
    ((sRouter none true).endpointUp = true ∧ (sRouter none true).memServed = true ∧ ((sRouter none true).stn 3).sleeps = true ∧ ((sRouter none true).stn 3).ctl.run = .asleep ∧
      ((sRouter none true).stn 3).ctl.wakeReq = false ∧ ((sRouter none true).stn 3).ctl.admitted = false ∧ ((sRouter none true).stn 3).routerHeld.length < 128) ∧
    ((takeFlit ((sRouter none false).lateBar2 3) ((sRouter none false).stn 3).routerHeld).isSome = true ∧
      takeFlit ((sRouter (some [1, 2, 3, 4]) true).lateBar2 3) ((sRouter (some [1, 2, 3, 4]) true).stn 3).routerHeld = none ∧
      (takeFlit ((sRouter (some [1, 2, 3, 4]) true).lateBar2 3) (sRouter (some [1, 2, 3, 4]) true).die.mesh).isSome = true) ∧
    (takeFlit (up.lateBar2 3) (up.stn 3).routerHeld = none ∧ takeFlit (up.lateBar2 3) up.die.mesh = none) ∧
    (sEpHalt.endpointUp = true ∧ sEpHalt.aborting = true ∧ sHeld.endpointUp = true ∧ sHeld.memServed = false ∧ sPerst.endpointUp = false) := by decide
theorem witness_WindowAccesses_bar4 :
    fld (up.reg 0x54000) 0 10 * 2 ^ 30 + 4294967295 % 2 ^ 36 < up.capBytes ∧ up.region 4294967232 = .user ∧ up.inEcc 67108863 = false ∧ up.region (up.capBytes - 1) = .spill ∧
    up.capBytes - 1 < up.capBytes ∧ (∀ l ∈ (linesOf 4294967232 64).filter up.bar4Reads, up.lineBad l false = false) ∧
    (∃ l ∈ (linesOf (gLine 768 3 * 64) 64).filter sRecP.bar4Reads, sRecP.lineBad l true = true) ∧ sRecP.region (gLine 768 3 * 64) = .golden ∧ gLine 768 3 * 64 < sRecP.capBytes ∧
    up.capBytes ≤ fld (({ up with die := { up.die with reg := [(0x54000, 1023)] } }).reg 0x54000) 0 10 * 2 ^ 30 := by decide

/-- Queue `q` enabled, inbound or outbound, its ring of 64 lines at line 64: the producer line says 62, the consumer line 60, and a record of one data and one scale line stands at line 60. -/
def sQ (q : Nat) (out : Bool) : State :=
  let s := (((((up.setReg (qBase q) (BitVec.ofNat 32 (0x31 + (if out then 2 else 0)))).setReg (qBase q + 0x1C) 1).setReg (qBase q + 0x20) 1).setReg (qBase q + 0x14) 0).setReg (qBase q + 0x18) 63).setReg (qBase q + 4) 0x1000
  { s with
    lpddr := [(4096, 62), (4100, 9), (4160, 60), (7940, 5), (7944, 1), (7952, 3), (8000, 0xAA), (8001, 0xBB)]
    die := { s.die with polled := [(q, 62)], pcie := { s.die.pcie with bme := true } } }

/-- A descriptor of a kind and a length. -/
def dKind (k : Byte) (len : Word) : HostDesc := ⟨0x4000, len, 5, k, 0, 7⟩

theorem witness_HostQueuesMoveRecords :
    (up.supState = 0 ∧ up.writeServed (qBase 15) = true ∧ bitAt (up.reg (qBase 15)) 0 = false ∧ up.qRingOk 15 = false ∧ ((up.setReg (qBase 15 + 0x20) 1).qRingOk 15 = true)) ∧
    ((sQ 15 false).qServes 15 false = true ∧ 6 < (dKind 7 1).kind.toNat ∧ recordLines (dKind 6 193).kind.toNat (dKind 6 193).len.toNat = some (3, 1) ∧
      recordLines (dKind 1 0).kind.toNat (dKind 1 0).len.toNat = none ∧
      1 + 3 + 1 + 3 ≤ (sQ 15 false).qLen 15 ∧ (place ((sQ 15 false).qProd 15) ((sQ 15 false).qCons 15) ((sQ 15 false).qLen 15) (1 + 3 + 1)).isSome = true ∧
      place 60 62 ((sQ 15 false).qLen 15) (1 + 3 + 1) = none ∧ (sQ 15 true).qServes 15 false = false) ∧
    ((sQ 14 true).qServes 14 true = true ∧ (sQ 14 true).polled 14 ≠ (sQ 14 true).qCons 14 ∧ ((sQ 14 true).headerAt 14 60).kind ≤ 6 ∧
      60 + 1 + ((sQ 14 true).headerAt 14 60).dlines + ((sQ 14 true).headerAt 14 60).slines ≤ (sQ 14 true).qLen 14) := by decide

/-- A golden slot described as resident in S4 for bank 3 of macro 63 of station 3, beside what `x` holds. -/
def sScrub (x : Station) : State :=
  let s := wx x
  { s with lpddr := s.lpddr ++ [(s.slotLine 3 63 3 * 64, 5), (s.slotLine 3 63 3 * 64 + 0x13C0, 1), (s.slotLine 3 63 3 * 64 + 0x13C3, 128), (s.slotLine 3 63 3 * 64 + 0x13C4, 64)] }

/-- Macro 60 may be routed around: macro 1 works and is the detour of the station. -/
def sRoute (x : Station) : State := ((wx x).setReg (pageBase 3 + 0x140) 2).setReg (pageBase 3 + 0x164) 3

/-- Banks that a scrub sent to a reload, with an account of credits. -/
def scrubbed (acc : Nat) : Station := { aw with iss := { aw.iss with account := acc }, toReload := [(63, 3, ⟨0x104, 0, 0⟩, 0)] }

/-- An instruction at step 4. -/
def sStep4 (en ov done4 : Bool) : State :=
  wx { withFl [fRec 4 [] []] with ledger := ⟨en, [{ le0 with isOver := ov }], 4, false, 0, 0⟩, restart := ⟨0x40, [1, 2]⟩, step4 := done4 }

theorem witness_LadderStepsOneToFour_replay :
    (sRecP.atStep 3 1 = some (fRec 1 [] []) ∧ sRecP.awaitsRebuild (fRec 1 [] []) = true ∧ (sRec 1 [] []).atStep 3 1 = some (fRec 1 [] []) ∧
      (sRec 1 [] []).awaitsRebuild (fRec 1 [] []) = false ∧ (wx aw).atStep 3 1 = none) := by decide
theorem witness_LadderStepsOneToFour_reload :
    let s := sScrub (withFl [fRec 2 [63] []])
    let lines := (List.range 75).map (s.slotLine 3 63 3 + ·) ++ [s.slotLine 3 63 3 + 79]
    ((sRec 2 [] []).atStep 3 2 = some (fRec 2 [] []) ∧ s.atStep 3 2 = some (fRec 2 [63] []) ∧ bankOf (fRec 2 [63] []).word = 3) ∧
    (s.slotDesc 3 63 3).ok = true ∧ lines.all (fun l => !s.lineBad l false) = true ∧ s.lineBad (s.slotLine 3 63 3 + 74) true = true := by decide
theorem witness_LadderStepsOneToFour_scrubbed :
    (sScrub (scrubbed 0)).atStep 3 2 = none ∧ ((sScrub (scrubbed 0)).stn 3).toReload = [(63, 3, ⟨0x104, 0, 0⟩, 0)] ∧ (sScrub (scrubbed 0)).live = true ∧ ((sScrub (scrubbed 0)).stn 3).climber = none ∧
    ((sScrub (scrubbed 0)).stn 3).replaying = false := by decide
theorem witness_LadderStepsOneToFour_credits :
    0 + ((sScrub (scrubbed 0)).stn 3).iss.account < (sScrub (scrubbed 0)).reloadCost 3 63 3 ∧
    (sScrub (scrubbed 5000)).reloadCost 3 63 3 ≤ 0 + ((sScrub (scrubbed 5000)).stn 3).iss.account := by
  have cost : ∀ b : Bank, 0 < bankCredits b ∧ bankCredits b ≤ 34 := fun b => by unfold bankCredits; split <;> omega
  have h0 : ((sScrub (scrubbed 0)).stn 3).iss.account = 0 := by decide
  have h5 : ((sScrub (scrubbed 5000)).stn 3).iss.account = 5000 := by decide
  exact ⟨by rw [h0]; exact (cost _).1, by rw [h5]; exact le_trans (cost _).2 (by decide)⟩
theorem witness_LadderStepsOneToFour_around :
    ((sRoute (withFl [fRec 3 [] [60]])).atStep 3 3 = some (fRec 3 [] [60]) ∧ (sRoute (withFl [fRec 3 [] [60]])).canRoute 3 60 = true ∧
      (sRec 3 [] [60]).atStep 3 3 = some (fRec 3 [] [60]) ∧ (sRec 3 [] [60]).canRoute 3 60 = false) ∧
    ((sRoute { aw with toFault := [60] }).atStep 3 3 = none ∧ ((sRoute { aw with toFault := [60] }).stn 3).toFault = [60] ∧ (sRoute { aw with toFault := [60] }).canRoute 3 60 = true ∧
      (sRoute { aw with toFault := [60] }).live = true ∧ ((sRoute { aw with toFault := [60] }).stn 3).climber = none ∧ ((sRoute { aw with toFault := [60] }).stn 3).replaying = false) ∧
    ((sStep4 true false false).atStep 3 4 = some (fRec 4 [] []) ∧ (sStep4 true false false).unreplayable 3 = false ∧ ((sStep4 true false false).stn 3).ctl.stopping = false) := by decide

theorem witness_UnreplayableRestartIsRefused :
    ((sStep4 false false false).atStep 3 4 = some (fRec 4 [] []) ∧ ((sStep4 false false false).stn 3).ledger.en = false) ∧
    ((sStep4 true true false).atStep 3 4 = some (fRec 4 [] []) ∧ (∃ e ∈ ((sStep4 true true false).stn 3).ledger.entries, e.isOver = true)) ∧
    ((sStep4 true false true).atStep 3 4 = some (fRec 4 [] []) ∧ ((sStep4 true false true).stn 3).step4 = true) := by decide

/-- A rollback in progress, with a snapshot of generation 6. -/
def sRoll (r : Roll) : State := { up with die := { up.die with net := { Net.reset with roll := some r } }, snaps := [⟨6, (wx aw).die, [], []⟩] }

/-- Round 2 of a rollback to a generation. -/
def r2 (g : Nat) (b : Bool) : Roll := ⟨2, g, b, ⟨0x101, 0, 0⟩, 3⟩

/-- The same in a domain of two, of which this is module `c`, and in a domain of one. -/
def sRollIn (c : Nat) (r : Roll) : State := ilkAt c { Net.reset with roll := some r }
def sRollSolo (r : Roll) : State := ilkSolo { Net.reset with roll := some r }

/-- Arrived at the interlock of the rollback. -/
def sRollOwn (r : Roll) : State := ilkAt 0 { Net.reset with roll := some r, rollIlk := { Ilk.reset with ilk := 0xFF, own := true } }

/-- ROLLBACK_WAIT. -/
def sWait : State := up.setReg 0x60000 8

/-- A child silent to twice the deadline. -/
def sSil : State := ilkAt 0 { Net.reset with timer := ⟨2000, true, []⟩, noNotice := [1] }

/-- LINKS with LOST set, and a step 5 taken before. -/
def sLost : State := { up.setReg 0x10000 0x84 with ownSteps := [90000] }

theorem witness_DomainsRollBack_begins :
    ((sRec 5 [] []).linked = true ∧ (sRec 5 [] []).climbing = some (3, fRec 5 [] []) ∧ bitAt ((sRec 5 [] []).reg 0x60004) 0 = true) ∧
    (sLost.linked = true ∧ sLost.climbing = none ∧ sLost.cameUpLost = true ∧ (∃ n ∈ sLost.ownSteps, sLost.uptime - n < day)) ∧
    (up.linked = true ∧ up.climbing = none ∧ up.cameUpLost = false ∧ up.die.net.roll = none ∧ State.reset.linked = false) := by decide
theorem witness_DomainsRollBack_rounds :
    ((sRollOwn (r2 6 true)).linked = true ∧ (sRollOwn (r2 6 true)).climbing = none ∧ (sRollOwn (r2 6 true)).cameUpLost = false ∧ (sRollOwn (r2 6 true)).die.net.roll = some (r2 6 true) ∧
      (sRollOwn (r2 6 true)).die.net.rollIlk.own = true) ∧
    ((sRollIn 0 (r2 6 true)).linked = true ∧ (sRollIn 0 (r2 6 true)).climbing = none ∧ (sRollIn 0 (r2 6 true)).cameUpLost = false ∧ (sRollIn 0 (r2 6 true)).die.net.roll = some (r2 6 true) ∧
      (sRollIn 0 (r2 6 true)).die.net.rollIlk.own = false ∧ (sRollIn 0 (r2 6 true)).die.net.rollIlk.arrived = [] ∧ (sRollIn 0 (r2 6 true)).children ≠ []) ∧
    ((sRollIn 1 { r2 6 true with round := 1 }).linked = true ∧ (sRollIn 1 { r2 6 true with round := 1 }).children = [] ∧ (sRollIn 1 { r2 6 true with round := 1 }).isRoot = false ∧
      (sRollIn 1 { r2 6 true with round := 1 }).die.net.rollIlk.sentUp = false) ∧
    ((sRollSolo (r2 6 true)).linked = true ∧ (sRollSolo (r2 6 true)).children = [] ∧ (sRollSolo (r2 6 true)).isRoot = true ∧ (sRollSolo (r2 6 true)).domainSize = 1 ∧
      (sRollSolo (r2 6 true)).die.net.rollIlk.sentUp = false ∧ (r2 6 true).round ≠ 1) := by decide
theorem witness_DomainsRollBack_roundTwo :
    ((sRoll (r2 0 false)).linked = true ∧ (sRoll (r2 0 false)).climbing = none ∧ (sRoll (r2 0 false)).cameUpLost = false ∧ (sRoll (r2 0 false)).die.net.roll = some (r2 0 false) ∧
      (sRoll (r2 0 false)).die.net.rollIlk.own = false ∧ (sRoll (r2 0 false)).isRetired = false ∧ ((sRoll (r2 0 false)).setReg 0x60000 1).isRetired = true) ∧
    (((sRoll (r2 6 false)).snaps.find? (fun z => decide (z.gen = 6))).isSome = true ∧ ((sRoll (r2 5 false)).snaps.find? (fun z => decide (z.gen = 5))).isSome = false ∧
      (sRoll (r2 6 false)).isRetired = false ∧ mwf byte0 (sRoll (r2 6 false)).lpddr = true) ∧
    (sWait.supState = 0 ∧ sWait.writeServed 0x60004 = true ∧ bitAt (sWait.reg 0x60000) 3 = true ∧ bitAt (up.reg 0x60000) 3 = false ∧ State.reset.writeServed 0x60004 = false) ∧
    (sSil.die.net.noNotice.find? (fun c => !sSil.die.net.ilk.present.contains c) = some 1 ∧ sSil.live = true ∧ sSil.die.net.timer.running = true ∧ sSil.deadline ≠ 0 ∧ 2 * sSil.deadline ≤ sSil.die.net.timer.ticks) ∧
    up.die.net.noNotice.find? (fun c => !up.die.net.ilk.present.contains c) = none := by decide

/-- The bank already as its empty golden slot has it but for SPARSE and the rest of what the slot says. -/
def sScrubBusy : State := sScrub (withFl [fl [(0, 1), (57, 3), (127, 1)]])

theorem witness_FaultRecordsAndScrubs :
    (up.supState = 0 ∧ up.writeServed 0x60010 = true ∧ State.reset.writeServed 0x60010 = false) ∧
    ((sScrub aw).live = true ∧ bitAt ((sScrub aw).reg 0x60004) 1 = true ∧ ((sScrub aw).slotDesc 3 63 3).valid = true ∧ ((sScrub aw).slotDesc 3 63 3).ok = true ∧
      bitAt ((sScrub aw).workOf 3) 63 = false ∧ bitAt ((sScrub aw).faultBits 3) 63 = false ∧ ((sScrub aw).stn 3).macroUsed 63 = false ∧ (sScrub aw).scrubYields 3 = false ∧
      (sScrub aw).slotBad 3 63 3 none = none ∧ (sScrub aw).recentReloads 3 63 < 2) ∧
    (sScrub aw).slotBad 3 63 3 (some 74) = some ((sScrub aw).slotLine 3 63 3 + 74) ∧
    2 ≤ (sScrub { aw with reloads := [(63, [99990, 99999])] }).recentReloads 3 63 ∧ (sScrubBusy.stn 3).macroUsed 63 = true ∧ (sScrub (scrubbed 0)).scrubYields 3 = true := by decide

/-! ### The whole-machine statements: states that meet their hypotheses -/

theorem witness_EmptyQueueTicksTheSlowClock : State.reset.pending = [] ∧ State.reset.supState ≠ 3 := by decide
theorem witness_OneWaySettingsNeverGoBack : State.reset.fuses.onward State.reset.fuses ∧ (∃ t, step State.reset = .next t) :=
  ⟨by unfold Fuses.onward; decide, _, rfl⟩
theorem witness_CommandsLeaveTheQueue : ∃ t, exec (.perBankRefresh 0 0) up = .next t := ⟨_, rfl⟩
theorem witness_StepsKeepMemoriesCanonical : Memory.wf up = true ∧ (∃ t, step up = .next t) := ⟨by decide, _, rfl⟩

/-! ### Operands that the checks refuse, each beside one they take -/

/-- Operands at the ends of their ranges. -/
def frame0 : Frame := ⟨15, 3, 1, 4095, 4095, false, 16383, 16383, 15, 0, none, some (2, 1, 15), .linkctl none⟩
def benv : BootEnv := ⟨0, [3], [4], false, false, none, 0x55, none⟩
def cart0 : CartResp := ⟨List.replicate 512 0, List.replicate 96 0, 0, 0, 0, List.replicate 8 0⟩
def desc0 : HostDesc := ⟨64, 128, 0, 1, 0, 0⟩

theorem wf_upset : (Instr.pass 3 ⟨[⟨63, 15, 7, 3, 1023, 1⟩], none, none, [], [], [], none⟩).wf = true ∧ (Instr.pass 3 ⟨[⟨64, 0, 0, 0, 0, 1⟩], none, none, [], [], [], none⟩).wf = false ∧
    (Instr.passr 3 ⟨[⟨0, 16, 0, 0, 0, 1⟩], none, none, [], [], [], none⟩).wf = false ∧ (Instr.wload 3 ⟨[⟨0, 0, 8, 0, 0, 1⟩], none, none, [], [], [], none⟩).wf = false ∧
    (Instr.ld 3 ⟨[⟨0, 0, 0, 4, 0, 1⟩], none, none, [], [], [], none⟩).wf = false ∧ (Instr.mcast 3 ⟨[⟨0, 0, 0, 0, 1024, 1⟩], none, none, [], [], [], none⟩).wf = false := by decide
theorem wf_address : (Instr.registerWrite 0x3FFFFFC 15 0).wf = true ∧ (Instr.registerWrite 0x4000000 15 0).wf = false ∧
    (Instr.registerWrite 2 15 0).wf = false ∧ (Instr.loLatchRead 0 ⟨6, none⟩).wf = false := by decide
theorem wf_records : (Instr.exponentDerivation 0 [0, 1, 2, 3, 4, 5, 6, 7] 9 10 0).wf = true ∧ (Instr.exponentDerivation 0 [0] 9 10 0).wf = false := by decide
theorem wf_frame : (Instr.frameReceive 0 true 0 0 frame0).wf = true ∧ (Instr.frameReceive 0 true 0 0 { frame0 with cls := 4 }).wf = false ∧
    (Instr.frameReceive 0 true 0 0 { frame0 with ftype := 16 }).wf = false ∧ (Instr.frameReceive 0 true 0 0 { frame0 with nlines := 16 }).wf = false ∧
    (Instr.frameReceive 0 true 0 0 { frame0 with cr := some (3, 0, 0) }).wf = false ∧ (Instr.frameReceive 0 true 0 0 { frame0 with cr := some (0, 2, 0) }).wf = false ∧
    (Instr.frameReceive 0 true 0 0 { frame0 with cr := some (0, 0, 16) }).wf = false ∧
    (Instr.frameReceive 0 true 0 0 { frame0 with vc := 2 }).wf = false ∧ (Instr.frameReceive 0 true 0 0 { frame0 with seq := 4096 }).wf = false ∧
    (Instr.frameReceive 0 true 0 0 { frame0 with ackseq := 4096 }).wf = false ∧ (Instr.frameReceive 0 true 0 0 { frame0 with dmod := 16384 }).wf = false ∧
    (Instr.frameReceive 0 true 0 0 { frame0 with smod := 16384 }).wf = false := by decide
theorem wf_descriptor : (Instr.inboundDescriptor 0 desc0 (some (List.replicate 128 0))).wf = true ∧
    (Instr.inboundDescriptor 0 desc0 (some [0])).wf = false ∧ (Instr.outboundDescriptor 0 { desc0 with addr := 65 } true).wf = false ∧
    (Instr.outboundDescriptor 0 { desc0 with addr := 2 ^ 64 } true).wf = false := by decide +kernel
theorem wf_cartridge : (Instr.authentication (some cart0)).wf = true ∧ (Instr.authentication (some { cart0 with cert := [] })).wf = false ∧
    (Instr.authRetry (some { cart0 with sig := [] })).wf = false ∧ (Instr.reauth 1 (some { cart0 with status := [] })).wf = false := by decide +kernel
theorem wf_bringup : (Instr.inputQualified benv).wf = true ∧ (Instr.restart 1 { benv with lost := [4, 3] }).wf = false := by decide
theorem wf_lengths : (Instr.bar2Access 3 0 4 (some [1, 2, 3, 4]) ⟨0, 0⟩).wf = true ∧ (Instr.bar2Access 3 0 4 (some [1]) ⟨0, 0⟩).wf = false ∧
    (Instr.lpddrRequest 0 (some (60, [1, 2, 3, 4])) false false false).wf = true ∧ (Instr.lpddrRequest 0 (some (61, [1, 2, 3, 4])) false false false).wf = false ∧
    (Instr.unlock (List.replicate 96 0)).wf = true ∧ (Instr.unlock []).wf = false := by decide +kernel

/-! ### The manual's worked examples -/

/-- R40, blocks A, B and C. -/
theorem test_automatic_exponent :
    convSigned 4 [mkRat 15 4, 1, -2, 0] = (127, [4, 1, -2, 0], 0) ∧ convSigned 4 [mkRat 119 32, 1, -2, 0] = (126, [7, 2, -4, 0], 0) ∧
    convSigned 4 [mkRat (-17) 4, 1, mkRat 1 2, 0] = (126, [-8, 2, 1, 0], 0) := by decide +kernel
/-- R41, the U8 block. -/
theorem test_automatic_zero_point : convUnsigned 8 [-1, 0, mkRat 17 16, mkRat 5 2, mkRat 123 4] = (124, 8, [0, 8, 16, 28, 254], 0) := by decide +kernel
/-- R43, the S16 block at exponent 120 and under automatic exponent. -/
theorem test_fixed_exponent :
    convSignedFixed 16 120 [mkRat 501 2, -300, mkRat 257 256] = ([32064, -32768, 128], 1) ∧
    convSigned 16 [mkRat 501 2, -300, mkRat 257 256] = (121, [16032, -19200, 64], 0) := by decide +kernel
/-- R35 and R156: the two K blocks, in either order, give -516 at exponents 124 and 125. -/
theorem test_contributions_in_either_order :
    ((Slot.clear.addOne ⟨2, 1, 5, -1716, 124, 125, false⟩).addOne ⟨2, 1, 5, 300, 126, 125, false⟩).entry 1 5 = ⟨BitVec.ofInt 48 (-516), 0⟩ ∧
    (((Slot.clear.addOne ⟨2, 1, 5, 300, 126, 125, false⟩).addOne ⟨2, 1, 5, -1716, 124, 125, false⟩).entry 1 5 = ⟨BitVec.ofInt 48 (-516), 0⟩) ∧
    ((Slot.clear.addOne ⟨2, 1, 5, 300, 126, 125, false⟩).addOne ⟨2, 1, 5, -1716, 124, 125, false⟩).raOf 1 = 124 ∧
    ((Slot.clear.addOne ⟨2, 1, 5, -1716, 124, 125, false⟩).addOne ⟨2, 1, 5, 300, 126, 125, false⟩).value 1 5 = mkRat (-129) 8 := by decide +kernel
/-- R153: A, B and C wrap once and back, and RANGE stays. -/
theorem test_wrap_and_return :
    let a : Slot := Slot.clear.addOne ⟨2, 0, 0, 2 ^ 47 - 16, 127, 127, false⟩
    let b := a.addOne ⟨2, 0, 0, 40, 127, 127, false⟩
    let c := b.addOne ⟨2, 0, 0, -(2 ^ 47 - 8), 127, 127, false⟩
    b.entry 0 0 = ⟨0x800000000018, 1⟩ ∧ b.range = true ∧ c.entry 0 0 = ⟨32, 0⟩ ∧ c.range = true := by decide +kernel
/-- The PASS word of the manual's example: its four stores and its fields. -/
theorem test_pass_word :
    pw [(0, 1), (8, 0x21), (20, 8), (26, 2), (28, 1), (36, 72), (44, 4), (49, 64), (61, 1), (64, 2)] = 0x00000000000000022080448018802101 ∧
    mgrp 0x00000000000000022080448018802101 = [1] ∧ kextOf 0x00000000000000022080448018802101 = 72 ∧
    mextOf 0x00000000000000022080448018802101 = 4 ∧ nextOf 0x00000000000000022080448018802101 = 64 := by decide
/-- The golden slot of bank 2 of macro 17 of station 5 on an S320: line, channel and controller. -/
theorem test_golden_slot :
    State.reset.slotLine 5 17 2 = 0x13F61A5E0 ∧ channelOf 0x13F61A5E0 = 7 ∧ ctrlOf 0x13F61A5E0 = 1 := by decide
/-- USERTOP on an S320 with N = 48 and an inline-ECC region of 64 GiB. -/
theorem test_usertop : ((State.reset.setReg 0x100804 48).setReg 0x100814 64).userTop = 270680 := by decide
/-- The register map: three addresses and a last session descriptor with their writable bits. -/
theorem test_addresses :
    pageBase 37 + 0x2000 + 0x200 * 2 + 4 * 9 = 0x02252424 ∧ (rwMask 0x02252424).isSome = true ∧ pageBase 5 = 0x02050000 := by decide
/-- R101: a load of s0 reads 0 and a write of s0 is discarded. -/
theorem test_s0 : ((aw.sb.put 0 5).get 0) = 0 := by decide
/-- R474: a saturating counter stays at its top. -/
theorem test_saturates : satAdd 0xFFFFFFFF 1 = 0xFFFFFFFF ∧ satAdd 7 1 = 8 := by decide
/-- No word spells a command. -/
theorem test_no_word_spells_a_command : decodeTableWord 32 0x13 = none ∧ (State.reset.withFetchWord 32 0x13) = State.reset := by decide

/-- R5: SHA-384 of the three bytes of FIPS 180-4's example begins CB00753F and ends C825A7. -/
theorem test_sha384 : (hash48 [0x61, 0x62, 0x63]).take 4 = [0xCB, 0x00, 0x75, 0x3F] ∧ (hash48 [0x61, 0x62, 0x63]).drop 45 = [0xC8, 0x25, 0xA7] := by decide +kernel
end Sys2Proof.Tests
end

section
/-! PROOFS. Host accesses to BAR0 (O54): a register write in each of its cases, the latches of register pairs, and a register read. -/
namespace Sys2Proof.Machine

/-! ### Register writes -/

theorem exec_registerWrite (a : Nat) (en : BitVec 4) (v : Word) (s : State) : exec (.registerWrite a en v) s = .next (s.bar0Write a en v) := rfl

theorem runs_registerWrite {s t : State} {a : Nat} {en : BitVec 4} {v : Word} {P : State → Prop} (h : s.bar0Write a en v = t) (hp : P t) :
    Runs (.registerWrite a en v) s P :=
  runs_of ((exec_registerWrite a en v s).trans (congrArg _ h)) hp

theorem State.bar0Write_unserved {s : State} {a : Nat} {en : BitVec 4} (v : Word) (h : s.writeServed a = false ∨ en = 0) : s.bar0Write a en v = s := by
  unfold State.bar0Write
  exact if_pos (by simpa using h)

/-- The three grounds on which a served write is discarded (R469, R470, R474). -/
theorem State.bar0Write_discarded {s : State} {a : Nat} {en : BitVec 4} (v : Word) (h : s.writeServed a = true) (he : en ≠ 0)
    (hd : rwMask a = none ∨ (en ≠ 0xF ∧ byteWritable a = false) ∨ (s.supState ≠ 0 ∧ 0x10000 ≤ a)) :
    s.bar0Write a en v = s.leaveL1.bump 0x24 1 := by
  have hs : s.leaveL1.supState = s.supState := rfl
  unfold State.bar0Write State.bar0Do
  rw [if_neg (by simpa [h] using he), hs]
  rcases hd with hm | ⟨hp, hb⟩ | hh
  · simp [hm]
  · rw [hb, if_neg Bool.false_ne_true, if_neg hp, ite_self, ite_self]
  · simp [hh]

theorem OnlyChanges.setReg (s : State) (a : Nat) (v : Word) : OnlyChanges s (s.setReg a v) [a] [] :=
  ⟨fun b hb => by simp [List.ne_of_not_mem_cons hb], fun j _ => by simp, by simp⟩

theorem byteWritable_eq_false {a : Nat} (h : (0x12000 ≤ a ∧ a < 0x58000) ∨ (0x59008 ≤ a ∧ a < 0x400000)) : byteWritable a = false := by
  simp only [byteWritable, Bool.or_eq_false_iff, Bool.and_eq_false_iff, decide_eq_false_iff_not]
  omega

/-- The multicast, destination and neighbour registers of the mesh have no behaviour of their own. -/
theorem State.regWrite_mesh (s : State) {a : Nat} (v : Word) (hl : 0x201000 ≤ a) (hu : a < 0x202800) :
    s.regWrite a v = s.setRw a v ((rwMask a).getD 0) := by
  have hr : ¬ isRwo a = true := by simp only [isRwo, Bool.or_eq_true, Bool.and_eq_true, decide_eq_true_eq]; omega
  unfold State.regWrite
  repeat (refine (if_neg (by omega)).trans ?_)
  rfl

theorem State.regWrite_gov (s : State) {a : Nat} (v : Word) (hl : 0x30000 ≤ a) (hu : a < 0x40000) : s.regWrite a v = s.govWrite a v := by
  unfold State.regWrite
  rw [if_neg (by omega), if_neg (by omega), if_neg (by omega), if_pos ⟨hl, hu⟩]

/-- A register of the governor without a writable bit is read-only: each of those with a behaviour of their own has one. -/
theorem State.govWrite_readOnly (s : State) {a : Nat} (v : Word) (h : rwMask a = some 0) : s.govWrite a v = s := by
  unfold State.govWrite
  dsimp only
  split
  case h_8 => rw [h]; rfl
  all_goals exact absurd h (by decide)

/-- Every dword of the mailbox window takes all its bits. -/
theorem rwMask_mailboxWindow {a : Nat} (hl : 0x11000 ≤ a) (hu : a < 0x12000) (h4 : a % 4 = 0) : rwMask a = some 0xFFFFFFFF := by
  unfold rwMask
  rw [if_neg (by omega), if_neg (by omega), if_neg (by omega), if_pos (by omega)]

theorem byteWritable_mailboxWindow {a : Nat} (hl : 0x11000 ≤ a) (hu : a < 0x12000) : byteWritable a = true := by
  simp [byteWritable, hl, hu]

theorem toNat_leNat_four (b0 b1 b2 b3 : Byte) :
    (BitVec.ofNat 32 (leNat [b0, b1, b2, b3])).toNat = b0.toNat + 256 * (b1.toNat + 256 * (b2.toNat + 256 * b3.toNat)) := by
  simp only [leNat, BitVec.toNat_ofNat]
  omega

/-- Byte `k` of a dword after a write of its enabled bytes (R470). -/
theorem fld_enabled (old v : Word) (en : BitVec 4) {k : Nat} (hk : k < 4) :
    fld (enabled old en v) (8 * k) 8 = if bitAt en k then fld v (8 * k) 8 else fld old (8 * k) 8 := by
  have byte (j : Nat) : (BitVec.ofNat 8 (fld (if bitAt en j then v else old) (8 * j) 8)).toNat =
      if bitAt en j then fld v (8 * j) 8 else fld old (8 * j) 8 := by
    rw [BitVec.toNat_ofNat]
    split <;> exact Nat.mod_mod _ _
  rw [← byte k]
  have e : (enabled old en v).toNat = _ := toNat_leNat_four _ _ _ _
  unfold fld at e ⊢
  rw [e]
  interval_cases k <;> simp only [Nat.shiftRight_eq_div_pow] <;> omega

/-! ### Latched pairs -/

/-- The latch with a key, if it holds a value. -/
def State.latchAt (s : State) (k : Nat) : Option Word := mget (fun _ => none) s.latch k

/-- A latch set to a value, or taken. -/
def State.setLatch (s : State) (k : Nat) (x : Option Word) : State := { s with latch := mset (fun _ => none) s.latch k x }

theorem State.latchAt_setLatch_same (s : State) (k : Nat) (x : Option Word) : (s.setLatch k x).latchAt k = x := mget_mset_same _ _ _ _

theorem State.latchAt_setLatch_other (s : State) {k j : Nat} (x : Option Word) (h : j ≠ k) : (s.setLatch k x).latchAt j = s.latchAt j :=
  mget_mset_other _ _ _ h

theorem OnlyChanges.setLatch (s : State) (k : Nat) (x : Option Word) : OnlyChanges { s with latch := (s.setLatch k x).latch } (s.setLatch k x) [] [] :=
  OnlyChanges.refl _ _ _

theorem State.latchAt_emit (s : State) (o : Out) (k : Nat) : (s.emit o).latchAt k = s.latchAt k := rfl

/-- A read of a low register (R473). -/
theorem State.latchRead_low (s : State) (r : Nat) {a : Nat} (h : latches a = true) :
    s.latchRead r a = (s.regView a, s.setLatch (latchKey r a) (some (s.regView (a + 4)))) := by
  unfold State.latchRead
  exact if_pos h

/-- A read of a high register whose latch holds a value (R473). -/
theorem State.latchRead_taken (s : State) {r a lo : Nat} {v : Word} (hl : latches a = false) (h : latchedLo a = some lo)
    (hv : s.latchAt (latchKey r lo) = some v) : s.latchRead r a = (v, s.setLatch (latchKey r lo) none) := by
  unfold State.latchAt at hv
  unfold State.latchRead
  rw [hl, if_neg Bool.false_ne_true, h]
  dsimp only
  rw [hv]
  rfl

/-- A read that neither sets nor takes a latch (R473). -/
theorem State.latchRead_plain (s : State) {r a : Nat} (hl : latches a = false) (h : ∀ lo, latchedLo a = some lo → s.latchAt (latchKey r lo) = none) :
    s.latchRead r a = (s.regView a, s) := by
  unfold State.latchAt at h
  unfold State.latchRead
  rw [hl, if_neg Bool.false_ne_true]
  cases e : latchedLo a with
  | none => rfl
  | some lo => dsimp only; rw [h lo e]

/-! ### The local store window -/

/-- An address of the local store window of an awake station, whose signal box may be writing (R477). -/
def State.inWindow (s : State) (a : Nat) : Prop :=
  0x2000000 ≤ a ∧ 0x8000 ≤ a % 0x10000 ∧ (s.stn ((a - 0x2000000) / 0x10000)).ctl.run = .awake

theorem State.windowMix_of_not_inWindow (s : State) {a : Nat} {new : Option Word} (old : Word) (h : new = none ∨ ¬ s.inWindow a) : s.windowMix a old new = (old, s) := by
  cases new with
  | none => rfl
  | some w => exact if_neg (h.resolve_left (Option.some_ne_none w))

/-- Bits picked from two words. -/
theorem bitAt_mix (old w pick : Word) (k : Nat) :
    bitAt ((old &&& ~~~pick) ||| (w &&& pick)) k = bitAt old k ∨ bitAt ((old &&& ~~~pick) ||| (w &&& pick)) k = bitAt w k := by
  by_cases hk : k < 32
  · cases hp : pick[k] <;> simp [bitAt, hk, hp]
  · left; simp [bitAt, Nat.not_lt.mp hk]

/-- A word that is being written reads with each bit old or new (R477). -/
theorem State.windowMix_of_inWindow (s : State) {a : Nat} (old w : Word) (h : s.inWindow a) :
    ∃ x : Word, s.windowMix a old (some w) = (x, { s with free := s.free + 1 }) ∧ ∀ k, bitAt x k = bitAt old k ∨ bitAt x k = bitAt w k :=
  ⟨_, if_pos h, bitAt_mix old w _⟩

/-- The high register of a pair lies outside the local store windows. -/
theorem not_inWindow_of_latchedLo (s : State) {a lo : Nat} (h : latchedLo a = some lo) : ¬ s.inWindow a ∧ ¬ s.inWindow lo := by
  unfold State.inWindow
  unfold latchedLo at h
  split_ifs at h <;> cases h <;> omega

theorem not_inWindow_of_latches (s : State) {a : Nat} (h : latches a = true) : ¬ s.inWindow a :=
  (not_inWindow_of_latchedLo s (of_decide_eq_true h)).2

/-! ### Register reads -/

theorem exec_loLatchRead (r : Fin 5) (x : RegRead) (s : State) : exec (.loLatchRead r x) s = execLoLatchRead r x s := rfl

/-- A read of the host that the link and the state serve (R405). -/
theorem exec_hostRead {s : State} {a : Nat} (clash : Option Word) (hp : s.pcieUp = true) (h0 : s.readStatus a = 0) :
    exec (.loLatchRead 0 ⟨a, clash⟩) s =
      .next (((s.leaveL1.latchRead 0 a).2.windowMix a (s.leaveL1.latchRead 0 a).1 clash).2.emit
        (.completion 0 false (leBytes 4 ((s.leaveL1.latchRead 0 a).2.windowMix a (s.leaveL1.latchRead 0 a).1 clash).1.toNat))) := by
  rw [exec_loLatchRead]
  unfold execLoLatchRead
  rw [if_pos (by simp [hp])]
  exact if_pos h0

/-- A read of the host that no write of the signal box meets completes with what the latches give. -/
theorem exec_hostRead_of_not_inWindow {s t : State} {a : Nat} {clash : Option Word} {v : Word} (hp : s.pcieUp = true) (h0 : s.readStatus a = 0)
    (hl : s.leaveL1.latchRead 0 a = (v, t)) (hw : clash = none ∨ ¬ t.inWindow a) :
    exec (.loLatchRead 0 ⟨a, clash⟩) s = .next (t.emit (.completion 0 false (leBytes 4 v.toNat))) := by
  rw [exec_hostRead clash hp h0, hl, State.windowMix_of_not_inWindow t v hw]

theorem exec_hostRead_refused {s : State} {a : Nat} (clash : Option Word) (hp : s.pcieUp = true) (h0 : s.readStatus a ≠ 0) :
    exec (.loLatchRead 0 ⟨a, clash⟩) s = .next (s.emit (.completion (s.readStatus a) false [])) := by
  rw [exec_loLatchRead]
  unfold execLoLatchRead
  rw [if_pos (by simp [hp])]
  exact if_neg h0

theorem exec_hostRead_linkDown {s : State} (x : RegRead) (hp : s.pcieUp = false) : exec (.loLatchRead 0 x) s = .next s := by
  rw [exec_loLatchRead]
  unfold execLoLatchRead
  rw [hp]
  rfl

theorem exec_coreRead (s : State) {r : Fin 5} (hr : r ≠ 0) (a : Nat) (clash : Option Word) :
    exec (.loLatchRead r ⟨a, clash⟩) s = .next (s.latchRead r a).2 := by
  rw [exec_loLatchRead]
  unfold execLoLatchRead
  rw [if_neg (by simp [hr]), if_neg hr]

theorem runs_coreRead {s t : State} {r : Fin 5} {a : Nat} {v : Word} {P : State → Prop} (hr : r ≠ 0) (clash : Option Word)
    (h : s.latchRead r a = (v, t)) (hp : P t) : Runs (.loLatchRead r ⟨a, clash⟩) s P :=
  runs_of ((exec_coreRead s hr a clash).trans (by rw [h])) hp

/-! ### The statements of the cases -/

/-- A write of a whole dword to a multicast, destination or neighbour register of the mesh (R8). -/
theorem runs_meshRegisterWrite {s : State} {a : Nat} {m : Word} (v : Word) (h : s.writeServed a = true) (hs : s.supState = 0)
    (hl : 0x201000 ≤ a) (hu : a < 0x202800) (hm : rwMask a = some m) :
    Runs (.registerWrite a 0xF v) s (fun t => t.reg a = (v &&& m) ||| (s.reg a &&& ~~~m) ∧ OnlyChanges s.leaveL1 t [a] []) := by
  have e : s.bar0Write a 0xF v = s.leaveL1.setReg a ((v &&& m) ||| (s.reg a &&& ~~~m)) := by
    rw [State.bar0Write_eq h hs (by simp [hm]) (byteWritable_eq_false (by omega)), State.regWrite_mesh _ v hl hu, hm]
    rfl
  exact runs_registerWrite e ⟨by simp, OnlyChanges.setReg _ _ _⟩

/-- A write to a read-only register of the governor (R8). -/
theorem runs_readOnlyGovWrite {s : State} {a : Nat} (v : Word) (h : s.writeServed a = true) (hs : s.supState = 0)
    (hl : 0x30000 ≤ a) (hu : a < 0x40000) (hm : rwMask a = some 0) :
    Runs (.registerWrite a 0xF v) s (fun t => OnlyChanges s.leaveL1 t [] []) := by
  have e : s.bar0Write a 0xF v = s.leaveL1 := by
    rw [State.bar0Write_eq h hs (by simp [hm]) (byteWritable_eq_false (by omega)), State.regWrite_gov _ v hl hu, State.govWrite_readOnly _ v hm]
  exact runs_registerWrite e (OnlyChanges.refl _ _ _)

/-- A write to the mailbox window sets the enabled bytes (R470). -/
theorem runs_mailboxWindowWrite {s : State} {a : Nat} {en : BitVec 4} (v : Word) (h : s.writeServed a = true) (hs : s.supState = 0)
    (he : en ≠ 0) (hl : 0x11000 ≤ a) (hu : a < 0x12000) (h4 : a % 4 = 0) :
    Runs (.registerWrite a en v) s (fun t =>
      (∀ k, k < 4 → fld (t.reg a) (8 * k) 8 = (if bitAt en k then fld v (8 * k) 8 else fld (s.reg a) (8 * k) 8)) ∧ OnlyChanges s.leaveL1 t [a] []) := by
  have e : s.bar0Write a en v = s.leaveL1.setReg a (enabled (s.reg a) en v) := by
    rw [State.bar0Write_bytes h hs (by simp [rwMask_mailboxWindow hl hu h4]) (byteWritable_mailboxWindow hl hu) he, if_neg (by omega), if_neg (by omega)]
  refine runs_registerWrite e ⟨fun k hk => ?_, OnlyChanges.setReg _ _ _⟩
  rw [State.reg_setReg, if_pos rfl, fld_enabled _ _ _ hk]

end Sys2Proof.Machine

namespace Sys2Proof
open Machine

/-- Settles O54: the write side case by case through `State.bar0Write`, the read side through `State.latchRead` and `State.windowMix`, whose latched registers lie outside the local store windows. -/
theorem registerAccesses : Obligations.RegisterAccesses := by
  refine ⟨fun s a en v => ⟨fun h => ?_, fun h he hd => ?_, fun h hs => ⟨?_, ?_, ?_⟩⟩, fun s a clash => ⟨fun hp => ⟨?_, ?_, ?_, ?_⟩, ?_, fun r hr => ⟨?_, ?_, ?_⟩⟩⟩
  · exact (exec_registerWrite _ _ _ _).trans (congrArg _ (State.bar0Write_unserved v h))
  · exact runs_registerWrite (State.bar0Write_discarded v h he hd) ⟨by simp, (OnlyChanges.refl _ _ _).bump 1 (by simp)⟩
  · rintro m rfl hl hu hm
    exact runs_meshRegisterWrite v h hs hl hu hm
  · rintro rfl hl hu hm
    exact runs_readOnlyGovWrite v h hs hl hu hm
  · exact fun he hl hu h4 => runs_mailboxWindowWrite v h hs he hl hu h4
  · intro h0 hl
    exact runs_of (exec_hostRead_of_not_inWindow hp h0 (State.latchRead_low _ 0 hl) (.inr (not_inWindow_of_latches _ hl)))
      ⟨rfl, (State.latchAt_emit _ _ _).trans (State.latchAt_setLatch_same _ _ _), fun _ _ => rfl, fun _ _ => rfl, rfl⟩
  · intro lo v h0 hl hlo hv
    exact runs_of (exec_hostRead_of_not_inWindow hp h0 (State.latchRead_taken _ hl hlo hv) (.inr (not_inWindow_of_latchedLo _ hlo).1))
      ⟨rfl, (State.latchAt_emit _ _ _).trans (State.latchAt_setLatch_same _ _ _), fun _ _ => rfl, fun _ _ => rfl, rfl⟩
  · intro h0 hl hn
    have plain : s.leaveL1.latchRead 0 a = (s.regView a, s.leaveL1) := State.latchRead_plain _ hl hn
    refine ⟨fun hw => runs_of (exec_hostRead_of_not_inWindow hp h0 plain hw) ⟨rfl, OnlyChanges.refl _ _ _⟩, ?_⟩
    rintro w rfl hw
    obtain ⟨x, hx, hbits⟩ := s.leaveL1.windowMix_of_inWindow (s.regView a) w hw
    exact runs_of ((exec_hostRead _ hp h0).trans (by rw [plain, hx])) ⟨⟨x, rfl, fun k _ => hbits k⟩, OnlyChanges.refl _ _ _⟩
  · exact fun h0 => runs_of (exec_hostRead_refused clash hp h0) rfl
  · exact exec_hostRead_linkDown _
  · intro hl
    exact runs_coreRead hr clash (State.latchRead_low s r hl)
      ⟨State.latchAt_setLatch_same _ _ _, fun _ => State.latchAt_setLatch_other _ _, OnlyChanges.setLatch _ _ _⟩
  · intro lo hl hlo hv
    obtain ⟨v, hv⟩ := Option.ne_none_iff_exists'.mp hv
    exact runs_coreRead hr clash (State.latchRead_taken s hl hlo hv)
      ⟨State.latchAt_setLatch_same _ _ _, fun _ => State.latchAt_setLatch_other _ _, OnlyChanges.setLatch _ _ _⟩
  · intro hl hn
    rw [exec_coreRead s hr, State.latchRead_plain s hl hn]

end Sys2Proof
end

section
/-! PROOFS. Fault records and scrubs (O60): the ring of fault records, FAULT_RD, and a scrub in each of its findings. -/
namespace Sys2Proof.Machine

/-! ### The ring of fault records -/

theorem State.reg_setRegs_at (s : State) {a k : Nat} {l : List Word} (hk : k < l.length) : (s.setRegs a l).reg (a + 4 * k) = l.getD k 0 := by
  induction l generalizing s a k with
  | nil => exact absurd hk (Nat.not_lt_zero k)
  | cons w r ih =>
    rw [State.setRegs]
    cases k with
    | zero => rw [State.reg_setRegs _ _ _ _ (by omega)]; simp
    | succ k =>
      rw [show a + 4 * (k + 1) = a + 4 + 4 * k by omega, ih _ (Nat.lt_of_succ_lt_succ hk)]
      rfl

/-- The words of a record stand in the ring at the place that FAULT_WR gives (R446). -/
theorem State.reg_logFault_ring (s : State) (code step unit : Nat) (d0 : Word) (d1 : BitVec 64) {k : Nat} (hk : k < 8) :
    (s.logFault code step unit d0 d1).reg (0x68000 + 32 * ((s.reg 0x6000C).toNat % 1024) + 4 * k) = (faultWords s code step unit d0 d1).getD k 0 := by
  have hr := s.reg_setRegs_at (a := 0x68000 + 32 * ((s.reg 0x6000C).toNat % 1024)) (l := faultWords s code step unit d0 d1) hk
  generalize ha : 0x68000 + 32 * ((s.reg 0x6000C).toNat % 1024) + 4 * k = a at hr ⊢
  have hwr : a ≠ 0x6000C := by omega
  have hlost : a ≠ 0x60014 := by omega
  unfold State.logFault
  dsimp only
  rw [State.reg_signal, ← hr]
  split <;> split <;> simp [hwr, hlost]

/-- The first word of a record of step 0 holds its code in the low half (R446). -/
theorem fld_faultWords_code (s : State) {code : Nat} (h : code < 0x10000) (unit : Nat) (d0 : Word) (d1 : BitVec 64) :
    fld ((faultWords s code 0 unit d0 d1).getD 0 0) 0 16 = code := by
  simp only [faultWords, List.getD_cons_zero, fld, BitVec.toNat_ofNat, Nat.shiftRight_zero]
  omega

/-- From `s` to `t` one record was logged, and it bears the code. -/
def FaultLogged (s : State) (code : Nat) (t : State) : Prop :=
  t.reg 0x6000C = s.reg 0x6000C + 1 ∧ fld (t.reg (0x68000 + 32 * ((s.reg 0x6000C).toNat % 1024))) 0 16 = code

theorem FaultLogged.logFault {s u : State} (hu : u.reg 0x6000C = s.reg 0x6000C) {code : Nat} (h : code < 0x10000) (unit : Nat) (d0 : Word) (d1 : BitVec 64) :
    FaultLogged s code (u.logFault code 0 unit d0 d1) := by
  unfold FaultLogged
  rw [← hu]
  exact ⟨u.wr_logFault _ _ _ _ _, (congrArg (fld · 0 16) (u.reg_logFault_ring code 0 unit d0 d1 (k := 0) (by omega))).trans (fld_faultWords_code u h unit d0 d1)⟩

/-! ### FAULT_RD -/

theorem exec_faultRdWrite (v : Word) (s : State) : exec (.faultRdWrite v) s = .next (s.bar0Write 0x60010 0xF v) := rfl

theorem State.regWrite_faultRd (s : State) (v : Word) : s.regWrite 0x60010 v = s.faultRd v := rfl

/-- A served write of FAULT_RD (R468). -/
theorem runs_faultRdWrite {s : State} (v : Word) (hs : s.supState = 0) (h : s.writeServed 0x60010 = true) :
    Runs (.faultRdWrite v) s (fun t =>
      t.reg 0x60010 = (if 1 ≤ (v - s.reg 0x6000C).toNat ∧ (v - s.reg 0x6000C).toNat < 2 ^ 31 then s.reg 0x6000C else v) ∧ OnlyChanges s.leaveL1 t [0x60010] []) := by
  have e : s.bar0Write 0x60010 0xF v = s.leaveL1.faultRd v := by
    rw [State.bar0Write_eq h hs rfl (byteWritable_eq_false (by omega)), State.regWrite_faultRd]
  refine runs_of ((exec_faultRdWrite v s).trans (congrArg _ e)) ⟨?_, OnlyChanges.setReg _ _ _⟩
  exact (State.reg_setReg _ _ _ _).trans (if_pos rfl)

/-! ### The lines that a scrub reads -/

/-- Requests for lines change registers and the power-down of channels alone (R283, R289). -/
theorem State.useLines_eq (s : State) (ls ce : List Nat) :
    ∃ r q p, s.useLines ls ce = { s with die := { s.die with reg := r, pdown := p }, aoReg := q } := by
  unfold State.useLines
  induction ls generalizing s with
  | nil => exact ⟨s.die.reg, s.aoReg, s.die.pdown, rfl⟩
  | cons l ls ih =>
    obtain ⟨r, q, p, h⟩ := ih ((s.wakeChannel l).corrected l (ce.contains l))
    obtain ⟨r', q', h'⟩ : ∃ r q, (s.wakeChannel l).corrected l (ce.contains l) = { s.wakeChannel l with die := { (s.wakeChannel l).die with reg := r }, aoReg := q } := by
      unfold State.corrected
      split
      · exact State.setReg_eq _ _ _
      · exact ⟨_, _, rfl⟩
    exact ⟨r, q, p, by rw [List.foldl_cons, h, h']; rfl⟩

@[simp] theorem State.stn_useLines (s : State) (ls ce : List Nat) (j : Nat) : (s.useLines ls ce).stn j = s.stn j := by
  obtain ⟨r, q, p, h⟩ := s.useLines_eq ls ce; rw [h]; rfl
@[simp] theorem State.lpddr_useLines (s : State) (ls ce : List Nat) : (s.useLines ls ce).lpddr = s.lpddr := by
  obtain ⟨r, q, p, h⟩ := s.useLines_eq ls ce; rw [h]
@[simp] theorem State.fuses_useLines (s : State) (ls ce : List Nat) : (s.useLines ls ce).fuses = s.fuses := by
  obtain ⟨r, q, p, h⟩ := s.useLines_eq ls ce; rw [h]
@[simp] theorem State.uptime_useLines (s : State) (ls ce : List Nat) : (s.useLines ls ce).uptime = s.uptime := by
  obtain ⟨r, q, p, h⟩ := s.useLines_eq ls ce; rw [h]
@[simp] theorem State.l480_useLines (s : State) (ls ce : List Nat) : (s.useLines ls ce).l480 = s.l480 := by
  obtain ⟨r, q, p, h⟩ := s.useLines_eq ls ce; rw [h]

@[simp] theorem State.reg_wakeChannel (s : State) (l a : Nat) : (s.wakeChannel l).reg a = s.reg a := rfl

/-- Only the counters of the controllers are raised (R289). -/
theorem State.reg_useLines (s : State) (ls ce : List Nat) {a : Nat} (h : a < 0x100000) : (s.useLines ls ce).reg a = s.reg a := by
  unfold State.useLines
  induction ls generalizing s with
  | nil => rfl
  | cons l ls ih =>
    rw [List.foldl_cons, ih]
    unfold State.corrected State.mbump
    split
    · rw [State.reg_bump, if_neg (by omega), State.reg_wakeChannel]
    · rfl

/-- Lines none of which is found correctable raise no counter. -/
theorem State.reg_useLines_clean (s : State) (ls : List Nat) (a : Nat) : (s.useLines ls []).reg a = s.reg a := by
  unfold State.useLines
  induction ls generalizing s with
  | nil => rfl
  | cons l ls ih => rw [List.foldl_cons, ih]; rfl

/-! ### Golden slots -/

@[simp] theorem State.slotLine_useLines (s : State) (ls ce : List Nat) (i m k : Nat) : (s.useLines ls ce).slotLine i m k = s.slotLine i m k := by
  unfold State.slotLine State.goldenLine State.capMib
  rw [State.l480_useLines]

@[simp] theorem State.memBytes_useLines (s : State) (ls ce : List Nat) (a n : Nat) : (s.useLines ls ce).memBytes a n = s.memBytes a n := by
  simp [State.memBytes]

@[simp] theorem State.slotDesc_useLines (s : State) (ls ce : List Nat) (i m k : Nat) : (s.useLines ls ce).slotDesc i m k = s.slotDesc i m k := by
  unfold State.slotDesc
  rw [State.slotLine_useLines, State.memBytes_useLines]

@[simp] theorem State.goldenBank_useLines (s : State) (ls ce : List Nat) (i m k : Nat) : (s.useLines ls ce).goldenBank i m k = s.goldenBank i m k := by
  unfold State.goldenBank
  rw [State.slotDesc_useLines, State.slotLine_useLines, State.memBytes_useLines, State.stn_useLines]

@[simp] theorem State.recentReloads_useLines (s : State) (ls ce : List Nat) (i m : Nat) : (s.useLines ls ce).recentReloads i m = s.recentReloads i m := by
  simp [State.recentReloads]

/-- The lines of every golden slot lie in the golden region (R286, R292). -/
theorem State.region_slotLine (s : State) (i : Stn) (m : Fin 64) (k : Fin 4) {j : Nat} (hj : j < 80) : s.region ((s.slotLine i m k + j) * 64) = .golden := by
  have hi := i.isLt
  have hm := m.isLt
  have hk := k.isLt
  have hc : 640 ≤ s.capMib := by unfold State.capMib; split <;> omega
  unfold State.region State.slotLine State.goldenLine
  dsimp only
  rw [if_neg (by omega), if_neg (by omega), if_pos (by omega)]

theorem State.exists_of_slotBad {s : State} {i m k l : Nat} {found : Option Nat} (h : s.slotBad i m k found = some l) : ∃ j < 80, l = s.slotLine i m k + j := by
  obtain ⟨j, hj, e⟩ := List.mem_map.mp (List.mem_of_find?_eq_some h)
  exact ⟨j, List.mem_range.mp hj, e.symm⟩

/-! ### An uncorrectable golden line -/

theorem State.readUe_golden {s : State} {l : Nat} (h : s.region (l * 64) = .golden) :
    s.readUe l = (({ s with poison := if s.poison.contains l then s.poison else s.poison ++ [l] } : State).bump (0x100018 + ctrlOf l * 0x1000) 1).logFault
      0x0202 0 (0x100 + ctrlEdge (ctrlOf l)) (BitVec.ofNat 32 (s.goldenId l)) (BitVec.ofNat 64 l) := if_pos h

theorem mem_notePoison (p : List Nat) (l : Nat) : l ∈ (if p.contains l then p else p ++ [l]) := by
  split
  · exact List.contains_iff_mem.mp ‹_›
  · simp

/-- What a scrub does that meets an uncorrectable line of the slot (R290, R293, R452). -/
theorem State.scrubBank_uncorrectable {s : State} {i : Stn} {m : Fin 64} {k : Fin 4} {found : Option Nat} {l : Nat} (ce : List Nat) (h : s.slotBad i m k found = some l) :
    let t := s.scrubBank i m k found ce
    FaultLogged s 0x0202 t ∧ l ∈ t.poison ∧ SameStns s t [] ∧ t.lpddr = s.lpddr ∧ t.fuses = s.fuses := by
  unfold State.scrubBank
  dsimp only
  rw [h]
  dsimp only
  generalize hls : (List.range (l - s.slotLine i m k)).map (s.slotLine i m k + ·) = ls
  generalize hce : ce.map (s.slotLine i m k + ·) = cs
  have hg : (s.useLines ls cs).region (l * 64) = .golden := by
    obtain ⟨j, hj, rfl⟩ := State.exists_of_slotBad h
    rw [← s.slotLine_useLines ls cs]
    exact State.region_slotLine _ i m k hj
  rw [State.readUe_golden hg]
  refine ⟨FaultLogged.logFault ?_ (by omega) _ _ _, ?_, fun j _ => ?_, ?_, ?_⟩
  · rw [State.reg_bump, if_neg (by omega)]
    exact s.reg_useLines ls cs (by omega)
  · simpa using mem_notePoison (s.useLines ls cs).poison l
  · rw [State.stn_logFault, State.stn_bump]
    exact s.stn_useLines ls cs j
  · simp
  · simp

/-! ### A bank found wrong -/

/-- The fault of a bank that a scrub found wrong in row or channel `d1` (R447). -/
def scrubFault (m k code d1 : Nat) : FaultInfo := ⟨code, BitVec.ofNat 32 (m + k * 256), BitVec.ofNat 64 d1⟩

/-- What a scrub leaves alone: at its station the banks, platform memory and the instructions, every other station, LPDDR5X and the fuses. -/
def ScrubFrame (s : State) (i : Nat) (t : State) : Prop :=
  (t.stn i).banks = (s.stn i).banks ∧ (t.stn i).pm = (s.stn i).pm ∧ (t.stn i).iss = (s.stn i).iss ∧ SameStns s t [i] ∧ t.lpddr = s.lpddr ∧ t.fuses = s.fuses

/-- A scrub that finds a bank wrong logs its record, and sends the bank to step 2, or to step 3 where it would be the third reload (R452, R454). -/
def ScrubSent (s : State) (i m k code d1 : Nat) (t : State) : Prop :=
  FaultLogged s code t ∧
  (s.recentReloads i m < 2 → (t.stn i).toReload = [(m, k, scrubFault m k code d1, 0)] ∧ (t.stn i).toFault = []) ∧
  (2 ≤ s.recentReloads i m → (t.stn i).toFault = [m] ∧ (t.stn i).toReload = []) ∧ ScrubFrame s i t

theorem State.scrubFound_reload {s : State} {i m : Nat} (k code d1 : Nat) (h : s.recentReloads i m < 2) :
    s.scrubFound i m k code d1 = (s.logFault code 0 i (BitVec.ofNat 32 (m + k * 256)) (BitVec.ofNat 64 d1)).setStn i
      { s.stn i with toReload := (s.stn i).toReload ++ [(m, k, scrubFault m k code d1, 0)] } := by
  unfold State.scrubFound
  dsimp only
  rw [if_neg (Nat.not_le.mpr h), State.stn_logFault]
  rfl

theorem State.scrubFound_route {s : State} {i m : Nat} (k code d1 : Nat) (h : 2 ≤ s.recentReloads i m) :
    s.scrubFound i m k code d1 = (s.logFault code 0 i (BitVec.ofNat 32 (m + k * 256)) (BitVec.ofNat 64 d1)).setStn i
      { s.stn i with toFault := (s.stn i).toFault ++ [m] } := by
  unfold State.scrubFound
  dsimp only
  rw [if_pos h, State.stn_logFault]

/-- Where nothing ranks before a scrub, nothing of the station waits for steps 2 and 3. -/
theorem State.nothingSent_of_not_scrubYields {s : State} {i : Nat} (h : s.scrubYields i = false) : (s.stn i).toReload = [] ∧ (s.stn i).toFault = [] := by
  simp only [State.scrubYields, Bool.or_eq_false_iff, Bool.not_eq_false', List.isEmpty_iff] at h
  exact ⟨h.1.2, h.2⟩

theorem ScrubFrame.setStn {s u : State} {i : Nat} {x : Station} (hs : ∀ j, u.stn j = s.stn j) (hl : u.lpddr = s.lpddr) (hf : u.fuses = s.fuses)
    (hb : x.banks = (s.stn i).banks) (hp : x.pm = (s.stn i).pm) (hi : x.iss = (s.stn i).iss) : ScrubFrame s i (u.setStn i x) := by
  unfold ScrubFrame
  rw [State.stn_setStn, if_pos rfl]
  exact ⟨hb, hp, hi, fun j hj => by rw [State.stn_setStn, if_neg (List.ne_of_not_mem_cons hj), hs], hl, hf⟩

/-- The finding of a scrub that has read the lines of the slot. -/
theorem State.scrubFound_sent {s : State} {i : Nat} (m : Nat) (ls ce : List Nat) (k : Nat) {code : Nat} (d1 : Nat) (hc : code < 0x10000) (hy : s.scrubYields i = false) :
    ScrubSent s i m k code d1 ((s.useLines ls ce).scrubFound i m k code d1) := by
  obtain ⟨hr, hf⟩ := State.nothingSent_of_not_scrubYields hy
  have logged := FaultLogged.logFault (s.reg_useLines ls ce (by omega)) hc i (BitVec.ofNat 32 (m + k * 256)) (BitVec.ofNat 64 d1)
  have frame (x : Station) := ScrubFrame.setStn (s := s) (i := i) (x := x) (u := (s.useLines ls ce).logFault code 0 i (BitVec.ofNat 32 (m + k * 256)) (BitVec.ofNat 64 d1))
    (by simp) (by simp) (by simp)
  rcases Nat.lt_or_ge (s.recentReloads i m) 2 with h | h
  · rw [State.scrubFound_reload k code d1 (by rwa [State.recentReloads_useLines]), State.stn_useLines]
    exact ⟨logged, fun _ => by simp [hr, hf], fun h2 => absurd h (Nat.not_lt.mpr h2), frame _ rfl rfl rfl⟩
  · rw [State.scrubFound_route k code d1 (by rwa [State.recentReloads_useLines]), State.stn_useLines]
    exact ⟨logged, fun h2 => absurd h2 (Nat.not_lt.mpr h), fun _ => by simp [hr, hf], frame _ rfl rfl rfl⟩

/-! ### A scrub in each of its findings -/

/-- A scrub that can read its slot compares the bank with what the slot describes (R452). -/
theorem State.scrubBank_readable {s : State} {i m k : Nat} {found : Option Nat} (ce : List Nat) (h : s.slotBad i m k found = none) :
    ∃ ls, let t := s.useLines ls (ce.map (s.slotLine i m k + ·))
      let b := (s.stn i).bank m k
      let g := s.goldenBank i m k
      (∀ r, rowDiffers b g = some r → s.scrubBank i m k found ce = t.scrubFound i m k 0x0104 r) ∧
      (∀ n, rowDiffers b g = none → corrDiffers b g = some n → s.scrubBank i m k found ce = t.scrubFound i m k 0x0105 n) ∧
      (rowDiffers b g = none → corrDiffers b g = none → s.scrubBank i m k found ce = t) := by
  refine ⟨(List.range 80).map (s.slotLine i m k + ·), ?_⟩
  unfold State.scrubBank
  dsimp only
  rw [h]
  dsimp only
  rw [State.goldenBank_useLines, State.stn_useLines]
  refine ⟨fun r hr => ?_, fun n hr hn => ?_, fun hr hn => ?_⟩
  · rw [hr]
  · rw [hr, hn]
  · rw [hr, hn]

/-- Each ground on which nothing is scrubbed (R14, R78, R452, R456). -/
theorem exec_scrub_yields {s : State} {i : Stn} {m : Fin 64} {k : Fin 4} (found : SlotRead)
    (h : s.live = false ∨ bitAt (s.reg 0x60004) 1 = false ∨ (s.slotDesc i m k).valid = false ∨ (s.slotDesc i m k).ok = false ∨ bitAt (s.workOf i) m = true ∨
      bitAt (s.faultBits i) m = true ∨ (s.stn i).macroUsed m = true ∨ s.scrubYields i = true) : exec (.scrub i m k found) s = .next s := by
  refine if_neg fun hc => ?_
  simp only [Bool.and_eq_true, Bool.not_eq_true'] at hc
  simp_all

/-- Where none of these grounds holds, the bank is scrubbed. -/
theorem exec_scrub {s : State} {i : Stn} {m : Fin 64} {k : Fin 4} (found : SlotRead)
    (hl : s.live = true) (he : bitAt (s.reg 0x60004) 1 = true) (hv : (s.slotDesc i m k).valid = true) (ho : (s.slotDesc i m k).ok = true)
    (hw : bitAt (s.workOf i) m = false) (hf : bitAt (s.faultBits i) m = false) (hu : (s.stn i).macroUsed m = false) (hy : s.scrubYields i = false) :
    exec (.scrub i m k found) s = .next (s.scrubBank i m k found.ue found.ce) :=
  if_pos (by simp [hl, he, hv, ho, hw, hf, hu, hy])

end Sys2Proof.Machine

namespace Sys2Proof
open Machine

/-- Settles O60: the ring through `State.reg_setRegs_at`, and a scrub by what it finds, since the requests for the slot's lines leave the slot, the bank and the record of reloads as they are. -/
theorem faultRecordsAndScrubs : Obligations.FaultRecordsAndScrubs := by
  refine ⟨fun s code step unit d0 d1 => ⟨fun k hk => s.reg_logFault_ring code step unit d0 d1 hk, s.wr_logFault code step unit d0 d1⟩,
    fun s v => ⟨runs_faultRdWrite v, fun h => (exec_faultRdWrite v s).trans (congrArg _ (State.bar0Write_unserved v (.inl h)))⟩,
    fun s i m k found ce => ⟨fun hl he hv ho hw hf hu hy => ⟨fun hb => ?_, fun l hb => ?_⟩, exec_scrub_yields ⟨found, ce⟩⟩⟩
  · have runs {t : State} (h : s.scrubBank i m k found ce = t) := (exec_scrub ⟨found, ce⟩ hl he hv ho hw hf hu hy).trans (congrArg _ h)
    obtain ⟨ls, row, correction, clean⟩ := State.scrubBank_readable ce hb
    refine ⟨fun r hr => ?_, fun n hr hn => ?_, fun hr hn => ?_⟩
    · exact runs_of (runs (row r hr)) (State.scrubFound_sent m ls _ k r (by omega) hy)
    · exact runs_of (runs (correction n hr hn)) (State.scrubFound_sent m ls _ k n (by omega) hy)
    · refine runs_of (runs (clean hr hn)) ⟨?_, s.reg_useLines ls _ (by omega), fun j _ => s.stn_useLines ls _ j, s.lpddr_useLines ls _, s.fuses_useLines ls _⟩
      rintro rfl a -
      exact s.reg_useLines_clean ls a
  · exact runs_of (exec_scrub ⟨found, ce⟩ hl he hv ho hw hf hu hy) (State.scrubBank_uncorrectable ce hb)

end Sys2Proof
end

section
/-! PROOFS. The slot instructions ACCCLR, ACCRD and ACCWR (O15): each completes, whatever it does to its slot. -/
namespace Sys2Proof.Machine

/-- Slots taken into an entry's ownership change the ledger's entries alone (R262). -/
theorem Station.own_eq (x : Station) (e : Option Nat) (l : List Nat) : ∃ es, x.own e l = { x with ledger := { x.ledger with entries := es } } := by
  unfold Station.own
  split <;> exact ⟨_, rfl⟩

@[simp] theorem Station.slot_complete (x : Station) (k b : Nat) : (x.complete k).slot b = x.slot b := by simp [Station.slot]

/-- An instruction that loads or clears a slot owns it, sets it and completes. -/
theorem Station.own_setSlot_complete (x : Station) (e : Option Nat) (l : List Nat) (a : Nat) (v : Slot) (k : Nat) :
    (∀ b, (((x.own e l).setSlot a v).complete k).slot b = if b = a then v else x.slot b) ∧
    (((x.own e l).setSlot a v).complete k).flightOf k = none ∧
    (((x.own e l).setSlot a v).complete k).pm = x.pm ∧ (((x.own e l).setSlot a v).complete k).banks = x.banks := by
  obtain ⟨es, he⟩ := x.own_eq e l
  rw [he]
  refine ⟨fun b => ?_, Station.flightOf_complete _ _, Station.pm_complete _ _, Station.banks_complete _ _⟩
  rw [Station.slot_complete, Station.slot_setSlot]
  rfl

theorem exec_accclr {s : State} {i : Stn} {f : Flight} (h : s.accHead i 0x12 = some f) :
    exec (.accclr i) s = .next (s.setStn i ((((s.stn i).own f.entry [fld f.word 20 6]).setSlot (fld f.word 20 6) Slot.clear).complete f.seq)) := by
  change execAccclr i s = _
  rw [execAccclr, h]

theorem exec_accrd {s : State} {i : Stn} {f : Flight} (h : s.accHead i 0x10 = some f) : exec (.accrd i) s = .next (s.runAccrd i f) := by
  change execAccrd i s = _
  rw [execAccrd, h]

theorem exec_accwr {s : State} {i : Stn} {f : Flight} (h : s.accHead i 0x11 = some f) :
    exec (.accwr i) s = .next (s.setStn i ((((s.stn i).own f.entry [fld f.word 20 6]).setSlot (fld f.word 20 6)
      (accwrSlot (s.stn i).pm ((s.stn i).slot (fld f.word 20 6)) (fld f.word 38 14 * 64) (mextOf f.word) (nextOf f.word))).complete f.seq)) := by
  change execAccwr i s = _
  rw [execAccwr, h]

/-- An ACCRD writes its image to platform memory, counts the entries that do not fit and completes (R129). -/
theorem State.runAccrd_eq (s : State) (i : Nat) (f : Flight) :
    let r := accrdImage (s.stn i).pm ((s.stn i).slot (fld f.word 20 6)) (fld f.word 38 14 * 64) (mextOf f.word) (nextOf f.word)
    let t := s.setStn i (({ s.stn i with pm := r.1 } : Station).complete f.seq)
    s.runAccrd i f = if r.2 = 0 then t else t.bump (pageBase i + 0x148) r.2 := by
  unfold State.runAccrd State.pbump
  dsimp only

theorem State.runAccrd_only (s : State) (i : Nat) (f : Flight) : OnlyChanges s (s.runAccrd i f) [pageBase i + 0x148] [i] := by
  rw [State.runAccrd_eq]
  split
  · exact OnlyChanges.setStn _ _ _ _ _ (List.mem_singleton_self i)
  · exact (OnlyChanges.setStn _ _ _ _ _ (List.mem_singleton_self i)).bump _ (List.mem_singleton_self _)

theorem State.stn_runAccrd (s : State) (i : Nat) (f : Flight) :
    (s.runAccrd i f).stn i = (({ s.stn i with pm := (accrdImage (s.stn i).pm ((s.stn i).slot (fld f.word 20 6)) (fld f.word 38 14 * 64)
      (mextOf f.word) (nextOf f.word)).1 } : Station).complete f.seq) := by
  rw [State.runAccrd_eq]
  split <;> simp

end Sys2Proof.Machine

namespace Sys2Proof
open Machine

/-- Settles O15: ACCCLR and ACCWR own, set and complete, and ACCRD writes its image and completes. -/
theorem slotInstructionsComplete : Obligations.SlotInstructionsComplete := by
  refine fun s i f => ⟨fun h => ?_, fun h => ?_, fun h => ?_⟩
  · obtain ⟨hslot, hdone, hpm, hbanks⟩ := (s.stn i).own_setSlot_complete f.entry [fld f.word 20 6] (fld f.word 20 6) Slot.clear f.seq
    refine runs_of (exec_accclr h) ?_
    rw [State.stn_setStn, if_pos rfl]
    exact ⟨hslot, hdone, hpm, hbanks, OnlyChanges.setStn _ _ _ _ _ (List.mem_singleton_self _)⟩
  · refine runs_of (exec_accrd h) ?_
    rw [State.stn_runAccrd]
    exact ⟨by simp, by simp, by simp, by simp, State.runAccrd_only s i f⟩
  · obtain ⟨hslot, hdone, hpm, hbanks⟩ := (s.stn i).own_setSlot_complete f.entry [fld f.word 20 6] (fld f.word 20 6)
      (accwrSlot (s.stn i).pm ((s.stn i).slot (fld f.word 20 6)) (fld f.word 38 14 * 64) (mextOf f.word) (nextOf f.word)) f.seq
    refine runs_of (exec_accwr h) ?_
    rw [State.stn_setStn, if_pos rfl]
    exact ⟨fun b hb => by rw [hslot, if_neg hb], by rw [hslot, if_pos rfl], hdone, hpm, hbanks, OnlyChanges.setStn _ _ _ _ _ (List.mem_singleton_self _)⟩

end Sys2Proof
end

section
/-! PROOFS. The handover of computed tiles (O12): a tile that waits, one whose checks agree and one whose check fails. -/
namespace Sys2Proof.Machine

theorem exec_tileHandover_waits {s : State} {i : Stn} {f : Flight} (h : (s.stn i).flightOf f.seq = some f)
    (hw : f.owed ≠ 0 ∨ (s.stn i).chainBefore i f = true) : exec (.tileHandover i f.seq) s = .next s := by
  change execTileHandover i f.seq s = _
  rw [execTileHandover, h]
  exact if_neg (by rcases hw with h | h <;> simp [h])

theorem exec_tileHandover {s : State} {i : Stn} {f : Flight} (hw : s.works = true) (h : (s.stn i).flightOf f.seq = some f) (hs : f.stage = .computed)
    (ho : f.owed = 0) (hc : (s.stn i).chainBefore i f = false) : exec (.tileHandover i f.seq) s = .next (s.handOver i f) := by
  change execTileHandover i f.seq s = _
  rw [execTileHandover, h]
  exact if_pos (by simp [hw, hs, ho, hc])

theorem State.handOver_agrees {s : State} {i : Nat} {f : Flight} {tl : Tile} (hf : f.fails = 0) (ht : f.tile = some tl) :
    s.handOver i f = s.setStn i (({ s.stn i with redq := (s.stn i).redq ++ [tl] } : Station).setFlight { f with stage := .handed }) := by
  unfold State.handOver
  simp only [hf, ht, if_true]

/-- The fault of a pass whose checks disagree (R447). -/
def checkFault (f : Flight) : FaultInfo := ⟨0x0101, BitVec.ofNat 32 (opc f.word + bankOf f.word * 256), f.fails⟩

theorem State.handOver_fails {s : State} {i : Nat} {f : Flight} (hf : f.fails ≠ 0) :
    s.handOver i f = (s.setStn i ((s.stn i).setFlight (s.afterCheck i { f with why := checkFault f }))).logFault 0x0101 0 i
      (BitVec.ofNat 32 (opc f.word + bankOf f.word * 256)) f.fails := if_neg hf

/-- After a failed check an instruction waits for step 1, 2, 3 or 4 of the ladder, and for step 1 at its first failure (R451). -/
theorem State.afterCheck_recovers (s : State) (i : Nat) (f : Flight) :
    ∃ n, (s.afterCheck i f).stage = .recover n ∧ 1 ≤ n ∧ n ≤ 4 ∧ (f.attempts = 0 → n = 1) := by
  refine ⟨_, rfl, ?_⟩
  split_ifs <;> omega

end Sys2Proof.Machine

namespace Sys2Proof
open Machine

/-- Settles O12: the handover by whether the tile waits, and by whether its checks agree. -/
theorem handoverOfTiles : Obligations.HandoverOfTiles := by
  refine fun s i f hw hf hs => ⟨exec_tileHandover_waits hf, fun ho hc => ⟨fun tl h0 ht => ?_, fun hn => ?_⟩⟩
  · refine runs_of ((exec_tileHandover hw hf hs ho hc).trans (congrArg _ (State.handOver_agrees h0 ht))) ?_
    rw [State.stn_setStn, if_pos rfl]
    exact ⟨rfl, Station.flightOf_setFlight _ (Station.mem_flightOf hf).1 rfl, rfl, OnlyChanges.setStn _ _ _ _ _ (List.mem_singleton_self _)⟩
  · obtain ⟨n, hn1, hn2, hn3, hn4⟩ := s.afterCheck_recovers i { f with why := checkFault f }
    refine runs_of ((exec_tileHandover hw hf hs ho hc).trans (congrArg _ (State.handOver_fails hn))) ?_
    rw [State.stn_logFault, State.stn_setStn, if_pos rfl]
    refine ⟨rfl, rfl, ⟨_, n, Station.flightOf_setFlight _ (Station.mem_flightOf hf).1 rfl, hn1, hn2, hn3, hn4, rfl, rfl, rfl⟩, ?_, fun j hj => ?_, by simp⟩
    · rw [State.wr_logFault]; rfl
    · simp [List.ne_of_not_mem_cons hj]

end Sys2Proof
end

section
/-! PROOFS. The signal box (O7, O8, O9): its instructions by opcode, what every one of them leaves alone, its traps and its ports. -/
namespace Sys2Proof.Machine

/-! ### Frames -/

/-- What no instruction of a signal box changes: the flights, the memories, slots, banks and tokens of its station, every other station, LPDDR5X and the mesh (R101). -/
def SbKeeps (s : State) (i : Nat) (t : State) : Prop :=
  (t.stn i).iss.flight = (s.stn i).iss.flight ∧ (t.stn i).pm = (s.stn i).pm ∧ (t.stn i).slots = (s.stn i).slots ∧
    (t.stn i).banks = (s.stn i).banks ∧ (t.stn i).tokens = (s.stn i).tokens ∧ SameStns s t [i] ∧ t.lpddr = s.lpddr ∧ t.die.mesh = s.die.mesh

theorem SbKeeps.refl (s : State) (i : Nat) : SbKeeps s i s := ⟨rfl, rfl, rfl, rfl, rfl, fun _ _ => rfl, rfl, rfl⟩

theorem SbKeeps.trans {s t u : State} {i : Nat} (h : SbKeeps s i t) (k : SbKeeps t i u) : SbKeeps s i u := by
  obtain ⟨h1, h2, h3, h4, h5, h6, h7, h8⟩ := h
  obtain ⟨k1, k2, k3, k4, k5, k6, k7, k8⟩ := k
  exact ⟨k1.trans h1, k2.trans h2, k3.trans h3, k4.trans h4, k5.trans h5, fun j hj => (k6 j hj).trans (h6 j hj), k7.trans h7, k8.trans h8⟩

theorem SbKeeps.setStn {s : State} {i : Nat} {x : Station} (h1 : x.iss.flight = (s.stn i).iss.flight) (h2 : x.pm = (s.stn i).pm)
    (h3 : x.slots = (s.stn i).slots) (h4 : x.banks = (s.stn i).banks) (h5 : x.tokens = (s.stn i).tokens) : SbKeeps s i (s.setStn i x) := by
  unfold SbKeeps
  rw [State.stn_setStn, if_pos rfl]
  exact ⟨h1, h2, h3, h4, h5, fun j hj => by rw [State.stn_setStn, if_neg (List.ne_of_not_mem_cons hj)], rfl, rfl⟩

theorem SbKeeps.setSb (s : State) (i : Nat) (b : SignalBox) : SbKeeps s i (s.setSb i b) := SbKeeps.setStn rfl rfl rfl rfl rfl

theorem SbKeeps.sbRetire (s : State) (i rd : Nat) (v pc : Word) : SbKeeps s i (s.sbRetire i rd v pc) := SbKeeps.setSb s i _

/-! ### Traps -/

theorem State.stn_sbTrap (s : State) (i : Nat) (pc : Word) (ins j : Nat) :
    (s.sbTrap i pc ins).stn j =
      if j = i then { s.stn i with ctl := { (s.stn i).ctl with run := .stopped, stopping := false, sleepReq := false } } else s.stn j := by
  simp [State.sbTrap]

theorem State.wr_sbTrap (s : State) (i : Nat) (pc : Word) (ins : Nat) : (s.sbTrap i pc ins).reg 0x6000C = s.reg 0x6000C + 1 := by
  have : 0x6000C ≠ pageBase i + 4 := by unfold pageBase; omega
  simp [State.sbTrap, this]

/-- A trap clears RUN (R101). -/
theorem State.run_sbTrap (s : State) (i : Nat) (pc : Word) (ins : Nat) : bitAt ((s.sbTrap i pc ins).preg i 4) 0 = false := by
  have hb : 0x70000 ≤ pageBase i + 4 := by unfold pageBase; omega
  unfold State.sbTrap State.preg
  rw [State.reg_logFault _ _ _ _ _ _ _ (.inr hb) (by omega) (by omega), State.reg_setFld, if_pos rfl, bitAt_putFld _ _ _ _ _ (by omega)]
  rfl

theorem SbKeeps.sbTrap (s : State) (i : Nat) (pc : Word) (ins : Nat) : SbKeeps s i (s.sbTrap i pc ins) := by
  unfold SbKeeps
  rw [State.stn_sbTrap, if_pos rfl]
  exact ⟨rfl, rfl, rfl, rfl, rfl, fun j hj => by rw [State.stn_sbTrap, if_neg (List.ne_of_not_mem_cons hj)], by simp [State.sbTrap], by simp [State.sbTrap]⟩

/-! ### Instructions by opcode -/

/-- Every instruction traps, retires from the state as it is, or is a load or a store. -/
theorem State.sbExec_cases {s : State} {i : Nat} {P : SbStep → Prop} (retire : ∀ rd v pc, P (.retire s rd v pc)) (trap : ∀ n, P (.trap n))
    (load : ∀ ins rd n g a pc, P (s.sbLoad i ins rd n g a pc)) (store : ∀ ins n a v pc, P (s.sbStore i ins n a v pc)) : P (s.sbExec i) := by
  have jump (ins rd : Nat) (link target : Word) : P (jumpTo s ins rd link target) := by
    unfold jumpTo
    split
    · exact trap _
    · exact retire _ _ _
  unfold State.sbExec
  dsimp only
  (repeat' split) <;> first | exact trap _ | exact retire _ _ _ | exact jump _ _ _ _ | exact load _ _ _ _ _ _ | exact store _ _ _ _ _

/-- A load from a port leaves the state or pops the head summary (R102). -/
theorem State.portLoad_state {s t : State} {i a : Nat} {v : Word} (h : s.portLoad i a = some (some (v, t))) : t = s ∨ t = s.popSummary i := by
  unfold State.portLoad at h
  dsimp only at h
  split_ifs at h <;> simp at h <;> grind

/-- A store to a port leaves the state, sets an issue register, appends a word or stands as a request to sleep (R102, R103, R105). -/
theorem State.portStore_state {s t : State} {i a : Nat} {v pc : Word} (h : s.portStore i a v pc = some (some t)) :
    t = s ∨ (∃ b, t = s.setSb i b) ∨ t = s.pushWord i v pc ∨ t = s.sleepWrite i v := by
  unfold State.portStore at h
  dsimp only at h
  split_ifs at h <;> simp at h <;> grind

theorem SbKeeps.sleepWrite (s : State) (i : Nat) (v : Word) : SbKeeps s i (s.sleepWrite i v) := by
  unfold State.sleepWrite
  dsimp only
  split
  · exact SbKeeps.setStn rfl rfl rfl rfl rfl
  · exact SbKeeps.refl s i

theorem SbKeeps.sbLoad (s : State) (i ins rd n : Nat) (g : Bool) (a : Nat) (pc : Word) : SbKeeps s i ((s.sbLoad i ins rd n g a pc).st s) := by
  unfold State.sbLoad
  dsimp only
  split_ifs <;> try exact SbKeeps.refl s i
  split
  case h_3 h =>
    rcases State.portLoad_state h with rfl | rfl
    · exact SbKeeps.refl _ _
    · exact SbKeeps.setStn rfl rfl rfl rfl rfl
  all_goals exact SbKeeps.refl s i

theorem SbKeeps.sbStore (s : State) (i ins n a : Nat) (v pc : Word) : SbKeeps s i ((s.sbStore i ins n a v pc).st s) := by
  unfold State.sbStore
  dsimp only
  split_ifs <;> try exact SbKeeps.refl s i
  · exact SbKeeps.setSb s i _
  split
  case h_3 h =>
    rcases State.portStore_state h with rfl | ⟨b, rfl⟩ | rfl | rfl
    · exact SbKeeps.refl _ _
    · exact SbKeeps.setSb s i b
    · exact SbKeeps.setStn rfl rfl rfl rfl rfl
    · exact SbKeeps.sleepWrite s i v
  all_goals exact SbKeeps.refl s i

theorem SbKeeps.sbExec (s : State) (i : Nat) : SbKeeps s i ((s.sbExec i).st s) :=
  State.sbExec_cases (P := fun r => SbKeeps s i (r.st s)) (fun _ _ _ => SbKeeps.refl s i) (fun _ => SbKeeps.refl s i) (SbKeeps.sbLoad s i) (SbKeeps.sbStore s i)

/-- A state from which an instruction retires. -/
theorem SbKeeps.of_retire {s u : State} {i rd : Nat} {v pc : Word} (h : s.sbExec i = .retire u rd v pc) : SbKeeps s i u := by
  have k := SbKeeps.sbExec s i
  rwa [h] at k

/-- The word at the pc, where all of it lies in the local store. -/
theorem State.sbExec_register {s : State} {i : Nat} {w : Word} (hpc : (s.stn i).sb.pc.toNat + 4 ≤ 0x10000) (hw : (s.stn i).sb.word (s.stn i).sb.pc.toNat = w)
    (ho : fld w 0 7 = 0x33) :
    s.sbExec i =
      let f3 := fld w 12 3
      let f7 := fld w 25 7
      let a := (s.stn i).sb.get (fld w 15 5)
      let b := (s.stn i).sb.get (fld w 20 5)
      if f7 = 0 then .retire s (fld w 7 5) (aluOp f3 false a b) ((s.stn i).sb.pc + 4)
      else if f7 = 0x20 ∧ (f3 = 0 ∨ f3 = 5) then .retire s (fld w 7 5) (aluOp f3 true a b) ((s.stn i).sb.pc + 4)
      else if f7 = 1 then .retire s (fld w 7 5) (mulOp f3 a b) ((s.stn i).sb.pc + 4)
      else .trap w.toNat := by
  subst hw
  unfold State.sbExec
  dsimp only
  rw [if_neg (show ¬ lsTop < _ from Nat.not_lt.mpr hpc), ho]
  rfl

/-- ECALL, EBREAK and the rest of opcode 0x73 (R101). -/
theorem State.sbExec_system {s : State} {i : Nat} {w : Word} (hpc : (s.stn i).sb.pc.toNat + 4 ≤ 0x10000) (hw : (s.stn i).sb.word (s.stn i).sb.pc.toNat = w)
    (ho : fld w 0 7 = 0x73) : s.sbExec i = .trap w.toNat := by
  subst hw
  unfold State.sbExec
  dsimp only
  rw [if_neg (show ¬ lsTop < _ from Nat.not_lt.mpr hpc), ho]
  rfl

/-! ### A step of the signal box -/

theorem exec_sbInstruction {s : State} {i : Stn} (hl : s.live = true) (hr : (s.stn i).sbRuns = true) :
    exec (.sbInstruction i) s =
      match s.sbExec i with
      | .stall => .next s
      | .trap ins => .next (s.sbTrap i (s.stn i).sb.pc ins)
      | .retire t rd v pc => .next (t.sbRetire i rd v pc) := by
  change execSbInstruction i s = _
  unfold execSbInstruction
  rw [hl, hr]
  rfl

theorem SignalBox.get_put (b : SignalBox) (rd : Nat) (v : Word) (r : Nat) : (b.put rd v).get r = if r = rd ∧ r ≠ 0 then v else b.get r := by
  unfold SignalBox.put SignalBox.get
  split_ifs <;> simp_all

/-- Nothing but the destination register and the pc changes when an instruction retires. -/
theorem State.sbRetire_frame (s : State) (i rd : Nat) (v pc : Word) :
    (∀ r, ((s.sbRetire i rd v pc).stn i).sb.get r = if r = rd ∧ r ≠ 0 then v else (s.stn i).sb.get r) ∧
    ((s.sbRetire i rd v pc).stn i).sb.pc = pc ∧
    { (s.sbRetire i rd v pc).stn i with sb := { ((s.sbRetire i rd v pc).stn i).sb with regs := (s.stn i).sb.regs, pc := (s.stn i).sb.pc } } = s.stn i ∧
    OnlyChanges s (s.sbRetire i rd v pc) [] [i] := by
  unfold State.sbRetire State.setSb
  rw [State.stn_setStn, if_pos rfl]
  refine ⟨fun r => SignalBox.get_put _ _ _ _, rfl, ?_, OnlyChanges.setStn _ _ _ _ _ (List.mem_singleton_self i)⟩
  unfold SignalBox.put
  split <;> rfl

/-- A register-register word from its fields (R101). -/
def regOp (f7 f3 rd r1 r2 : Nat) : Word := BitVec.ofNat 32 (0x33 + rd * 2 ^ 7 + f3 * 2 ^ 12 + r1 * 2 ^ 15 + r2 * 2 ^ 20 + f7 * 2 ^ 25)

theorem fld_regOp {f7 f3 rd r1 r2 : Nat} (h7 : f7 < 128) (h3 : f3 < 8) (hd : rd < 32) (h1 : r1 < 32) (h2 : r2 < 32) :
    fld (regOp f7 f3 rd r1 r2) 0 7 = 0x33 ∧ fld (regOp f7 f3 rd r1 r2) 7 5 = rd ∧ fld (regOp f7 f3 rd r1 r2) 12 3 = f3 ∧
      fld (regOp f7 f3 rd r1 r2) 15 5 = r1 ∧ fld (regOp f7 f3 rd r1 r2) 20 5 = r2 ∧ fld (regOp f7 f3 rd r1 r2) 25 7 = f7 := by
  simp only [fld, regOp, BitVec.toNat_ofNat, Nat.shiftRight_eq_div_pow]
  omega

end Sys2Proof.Machine

namespace Sys2Proof
open Machine

/-- Settles O7: the six operations through `State.sbExec_register`, and the frame of every instruction through `SbKeeps`. -/
theorem signalBoxArithmeticRetires : Obligations.SignalBoxArithmeticRetires := by
  refine ⟨fun s i k rd r1 r2 hk hl hr hpc hw => ?_, fun s i hl hr => ?_⟩
  · obtain ⟨hf7, hf3⟩ : k.1 < 128 ∧ k.2.1 < 8 := by
      simp only [List.mem_cons, List.not_mem_nil, or_false] at hk
      rcases hk with rfl | rfl | rfl | rfl | rfl | rfl <;> decide
    obtain ⟨h0, hd, h3, h1, h2, h7⟩ := fld_regOp hf7 hf3 rd.isLt r1.isLt r2.isLt
    have step : s.sbExec i = .retire s rd (k.2.2 ((s.stn i).sb.get r1) ((s.stn i).sb.get r2)) ((s.stn i).sb.pc + 4) := by
      have hword : (s.stn i).sb.word (s.stn i).sb.pc.toNat = regOp k.1 k.2.1 rd r1 r2 := hw
      rw [State.sbExec_register hpc hword h0]
      dsimp only
      rw [hd, h3, h1, h2, h7]
      simp only [List.mem_cons, List.not_mem_nil, or_false] at hk
      rcases hk with rfl | rfl | rfl | rfl | rfl | rfl <;> rfl
    refine runs_of ((exec_sbInstruction hl hr).trans (by rw [step])) ?_
    exact State.sbRetire_frame s i rd _ _
  · have run := exec_sbInstruction hl hr
    cases h : s.sbExec i with
    | stall =>
      rw [h] at run
      exact runs_of run ⟨fun _ _ _ _ e => (nomatch e), fun _ => rfl, fun _ e => (nomatch e), SbKeeps.refl s i⟩
    | trap n =>
      rw [h] at run
      refine runs_of run ⟨fun _ _ _ _ e => (nomatch e), fun e => (nomatch e), fun _ _ => ⟨by simp [State.stn_sbTrap], State.wr_sbTrap _ _ _ _⟩, SbKeeps.sbTrap s i _ n⟩
    | retire u rd v pc =>
      rw [h] at run
      refine runs_of run ⟨?_, fun e => (nomatch e), fun _ e => (nomatch e), (SbKeeps.of_retire h).trans (SbKeeps.sbRetire u i rd v pc)⟩
      rintro _ _ _ _ ⟨⟩
      exact ⟨rfl, (u.sbRetire_frame i rd v pc).2.1⟩

/-- Settles O8: both words have opcode 0x73, which traps. -/
theorem ecallAndEbreakTrap : Obligations.EcallAndEbreakTrap := by
  intro s i w hw hl hr hpc hword
  have ho : fld w 0 7 = 0x73 := by rcases hw with rfl | rfl <;> rfl
  refine runs_of ((exec_sbInstruction hl hr).trans (by rw [State.sbExec_system hpc hword ho])) ?_
  obtain ⟨-, -, -, -, -, hstns, hlpddr, hmesh⟩ := SbKeeps.sbTrap s i (s.stn i).sb.pc w.toNat
  refine ⟨?_, State.run_sbTrap _ _ _ _, State.wr_sbTrap _ _ _ _, ?_, ?_, hstns, hlpddr, hmesh⟩
  all_goals rw [State.stn_sbTrap, if_pos rfl]

end Sys2Proof
end

section
/-! PROOFS. The ports of the signal box that act on the station (O9): SB_ISSUE3, SB_SUM_HI and SB_SLEEP. -/
namespace Sys2Proof.Machine

/-! ### SB_ISSUE3 -/

theorem exec_sbIssue3 {s : State} {i : Stn} (v : Word) (hl : s.live = true) (hr : (s.stn i).sbRuns = true) (hq : (s.stn i).iss.queue.length < 32) :
    exec (.sbIssue3 i v) s = .next ((s.pushWord i v ((s.stn i).sb.pc + 4)).setPc i ((s.stn i).sb.pc + 4)) := by
  have room : 0 < (s.stn i).qfree := Nat.sub_pos_of_lt hq
  exact if_pos (by simp [hl, hr, room])

/-- A store to SB_ISSUE3 stalls while the queue is full (R103). -/
theorem exec_sbIssue3_full {s : State} {i : Stn} (v : Word) (hq : 32 ≤ (s.stn i).iss.queue.length) : exec (.sbIssue3 i v) s = .next s := by
  have full : (s.stn i).qfree = 0 := Nat.sub_eq_zero_of_le hq
  exact if_neg (by simp [full])

/-! ### SB_SUM_HI -/

theorem Station.head_posted {x : Station} {e : SumEntry} {r : List SumEntry} {v : BitVec 64} (hf : x.iss.fifo = e :: r) (hv : e.val = some v) :
    x.posted.head? = some v := by
  simp [Station.posted, hf, hv]

theorem exec_sbSumHi {s : State} {i : Stn} {v : BitVec 64} (rd : Fin 32) (hl : s.live = true) (hr : (s.stn i).sbRuns = true) (hv : (s.stn i).posted.head? = some v) :
    exec (.sbSumHi i rd) s = .next ((s.popSummary i).sbRetire i rd ((v >>> 32).setWidth 32) ((s.stn i).sb.pc + 4)) := by
  change execSbSumHi i rd s = _
  unfold execSbSumHi
  rw [hv, hl, hr]
  rfl

/-- A load of SB_SUM_HI stalls while no summary waits (R104). -/
theorem exec_sbSumHi_none {s : State} {i : Stn} (rd : Fin 32) (h : (s.stn i).posted = []) : exec (.sbSumHi i rd) s = .next s := by
  change execSbSumHi i rd s = _
  unfold execSbSumHi
  rw [h]
  rfl

/-! ### SB_SLEEP -/

theorem exec_sbSleep {s : State} {i : Stn} (v : Word) (hl : s.live = true) (hr : (s.stn i).sbRuns = true) :
    exec (.sbSleep i v) s = .next ((s.setPc i ((s.stn i).sb.pc + 4)).sleepWrite i v) := if_pos (by simp [hl, hr])

/-- Whether a store to SB_SLEEP is heard does not depend on the pc (R105). -/
theorem State.sleepWrite_setPc (s : State) (i : Nat) (pc v : Word) :
    (s.setPc i pc).sleepWrite i v =
      if bitAt v 0 && bitAt (s.preg i 4) 1 && s.phaseSleeps i then
        (s.setPc i pc).setStn i { (s.setPc i pc).stn i with ctl := { ((s.setPc i pc).stn i).ctl with sleepReq := true } }
      else s.setPc i pc := by
  have phase : (s.setPc i pc).phaseSleeps i = s.phaseSleeps i := by simp [State.phaseSleeps, State.setPc, State.setSb]
  unfold State.sleepWrite
  rw [phase]
  rfl

end Sys2Proof.Machine

namespace Sys2Proof
open Machine

/-- Settles O9: each port by its own command, in each of its cases. -/
theorem signalBoxPortsRetire : Obligations.SignalBoxPortsRetire := by
  intro s i hl hr
  have frame (x y : Station) : OnlyChanges s ((s.setStn i x).setStn i y) [] [i.val] :=
    (OnlyChanges.setStn _ _ _ _ _ (List.mem_singleton_self _)).trans (OnlyChanges.setStn _ _ _ _ _ (List.mem_singleton_self _))
  refine ⟨fun v hq => ?_, fun v => exec_sbIssue3_full v, fun rd e r v hf hv => ?_, fun rd => exec_sbSumHi_none rd, fun v h0 h1 h2 => ?_, fun v h => ?_⟩
  · refine runs_of (exec_sbIssue3 v hl hr hq) ⟨?_, ?_, ?_, ?_, ?_, ?_, frame _ _⟩
    all_goals simp [State.pushWord, State.setPc, State.setSb]
  · obtain ⟨hregs, hpc, -, -⟩ := (s.popSummary i).sbRetire_frame i rd ((v >>> 32).setWidth 32) ((s.stn i).sb.pc + 4)
    refine runs_of (exec_sbSumHi rd hl hr (Station.head_posted hf hv)) ⟨?_, hpc, fun q => (hregs q).trans ?_, ?_, frame _ _⟩
    all_goals simp [State.popSummary, State.sbRetire, State.setSb, hf]
  · refine runs_of ((exec_sbSleep v hl hr).trans (congrArg _ ((State.sleepWrite_setPc s i _ v).trans (if_pos (by simp [h0, h1, h2]))))) ⟨?_, ?_, ?_, frame _ _⟩
    all_goals simp [State.setPc, State.setSb]
  · refine runs_of ((exec_sbSleep v hl hr).trans (congrArg _ ((State.sleepWrite_setPc s i _ v).trans (if_neg (by rcases h with h | h | h <;> simp [h]))))) ⟨?_, ?_⟩
    · simp [State.setPc, State.setSb]
    · exact OnlyChanges.setStn _ _ _ _ _ (List.mem_singleton_self _)

end Sys2Proof
end

section
/-! PROOFS. Writes to STN_CTRL (O25): RUN starts and stops a station, WAKE asks for wake. -/
namespace Sys2Proof.Machine

/-! ### What RUN does to a station -/

/-- A station after a write of RUN (R107, R108, R139). -/
def Station.runWrite (x : Station) (v : Word) : Station :=
  if bitAt v 0 then (if x.ctl.run = .stopped then x.start else x) else x.stop

theorem Station.runWrite_start {x : Station} {v : Word} (hv : bitAt v 0 = true) (h : x.ctl.run = .stopped) : x.runWrite v = x.start := by
  rw [Station.runWrite, if_pos hv, if_pos h]

theorem Station.runWrite_running {x : Station} {v : Word} (hv : bitAt v 0 = true) (h : x.ctl.run ≠ .stopped) : x.runWrite v = x := by
  rw [Station.runWrite, if_pos hv, if_neg h]

theorem Station.runWrite_stop {x : Station} {v : Word} (hv : bitAt v 0 = false) : x.runWrite v = x.stop := by
  rw [Station.runWrite, if_neg (by simp [hv])]

theorem Station.stop_stopped {x : Station} (h : x.ctl.run = .stopped) : x.stop = x := by
  unfold Station.stop
  rw [h]

theorem Station.stop_awake {x : Station} (h : x.ctl.run = .awake) (hs : x.ctl.sleepReq = false) :
    x.stop = Station.settle { x with ctl := { x.ctl with stopping := true } } := by
  unfold Station.stop
  rw [h, hs]
  rfl

/-- A station that sleeps, wakes or waits to sleep holds the stop. -/
theorem Station.stop_held {x : Station} (h : x.ctl.run = .asleep ∨ x.ctl.run = .waking ∨ x.ctl.run = .awake ∧ x.ctl.sleepReq = true) :
    x.stop = { x with ctl := { x.ctl with stopHeld := true } } := by
  unfold Station.stop
  rcases h with h | h | ⟨h, hs⟩
  · rw [h]
  · rw [h]
  · rw [h, hs]
    rfl

/-- A station that stops is STOPPED at once where nothing is queued, in flight or posted, and awake otherwise (R108). -/
theorem Station.run_settle {x : Station} (h : x.ctl.stopping = true) :
    x.settle.ctl.run = (if x.iss.queue = [] ∧ x.iss.flight = [] ∧ x.atPost = false then .stopped else x.ctl.run) ∧
    (x.settle.ctl.run = .awake → x.settle.ctl.stopping = true) ∧ x.settle = { x with ctl := x.settle.ctl } := by
  have idle : (x.ctl.stopping && x.iss.queue.isEmpty && x.iss.flight.isEmpty && !x.atPost) = true ↔ x.iss.queue = [] ∧ x.iss.flight = [] ∧ x.atPost = false := by
    simp [h, and_assoc]
  unfold Station.settle
  split
  · rw [if_pos (idle.mp ‹_›)]
    exact ⟨rfl, nofun, rfl⟩
  · rw [if_neg (idle.not.mp ‹_›)]
    exact ⟨rfl, fun _ => h, rfl⟩

/-- No stop changes the memories and slots of a station, nor puts it to sleep. -/
theorem Station.stop_keeps (x : Station) : x.stop.pm = x.pm ∧ x.stop.slots = x.slots ∧ (x.stop.ctl.run = .asleep → x.ctl.run = .asleep) ∧
    x.stop.ctl.wakeReq = x.ctl.wakeReq ∧ x.stop.ctl.admitted = x.ctl.admitted := by
  unfold Station.stop Station.settle
  split
  · split_ifs <;> simp_all
  all_goals simp_all

theorem Station.runWrite_keeps (x : Station) (v : Word) : (x.runWrite v).pm = x.pm ∧ (x.runWrite v).slots = x.slots ∧
    ((x.runWrite v).ctl.run = .asleep → x.ctl.run = .asleep) ∧ (x.runWrite v).ctl.wakeReq = x.ctl.wakeReq ∧ (x.runWrite v).ctl.admitted = x.ctl.admitted := by
  unfold Station.runWrite
  split_ifs
  · exact ⟨rfl, rfl, nofun, rfl, rfl⟩
  · exact ⟨rfl, rfl, id, rfl, rfl⟩
  · exact x.stop_keeps

/-! ### The write -/

/-- What the write of STN_CTRL keeps, whatever it writes (R475). -/
def CtrlFrame (s : State) (i : Nat) (v : Word) (t : State) : Prop :=
  t.preg i 4 = v &&& 3 ∧ SameRegs s t [pageBase i + 4] ∧ SameStns s t [i] ∧ t.lpddr = s.lpddr ∧ t.die.mesh = s.die.mesh

/-- A wake that cannot be asked for: of a station that is not asleep, or has asked, or was admitted (R107). -/
theorem State.requestWake_idle {s : State} {i : Nat} (h : (s.stn i).ctl.run ≠ .asleep ∨ (s.stn i).ctl.wakeReq = true ∨ (s.stn i).ctl.admitted = true) :
    s.requestWake i = s := by
  unfold State.requestWake
  rw [if_neg]
  rintro ⟨h1, h2, h3⟩
  rcases h with h | h | h <;> contradiction

theorem State.requestWake_asked {s : State} {i : Nat} (h1 : (s.stn i).ctl.run = .asleep) (h2 : (s.stn i).ctl.wakeReq = false) (h3 : (s.stn i).ctl.admitted = false) :
    (s.requestWake i).stn i = { s.stn i with ctl := { (s.stn i).ctl with wakeReq := true } } ∧ (s.requestWake i).die.wakeQ = s.die.wakeQ ++ [i] := by
  unfold State.requestWake
  rw [if_pos (by simp [h1, h2, h3])]
  exact ⟨(State.stn_setStn _ _ _ _).trans (if_pos rfl), rfl⟩

/-- A request for wake moves the station's own request and the queue of the governor alone. -/
theorem State.requestWake_frame (s : State) (i : Nat) :
    (∃ w, (s.requestWake i).stn i = { s.stn i with ctl := { (s.stn i).ctl with wakeReq := w } }) ∧
    SameRegs s (s.requestWake i) [] ∧ SameStns s (s.requestWake i) [i] ∧ (s.requestWake i).lpddr = s.lpddr ∧
    (s.requestWake i).die.mesh = s.die.mesh ∧ (s.requestWake i).die.runSet = s.die.runSet := by
  unfold State.requestWake
  dsimp only
  split
  · exact ⟨⟨true, (State.stn_setStn _ _ _ _).trans (if_pos rfl)⟩, fun _ _ => rfl,
      fun j hj => (State.stn_setStn _ _ _ _).trans (if_neg (List.ne_of_not_mem_cons hj)), rfl, rfl, rfl⟩
  · exact ⟨⟨_, rfl⟩, fun _ _ => rfl, fun _ _ => rfl, rfl, rfl, rfl⟩

/-- The state after the register and the station have taken a write of STN_CTRL, before a wake is asked for: the station is as RUN leaves it, and nothing else but the register has changed. -/
theorem State.putCtrl_eq (s : State) (i : Nat) (v : Word) :
    ∃ u, s.putCtrl i v = (if bitAt v 2 then u.requestWake i else u) ∧ u.stn i = (s.stn i).runWrite v ∧ u.preg i 4 = v &&& 3 ∧
      u.die.wakeQ = s.die.wakeQ ∧ u.die.runSet = s.die.runSet ∧ u.die.mesh = s.die.mesh ∧ u.lpddr = s.lpddr ∧ OnlyChanges s u [pageBase i + 4] [i] := by
  have reg : OnlyChanges s (s.setReg (pageBase i + 4) (v &&& 3)) [pageBase i + 4] [i] :=
    ⟨fun a ha => by simp [List.ne_of_not_mem_cons ha], fun j _ => by simp, by simp⟩
  unfold State.putCtrl Station.runWrite
  refine ⟨_, rfl, ?_⟩
  rw [State.stn_setReg]
  split_ifs
  · exact ⟨by simp, by simp [State.preg], by simp, by simp, by simp, by simp, reg.trans (OnlyChanges.setStn _ _ _ _ _ (List.mem_singleton_self _))⟩
  · exact ⟨by simp, by simp [State.preg], by simp, by simp, by simp, by simp, reg⟩
  · exact ⟨by simp, by simp [State.preg], by simp, by simp, by simp, by simp, reg.trans (OnlyChanges.setStn _ _ _ _ _ (List.mem_singleton_self _))⟩

theorem State.ctrlWrite_frame (s : State) (i : Nat) (v : Word) : CtrlFrame s i v (s.ctrlWrite i v) := by
  have put : CtrlFrame s i v (s.putCtrl i v) := by
    obtain ⟨u, e, -, hp, -, -, hm, hl, hregs, hstns, -⟩ := s.putCtrl_eq i v
    obtain ⟨-, wregs, wstns, wl, wm, -⟩ := u.requestWake_frame i
    rw [e]
    split
    · exact ⟨(wregs _ (List.not_mem_nil)).trans hp, fun a ha => (wregs _ (List.not_mem_nil)).trans (hregs a ha), fun j hj => (wstns j hj).trans (hstns j hj), wl.trans hl, wm.trans hm⟩
    · exact ⟨hp, hregs, hstns, hl, hm⟩
  unfold State.ctrlWrite
  dsimp only
  split <;> exact put

/-- The run set grows when a stopped station starts (R139). -/
theorem State.ctrlWrite_running {s : State} {i : Nat} {v : Word} (h : bitAt v 0 = false ∨ (s.stn i).ctl.run ≠ .stopped) : s.ctrlWrite i v = s.putCtrl i v := by
  unfold State.ctrlWrite
  exact if_neg (by rcases h with h | h <;> simp [h])

/-- A station that cannot be asleep after the write is as RUN leaves it. -/
theorem State.putCtrl_idle {s : State} {i : Nat} {v : Word}
    (h : ((s.stn i).runWrite v).ctl.run ≠ .asleep ∨ (s.stn i).ctl.wakeReq = true ∨ (s.stn i).ctl.admitted = true) :
    (s.putCtrl i v).stn i = (s.stn i).runWrite v ∧ (s.putCtrl i v).die.wakeQ = s.die.wakeQ ∧ (s.putCtrl i v).die.runSet = s.die.runSet ∧
      OnlyChanges s (s.putCtrl i v) [pageBase i + 4] [i] := by
  obtain ⟨u, e, hu, -, hq, hr, -, -, only⟩ := s.putCtrl_eq i v
  obtain ⟨-, -, -, hw, ha⟩ := (s.stn i).runWrite_keeps v
  have idle : u.requestWake i = u := State.requestWake_idle (by rwa [hu, hw, ha])
  rw [e, idle, ite_self]
  exact ⟨hu, hq, hr, only⟩

theorem State.putCtrl_stn (s : State) (i : Nat) (v : Word) :
    (∃ w, (s.putCtrl i v).stn i = { (s.stn i).runWrite v with ctl := { ((s.stn i).runWrite v).ctl with wakeReq := w } }) ∧
    (bitAt v 2 = false → (s.putCtrl i v).stn i = (s.stn i).runWrite v) ∧ (s.putCtrl i v).die.runSet = s.die.runSet := by
  obtain ⟨u, e, hu, -, -, hr, -⟩ := s.putCtrl_eq i v
  obtain ⟨⟨w, hw⟩, -, -, -, -, wr⟩ := u.requestWake_frame i
  rw [e]
  split
  · exact ⟨⟨w, by rw [hw, hu]⟩, fun h => absurd ‹bitAt v 2 = true› (by simp [h]), wr.trans hr⟩
  · exact ⟨⟨_, hu⟩, fun _ => hu, hr⟩

/-- A station that is asleep and has not asked joins the queue of the governor (R107). -/
theorem State.putCtrl_asks {s : State} {i : Nat} {v : Word} (hv : bitAt v 2 = true) (h1 : (s.stn i).ctl.run = .asleep)
    (h2 : (s.stn i).ctl.wakeReq = false) (h3 : (s.stn i).ctl.admitted = false) :
    (s.putCtrl i v).die.wakeQ = s.die.wakeQ ++ [i] ∧
    (s.putCtrl i v).stn i = { s.stn i with ctl := { (s.stn i).ctl with wakeReq := true, stopHeld := (s.stn i).ctl.stopHeld || !bitAt v 0 } } := by
  have asleep : (s.stn i).runWrite v = { s.stn i with ctl := { (s.stn i).ctl with stopHeld := (s.stn i).ctl.stopHeld || !bitAt v 0 } } := by
    cases hb : bitAt v 0 with
    | true => rw [Station.runWrite_running hb (by simp [h1])]; simp
    | false => rw [Station.runWrite_stop hb, Station.stop_held (.inl h1)]; simp
  obtain ⟨u, e, hu, -, hq, -⟩ := s.putCtrl_eq i v
  obtain ⟨wstn, wq⟩ := State.requestWake_asked (s := u) (i := i) (by rw [hu, asleep]; exact h1) (by rw [hu, asleep]; exact h2) (by rw [hu, asleep]; exact h3)
  rw [e, if_pos hv]
  exact ⟨by rw [wq, hq], by rw [wstn, hu, asleep]⟩

/-- RUN 1 at a stopped station starts it, and the host runs it from then on (R139). -/
theorem State.ctrlWrite_start {s : State} {i : Nat} {v : Word} (hv : bitAt v 0 = true) (h : (s.stn i).ctl.run = .stopped) :
    (s.ctrlWrite i v).stn i = (s.stn i).start ∧ i ∈ (s.ctrlWrite i v).die.runSet := by
  have started := Station.runWrite_start (x := s.stn i) hv h
  obtain ⟨hstn, -, hr, -⟩ := s.putCtrl_idle (i := i) (v := v) (.inl (by rw [started]; nofun))
  rw [started] at hstn
  unfold State.ctrlWrite
  split_ifs with hc
  · exact ⟨hstn, List.mem_append_right _ (List.mem_singleton_self i)⟩
  · refine ⟨hstn, ?_⟩
    rw [hr]
    simpa [hv, h] using hc

theorem bitAt_or_one (v : Word) : bitAt (v ||| 1) 0 = true ∧ bitAt (v ||| 1) 2 = bitAt v 2 := by simp [bitAt]

theorem bitAt_andNot_one (v : Word) : bitAt (v &&& ~~~1) 0 = false := by simp [bitAt]

theorem bitAt_or_four (v : Word) : bitAt (v ||| 4) 0 = bitAt v 0 ∧ bitAt (v ||| 4) 2 = true := by simp [bitAt]

theorem exec_runStart (i : Stn) (v : Word) (s : State) : exec (.runStart i v) s = .next (s.bar0Write (pageBase i + 4) 0xF (v ||| 1)) := rfl
theorem exec_runStop (i : Stn) (v : Word) (s : State) : exec (.runStop i v) s = .next (s.bar0Write (pageBase i + 4) 0xF (v &&& ~~~1)) := rfl
theorem exec_wake (i : Stn) (v : Word) (s : State) : exec (.wake i v) s = .next (s.bar0Write (pageBase i + 4) 0xF (v ||| 4)) := rfl

section
variable {s : State} {i : Stn} {v : Word} {P : State → Prop}

theorem runs_runStart (h : s.writeServed (pageBase i + 4) = true) (hs : s.supState = 0) (hp : P (s.leaveL1.ctrlWrite i (v ||| 1))) : Runs (.runStart i v) s P :=
  runs_of ((exec_runStart i v s).trans (congrArg _ (State.bar0Write_page h hs (by omega) rfl rfl))) hp

theorem runs_runStop (h : s.writeServed (pageBase i + 4) = true) (hs : s.supState = 0) (hp : P (s.leaveL1.ctrlWrite i (v &&& ~~~1))) : Runs (.runStop i v) s P :=
  runs_of ((exec_runStop i v s).trans (congrArg _ (State.bar0Write_page h hs (by omega) rfl rfl))) hp

theorem runs_wake (h : s.writeServed (pageBase i + 4) = true) (hs : s.supState = 0) (hp : P (s.leaveL1.ctrlWrite i (v ||| 4))) : Runs (.wake i v) s P :=
  runs_of ((exec_wake i v s).trans (congrArg _ (State.bar0Write_page h hs (by omega) rfl rfl))) hp

end

end Sys2Proof.Machine

namespace Sys2Proof
open Machine

/-- Settles O25: the write of STN_CTRL by what RUN does to the station in each of its run states, and by whether a wake can be asked for. -/
theorem runControlWrites : Obligations.RunControlWrites := by
  intro s i v hw hs
  have frame (v : Word) : CtrlFrame s i v (s.leaveL1.ctrlWrite i v) := s.leaveL1.ctrlWrite_frame i v
  obtain ⟨hstart, hstart2⟩ := bitAt_or_one v
  have hstop := bitAt_andNot_one v
  obtain ⟨hwake, hwake2⟩ := bitAt_or_four v
  refine ⟨fun h => ⟨?_, ?_⟩, fun h => ?_, fun h hq => ?_, fun h => ?_, fun h1 h2 h3 => ?_, fun h => ?_⟩
  · obtain ⟨hp, hregs, hstns, hl, hm⟩ := frame (v ||| 1)
    obtain ⟨hstn, hrun⟩ := State.ctrlWrite_start (s := s.leaveL1) hstart h
    refine runs_runStart hw hs ?_
    rw [hstn]
    exact ⟨rfl, rfl, rfl, hp, hrun, rfl, hregs, hstns, hl, hm⟩
  · obtain ⟨hp, -⟩ := frame (v &&& ~~~1)
    have stays : (s.stn i).runWrite (v &&& ~~~1) = s.stn i := (Station.runWrite_stop hstop).trans (Station.stop_stopped h)
    obtain ⟨hstn, -, -, only⟩ := s.leaveL1.putCtrl_idle (i := i) (v := v &&& ~~~1) (.inl (by rw [State.stn_leaveL1, stays, h]; nofun))
    refine runs_runStop hw hs ⟨hp, ?_, ?_⟩
    · rw [State.ctrlWrite_running (.inl hstop), hstn]
      exact stays
    · rw [State.ctrlWrite_running (.inl hstop)]
      exact only
  · obtain ⟨hp, hregs, hstns, hl, hm⟩ := frame (v ||| 1)
    obtain ⟨⟨w, hstn⟩, hsame, hr⟩ := s.leaveL1.putCtrl_stn i (v ||| 1)
    rw [State.stn_leaveL1, Station.runWrite_running hstart h] at hstn hsame
    rw [hstart2] at hsame
    refine runs_runStart hw hs ⟨hp, ?_, ?_, ?_, hregs, hstns, hl, hm⟩
    all_goals rw [State.ctrlWrite_running (s := s.leaveL1) (.inr h)]
    · rw [hstn]
    · exact hsame
    · exact hr
  · obtain ⟨hp, -⟩ := frame (v &&& ~~~1)
    have stops : (s.stn i).runWrite (v &&& ~~~1) = Station.settle { s.stn i with ctl := { (s.stn i).ctl with stopping := true } } :=
      (Station.runWrite_stop hstop).trans (Station.stop_awake h hq)
    obtain ⟨hrun, hgo, hctl⟩ := Station.run_settle (x := { s.stn i with ctl := { (s.stn i).ctl with stopping := true } }) rfl
    have awake : ((s.stn i).runWrite (v &&& ~~~1)).ctl.run ≠ .asleep := by
      rw [stops, hrun]
      split_ifs
      · nofun
      · rw [h]; nofun
    obtain ⟨hstn, -, -, only⟩ := s.leaveL1.putCtrl_idle (i := i) (v := v &&& ~~~1) (.inl awake)
    rw [State.stn_leaveL1, stops] at hstn
    refine runs_runStop hw hs ?_
    rw [State.ctrlWrite_running (.inl hstop)] at hp ⊢
    rw [hstn]
    exact ⟨by rw [hrun, h]; rfl, hgo, hp, hctl, only⟩
  · obtain ⟨hp, hregs, hstns, hl, hm⟩ := frame (v &&& ~~~1)
    obtain ⟨⟨w, hstn⟩, -⟩ := s.leaveL1.putCtrl_stn i (v &&& ~~~1)
    rw [State.stn_leaveL1, Station.runWrite_stop hstop, Station.stop_held h] at hstn
    refine runs_runStop hw hs ⟨?_, hp, ?_, hregs, hstns, hl, hm⟩
    all_goals rw [State.ctrlWrite_running (.inl hstop), hstn]
  · obtain ⟨hp, hregs, hstns, hl, hm⟩ := frame (v ||| 4)
    obtain ⟨hq, hstn⟩ := State.putCtrl_asks (s := s.leaveL1) (i := i) hwake2 h1 h2 h3
    rw [hwake] at hstn
    have running : s.leaveL1.ctrlWrite i (v ||| 4) = _ := State.ctrlWrite_running (.inr (by rw [State.stn_leaveL1, h1]; nofun))
    refine runs_wake hw hs ⟨?_, ?_, hp, ?_, hregs, hstns, hl, hm⟩
    all_goals rw [running]
    · exact hq
    · rw [hstn]; rfl
    · rw [hstn]; rfl
  · obtain ⟨hp, hregs, hstns, hl, hm⟩ := frame (v ||| 4)
    obtain ⟨hpm, hslots, hrun, -, -⟩ := (s.stn i).runWrite_keeps (v ||| 4)
    obtain ⟨hstn, hq, -, -⟩ := s.leaveL1.putCtrl_idle (i := i) (v := v ||| 4) (h.imp_left (fun ne e => ne (hrun e)))
    have keeps : (s.leaveL1.ctrlWrite i (v ||| 4)).die.wakeQ = s.die.wakeQ ∧ (s.leaveL1.ctrlWrite i (v ||| 4)).stn i = (s.stn i).runWrite (v ||| 4) := by
      unfold State.ctrlWrite
      dsimp only
      split
      · exact ⟨hq, hstn⟩
      · exact ⟨hq, hstn⟩
    obtain ⟨kq, kstn⟩ := keeps
    refine runs_wake hw hs ⟨kq, hp, ?_, ?_, hregs, hstns, hl, hm⟩
    · rw [kstn, hpm]
    · rw [kstn, hslots]

end Sys2Proof
end

section
/-! PROOFS. The issue of words (O10): what the issue of a word changes at its station, a NOP, and a word that raises ILLEGAL_OP. -/
namespace Sys2Proof.Machine

/-! ### What the parts of an issue change -/

/-- The guard of a word and its entry change the ledger alone (R266). -/
theorem Station.takeGuard_ledger {x : Station} {g : Bool} {p : Station × Option (Nat × Nat) × Bool} (h : x.takeGuard g = p) : ∃ led, p.1 = { x with ledger := led } := by
  subst h
  unfold Station.takeGuard
  split
  · exact ⟨x.ledger, rfl⟩
  · split
    · exact ⟨x.ledger, rfl⟩
    · dsimp only
      generalize (if x.ledger.replay then _ else _ : Nat) = k
      split <;> exact ⟨_, rfl⟩

/-- Outside a replay no word is skipped. -/
theorem Station.takeGuard_runs {x : Station} (g : Bool) (h : x.ledger.replay = false) : (x.takeGuard g).2.2 = false := by
  unfold Station.takeGuard
  split
  · rfl
  · split
    · rfl
    · dsimp only
      generalize (if x.ledger.replay then _ else _ : Nat) = k
      split
      · rfl
      · simp [h]

/-- The routing of a DISPATCH or GATHER is recorded beside everything else of the station. -/
theorem Station.recordRouting_eq (x : Station) (w : PWord) (seq : Nat) : ∃ d, x.recordRouting w seq = { x with disp := d } := by
  unfold Station.recordRouting
  split
  · exact ⟨_, rfl⟩
  · split
    · split
      · exact ⟨x.disp, rfl⟩
      · split <;> exact ⟨_, rfl⟩
    · exact ⟨x.disp, rfl⟩

/-- What the issue of a word leaves alone once the word has left the queue: the queue, the number and PHASE given, platform memory, slots, banks, the signal box and the tokens. -/
def Station.IssueKeeps (x y : Station) : Prop :=
  y.iss.queue = x.iss.queue ∧ y.iss.next = x.iss.next ∧ y.iss.phase = x.iss.phase ∧ y.pm = x.pm ∧ y.slots = x.slots ∧ y.banks = x.banks ∧
    y.sb = x.sb ∧ y.tokens = x.tokens

theorem Station.IssueKeeps.refl (x : Station) : x.IssueKeeps x := ⟨rfl, rfl, rfl, rfl, rfl, rfl, rfl, rfl⟩

theorem Station.IssueKeeps.trans {x y z : Station} (h : x.IssueKeeps y) (k : y.IssueKeeps z) : x.IssueKeeps z := by
  obtain ⟨h1, h2, h3, h4, h5, h6, h7, h8⟩ := h
  obtain ⟨k1, k2, k3, k4, k5, k6, k7, k8⟩ := k
  exact ⟨k1.trans h1, k2.trans h2, k3.trans h3, k4.trans h4, k5.trans h5, k6.trans h6, k7.trans h7, k8.trans h8⟩

theorem Station.IssueKeeps.complete (x : Station) (k : Nat) : x.IssueKeeps (x.complete k) := by simp [Station.IssueKeeps]

theorem Station.IssueKeeps.settle (x : Station) : x.IssueKeeps x.settle := by simp [Station.IssueKeeps]

theorem Station.IssueKeeps.guardDone (x : Station) (g : Option (Nat × Nat)) : x.IssueKeeps (x.guardDone g) := by simp [Station.IssueKeeps]

theorem Station.IssueKeeps.addFlight (x : Station) (f : Flight) : x.IssueKeeps (x.addFlight f) := ⟨rfl, rfl, rfl, rfl, rfl, rfl, rfl, rfl⟩

theorem Station.IssueKeeps.postTickets (x : Station) : x.IssueKeeps x.postTickets := by
  unfold Station.postTickets
  dsimp only
  generalize x.iss.flight.filter _ = l
  induction l generalizing x with
  | nil => exact .refl x
  | cons f r ih => exact (Station.IssueKeeps.complete x f.seq).trans (ih _)

/-! ### The issue of a word -/

/-- What issues for a TICKET (R136, R148, R270). -/
theorem State.issueTicket_keeps (s : State) (i : Nat) (w : PWord) (x : Station) (seq : Nat) (cap : Capture) :
    x.IssueKeeps (s.issueTicket i w x seq cap) := by
  unfold State.issueTicket
  dsimp only
  split
  · refine Station.IssueKeeps.trans ?_ (Station.IssueKeeps.postTickets _)
    split <;> exact .addFlight _ _
  · split <;> exact ⟨rfl, rfl, rfl, rfl, rfl, rfl, rfl, rfl⟩

/-- The flight of an issued word: the word under its number, not yet begun. -/
def IssuedAs (x y : Station) (w : PWord) (seq : Nat) : Prop :=
  ∃ f, y.iss.flight = x.iss.flight ++ [f] ∧ f.word = w ∧ f.seq = seq ∧ f.stage = .issued

theorem IssuedAs.addFlight {x y : Station} (h : y.iss.flight = x.iss.flight) (seq : Nat) (w : PWord) (cap : Capture) (g : Option (Nat × Nat)) (e : Option Nat) :
    IssuedAs x (y.addFlight (newFlight seq w cap g e)) w seq := ⟨_, congrArg (· ++ [_]) h, rfl, rfl, rfl⟩

theorem State.issueTicket_flight {s : State} (i : Nat) (w : PWord) {x : Station} (seq : Nat) (cap : Capture) (h : x.ledger.replay = false) :
    IssuedAs x (s.issueTicket i w x seq cap) w seq := by
  have none_found : x.replayEntry = none := by simp [Station.replayEntry, h]
  unfold State.issueTicket
  dsimp only
  rw [none_found, ite_self]
  have opened : (if s.isLedgerTicket i w = true then x.openEntry else x).iss.flight = x.iss.flight := by split <;> rfl
  exact .addFlight (y := { (if s.isLedgerTicket i w = true then x.openEntry else x) with iss := _ }) opened _ _ _ _ _

/-- The issue of a word replaces its station: the word has left the queue, its number is given and its PHASE is the station's, and where it moves something it is in flight. -/
theorem State.issueWord_eq (s : State) (i : Nat) (w : PWord) :
    ∃ y, s.issueWord i w = s.setStn i y ∧ ((s.stn i).popHead w).IssueKeeps y ∧
      (opc w ≠ 0 → zeroExtent w = false → (s.stn i).ledger.replay = false → IssuedAs (s.stn i) y w (s.stn i).iss.next) := by
  unfold State.issueWord
  dsimp only
  generalize hx : (s.stn i).popHead w = x
  have replay : x.ledger.replay = (s.stn i).ledger.replay := by rw [← hx]; rfl
  have flight : x.iss.flight = (s.stn i).iss.flight := by rw [← hx]; rfl
  by_cases h0 : opc w = 0
  · rw [if_pos h0]
    exact ⟨_, rfl, .settle x, fun h => absurd h0 h⟩
  by_cases h30 : opc w = 0x30
  · rw [if_neg h0, if_pos h30]
    refine ⟨_, rfl, s.issueTicket_keeps i w x _ _, fun _ _ hr => ?_⟩
    have issued := State.issueTicket_flight (s := s) i w (x := x) (s.stn i).iss.next (s.capture i w) (by rw [replay, hr])
    unfold IssuedAs at issued ⊢
    rwa [flight] at issued
  rw [if_neg h0, if_neg h30]
  split
  all_goals
    generalize hp : x.takeGuard _ = p
    obtain ⟨led, hled⟩ := Station.takeGuard_ledger hp
    obtain ⟨d, hd⟩ := p.1.recordRouting_eq w (s.stn i).iss.next
    have keeps : x.IssueKeeps p.1 := by rw [hled]; exact .refl x
    have routed : x.IssueKeeps (p.1.recordRouting w (s.stn i).iss.next) := by rw [hd, hled]; exact .refl x
    have same : (p.1.recordRouting w (s.stn i).iss.next).iss.flight = (s.stn i).iss.flight := by rw [hd, hled]; exact flight
    by_cases hs : p.2.2 = true
    · rw [if_pos hs]
      exact ⟨_, rfl, keeps.trans (.settle _), fun _ _ hr => absurd hs (by rw [← hp, Station.takeGuard_runs _ (replay.trans hr)]; nofun)⟩
    rw [if_neg hs]
    split
    · have moves (h : zeroExtent w = false) : False := by simp_all
      split
      · exact ⟨_, rfl, routed.trans (.addFlight _ _), fun _ h => (moves h).elim⟩
      · exact ⟨_, rfl, routed.trans ((Station.IssueKeeps.guardDone _ _).trans (.settle _)), fun _ h => (moves h).elim⟩
    · split
      · exact ⟨_, rfl, routed.trans ⟨rfl, rfl, rfl, rfl, rfl, rfl, rfl, rfl⟩, fun _ _ _ => ⟨_, congrArg (· ++ [_]) same, rfl, rfl, rfl⟩⟩
      · exact ⟨_, rfl, routed.trans (.addFlight _ _), fun _ _ _ => .addFlight same _ _ _ _ _⟩

/-- A word that issues, as a statement about the next state. -/
theorem State.issueWord_spec {s : State} {i : Nat} {w : PWord} {q : List PWord} (hq : (s.stn i).iss.queue = w :: q) :
    let t := s.issueWord i w
    (t.stn i).iss.queue = q ∧ (t.stn i).iss.next = (s.stn i).iss.next + 1 ∧ (t.stn i).iss.phase = phaseOf w ∧
    (t.stn i).pm = (s.stn i).pm ∧ (t.stn i).slots = (s.stn i).slots ∧ (t.stn i).banks = (s.stn i).banks ∧
    (t.stn i).sb = (s.stn i).sb ∧ (t.stn i).tokens = (s.stn i).tokens ∧ OnlyChanges s t [] [i] ∧
    (opc w ≠ 0 → zeroExtent w = false → (s.stn i).ledger.replay = false → IssuedAs (s.stn i) (t.stn i) w (s.stn i).iss.next) := by
  obtain ⟨y, e, ⟨h1, h2, h3, h4, h5, h6, h7, h8⟩, flight⟩ := s.issueWord_eq i w
  dsimp only
  rw [e, State.stn_setStn, if_pos rfl]
  have popped : ((s.stn i).popHead w).iss.queue = q := congrArg (List.drop 1) hq
  exact ⟨h1.trans popped, h2, h3, h4, h5, h6, h7, h8, OnlyChanges.setStn _ _ _ _ _ (List.mem_singleton_self i), flight⟩

/-! ### The commands -/

section
variable {s : State} {i : Stn} {w : PWord} {q : List PWord} (hq : (s.stn i).iss.queue = w :: q) (hl : s.live = true) (hm : (s.stn i).mayIssue = true)
include hq hl hm

theorem exec_wordIssue_stalled (hlegal : s.legal i w = true) (h1 : opc w ≠ 0x31) (h2 : opc w ≠ 0x38) (ha : (s.stn i).awaitsRouting w = false)
    (hz : (s.stn i).zeroFits w = true) (hs : s.stalled i w = true) : exec (.wordIssue i) s = .next s := by
  change execWordIssue i s = _
  unfold execWordIssue
  rw [hq]
  simp [hl, hm, hlegal, h1, h2, ha, hz, hs]

theorem exec_wordIssue_issues (hlegal : s.legal i w = true) (h1 : opc w ≠ 0x31) (h2 : opc w ≠ 0x38) (ha : (s.stn i).awaitsRouting w = false)
    (hz : (s.stn i).zeroFits w = true) (hs : s.stalled i w = false) : exec (.wordIssue i) s = .next (s.issueWord i w) := by
  change execWordIssue i s = _
  unfold execWordIssue
  rw [hq]
  simp [hl, hm, hlegal, h1, h2, ha, hz, hs]

theorem exec_wordIssue_illegal (ha : (s.stn i).awaitsRouting w = false) (h : s.legal i w = false ∨ (s.stn i).zeroFits w = false) :
    exec (.wordIssue i) s = .next (s.illegalOp i w) := by
  change execWordIssue i s = _
  unfold execWordIssue
  rw [hq]
  rcases h with h | h <;> simp [hl, hm, ha, h]

theorem exec_nop (hlegal : s.legal i w = true) (h0 : opc w = 0) : exec (.nop i) s = .next (s.issueWord i w) := by
  change execNop i s = _
  unfold execNop
  rw [hq]
  simp [hl, hm, hlegal, h0]

end

/-! ### NOP and ILLEGAL_OP -/

/-- A NOP leaves nothing in flight and no summary. -/
theorem State.issueWord_nop (s : State) (i : Nat) {w : PWord} (h0 : opc w = 0) :
    ((s.issueWord i w).stn i).iss.flight = (s.stn i).iss.flight ∧ ((s.issueWord i w).stn i).iss.fifo = (s.stn i).iss.fifo := by
  unfold State.issueWord
  dsimp only
  rw [if_pos h0, State.stn_setStn, if_pos rfl, Station.flight_settle, Station.iss_fifo_settle]
  exact ⟨rfl, rfl⟩

theorem State.stn_illegalOp (s : State) (i : Nat) (w : PWord) (j : Nat) :
    (s.illegalOp i w).stn j =
      if j = i then { s.stn i with ctl := { (s.stn i).ctl with run := .stopped, stopping := false, issueOff := true, sleepReq := false } } else s.stn j := by
  simp [State.illegalOp]

theorem State.reg_illegalOp (s : State) (i : Nat) (w : PWord) :
    bitAt ((s.illegalOp i w).preg i 4) 0 = false ∧ (s.illegalOp i w).reg 0x6000C = s.reg 0x6000C + 1 := by
  have hb : 0x70000 ≤ pageBase i + 4 := by unfold pageBase; omega
  have hne : 0x6000C ≠ pageBase i + 4 := by omega
  unfold State.illegalOp State.preg
  rw [State.reg_logFault _ _ _ _ _ _ _ (.inr hb) (by omega) (by omega), State.reg_setFld, if_pos rfl, bitAt_putFld _ _ _ _ _ (by omega), State.wr_logFault,
    State.reg_setFld, if_neg hne]
  exact ⟨rfl, rfl⟩

theorem State.lpddr_illegalOp (s : State) (i : Nat) (w : PWord) : (s.illegalOp i w).lpddr = s.lpddr := by simp [State.illegalOp]

end Sys2Proof.Machine

namespace Sys2Proof
open Machine

/-- Settles O10: every word that issues goes through `State.issueWord_spec`, and one that raises ILLEGAL_OP only stops its station. -/
theorem wordsIssueOrStop : Obligations.WordsIssueOrStop := by
  refine ⟨fun s i w q hq hl hm hlegal => ⟨fun h1 h2 ha hz => ⟨fun hs => ?_, fun hs => ?_⟩, fun h0 => ?_⟩, fun s i w q hq hl hm ha h => ?_⟩
  · exact exec_wordIssue_stalled hq hl hm hlegal h1 h2 ha hz hs
  · exact runs_of (exec_wordIssue_issues hq hl hm hlegal h1 h2 ha hz hs) (State.issueWord_spec hq)
  · obtain ⟨hqueue, -, -, hpm, hslots, hbanks, hsb, htokens, only, -⟩ := State.issueWord_spec hq
    obtain ⟨hflight, hfifo⟩ := s.issueWord_nop i h0
    exact runs_of (exec_nop hq hl hm hlegal h0) ⟨hqueue, hflight, hfifo, hpm, hslots, hbanks, htokens, hsb, only⟩
  · obtain ⟨hrun, hwr⟩ := s.reg_illegalOp i w
    refine runs_of (exec_wordIssue_illegal hq hl hm ha h) ?_
    rw [State.stn_illegalOp, if_pos rfl]
    exact ⟨rfl, hrun, rfl, by simp [Station.mayIssue], rfl, rfl, rfl, hwr,
      fun j hj => by rw [State.stn_illegalOp, if_neg (List.ne_of_not_mem_cons hj)], s.lpddr_illegalOp i w⟩

end Sys2Proof
end

section
/-! PROOFS. The reduction path (O13): the oldest handed tile and a contribution that has arrived are added to their slots. -/
namespace Sys2Proof.Machine

theorem OnlyChanges.lpddr {s t : State} {r l : List Nat} (h : OnlyChanges s t r l) : t.lpddr = s.lpddr :=
  show t.core.lpddr = s.core.lpddr from congrArg State.lpddr h.2.2

theorem OnlyChanges.mesh {s t : State} {r l : List Nat} (h : OnlyChanges s t r l) : t.die.mesh = s.die.mesh :=
  show t.core.die.mesh = s.core.die.mesh from congrArg (fun c : State => c.die.mesh) h.2.2

/-- The slots after a tile: a result is written, every other tile added. -/
def Tile.applied (tl : Tile) (ss : SMap Slot) : SMap Slot := if tl.write then writeResult ss tl else addTile ss tl

theorem State.addToSlots_eq (s : State) (i : Nat) (tl : Tile) :
    s.addToSlots i tl =
      let t := s.setStn i { s.stn i with slots := tl.applied (s.stn i).slots }
      let k := rangeRises tl.slots (s.stn i).slots (tl.applied (s.stn i).slots)
      if k = 0 then t else t.bump (pageBase i + 0x14C) k := by
  unfold State.addToSlots State.pbump Tile.applied
  rfl

/-- The addition of a tile changes the station's slots and its RANGE counter alone (R99). -/
theorem State.addToSlots_only (s : State) (i : Nat) (tl : Tile) : OnlyChanges s (s.addToSlots i tl) [pageBase i + 0x14C] [i] := by
  rw [State.addToSlots_eq]
  dsimp only
  split
  · exact OnlyChanges.setStn _ _ _ _ _ (List.mem_singleton_self i)
  · exact (OnlyChanges.setStn _ _ _ _ _ (List.mem_singleton_self i)).bump _ (List.mem_singleton_self _)

@[simp] theorem State.stn_addToSlots (s : State) (i : Nat) (tl : Tile) : (s.addToSlots i tl).stn i = { s.stn i with slots := tl.applied (s.stn i).slots } := by
  rw [State.addToSlots_eq]
  dsimp only
  split
  · exact (State.stn_setStn _ _ _ _).trans (if_pos rfl)
  · rw [State.stn_bump]
    exact (State.stn_setStn _ _ _ _).trans (if_pos rfl)

/-- A tile that overwrites takes its slots into the ownership of its entry, and only the ledger changes (R262). -/
theorem Station.own_ite (x : Station) (c : Prop) [Decidable c] (e : Option Nat) (l : List Nat) : ∃ led, (if c then x.own e l else x) = { x with ledger := led } := by
  split
  · obtain ⟨es, h⟩ := x.own_eq e l
    exact ⟨_, h⟩
  · exact ⟨x.ledger, rfl⟩

/-- A tile that names its slots leaves every other slot. -/
theorem Station.slot_addTile {x y : Station} {tl : Tile} (hs : y.slots = addTile x.slots tl) (ha : ∀ a ∈ tl.adds, a.slot ∈ tl.slots)
    (hz : ∀ z ∈ tl.zero, z.1 ∈ tl.slots) (b : Nat) (hb : b ∉ tl.slots) : y.slot b = x.slot b := by
  unfold Station.slot
  rw [hs]
  exact slotOf_addTile x.slots tl b ha hz hb

theorem exec_reductionAdd {s : State} {i : Stn} (arr : Bool) (h : s.adds i = true) :
    exec (.reductionAdd i arr) s = .next (if arr then s.addArrived i false else s.addHanded i) := if_pos h

/-! ### A handed tile -/

/-- A station that has taken the oldest handed tile, before its slots change: only the list of tiles and the ledger differ. -/
theorem State.addHanded_eq {s : State} {i : Nat} {tl : Tile} {r : List Tile} (h : (s.stn i).redq = tl :: r) :
    ∃ led, let u := (s.setStn i { s.stn i with redq := r, ledger := led }).addToSlots i tl
      s.addHanded i = match tl.seq with
        | some k => u.setStn i ((u.stn i).complete k)
        | none => u := by
  unfold State.addHanded
  dsimp only
  rw [h]
  dsimp only
  obtain ⟨led, e⟩ := Station.own_ite { s.stn i with redq := r } (tl.amode = 0) (tl.seq.bind (fun k => ((s.stn i).flightOf k).bind (·.entry))) tl.slots
  rw [e]
  exact ⟨led, rfl⟩

theorem State.addHanded_spec {s : State} {i : Nat} {tl : Tile} {r : List Tile} (h : (s.stn i).redq = tl :: r) :
    let t := s.addHanded i
    (t.stn i).redq = r ∧ (t.stn i).slots = tl.applied (s.stn i).slots ∧ (∀ k, tl.seq = some k → (t.stn i).flightOf k = none) ∧
    (t.stn i).banks = (s.stn i).banks ∧ (t.stn i).pm = (s.stn i).pm ∧ (t.stn i).tokens = (s.stn i).tokens ∧ OnlyChanges s t [pageBase i + 0x14C] [i] := by
  obtain ⟨led, e⟩ := State.addHanded_eq h
  have only : OnlyChanges s ((s.setStn i { s.stn i with redq := r, ledger := led }).addToSlots i tl) [pageBase i + 0x14C] [i] :=
    (OnlyChanges.setStn _ _ _ _ _ (List.mem_singleton_self i)).trans (State.addToSlots_only _ _ _)
  dsimp only at e ⊢
  rw [e]
  cases hk : tl.seq with
  | none => exact ⟨by simp, by simp, nofun, by simp, by simp, by simp, only⟩
  | some k =>
    refine ⟨by simp, by simp, ?_, by simp, by simp, by simp, only.trans (OnlyChanges.setStn _ _ _ _ _ (List.mem_singleton_self i))⟩
    rintro _ ⟨⟩
    simp

/-! ### A contribution that has arrived -/

/-- What follows the addition of a contribution: the token of a result, or the source's ledger and its acknowledgement (R131, R156). -/
def State.arrivedDone (s : State) (i : Nat) (tl : Tile) : State :=
  match tl.rtok with
  | some tok => s.giveToken i tok
  | none => (s.setStn tl.src ((s.stn tl.src).guardDone tl.guard)).ackSource i tl.src tl.txn

/-- A contribution whose slots are not free waits at the head of the arrival buffer. -/
theorem State.addArrived_waits {s : State} {i : Nat} {tl : Tile} {r : List Tile} (h : (s.stn i).arrive = tl :: r)
    (hf : (s.stn i).slotsFree i false tl.named = false) : s.addArrived i false = s := by
  unfold State.addArrived
  dsimp only
  rw [h]
  exact if_neg (by simp [hf])

theorem State.addArrived_eq {s : State} {i : Nat} {tl : Tile} {r : List Tile} (h : (s.stn i).arrive = tl :: r) (hw : tl.write = false)
    (hf : (s.stn i).slotsFree i false tl.named = true) :
    ∃ led, s.addArrived i false = ((s.setStn i { s.stn i with arrive := r, ledger := led }).addToSlots i tl).arrivedDone i tl := by
  unfold State.addArrived State.arrivedDone
  dsimp only
  rw [h]
  simp only [hw, hf, and_self, if_true, Bool.not_false, Bool.true_and, Bool.false_eq_true, if_false]
  obtain ⟨led, e⟩ := Station.own_ite { s.stn i with arrive := r } (decide (tl.amode = 0) = true) ((({ s.stn i with arrive := r } : Station).curEntry).map (·.seq)) tl.slots
  rw [e]
  exact ⟨led, rfl⟩

theorem State.ackSource_self (s : State) (i txn : Nat) : s.ackSource i i txn = s.setStn i ((s.stn i).complete txn) := if_pos rfl

theorem State.ackSource_other (s : State) {i src : Nat} (txn : Nat) (h : src ≠ i) : s.ackSource i src txn = s.sendFlit ⟨i, src, src, txn, none, .ack⟩ := if_neg h

/-- The source on another station is sent its acknowledgement, and its ledger records the contribution. -/
theorem State.arrivedDone_other {s : State} {i : Nat} {tl : Tile} (hr : tl.rtok = none) (hs : tl.src ≠ i) :
    (s.arrivedDone i tl).die.mesh = s.die.mesh ++ [⟨i, tl.src, tl.src, tl.txn, none, .ack⟩] ∧
    (s.arrivedDone i tl).stn tl.src = (s.stn tl.src).guardDone tl.guard ∧ (s.arrivedDone i tl).stn i = s.stn i := by
  unfold State.arrivedDone
  rw [hr]
  dsimp only
  rw [State.ackSource_other _ _ hs]
  exact ⟨by simp, by simp, by simp [Ne.symm hs]⟩

/-- A source on this station completes. -/
theorem State.arrivedDone_self {s : State} {i : Nat} {tl : Tile} (hr : tl.rtok = none) (hs : tl.src = i) :
    s.arrivedDone i tl = (s.setStn i ((s.stn i).guardDone tl.guard)).setStn i (((s.stn i).guardDone tl.guard).complete tl.txn) := by
  unfold State.arrivedDone
  rw [hr, hs]
  dsimp only
  rw [State.ackSource_self, State.stn_setStn, if_pos rfl]

theorem State.giveToken_only (s : State) (i k : Nat) :
    ∃ b, (s.giveToken i k).stn i = { s.stn i with tokens := b } ∧ SameStns s (s.giveToken i k) [i] ∧ (s.giveToken i k).lpddr = s.lpddr := by
  unfold State.giveToken State.pbump
  dsimp only
  split
  · exact ⟨_, State.stn_bump _ _ _ _, fun j _ => State.stn_bump _ _ _ _, by simp⟩
  · exact ⟨_, (State.stn_setStn _ _ _ _).trans (if_pos rfl), fun j hj => (State.stn_setStn _ _ _ _).trans (if_neg (List.ne_of_not_mem_cons hj)), rfl⟩

/-- What no end of an addition changes at the station, and whom it concerns. -/
theorem State.arrivedDone_frame (s : State) (i : Nat) (tl : Tile) :
    let t := s.arrivedDone i tl
    (t.stn i).arrive = (s.stn i).arrive ∧ (t.stn i).slots = (s.stn i).slots ∧ (t.stn i).pm = (s.stn i).pm ∧ (t.stn i).banks = (s.stn i).banks ∧
    (tl.rtok = none → SameRegs s t [] ∧ (t.stn i).tokens = (s.stn i).tokens) ∧ SameStns s t [i, tl.src] ∧ t.lpddr = s.lpddr := by
  dsimp only
  cases hr : tl.rtok with
  | some k =>
    obtain ⟨b, hstn, hstns, hl⟩ := s.giveToken_only i k
    have e : s.arrivedDone i tl = s.giveToken i k := by unfold State.arrivedDone; rw [hr]
    rw [e, hstn]
    exact ⟨rfl, rfl, rfl, rfl, nofun, fun j hj => hstns j (by simp_all), hl⟩
  | none =>
    by_cases hs : tl.src = i
    · rw [State.arrivedDone_self hr hs]
      refine ⟨by simp, by simp, by simp, by simp, fun _ => ⟨fun _ _ => rfl, by simp⟩, fun j hj => ?_, rfl⟩
      rw [State.stn_setStn, if_neg (List.ne_of_not_mem_cons hj), State.stn_setStn, if_neg (List.ne_of_not_mem_cons hj)]
    · obtain ⟨-, -, hstn⟩ := State.arrivedDone_other (s := s) hr hs
      rw [hstn]
      refine ⟨rfl, rfl, rfl, rfl, fun _ => ⟨fun a _ => ?_, rfl⟩, fun j hj => ?_, ?_⟩
      all_goals
        unfold State.arrivedDone
        rw [hr]
        dsimp only
        rw [State.ackSource_other _ _ hs]
      · simp
      · have : j ≠ tl.src := fun e => hj (by simp [e])
        simp [this]
      · simp

end Sys2Proof.Machine

namespace Sys2Proof
open Machine

/-- Settles O13: a handed tile through `State.addHanded_spec`, a contribution through its addition and what follows it. -/
theorem tilesAreAddedToTheirSlots : Obligations.TilesAreAddedToTheirSlots := by
  refine fun s i tl r ha => ⟨fun h => ?_, fun h hw => ⟨fun hf => ?_, fun hf => ?_⟩⟩
  · obtain ⟨hq, hslots, hdone, hbanks, hpm, htokens, only⟩ := State.addHanded_spec h
    refine runs_of (exec_reductionAdd false ha) ⟨hq, hslots, hdone, fun hw hadds hzero => Station.slot_addTile ?_ hadds hzero, hbanks, hpm, htokens, only⟩
    refine hslots.trans ?_
    unfold Tile.applied
    rw [hw]
    rfl
  · exact (exec_reductionAdd true ha).trans (congrArg _ (State.addArrived_waits h hf))
  · obtain ⟨led, e⟩ := State.addArrived_eq h hw hf
    generalize hu : (s.setStn i { s.stn i with arrive := r, ledger := led }).addToSlots i tl = u at e
    have stn : u.stn i = { s.stn i with arrive := r, ledger := led, slots := addTile (s.stn i).slots tl } := by
      rw [← hu, State.stn_addToSlots, State.stn_setStn, if_pos rfl]
      unfold Tile.applied
      rw [hw]
      rfl
    have only : OnlyChanges s u [pageBase i + 0x14C] [i.val] := by
      rw [← hu]
      exact (OnlyChanges.setStn _ _ _ _ _ (List.mem_singleton_self _)).trans (State.addToSlots_only _ _ _)
    have umesh : u.die.mesh = s.die.mesh := only.mesh
    have ulpddr : u.lpddr = s.lpddr := only.lpddr
    obtain ⟨uregs, ustns, -⟩ := only
    obtain ⟨harrive, hslots, hpm, hbanks, hrest, hstns, hl⟩ := u.arrivedDone_frame i tl
    rw [stn] at harrive hslots hpm hbanks hrest
    refine runs_of ((exec_reductionAdd true ha).trans (congrArg _ e)) ⟨harrive, hslots, Station.slot_addTile hslots, fun hr hs => ?_, fun hr hs => ?_, fun hr => ?_, hpm, hbanks,
      fun j hj => (hstns j hj).trans (ustns j (by simp_all)), hl.trans ulpddr⟩
    · obtain ⟨hmesh, hsrc, -⟩ := State.arrivedDone_other (s := u) hr hs
      exact ⟨by rw [hmesh, umesh], by rw [hsrc, ustns _ (by simpa using hs)]⟩
    · rw [State.arrivedDone_self hr hs]
      exact ⟨by simp, umesh⟩
    · obtain ⟨hregs, htokens⟩ := hrest hr
      exact ⟨fun a ha => (hregs a List.not_mem_nil).trans (uregs a ha), htokens⟩

end Sys2Proof
end

section
/-! PROOFS. Summaries (O18): a TICKET asks for its value and completes once every earlier summary is posted, a SUMMARY is held and posted. -/
namespace Sys2Proof.Machine

/-! ### The completion of TICKETs -/

theorem Station.flightOf_complete_other (x : Station) {j k : Nat} (h : k ≠ j) : (x.complete j).flightOf k = x.flightOf k := by
  unfold Station.flightOf
  rw [Station.flight_complete, List.find?_filter]
  congr 1
  funext f
  by_cases e : f.seq = k
  · simp [e, h]
  · simp [e]

/-- Several instructions completed one after another. -/
def Station.completeAll (x : Station) (l : List Flight) : Station := l.foldl (fun (y : Station) f => y.complete f.seq) x

theorem Station.completeAll_cons (x : Station) (f : Flight) (r : List Flight) : x.completeAll (f :: r) = (x.complete f.seq).completeAll r := rfl

theorem Station.completeAll_frame (x : Station) (l : List Flight) :
    (x.completeAll l).iss.fifo = x.iss.fifo ∧ (x.completeAll l).slots = x.slots ∧ (x.completeAll l).pm = x.pm ∧ (x.completeAll l).result = x.result := by
  induction l generalizing x with
  | nil => exact ⟨rfl, rfl, rfl, rfl⟩
  | cons f r ih =>
    obtain ⟨h1, h2, h3, h4⟩ := ih (x.complete f.seq)
    rw [Station.completeAll_cons]
    exact ⟨h1.trans (by simp), h2.trans (by simp), h3.trans (by simp), h4.trans (by simp)⟩

theorem Station.flightOf_completeAll (x : Station) (l : List Flight) (k : Nat) :
    (x.completeAll l).flightOf k = if k ∈ l.map (·.seq) then none else x.flightOf k := by
  induction l generalizing x with
  | nil => rfl
  | cons f r ih =>
    rw [Station.completeAll_cons, ih]
    by_cases h : k = f.seq
    · simp [h]
    · simp [h, Station.flightOf_complete_other x h]

/-- The summaries that stand posted before the first one that does not (R104). -/
def Station.readySeqs (x : Station) : List Nat := (x.iss.fifo.takeWhile (fun e => e.val.isSome)).map (·.seq)

/-- The TICKETs that have their value and behind which no earlier summary is missing (R136). -/
def Station.doneTickets (x : Station) : List Flight :=
  x.iss.flight.filter (fun f => decide (opc f.word = 0x30) && decide (f.stage = .computed) && x.readySeqs.contains f.seq)

theorem Station.postTickets_eq (x : Station) : x.postTickets = x.completeAll x.doneTickets := rfl

/-- A flight that stands for every flight of its number decides whether its number is done. -/
theorem Station.mem_doneTickets {x : Station} {f : Flight} (hf : f ∈ x.iss.flight) (all : ∀ g ∈ x.iss.flight, g.seq = f.seq → g = f) :
    f.seq ∈ x.doneTickets.map (·.seq) ↔ opc f.word = 0x30 ∧ f.stage = .computed ∧ f.seq ∈ x.readySeqs := by
  have done_iff (g : Flight) : g ∈ x.doneTickets ↔ g ∈ x.iss.flight ∧ opc g.word = 0x30 ∧ g.stage = .computed ∧ g.seq ∈ x.readySeqs := by
    simp [Station.doneTickets, and_assoc]
  rw [List.mem_map]
  constructor
  · rintro ⟨g, hg, hs⟩
    obtain ⟨hm, h⟩ := (done_iff g).mp hg
    rwa [all g hm hs] at h
  · exact fun h => ⟨f, (done_iff f).mpr ⟨hf, h⟩, rfl⟩

/-- After a flight is replaced, every flight of its number is the new one. -/
theorem Station.eq_of_mem_setFlight {x : Station} {f g : Flight} (hg : g ∈ (x.setFlight f).iss.flight) (hs : g.seq = f.seq) : g = f := by
  obtain ⟨a, -, rfl⟩ := List.mem_map.mp hg
  split
  · rfl
  · rename_i h
    rw [if_neg h] at hs
    exact absurd hs h

theorem Station.mem_setFlight {x : Station} {f g : Flight} (hf : f ∈ x.iss.flight) (hs : g.seq = f.seq) : g ∈ (x.setFlight g).iss.flight :=
  List.mem_map.mpr ⟨f, hf, if_pos hs.symm⟩

/-! ### TICKET -/

theorem exec_ticket {s : State} {i : Stn} {f : Flight} (hw : s.works = true)
    (h : (s.stn i).iss.flight.find? (fun f => opc f.word = 0x30 && f.stage = .issued) = some f) :
    exec (.ticket i) s = .next ((s.setFlight i { f with stage := .sent }).sendFlit ⟨i, syncHub, i, f.seq, none, .tkt (fld f.word 20 6)⟩) := by
  change execTicket i s = _
  unfold execTicket
  rw [h]
  exact if_pos hw

theorem exec_tktval {s : State} {i : Stn} {g : Flit} {rest : List Flit} (hw : s.works = true) (hp : s.pathOpen syncHub i = true)
    (h : takeFlit (isTktval i) s.die.mesh = some (g, rest)) : exec (.tktval i) s = .next ((s.setMesh rest).setStn i ((s.stn i).takeValue g)) := by
  change execTktval i s = _
  unfold execTktval
  rw [hw, hp, h]
  rfl

/-- The summary FIFO with a value in the entries of a number (R104). -/
def postedFifo (l : List SumEntry) (k : Nat) (v : BitVec 64) : List SumEntry := l.map (fun e => if e.seq = k then { e with val := some v } else e)

/-- The value of a TICKET is posted, and the TICKET completes where no earlier summary is missing. -/
theorem Station.takeValue_spec {x : Station} {f : Flight} {g : Flit} {v : Word} (hb : g.body = .tktval v) (hf : x.flightOf g.txn = some f) :
    let fifo := postedFifo x.iss.fifo g.txn (ticketSummary (fld f.word 20 6) v)
    (x.takeValue g).iss.fifo = fifo ∧
    (x.takeValue g).flightOf g.txn =
      (if opc f.word = 0x30 ∧ g.txn ∈ (fifo.takeWhile (fun e => e.val.isSome)).map (·.seq) then none else some { f with stage := .computed }) ∧
    (x.takeValue g).slots = x.slots ∧ (x.takeValue g).pm = x.pm := by
  obtain ⟨hmem, hseq⟩ := Station.mem_flightOf hf
  have e : x.takeValue g = ((x.post g.txn (ticketSummary (fld f.word 20 6) v)).setFlight { f with stage := .computed }).postTickets := by
    unfold Station.takeValue
    rw [hb, hf]
  generalize hy : x.post g.txn (ticketSummary (fld f.word 20 6) v) = y at e
  have hmy : f ∈ y.iss.flight := by rw [← hy]; exact hmem
  obtain ⟨h1, h2, h3, -⟩ := (y.setFlight { f with stage := .computed }).completeAll_frame (y.setFlight { f with stage := .computed }).doneTickets
  rw [e, Station.postTickets_eq]
  refine ⟨h1.trans (by rw [← hy]; rfl), ?_, h2.trans (by rw [← hy]; rfl), h3.trans (by rw [← hy]; rfl)⟩
  have done := Station.mem_doneTickets (x := y.setFlight { f with stage := .computed }) (Station.mem_setFlight hmy rfl)
    (fun k hk hs => Station.eq_of_mem_setFlight hk hs)
  have ready : (y.setFlight { f with stage := .computed }).readySeqs =
      ((postedFifo x.iss.fifo g.txn (ticketSummary (fld f.word 20 6) v)).takeWhile (fun e => e.val.isSome)).map (·.seq) := by rw [← hy]; rfl
  have found := Station.flightOf_setFlight y (f := f) (g := { f with stage := .computed }) hmy rfl
  rw [Station.flightOf_completeAll, ← hseq, found]
  refine if_congr (done.trans ?_) rfl rfl
  rw [ready, ← hseq]
  simp

/-! ### SUMMARY -/

theorem exec_summary {s : State} {i : Stn} {f : Flight} (hw : s.works = true) (h : s.headOf i .consist = some f) (ho : opc f.word = 0x21) :
    exec (.summary i) s = .next (s.setFlight i { f with stage := .held }) := by
  change execSummary i s = _
  unfold execSummary
  rw [h]
  exact if_pos (by simp [hw, ho])

section
variable {s : State} {i : Stn} {f : Flight} (h : (s.stn i).iss.flight.find? (fun f => opc f.word = 0x21 && f.stage = .held) = some f)
include h

theorem exec_summaryPost_waits (hc : (s.stn i).iss.flight.any (fun g => decide (g.seq < f.seq) && decide (opc g.word = 0x20)) = true) :
    exec (.summaryPost i) s = .next s := by
  change execSummaryPost i s = _
  unfold execSummaryPost
  dsimp only
  rw [h]
  exact if_neg (by simp [hc])

theorem exec_summaryPost (hw : s.works = true) (hc : (s.stn i).iss.flight.any (fun g => decide (g.seq < f.seq) && decide (opc g.word = 0x20)) = false) :
    exec (.summaryPost i) s = .next (s.setStn i (((s.stn i).post f.seq
      (if fld f.word 26 2 = 1 then rowSummary ((s.stn i).slot (fld f.word 20 6)) else reducerSummary f.result)).complete f.seq).postTickets) := by
  change execSummaryPost i s = _
  unfold execSummaryPost
  dsimp only
  rw [h]
  exact if_pos (by simp [hw, hc])

end

/-- A SUMMARY that is posted completes. -/
theorem Station.postSummary_spec (x : Station) (k : Nat) (v : BitVec 64) :
    let y := ((x.post k v).complete k).postTickets
    y.iss.fifo = postedFifo x.iss.fifo k v ∧ y.flightOf k = none ∧ y.slots = x.slots ∧ y.result = x.result := by
  obtain ⟨h1, h2, -, h4⟩ := ((x.post k v).complete k).completeAll_frame ((x.post k v).complete k).doneTickets
  dsimp only
  rw [Station.postTickets_eq]
  refine ⟨h1.trans ?_, ?_, h2.trans ?_, h4.trans ?_⟩
  · rw [Station.iss_fifo_complete]; rfl
  · rw [Station.flightOf_completeAll, Station.flightOf_complete, ite_self]
  · rw [Station.slots_complete]; rfl
  · rw [Station.result_complete]; rfl

end Sys2Proof.Machine

namespace Sys2Proof
open Machine

/-- Settles O18: the values through `Station.takeValue_spec`, the summaries through `Station.postSummary_spec`. -/
theorem summariesArePosted : Obligations.SummariesArePosted := by
  refine fun s i f hw => ⟨fun h => ?_, fun v g rest hp ht hb hf => ?_, fun h ho => ?_, fun h => ⟨fun hc => ?_, fun hc => ?_⟩⟩
  · have hm := List.mem_of_find?_eq_some h
    refine runs_of (exec_ticket hw h) ⟨by simp [State.setFlight], ?_, fun a _ => by simp [State.setFlight], fun j hj => ?_, by simp [State.setFlight]⟩
    · simpa [State.setFlight] using Station.flightOf_setFlight (s.stn i) (g := { f with stage := .sent }) hm rfl
    · simp [State.setFlight, List.ne_of_not_mem_cons hj]
  · obtain ⟨hfifo, hflight, hslots, hpm⟩ := Station.takeValue_spec hb hf
    refine runs_of (exec_tktval hw hp ht) ?_
    rw [State.stn_setStn, if_pos rfl]
    exact ⟨hfifo, hflight, by simp, hslots, hpm, fun a _ => by simp, fun j hj => by simp [List.ne_of_not_mem_cons hj], by simp⟩
  · refine runs_of (exec_summary hw h ho) ?_
    unfold State.setFlight
    rw [State.stn_setStn, if_pos rfl]
    exact ⟨Station.flightOf_setFlight _ (State.mem_headOf h).1 rfl, rfl, rfl, OnlyChanges.setStn _ _ _ _ _ (List.mem_singleton_self _)⟩
  · exact exec_summaryPost_waits h hc
  · obtain ⟨hfifo, hflight, hslots, hresult⟩ := (s.stn i).postSummary_spec f.seq
      (if fld f.word 26 2 = 1 then rowSummary ((s.stn i).slot (fld f.word 20 6)) else reducerSummary f.result)
    refine runs_of (exec_summaryPost h hw hc) ?_
    rw [State.stn_setStn, if_pos rfl]
    exact ⟨hfifo, hflight, hslots, hresult, OnlyChanges.setStn _ _ _ _ _ (List.mem_singleton_self _)⟩

end Sys2Proof
end

section
/-! PROOFS. What sending to another module changes: the ports and what the module puts out, and nothing else. -/
namespace Sys2Proof.Machine

/-- Only the ports of the links and the output differ. -/
def Sends (s t : State) : Prop := ∃ ps o, t = { s with die := { s.die with net := { s.die.net with ports := ps } }, out := o }

theorem Sends.refl (s : State) : Sends s s := ⟨s.die.net.ports, s.out, rfl⟩

theorem Sends.trans {s t u : State} (h : Sends s t) (k : Sends t u) : Sends s u := by
  obtain ⟨ps, o, rfl⟩ := h
  obtain ⟨qs, p, rfl⟩ := k
  exact ⟨qs, p, rfl⟩

theorem Sends.setPort (s : State) (p : Nat) (q : Port) : Sends s (s.setPort p q) := ⟨_, s.out, rfl⟩

theorem Sends.emit (s : State) (o : Out) : Sends s (s.emit o) := ⟨s.die.net.ports, _, rfl⟩

theorem Sends.freeBuffer (s : State) (o : Option (Nat × Nat × Nat)) : Sends s (s.freeBuffer o) := by
  unfold State.freeBuffer
  split
  · exact .refl s
  · exact .emit s _

theorem Sends.sendNext (s : State) (p : Nat) (w : Waiting) : Sends s (s.sendNext p w) :=
  ((Sends.setPort s p _).trans (.emit _ _)).trans (.freeBuffer _ _)

theorem Sends.flushPort (p n : Nat) (s : State) : Sends s (State.flushPort p n s) := by
  induction n generalizing s with
  | zero => exact .refl s
  | succ n ih =>
    unfold State.flushPort
    dsimp only
    split
    · exact .refl s
    · split
      · exact .refl s
      · exact (Sends.sendNext s p _).trans (ih _)

theorem Sends.toPort (s : State) (p : Nat) (w : Waiting) : Sends s (s.toPort p w) := (Sends.setPort s p _).trans (.flushPort p _ _)

theorem Sends.routeWaiting (s : State) (w : Waiting) : Sends s (s.routeWaiting w) := by
  unfold State.routeWaiting
  split
  · exact .toPort s _ w
  · exact .freeBuffer s _

theorem Sends.sendTo (s : State) (dmod pick : Nat) (b : FrameBody) : Sends s (s.sendTo dmod pick b) := .routeWaiting s _

/-- Sends for each of a list. -/
theorem Sends.foldl {α : Type} {g : State → α → State} (h : ∀ s a, Sends s (g s a)) (l : List α) (s : State) : Sends s (l.foldl g s) := by
  induction l generalizing s with
  | nil => exact .refl s
  | cons a r ih => exact (h s a).trans (ih _)

theorem Sends.sendOut (s : State) (node dmod pick : Nat) (fs : List Flit) : ∃ n, Sends (s.addHops n) (s.sendOut node dmod pick fs) :=
  ⟨_, .foldl (fun t g => .sendTo t dmod pick (.data g)) _ _⟩

theorem Sends.stn {s t : State} (h : Sends s t) (j : Nat) : t.stn j = s.stn j := by
  obtain ⟨ps, o, rfl⟩ := h
  rfl

@[simp] theorem State.stn_sendOut (s : State) (node dmod pick : Nat) (fs : List Flit) (j : Nat) : (s.sendOut node dmod pick fs).stn j = s.stn j := by
  obtain ⟨n, h⟩ := Sends.sendOut s node dmod pick fs
  exact h.stn j

@[simp] theorem State.stn_respond (s : State) (node : Nat) (f : Flit) (b : FlitBody) (j : Nat) : (s.respond node f b).stn j = s.stn j := by
  unfold State.respond
  dsimp only
  split <;> simp

end Sys2Proof.Machine
end

section
/-! PROOFS. Sleep and wake (O26): what a station that wakes serves, and what that leaves of it. -/
namespace Sys2Proof.Machine

/-! ### What serving leaves of a station -/

/-- What a station keeps that serves what its router held, but for its slots where a BAR2 access writes them: the banks, the signal box, the queue, a stop that is held, and its run state but for a stop that falls due. -/
def Station.ServeKeeps (bar2 : Prop) (x y : Station) : Prop :=
  y.banks = x.banks ∧ y.sb = x.sb ∧ y.iss.queue = x.iss.queue ∧ y.ctl.stopHeld = x.ctl.stopHeld ∧
    (y.ctl.run = x.ctl.run ∨ y.ctl.run = .stopped) ∧ (¬ bar2 → y.slots = x.slots)

theorem Station.ServeKeeps.refl (b : Prop) (x : Station) : Station.ServeKeeps b x x := ⟨rfl, rfl, rfl, rfl, .inl rfl, fun _ => rfl⟩

theorem Station.ServeKeeps.trans {b c : Prop} {x y z : Station} (h : Station.ServeKeeps b x y) (k : Station.ServeKeeps c y z) : Station.ServeKeeps (b ∨ c) x z := by
  obtain ⟨h1, h2, h3, h4, h5, h6⟩ := h
  obtain ⟨k1, k2, k3, k4, k5, k6⟩ := k
  refine ⟨k1.trans h1, k2.trans h2, k3.trans h3, k4.trans h4, ?_, fun n => (k6 (fun c => n (.inr c))).trans (h6 (fun b => n (.inl b)))⟩
  rcases k5 with k5 | k5
  · exact h5.imp (k5.trans ·) (k5.trans ·)
  · exact .inr k5

theorem Station.ServeKeeps.mono {b c : Prop} {x y : Station} (h : Station.ServeKeeps b x y) (k : b → c) : Station.ServeKeeps c x y := by
  obtain ⟨h1, h2, h3, h4, h5, h6⟩ := h
  exact ⟨h1, h2, h3, h4, h5, fun n => h6 (fun b => n (k b))⟩

theorem Station.ctl_settle (x : Station) : x.settle.ctl.stopHeld = x.ctl.stopHeld ∧ (x.settle.ctl.run = x.ctl.run ∨ x.settle.ctl.run = .stopped) := by
  unfold Station.settle
  split
  · exact ⟨rfl, .inr rfl⟩
  · exact ⟨rfl, .inl rfl⟩

theorem Station.ctl_complete (x : Station) (k : Nat) : (x.complete k).ctl.stopHeld = x.ctl.stopHeld ∧ ((x.complete k).ctl.run = x.ctl.run ∨ (x.complete k).ctl.run = .stopped) := by
  unfold Station.complete
  split
  · exact ⟨rfl, .inl rfl⟩
  · simpa using Station.ctl_settle _

/-- An acknowledgement that is counted leaves everything of its station but the flights, the ledger and a stop that falls due. -/
theorem Station.acked_keeps (x : Station) (k : Nat) :
    Station.ServeKeeps False x (x.acked k) ∧ (x.acked k).pm = x.pm ∧ (x.acked k).tokens = x.tokens ∧ (x.acked k).routerHeld = x.routerHeld := by
  unfold Station.acked
  split
  · exact ⟨.refl _ x, rfl, rfl, rfl⟩
  · rename_i f _
    dsimp only
    split
    · obtain ⟨h1, h2⟩ := (x.setFlight { f with acks := f.acks - 1 }).ctl_complete k
      exact ⟨⟨by simp, by simp, by simp, h1, h2, fun _ => by simp⟩, by simp, by simp, by simp⟩
    · exact ⟨⟨rfl, rfl, rfl, rfl, .inl rfl, fun _ => rfl⟩, rfl, rfl, rfl⟩

theorem Station.tokenLanded_keeps (x : Station) (k : Nat) :
    Station.ServeKeeps False x (x.tokenLanded k) ∧ (x.tokenLanded k).pm = x.pm ∧ (x.tokenLanded k).tokens = x.tokens ∧ (x.tokenLanded k).routerHeld = x.routerHeld := by
  unfold Station.tokenLanded
  split
  · exact ⟨.refl _ x, rfl, rfl, rfl⟩
  · dsimp only
    split
    · exact ⟨⟨by simp, by simp, by simp, by simp, .inl (by simp), fun _ => by simp⟩, by simp, by simp, by simp⟩
    · exact ⟨⟨rfl, rfl, rfl, rfl, .inl rfl, fun _ => rfl⟩, rfl, rfl, rfl⟩

/-! ### Serving -/

/-- An acknowledgement changes the station that waits for it itself, and no other. -/
theorem State.stn_acknowledge (s : State) (dst : Nat) (f : Flit) (j : Nat) :
    (s.acknowledge dst f).stn j = if j = dst ∧ f.req = dst ∧ f.mod = none then (s.stn dst).acked f.txn else s.stn j := by
  unfold State.acknowledge
  by_cases h : f.req = dst ∧ f.mod = none
  · rw [if_pos (by simp [h]), State.stn_setStn]
    exact if_congr (by simp [h]) rfl rfl
  · rw [if_neg (by simpa using h)]
    by_cases hj : j = dst
    · split <;> simp [h]
    · split <;> simp [hj]

theorem State.reg_acknowledge {s : State} (dst : Nat) {f : Flit} (h : f.mod = none) (a : Nat) : (s.acknowledge dst f).reg a = s.reg a := by
  unfold State.acknowledge State.respond
  rw [h]
  split
  · rfl
  · split <;> simp

theorem State.acknowledge_keeps (s : State) (i : Nat) (f : Flit) :
    Station.ServeKeeps False (s.stn i) ((s.acknowledge i f).stn i) ∧ ((s.acknowledge i f).stn i).pm = (s.stn i).pm ∧
    ((s.acknowledge i f).stn i).tokens = (s.stn i).tokens ∧ ((s.acknowledge i f).stn i).routerHeld = (s.stn i).routerHeld := by
  rw [State.stn_acknowledge]
  split
  · exact (s.stn i).acked_keeps f.txn
  · exact ⟨.refl _ _, rfl, rfl, rfl⟩

/-- A line that arrives is written, and its station keeps the rest. -/
theorem State.serveWr_spec (s : State) (i : Nat) (f : Flit) (bs : List MaskedByte) (ls : List Nat) (total : Nat) (st : Option Stream) :
    let t := s.serveWr i f bs ls total st none
    Station.ServeKeeps False (s.stn i) (t.stn i) ∧ (t.stn i).pm = pmApply (s.stn i).pm bs ∧ (t.stn i).tokens = (s.stn i).tokens ∧
    (t.stn i).routerHeld = (s.stn i).routerHeld ∧ SameStns s t [i] := by
  have noSlip (old new : List Nat) : arrivalSlip st old new none = none := by cases st <;> rfl
  unfold State.serveWr State.pmMask
  dsimp only
  rw [noSlip]
  dsimp only
  have got (ls : List Nat) (u : State)
      (hu : u = (s.setStn i { s.stn i with pm := pmApply (s.stn i).pm bs }).setStn i (({ s.stn i with pm := pmApply (s.stn i).pm bs } : Station).setGot f ls)) :
      Station.ServeKeeps False (s.stn i) (u.stn i) ∧ (u.stn i).pm = pmApply (s.stn i).pm bs ∧ (u.stn i).tokens = (s.stn i).tokens ∧
        (u.stn i).routerHeld = (s.stn i).routerHeld ∧ SameStns s u [i] := by
    rw [hu, State.stn_setStn, if_pos rfl]
    exact ⟨⟨rfl, rfl, rfl, rfl, .inl rfl, fun _ => rfl⟩, rfl, rfl, rfl, fun j hj => by simp [List.ne_of_not_mem_cons hj]⟩
  rw [State.stn_setStn, if_pos rfl]
  split
  · obtain ⟨h1, h2, h3, h4, h5⟩ := got [] _ rfl
    obtain ⟨k1, k2, k3, k4⟩ := State.acknowledge_keeps ((s.setStn i { s.stn i with pm := pmApply (s.stn i).pm bs }).setStn i
      (({ s.stn i with pm := pmApply (s.stn i).pm bs } : Station).setGot f [])) i f
    refine ⟨(h1.trans k1).mono (by simp), k2.trans h2, k3.trans h3, k4.trans h4, fun j hj => ?_⟩
    rw [State.stn_acknowledge, if_neg (fun e => List.ne_of_not_mem_cons hj e.1)]
    exact h5 j hj
  · exact got _ _ rfl

theorem State.stn_giveToken_absent {s : State} {i k : Nat} (h : bitAt (s.stn i).tokens k = false) :
    s.giveToken i k = s.setStn i { s.stn i with tokens := putBit (s.stn i).tokens k true } := by
  unfold State.giveToken
  exact if_neg (by simp [h])

/-- What follows the token of a GIVE: its source counts the destination, and is acknowledged. -/
theorem State.serveToken_eq (s : State) (i : Nat) (f : Flit) (k : Nat) :
    s.serveToken i f k = s.giveToken i k ∨
    (f.mod = none ∧ s.serveToken i f k = ((s.giveToken i k).setStn f.req (((s.giveToken i k).stn f.req).tokenLanded f.txn)).acknowledge i f) := by
  unfold State.serveToken
  dsimp only
  split
  · rename_i h
    simp only [Bool.and_eq_true, Option.isNone_iff_eq_none] at h
    exact .inr ⟨h.2, rfl⟩
  · exact .inl rfl

/-- A station other than the one that a token or its acknowledgement concerns is as it was; that one keeps all but its tokens, its flights and its ledger. -/
theorem State.serveToken_spec (s : State) (i : Nat) (f : Flit) (k : Nat) :
    let t := s.serveToken i f k
    Station.ServeKeeps False (s.stn i) (t.stn i) ∧ (t.stn i).pm = (s.stn i).pm ∧ (t.stn i).routerHeld = (s.stn i).routerHeld ∧
    (bitAt (s.stn i).tokens k = false → (t.stn i).tokens = putBit (s.stn i).tokens k true ∧ SameRegs s t []) ∧ SameStns s t [i, f.req] := by
  obtain ⟨b, gstn, gstns, -⟩ := s.giveToken_only i k
  have given : Station.ServeKeeps False (s.stn i) ((s.giveToken i k).stn i) := by
    rw [gstn]
    exact ⟨rfl, rfl, rfl, rfl, .inl rfl, fun _ => rfl⟩
  have absent (h : bitAt (s.stn i).tokens k = false) : ((s.giveToken i k).stn i).tokens = putBit (s.stn i).tokens k true ∧ SameRegs s (s.giveToken i k) [] := by
    rw [State.stn_giveToken_absent h]
    exact ⟨by simp, fun _ _ => rfl⟩
  dsimp only
  rcases s.serveToken_eq i f k with e | ⟨hm, e⟩
  · rw [e]
    exact ⟨given, by rw [gstn], by rw [gstn], absent, fun j hj => gstns j (by simp_all)⟩
  · generalize hu : (s.giveToken i k).setStn f.req (((s.giveToken i k).stn f.req).tokenLanded f.txn) = u at e
    have ustn (j : Nat) : u.stn j = if j = f.req then ((s.giveToken i k).stn f.req).tokenLanded f.txn else (s.giveToken i k).stn j := by
      rw [← hu, State.stn_setStn]
    have landed : Station.ServeKeeps False ((s.giveToken i k).stn i) (u.stn i) ∧ (u.stn i).pm = ((s.giveToken i k).stn i).pm ∧
        (u.stn i).tokens = ((s.giveToken i k).stn i).tokens ∧ (u.stn i).routerHeld = ((s.giveToken i k).stn i).routerHeld := by
      rw [ustn]
      split
      · rename_i h
        rw [← h]
        exact Station.tokenLanded_keeps _ _
      · exact ⟨.refl _ _, rfl, rfl, rfl⟩
    obtain ⟨l1, l2, l3, l4⟩ := landed
    obtain ⟨k1, k2, k3, k4⟩ := u.acknowledge_keeps i f
    rw [e]
    refine ⟨((given.trans l1).trans k1).mono (by simp), k2.trans (l2.trans (by rw [gstn])), k4.trans (l4.trans (by rw [gstn])), fun h => ?_, fun j hj => ?_⟩
    · obtain ⟨a1, a2⟩ := absent h
      refine ⟨k3.trans (l3.trans a1), fun a ha => (State.reg_acknowledge i hm a).trans ?_⟩
      rw [← hu, State.reg_setStn]
      exact a2 a ha
    · simp only [List.mem_cons, List.not_mem_nil, or_false, not_or] at hj
      rw [State.stn_acknowledge, if_neg (fun e => hj.1 e.1), ustn, if_neg hj.2]
      exact gstns j (by simp [hj.1])

/-! #### The station window -/

theorem Station.putWin_keeps (x : Station) (off : Nat) (bs : List Byte) : ∃ p ss, x.putWin off bs = { x with pm := p, slots := ss } := by
  have fold (g : Station → Nat → Station) (hg : ∀ y b, ∃ ss, g y b = { y with slots := ss }) (l : List Nat) (y : Station) :
      ∃ ss, l.foldl g y = { y with slots := ss } := by
    induction l generalizing y with
    | nil => exact ⟨y.slots, rfl⟩
    | cons b r ih =>
      obtain ⟨ss, h⟩ := hg y b
      obtain ⟨ts, k⟩ := ih (g y b)
      exact ⟨ts, by rw [List.foldl_cons, k, h]⟩
  unfold Station.putWin
  dsimp only
  obtain ⟨ss, h⟩ := fold (fun y b => y.putWinEntry b off bs) (fun y b => ⟨_, rfl⟩) (touched 0x100000 0x180000 8 off bs.length) (x.putWinPm off bs)
  rw [h]
  obtain ⟨ts, k⟩ := fold (fun y b => y.putWinRecord b off bs) (fun y b => ⟨_, rfl⟩) (touched 0x180000 0x184000 0x100 off bs.length) { x.putWinPm off bs with slots := ss }
  rw [k]
  exact ⟨_, _, rfl⟩

theorem State.stn_countBusy (s : State) (i n j : Nat) : (s.countBusy i n).stn j = s.stn j := by
  unfold State.countBusy
  split <;> simp

theorem State.stn_countRefused (s : State) (i : Nat) (rs : List (Fin 5 × Nat)) (j : Nat) : (s.countRefused i rs).stn j = s.stn j :=
  (State.countRefused_only i rs s).2.1 j List.not_mem_nil

/-- A read mixed with a write of the station draws arbitrary values alone. -/
theorem State.mixWords_state (s : State) (i : Nat) (ws : List Nat) : ∃ n, (s.mixWords i ws).2 = { s with free := n } := by
  unfold State.mixWords
  dsimp only
  generalize ws.dedup = l
  suffices h : ∀ (l : List Nat) (g : SMap Byte → Nat → Nat → SMap Byte) (a : SMap Byte × State), (∃ n, a.2 = { s with free := n }) →
      ∃ n, (l.foldl (fun a wd => (g a.1 wd a.2.fresh.1, a.2.fresh.2)) a).2 = { s with free := n } from
    h l (fun m wd r => (List.range 32).foldl (fun m k => wrByte pmTop m ((wd * 32 + k) % pmTop)
      (mixByte (mget byte0 (s.stn i).pm ((wd * 32 + k) % pmTop)) (mget byte0 (s.stationWrites i) ((wd * 32 + k) % pmTop)) (BitVec.ofNat 8 (r >>> (8 * k))))) m)
      ((s.stn i).pm, s) ⟨s.free, rfl⟩
  intro l g
  induction l with
  | nil => exact fun a h => h
  | cons wd r ih =>
    rintro a ⟨n, h⟩
    exact ih _ ⟨n + 1, congrArg (fun t : State => t.fresh.2) h⟩

theorem State.serveBar2_keeps (s : State) (i off n : Nat) (w : Option (List Byte)) (busy refused : Nat) :
    Station.ServeKeeps True (s.stn i) ((s.serveBar2 i off n w busy refused).stn i) := by
  unfold State.serveBar2
  dsimp only
  generalize hs1 : (if off < 0x100000 then (s.countBusy i busy).countRefused i [(4, refused)] else s) = s1
  have same : s1.stn i = s.stn i := by
    rw [← hs1]
    split
    · rw [State.stn_countRefused, State.stn_countBusy]
    · rfl
  rw [same]
  split
  · split
    · rw [State.stn_bump, State.stn_setStn, if_pos rfl]
      exact ⟨rfl, rfl, rfl, rfl, .inl rfl, fun _ => rfl⟩
    · rename_i bs _
      obtain ⟨p, ss, h⟩ := (s.stn i).putWin_keeps off bs
      rw [State.stn_setStn, if_pos rfl, h]
      exact ⟨rfl, rfl, rfl, rfl, .inl rfl, fun n => absurd trivial n⟩
  · obtain ⟨m, h⟩ := s1.mixWords_state i (if 2 ≤ busy then winWords off n else [])
    have e (u : State) (hu : u.stn i = s.stn i) : Station.ServeKeeps True (s.stn i) (u.stn i) := by rw [hu]; exact .refl _ _
    apply e
    split <;> (dsimp only; rw [State.stn_emit, h]; exact same)

/-! ### Everything that was held -/

theorem State.serveHeld_keeps {s t : State} {i : Nat} {f : Flit} (h : s.serveHeld i f = some t) :
    Station.ServeKeeps (∃ off n w, f.body = .bar2 off n w) (s.stn i) (t.stn i) := by
  unfold State.serveHeld at h
  split at h
  · cases h
    exact (s.serveWr_spec i f _ _ _ _).1.mono nofun
  · cases h
    exact (s.serveToken_spec i f _).1.mono nofun
  · dsimp only at h
    split at h
    · cases h
      rw [State.stn_setStn, if_pos rfl]
      exact ⟨rfl, rfl, rfl, rfl, .inl rfl, fun _ => rfl⟩
    · cases h
  · rename_i off n w hb
    cases h
    exact (s.serveBar2_keeps i off n w 0 0).mono (fun _ => ⟨off, n, w, hb⟩)
  · cases h
    exact .refl _ _

theorem State.serveAll_keeps (i : Nat) (l : List Flit) (s : State) (stay : List Flit) :
    Station.ServeKeeps (∃ f ∈ l, ∃ off n w, f.body = .bar2 off n w) (s.stn i) ((s.serveAll i stay l).1.stn i) := by
  induction l generalizing s stay with
  | nil => exact .refl _ _
  | cons f r ih =>
    have rest (u : State) (st : List Flit) := (ih u st).mono (c := ∃ g ∈ f :: r, ∃ off n w, g.body = .bar2 off n w)
      (fun ⟨g, hg, h⟩ => ⟨g, List.mem_cons_of_mem f hg, h⟩)
    unfold State.serveAll
    split
    · exact rest s _
    · split
      · rename_i t ht
        exact ((State.serveHeld_keeps ht).trans (rest t stay)).mono (fun h => h.elim (fun h => ⟨f, List.mem_cons_self, h⟩) id)
      · exact rest s _

/-- One flit that can be served. -/
theorem State.serveAll_one {s t : State} {i : Nat} {f : Flit} (h : s.serveHeld i f = some t) : s.serveAll i [] [f] = (t, []) := by
  unfold State.serveAll
  rw [h]
  rfl

/-! ### The commands -/

theorem exec_wakeComplete {s : State} {i : Stn} (hl : s.live = true) (hr : (s.stn i).ctl.run = .waking) (ht : (s.stn i).ctl.retention = true) :
    let p := ((s.setMesh (s.die.mesh.filter (fun f => !isBar2To i f))).setStn i (s.stn i).awaken).serveAll i []
      ((s.stn i).routerHeld ++ s.die.mesh.filter (isBar2To i))
    exec (.wakeComplete i) s = .next (p.1.setMesh (p.2 ++ p.1.die.mesh)) := if_pos (by simp [hl, hr, ht])

/-- Where no BAR2 access waits in the mesh, a station that wakes serves what its router held alone. -/
theorem exec_wakeComplete_held {s : State} {i : Stn} (hl : s.live = true) (hr : (s.stn i).ctl.run = .waking) (ht : (s.stn i).ctl.retention = true)
    (hm : s.die.mesh.any (isBar2To i) = false) :
    let p := (s.setStn i (s.stn i).awaken).serveAll i [] (s.stn i).routerHeld
    exec (.wakeComplete i) s = .next (p.1.setMesh (p.2 ++ p.1.die.mesh)) := by
  have none_waits : ∀ f ∈ s.die.mesh, isBar2To i f = false := by simpa using hm
  have stays : s.die.mesh.filter (fun f => !isBar2To i f) = s.die.mesh := List.filter_eq_self.mpr (fun f hf => by simp [none_waits f hf])
  have empty : s.die.mesh.filter (isBar2To i) = [] := List.filter_eq_nil_iff.mpr (fun f hf => by simp [none_waits f hf])
  have run := exec_wakeComplete hl hr ht
  rw [stays, empty, List.append_nil] at run
  exact run

/-- A station that wakes is awake, or stopped where a stop was held and nothing is left to complete; its slots, banks and signal box are as before (R107). -/
theorem Station.awaken_spec (x : Station) :
    (x.awaken).ctl.run = (if x.ctl.stopHeld = true ∧ x.iss.queue = [] ∧ x.iss.flight = [] ∧ x.atPost = false then .stopped else .awake) ∧
    x.awaken.ctl.stopHeld = false ∧ x.awaken = { x with ctl := x.awaken.ctl, routerHeld := [] } := by
  have idle : (x.ctl.stopHeld && x.iss.queue.isEmpty && x.iss.flight.isEmpty && !x.atPost) = true ↔
      x.ctl.stopHeld = true ∧ x.iss.queue = [] ∧ x.iss.flight = [] ∧ x.atPost = false := by simp [and_assoc]
  unfold Station.awaken Station.settle
  dsimp only
  split
  · rename_i h
    rw [if_pos (idle.mp h)]
    exact ⟨rfl, rfl, rfl⟩
  · rename_i h
    rw [if_neg (idle.not.mp h)]
    exact ⟨rfl, rfl, rfl⟩

/-- What a station keeps that has woken and served (R107). -/
theorem Station.ServeKeeps.of_awaken {b : Prop} {x y : Station} (h : Station.ServeKeeps b x.awaken y) :
    (y.ctl.run = .awake ∨ y.ctl.run = .stopped) ∧ y.ctl.stopHeld = false ∧ y.banks = x.banks ∧ y.sb = x.sb ∧ y.iss.queue = x.iss.queue ∧
      (¬ b → y.slots = x.slots) := by
  obtain ⟨arun, aheld, aeq⟩ := x.awaken_spec
  obtain ⟨h1, h2, h3, h4, h5, h6⟩ := h
  refine ⟨?_, h4.trans aheld, h1.trans (by rw [aeq]), h2.trans (by rw [aeq]), h3.trans (by rw [aeq]), fun n => (h6 n).trans (by rw [aeq])⟩
  rcases h5 with h5 | h5
  · rw [h5, arun]
    split
    · exact .inr rfl
    · exact .inl rfl
  · exact .inr h5

section
variable {s t : State} {i : Stn} (hl : s.live = true) (hr : (s.stn i).ctl.run = .waking) (ht : (s.stn i).ctl.retention = true)
  (h : exec (.wakeComplete i) s = .next t)
include hl hr ht h

theorem wakeComplete_keeps :
    Station.ServeKeeps (∃ f ∈ (s.stn i).routerHeld ++ s.die.mesh.filter (isBar2To i), ∃ off n w, f.body = .bar2 off n w) (s.stn i).awaken (t.stn i) := by
  have e := h.symm.trans (exec_wakeComplete hl hr ht)
  injection e with e
  have k := State.serveAll_keeps i ((s.stn i).routerHeld ++ s.die.mesh.filter (isBar2To i))
    ((s.setMesh (s.die.mesh.filter (fun f => !isBar2To i f))).setStn i (s.stn i).awaken) []
  rw [State.stn_setStn, if_pos rfl] at k
  rw [e, State.stn_setMesh]
  exact k

theorem wakeComplete_held (hm : s.die.mesh.any (isBar2To i) = false) :
    ∃ p, p = (s.setStn i (s.stn i).awaken).serveAll i [] (s.stn i).routerHeld ∧ t = p.1.setMesh (p.2 ++ p.1.die.mesh) := by
  have e := h.symm.trans (exec_wakeComplete_held hl hr ht hm)
  injection e with e
  exact ⟨_, rfl, e⟩

/-- A flit held alone that can be served. -/
theorem wakeComplete_one (hm : s.die.mesh.any (isBar2To i) = false) {f : Flit} (hf : (s.stn i).routerHeld = [f]) {u : State}
    (hu : (s.setStn i (s.stn i).awaken).serveHeld i f = some u) : t = u.setMesh u.die.mesh := by
  obtain ⟨p, hp, e⟩ := wakeComplete_held hl hr ht h hm
  rw [hf, State.serveAll_one hu] at hp
  rw [e, hp]
  rfl

end

theorem exec_sleepCommit {s : State} {i : Stn} (hl : s.live = true) (hr : (s.stn i).ctl.sleepReq = true) :
    exec (.sleepCommit i) s =
      if (s.stn i).iss.queue = [] ∧ (s.stn i).iss.flight = [] ∧ (s.stn i).atPost = false ∧ s.accessPending i = false then
        .next (s.setStn i { s.stn i with ctl := { (s.stn i).ctl with run := .asleep, sleepReq := false, retention := false, admitted := false, wakeReq := false } })
      else .next s := by
  change execSleepCommit i s = _
  unfold execSleepCommit
  exact if_congr (by simp [hl, hr, and_assoc]) rfl rfl

theorem exec_retentionReached {s : State} {i : Stn} (hl : s.live = true) (hr : (s.stn i).ctl.run = .asleep) (ht : (s.stn i).ctl.retention = false) :
    exec (.retentionReached i) s =
      .next (s.setStn i { s.stn i with ctl := { (s.stn i).ctl with retention := true, run := if (s.stn i).ctl.admitted then .waking else .asleep } }) :=
  if_pos (by simp [hl, hr, ht])

theorem exec_departureStagger {s : State} {i : Stn} (hl : s.live = true) (hs : (s.stn i).iss.stagger = true) :
    exec (.departureStagger i) s =
      if s.departuresHeld = false then .next (s.setStn i { s.stn i with iss := { (s.stn i).iss with stagger := false } }) else .next s := by
  change execDepartureStagger i s = _
  unfold execDepartureStagger
  exact if_congr (by simp [hl, hs]) rfl rfl

end Sys2Proof.Machine

namespace Sys2Proof
open Machine

/-- Settles O26: what a waking station keeps holds of everything it serves, and the single flits that its router held are served one by one. -/
theorem stationsSleepAndWake : Obligations.StationsSleepAndWake := by
  refine fun s i hl => ⟨fun hq => ⟨fun h1 h2 h3 h4 => ?_, fun h => ?_⟩, fun hr ht => ?_, fun hr ht => ?_, fun hs => ⟨fun hd => ?_, fun hd => ?_⟩⟩
  · refine runs_of ((exec_sleepCommit hl hq).trans (if_pos ⟨h1, h2, h3, h4⟩)) ?_
    rw [State.stn_setStn, if_pos rfl]
    exact ⟨rfl, rfl, OnlyChanges.setStn _ _ _ _ _ (List.mem_singleton_self _)⟩
  · refine (exec_sleepCommit hl hq).trans (if_neg ?_)
    rintro ⟨h1, h2, h3, h4⟩
    rcases h with h | h | h | h <;> simp_all
  · refine runs_of (exec_retentionReached hl hr ht) ?_
    rw [State.stn_setStn, if_pos rfl]
    exact ⟨rfl, OnlyChanges.setStn _ _ _ _ _ (List.mem_singleton_self _)⟩
  · obtain ⟨t, run⟩ : ∃ t, exec (.wakeComplete i) s = .next t := ⟨_, exec_wakeComplete hl hr ht⟩
    have outside := execWakeComplete_outside i s run
    rw [State.outside_eq, State.outside_eq] at outside
    simp only [Prod.mk.injEq] at outside
    obtain ⟨-, hfuses, hlpddr, -⟩ := outside
    obtain ⟨krun, kheld, kbanks, ksb, kqueue, kslots⟩ := (wakeComplete_keeps hl hr ht run).of_awaken
    obtain ⟨arun, -, aeq⟩ := (s.stn i).awaken_spec
    have woken : (s.setStn i (s.stn i).awaken).stn i = { s.stn i with ctl := (s.stn i).awaken.ctl, routerHeld := [] } := by
      rw [State.stn_setStn, if_pos rfl, ← aeq]
    refine runs_of run ⟨krun, kheld, kbanks, ksb, kqueue, hlpddr, hfuses, fun hm => ⟨fun hb => kslots ?_, fun he => ?_, fun f k he hb hk => ?_, fun f bs ls total st he hb => ?_⟩⟩
    · have empty : s.die.mesh.filter (isBar2To i) = [] := List.filter_eq_nil_iff.mpr (by simpa using hm)
      rw [empty, List.append_nil]
      rintro ⟨f, hf, off, n, w, e⟩
      exact hb f hf off n w e
    · obtain ⟨p, hp, e⟩ := wakeComplete_held hl hr ht run hm
      rw [he] at hp
      subst hp
      have plain : t = s.setStn i (s.stn i).awaken := e
      rw [plain, woken]
      refine ⟨arun, ?_, OnlyChanges.setStn _ _ _ _ _ (List.mem_singleton_self _)⟩
      rw [← he]
    · have served : (s.setStn i (s.stn i).awaken).serveHeld i f = some ((s.setStn i (s.stn i).awaken).serveToken i f k) := by
        unfold State.serveHeld
        rw [hb]
      obtain ⟨-, hpm, hrouter, htoken, hstns⟩ := State.serveToken_spec (s.setStn i (s.stn i).awaken) i f k
      rw [woken] at hpm hrouter htoken
      obtain ⟨htokens, hregs⟩ := htoken hk
      rw [wakeComplete_one hl hr ht run hm he served]
      exact ⟨htokens, hrouter, hpm, hregs, fun j hj => (hstns j hj).trans (by rw [State.stn_setStn, if_neg (List.ne_of_not_mem_cons hj)])⟩
    · have served : (s.setStn i (s.stn i).awaken).serveHeld i f = some ((s.setStn i (s.stn i).awaken).serveWr i f bs ls total st none) := by
        unfold State.serveHeld
        rw [hb]
      obtain ⟨-, hpm, htokens, hrouter, hstns⟩ := State.serveWr_spec (s.setStn i (s.stn i).awaken) i f bs ls total st
      rw [woken] at hpm htokens hrouter
      rw [wakeComplete_one hl hr ht run hm he served]
      exact ⟨hpm, hrouter, htokens, fun j hj => (hstns j hj).trans (by rw [State.stn_setStn, if_neg (List.ne_of_not_mem_cons hj)])⟩
  · refine runs_of ((exec_departureStagger hl hs).trans (if_pos hd)) ?_
    rw [State.stn_setStn, if_pos rfl]
    exact ⟨rfl, OnlyChanges.setStn _ _ _ _ _ (List.mem_singleton_self _)⟩
  · exact (exec_departureStagger hl hs).trans (if_neg (by simp [hd]))

end Sys2Proof
end

section
/-! PROOFS. Collectives over slots (O41): what becomes of a round of a collective, an `Inst` of the model (R336), and what no step of the service changes. -/
namespace Sys2Proof.Machine

/-! ### What the service leaves alone -/

/-- Only the collectives service, the ports of the links and the output differ, and of the service neither the count of REDUCEs of a station nor the parts of images (R336). -/
def CollStep (s t : State) : Prop :=
  ∃ n o, t = { s with die := { s.die with net := n }, out := o } ∧ n.instNext = s.die.net.instNext ∧ n.parts = s.die.net.parts

theorem CollStep.refl (s : State) : CollStep s s := ⟨_, _, rfl, rfl, rfl⟩

theorem CollStep.trans {s t u : State} (h : CollStep s t) (k : CollStep t u) : CollStep s u := by
  obtain ⟨n, o, rfl, h1, h2⟩ := h
  obtain ⟨m, p, rfl, k1, k2⟩ := k
  exact ⟨m, p, rfl, k1.trans h1, k2.trans h2⟩

theorem CollStep.setInsts (s : State) (l : List CollInst) : CollStep s (s.setNet { s.die.net with insts := l }) := ⟨_, s.out, rfl, rfl, rfl⟩

theorem CollStep.putInst (s : State) (i : CollInst) : CollStep s (s.putInst i) := .setInsts s _

theorem CollStep.setResult (s : State) (i : CollInst) (r : Slot) : CollStep s (s.setResult i r) := .putInst s _

theorem Sends.collStep {s t : State} (h : Sends s t) : CollStep s t := by
  obtain ⟨ps, o, rfl⟩ := h
  exact ⟨_, o, rfl, rfl, rfl⟩

theorem Sends.sendImage (s : State) (m cid k phase mext next : Nat) (a : Slot) : Sends s (s.sendImage m cid k phase mext next a) :=
  .foldl (fun t p => .sendTo t m p _) _ s

theorem Sends.distribute (s : State) (c : CollDef) (i : CollInst) (r : Slot) (d : Nat) : Sends s (s.distribute c i r d) := by
  induction d with
  | zero => exact .refl s
  | succ d ih =>
    unfold State.distribute
    dsimp only
    split
    · exact ih
    · exact ih.trans (.foldl (fun t m => .sendImage t m _ _ _ _ _ _) _ _)

/-- A combining round that moves on is the only thing that changes, but for what is sent. -/
theorem CollStep.collAdvance (s : State) (cid k : Nat) : CollStep s (s.collAdvance cid k) := by
  unfold State.collAdvance
  dsimp only
  split
  · exact .refl s
  · split
    · exact .refl s
    · split
      · exact (CollStep.putInst s _).trans (Sends.sendImage _ _ _ _ _ _ _ _).collStep
      · exact .putInst s _
    · split
      · exact (CollStep.putInst s _).trans (Sends.distribute _ _ _ _ _).collStep
      · exact .putInst s _

theorem CollStep.collTidy (s : State) (cid k : Nat) : CollStep s (s.collTidy cid k) := by
  unfold State.collTidy
  dsimp only
  split
  · exact .setInsts s _
  · exact .refl s

/-- What no step of the service changes, a fault record apart. -/
def CollKeeps (s t : State) : Prop :=
  (∀ c st, t.nextInst c st = s.nextInst c st) ∧ SameStns s t [] ∧ t.die.mesh = s.die.mesh ∧ t.lpddr = s.lpddr

theorem CollKeeps.trans {s t u : State} (h : CollKeeps s t) (k : CollKeeps t u) : CollKeeps s u := by
  obtain ⟨h1, h2, h3, h4⟩ := h
  obtain ⟨k1, k2, k3, k4⟩ := k
  exact ⟨fun c st => (k1 c st).trans (h1 c st), fun j hj => (k2 j hj).trans (h2 j hj), k3.trans h3, k4.trans h4⟩

theorem CollStep.keeps {s t : State} (h : CollStep s t) : CollKeeps s t := by
  obtain ⟨n, o, rfl, h1, -⟩ := h
  refine ⟨fun c st => ?_, fun _ _ => rfl, rfl, rfl⟩
  unfold State.nextInst
  dsimp only
  rw [h1]

theorem CollStep.regs {s t : State} (h : CollStep s t) : SameRegs s t [] := by
  obtain ⟨n, o, rfl, -, -⟩ := h
  exact fun _ _ => rfl

theorem CollStep.parts {s t : State} (h : CollStep s t) : t.die.net.parts = s.die.net.parts := by
  obtain ⟨n, o, rfl, -, h2⟩ := h
  exact h2

theorem CollKeeps.logFault (s : State) (code step unit : Nat) (d0 : Word) (d1 : BitVec 64) : CollKeeps s (s.logFault code step unit d0 d1) :=
  ⟨fun _ _ => by simp [State.nextInst], fun _ _ => by simp, by simp, by simp⟩

theorem CollKeeps.onColl (s : State) (smod cid k phase mext next : Nat) (img : Slot) : CollKeeps s (s.onColl smod cid k phase mext next img) := by
  unfold State.onColl
  dsimp only
  split
  · exact ((CollStep.putInst s _).keeps.trans (.logFault _ _ _ _ _ _)).trans (CollStep.collTidy _ _ _).keeps
  · split
    · exact (((CollStep.putInst s _).trans (.collAdvance _ _ _)).trans (.collTidy _ _ _)).keeps
    · exact (((CollStep.setResult s _ _).trans (Sends.distribute _ _ _ _ _).collStep).trans (.collTidy _ _ _)).keeps

theorem CollKeeps.setParts (s : State) (l : List CollPart) : CollKeeps s (s.setNet { s.die.net with parts := l }) := ⟨fun _ _ => rfl, fun _ _ => rfl, rfl, rfl⟩

theorem CollKeeps.feedParts (s : State) (n : Nat) : CollKeeps s (s.feedParts n) := by
  induction n with
  | zero => exact (CollStep.refl s).keeps
  | succ n ih =>
    unfold State.feedParts
    dsimp only
    split
    · exact ih
    · exact ih.trans ((CollKeeps.setParts _ _).trans (CollKeeps.onColl _ _ _ _ _ _ _ _))

/-- Without parts of images nothing is fed. -/
theorem State.feedParts_nil {s : State} (h : s.die.net.parts = []) (n : Nat) : s.feedParts n = s := by
  induction n with
  | zero => rfl
  | succ n ih =>
    unfold State.feedParts
    dsimp only
    rw [ih, h]
    rfl

/-! ### Rounds -/

theorem Net.inst_key (n : Net) (c k : Nat) : (n.inst c k).coll = c ∧ (n.inst c k).inst = k := by
  unfold Net.inst
  cases h : n.insts.find? (fun i => decide (i.coll = c) && decide (i.inst = k)) with
  | none => exact ⟨rfl, rfl⟩
  | some i => simpa using List.find?_some h

theorem Net.inst_putInst {n : Net} {i : CollInst} {c k : Nat} (hc : i.coll = c) (hk : i.inst = k) : (n.putInst i).inst c k = i := by
  have absent : (n.insts.filter (fun j => !(decide (j.coll = i.coll) && decide (j.inst = i.inst)))).find? (fun j => decide (j.coll = c) && decide (j.inst = k)) = none := by
    rw [List.find?_eq_none]
    intro j hj
    simpa [hc, hk, imp_iff_not_or] using (List.mem_filter.mp hj).2
  unfold Net.inst Net.putInst
  dsimp only
  rw [List.find?_append, absent]
  simp [hc, hk]

/-- What is sent leaves every round. -/
theorem Sends.inst {s t : State} (h : Sends s t) (c k : Nat) : t.die.net.inst c k = s.die.net.inst c k := by
  obtain ⟨ps, o, rfl⟩ := h
  rfl

theorem CollStep.ownIn {s t : State} (h : CollStep s t) (c : CollDef) (i : CollInst) : t.ownIn c i = s.ownIn c i := by
  obtain ⟨n, o, rfl, -, -⟩ := h
  rfl

theorem CollStep.coll {s t : State} (h : CollStep s t) (c : Nat) : t.coll c = s.coll c := by
  obtain ⟨n, o, rfl, -, -⟩ := h
  rfl

theorem CollStep.combineAt {s t : State} (h : CollStep s t) (c : CollDef) (i : CollInst) : t.combineAt c i = s.combineAt c i := by
  obtain ⟨n, o, rfl, -, -⟩ := h
  rfl

/-- The round is as given, and nothing but the service and what is sent has changed. -/
def InstBecomes (s : State) (cid k : Nat) (i : CollInst) (t : State) : Prop :=
  t.die.net.inst cid k = i ∧ SameRegs s t [] ∧ SameStns s t [] ∧ t.die.mesh = s.die.mesh ∧ t.lpddr = s.lpddr

/-- A round that is not done here stays. -/
theorem State.collTidy_stays {s u : State} {cid k : Nat} {i : CollInst} (hs : CollStep s u) (hi : u.die.net.inst cid k = i) (hb : i.bad = false)
    (h : i.sent = false ∨ i.due ≠ [] ∨ s.ownIn (s.coll cid) i = false) : InstBecomes s cid k i (u.collTidy cid k) := by
  have stays : u.collTidy cid k = u := by
    unfold State.collTidy
    dsimp only
    rw [hi, hb, hs.coll, hs.ownIn]
    refine if_neg ?_
    rcases h with h | h | h <;> simp [h]
  obtain ⟨-, hstns, hm, hl⟩ := hs.keeps
  rw [stays]
  exact ⟨hi, hs.regs, hstns, hm, hl⟩

/-! ### Combining -/

section
variable {s : State} {cid k : Nat} {i : CollInst} (hi : s.die.net.inst cid k = i)
include hi

theorem State.collAdvance_waits (h : s.ownIn (s.coll cid) i = false) : s.collAdvance cid k = s := by
  unfold State.collAdvance
  dsimp only
  rw [hi, h]
  exact if_pos (by simp)

variable (hk : (s.coll cid).kind ≠ 3) (hs : i.sent = false) (hb : i.bad = false) (ho : s.ownIn (s.coll cid) i = true)
include hk hs hb ho

theorem State.collAdvance_eq : s.collAdvance cid k =
    match s.combineAt (s.coll cid) i with
    | some (_, false) => s
    | some (d, true) =>
      match s.downstream (s.coll cid) d (s.coordOf s.modid d) with
      | some x => (s.putInst { i with sent := true }).sendImage (s.modWith d x) cid k 0 i.mext i.next i.total
      | none => s.putInst { i with sent := true }
    | none =>
      if (s.coll cid).kind = 1 then (s.setResult i i.total).distribute (s.coll cid) i i.total 3 else s.setResult i i.total := by
  unfold State.collAdvance
  dsimp only
  rw [hi, hs, hb, ho, if_neg (by simp [hk])] <;> rfl

theorem State.collAdvance_due {d : Nat} (h : s.combineAt (s.coll cid) i = some (d, false)) : s.collAdvance cid k = s := by
  rw [State.collAdvance_eq hi hk hs hb ho, h]

theorem State.collAdvance_passes {d : Nat} (h : s.combineAt (s.coll cid) i = some (d, true)) : Sends (s.putInst { i with sent := true }) (s.collAdvance cid k) := by
  rw [State.collAdvance_eq hi hk hs hb ho, h]
  dsimp only
  split
  · exact .sendImage _ _ _ _ _ _ _ _
  · exact .refl _

theorem State.collAdvance_root (h : s.combineAt (s.coll cid) i = none) : Sends (s.setResult i i.total) (s.collAdvance cid k) := by
  rw [State.collAdvance_eq hi hk hs hb ho, h]
  dsimp only
  split
  · exact .distribute _ _ _ _ _
  · exact .refl _

end

/-! ### Images that arrive -/

/-- The extent of an image is that of its round, or the round takes it on (R336). -/
def CollInst.Fits (i : CollInst) (mext next : Nat) : Prop := (i.own = [] ∧ i.images = [] ∧ i.result = none) ∨ (i.mext = mext ∧ i.next = next)

/-- A round with one image more. -/
def CollInst.withImage (i : CollInst) (smod mext next : Nat) (img : Slot) : CollInst :=
  { i with mext := mext, next := next, images := i.images ++ [(smod, 0, img)] }

theorem CollInst.clash_iff (i : CollInst) (mext next : Nat) :
    (!(i.own.isEmpty && i.images.isEmpty && i.result.isNone) && (decide (i.mext ≠ mext) || decide (i.next ≠ next))) = true ↔ ¬ i.Fits mext next := by
  unfold CollInst.Fits
  simp only [Bool.and_eq_true, Bool.not_eq_true', ← Bool.not_eq_true, Bool.or_eq_true, decide_eq_true_eq, List.isEmpty_iff, Option.isNone_iff_eq_none]
  tauto

theorem State.onColl_image {s : State} {smod cid k mext next : Nat} {img : Slot} (hf : (s.die.net.inst cid k).Fits mext next) :
    s.onColl smod cid k 0 mext next img = ((s.putInst ((s.die.net.inst cid k).withImage smod mext next img)).collAdvance cid k).collTidy cid k := by
  unfold State.onColl
  dsimp only
  rw [if_neg ((CollInst.clash_iff _ _ _).not.mpr (not_not.mpr hf)), if_pos rfl]
  rfl

theorem State.onColl_result {s : State} {smod cid k phase mext next : Nat} {img : Slot} (hf : (s.die.net.inst cid k).Fits mext next) (hp : phase ≠ 0) :
    ∃ u, Sends (s.setResult { s.die.net.inst cid k with mext := mext, next := next } img) u ∧ s.onColl smod cid k phase mext next img = u.collTidy cid k := by
  unfold State.onColl
  dsimp only
  rw [if_neg ((CollInst.clash_iff _ _ _).not.mpr (not_not.mpr hf)), if_neg hp]
  exact ⟨_, .distribute _ _ _ _ _, rfl⟩

theorem State.onColl_clash {s : State} {smod cid k phase mext next : Nat} {img : Slot} (hf : ¬ (s.die.net.inst cid k).Fits mext next) :
    s.onColl smod cid k phase mext next img =
      ((s.putInst { s.die.net.inst cid k with bad := true }).logFault 0x0508 0 0x300 (BitVec.ofNat 32 cid) (BitVec.ofNat 64 k)).collTidy cid k := by
  unfold State.onColl
  exact if_pos ((CollInst.clash_iff _ _ _).mpr hf)

/-- A bad round ends (R336). -/
theorem State.collTidy_bad {s : State} {cid k : Nat} (h : (s.die.net.inst cid k).bad = true) :
    (∀ j ∈ (s.collTidy cid k).die.net.insts, j.coll ≠ cid ∨ j.inst ≠ k) ∧ (s.collTidy cid k).reg 0x6000C = s.reg 0x6000C := by
  unfold State.collTidy
  dsimp only
  rw [h, if_pos (by simp)]
  refine ⟨fun j hj => ?_, rfl⟩
  have := (List.mem_filter.mp hj).2
  simp only [Bool.not_eq_true', Bool.and_eq_false_iff, decide_eq_false_iff_not] at this
  exact this

/-! ### The commands -/

theorem exec_coll {s : State} (smod cid k phase mext next : Nat) (img : Slot) (hl : s.linked = true) (hr : s.collRoom cid k = true) :
    exec (.coll smod cid k phase mext next img) s = .next (s.onColl smod cid k phase mext next img) := if_pos (by simp [hl, hr])

theorem exec_coll_waits {s : State} (smod cid k phase mext next : Nat) (img : Slot) (h : s.linked = false ∨ s.collRoom cid k = false) :
    exec (.coll smod cid k phase mext next img) s = .next s := if_neg (by rcases h with h | h <;> simp [h])

section
variable {s : State} {i : Stn} {f : Flight} (h : s.accHead i 0x13 = some f) (hb : bitAt f.word 61 = true)
include h hb

theorem exec_reduce_joins (hl : s.live = true) (hr : s.collRoom (fld f.word 62 8) (s.nextInst (fld f.word 62 8) i) = true) :
    exec (.reduce i) s = .next ((s.joinColl i f).feedParts 64) := by
  change execReduce i s = _
  unfold execReduce
  rw [h]
  simp [hl, hb, hr]

theorem exec_reduce_waits (hw : s.live = false ∨ s.collRoom (fld f.word 62 8) (s.nextInst (fld f.word 62 8) i) = false) : exec (.reduce i) s = .next s := by
  change execReduce i s = _
  unfold execReduce
  rw [h]
  rcases hw with hw | hw <;> simp [hw, hb]

end

/-- A REDUCE that joins: the station's count goes on and the instruction completes, before the round moves on as it can (R132, R336). -/
def Joined (s : State) (i : Nat) (f : Flight) (t : State) : Prop :=
  t.nextInst (fld f.word 62 8) i = s.nextInst (fld f.word 62 8) i + 1 ∧ t.stn i = (s.stn i).complete f.seq ∧ SameStns s t [i] ∧
    t.die.mesh = s.die.mesh ∧ t.lpddr = s.lpddr

theorem Joined.keeps {s t u : State} {i : Nat} {f : Flight} (h : Joined s i f t) (k : CollKeeps t u) : Joined s i f u := by
  obtain ⟨h1, h2, h3, h4, h5⟩ := h
  obtain ⟨k1, k2, k3, k4⟩ := k
  exact ⟨(k1 _ _).trans h1, (k2 _ List.not_mem_nil).trans h2, fun j hj => (k2 j List.not_mem_nil).trans (h3 j hj), k3.trans h4, k4.trans h5⟩

theorem State.nextInst_of_mset {s : State} {m : SMap Nat} {c st v : Nat} (h : s.die.net.instNext = mset (fun _ => 0) m (instKey c st) v) :
    s.nextInst c st = v := by
  unfold State.nextInst
  rw [h]
  exact mget_mset_same _ _ _ _

/-- Whatever joins, the count of the station goes on. -/
theorem Joined.setStn (s : State) (i : Nat) (f : Flight) (j : CollInst) :
    Joined s i f (((s.setNet { s.die.net with instNext := mset (fun _ => (0 : Nat)) s.die.net.instNext (instKey (fld f.word 62 8) i) (s.nextInst (fld f.word 62 8) i + 1) }).putInst
      j).setStn i ((s.stn i).complete f.seq)) := by
  refine ⟨State.nextInst_of_mset (m := s.die.net.instNext) rfl, (State.stn_setStn _ _ _ _).trans (if_pos rfl), fun j hj => ?_, rfl, rfl⟩
  exact (State.stn_setStn _ _ _ _).trans (if_neg (List.ne_of_not_mem_cons hj))

theorem CollKeeps.logIf (s : State) (c : Bool) (code step unit : Nat) (d0 : Word) (d1 : BitVec 64) :
    CollKeeps s (if c then s.logFault code step unit d0 d1 else s) := by
  split
  · exact .logFault _ _ _ _ _ _
  · exact (CollStep.refl s).keeps

/-- What a round does that a REDUCE has joined. -/
theorem CollKeeps.acts (s : State) (b : Bool) (o : Option Slot) (c : CollDef) (j : CollInst) (cid k : Nat) :
    CollKeeps s (if b then (match o with | some r => (s.setResult j r).distribute c j r 3 | none => s) else s.collAdvance cid k) := by
  split
  · split
    · exact ((CollStep.setResult _ _ _).trans (Sends.distribute _ _ _ _ _).collStep).keeps
    · exact (CollStep.refl s).keeps
  · exact (CollStep.collAdvance _ _ _).keeps

theorem Joined.joinColl (s : State) (i : Nat) (f : Flight) : Joined s i f (s.joinColl i f) := by
  unfold State.joinColl
  dsimp only
  generalize hu : State.setStn (State.putInst (State.setNet s _) _) i _ = u
  have joined : Joined s i f u := by
    rw [← hu]
    exact .setStn s i f _
  refine Joined.keeps ?_ (CollStep.collTidy _ _ _).keeps
  exact (joined.keeps (.logIf u _ _ _ _ _ _)).keeps (.acts _ _ _ _ _ _ _)

/-! ### Results -/

theorem exec_collectiveResultWrite {s : State} {i : Stn} (hl : s.live = true) :
    exec (.collectiveResultWrite i) s = .next (((if (s.feedResult i).adds i then (s.feedResult i).addArrived i true else s.feedResult i)).feedParts 64) := if_pos hl

theorem exec_collectiveResultWrite_dead {s : State} {i : Stn} (hl : s.live = false) : exec (.collectiveResultWrite i) s = .next s := if_neg (by simp [hl])

theorem State.works_of_live {s : State} (h : s.live = true) : s.works = true := by
  unfold State.live at h
  unfold State.works
  simp_all

/-- A sleeping station adds nothing. -/
theorem State.adds_eq {s : State} {i : Nat} (hl : s.live = true) : s.adds i = !(s.stn i).sleeps := by
  unfold State.adds Station.sleeps
  rw [State.works_of_live hl]
  cases (s.stn i).ctl.run <;> rfl

section
variable {s : State} {i : Nat} {j : CollInst} {r : Slot} {d : Nat × Nat}
  (hj : s.die.net.insts.find? (fun j => j.result.isSome && j.due.any (fun d => decide (d.1 = i))) = some j)
include hj

theorem State.feedResult_sleeps (hs : (s.stn i).sleeps = true) : s.feedResult i = s.requestWake i := by
  unfold State.feedResult
  rw [hj]
  exact if_pos (by simpa [Station.sleeps] using hs)

theorem State.feedResult_enters (hs : (s.stn i).sleeps = false) (hroom : (s.stn i).arriveRoom = true) (hr : j.result = some r)
    (hd : j.due.find? (fun d => decide (d.1 = i)) = some d) :
    CollStep (s.setStn i { s.stn i with arrive := (s.stn i).arrive ++ [resultTile (s.coll j.coll) j d.2 r] }) (s.feedResult i) := by
  unfold State.feedResult
  rw [hj]
  dsimp only
  rw [if_neg (by simpa [Station.sleeps] using hs), if_neg (by simp [hroom]), hd, hr]
  exact (CollStep.putInst _ _).trans (.collTidy _ _ _)

end

theorem State.feedResult_none {s : State} {i : Nat} (h : ∀ j ∈ s.die.net.insts, ∀ d ∈ j.due, d.1 ≠ i) : s.feedResult i = s := by
  have none_due : s.die.net.insts.find? (fun j => j.result.isSome && j.due.any (fun d => decide (d.1 = i))) = none := by
    rw [List.find?_eq_none]
    intro j hj
    have := h j hj
    simp only [Bool.and_eq_true, List.any_eq_true, decide_eq_true_eq]
    rintro ⟨-, d, hd, e⟩
    exact this d hd e
  unfold State.feedResult
  rw [none_due]

/-- A request for wake is a request, and nothing of the arrival buffer or the slots. -/
theorem State.requestWake_wakeReq {s : State} {i : Nat} (h1 : (s.stn i).ctl.run = .asleep) (h2 : (s.stn i).ctl.admitted = false) :
    ((s.requestWake i).stn i).ctl.wakeReq = true := by
  cases h3 : (s.stn i).ctl.wakeReq with
  | true => rw [State.requestWake_idle (.inr (.inl h3)), h3]
  | false => rw [(State.requestWake_asked h1 h3 h2).1]

/-- A result at the head of the arrival buffer is written to its slot, and its token given (R338). -/
theorem State.addArrived_result {s : State} {i : Nat} {tl : Tile} {rest : List Tile} {tok : Nat} (h : (s.stn i).arrive = tl :: rest) (hw : tl.write = true)
    (ht : tl.rtok = some tok) (hf : (s.stn i).slotsFree i false tl.named = true) :
    s.addArrived i true = ((s.setStn i { s.stn i with arrive := rest }).addToSlots i tl).giveToken i tok := by
  unfold State.addArrived
  dsimp only
  rw [h]
  dsimp only
  rw [if_pos ⟨hw, hf⟩, ht, hw]
  rfl

/-- What is not a result, or whose slots are not free, stays at the head. -/
theorem State.addArrived_stays {s : State} {i : Nat} {tl : Tile} {rest : List Tile} (h : (s.stn i).arrive = tl :: rest)
    (hn : tl.write = false ∨ (s.stn i).slotsFree i false tl.named = false) : s.addArrived i true = s := by
  unfold State.addArrived
  dsimp only
  rw [h]
  exact if_neg (by rcases hn with hn | hn <;> simp [hn])

/-! ### An image of another member -/

section
variable {s : State} {smod cid k mext next : Nat} {img : Slot} (hf : (s.die.net.inst cid k).Fits mext next)
include hf

/-- While a contribution of this module is missing the image is kept (R335, R337). -/
theorem State.onColl_kept (hb : (s.die.net.inst cid k).bad = false) (ho : s.ownIn (s.coll cid) (s.die.net.inst cid k) = false) :
    InstBecomes s cid k ((s.die.net.inst cid k).withImage smod mext next img) (s.onColl smod cid k 0 mext next img) := by
  obtain ⟨hc, hk⟩ := s.die.net.inst_key cid k
  have put : (s.putInst ((s.die.net.inst cid k).withImage smod mext next img)).die.net.inst cid k = (s.die.net.inst cid k).withImage smod mext next img :=
    Net.inst_putInst hc hk
  rw [State.onColl_image hf, State.collAdvance_waits put ho]
  exact State.collTidy_stays (.putInst s _) put hb (.inr (.inr ho))

variable (hb : (s.die.net.inst cid k).bad = false) (ho : s.ownIn (s.coll cid) (s.die.net.inst cid k) = true) (hk3 : (s.coll cid).kind ≠ 3)
  (hs : (s.die.net.inst cid k).sent = false)
include hb ho hk3 hs

theorem State.onColl_due {d : Nat} (h : s.combineAt (s.coll cid) ((s.die.net.inst cid k).withImage smod mext next img) = some (d, false)) :
    InstBecomes s cid k ((s.die.net.inst cid k).withImage smod mext next img) (s.onColl smod cid k 0 mext next img) := by
  obtain ⟨hc, hk⟩ := s.die.net.inst_key cid k
  have put : (s.putInst ((s.die.net.inst cid k).withImage smod mext next img)).die.net.inst cid k = (s.die.net.inst cid k).withImage smod mext next img :=
    Net.inst_putInst hc hk
  rw [State.onColl_image hf, State.collAdvance_due put hk3 hs hb ho h]
  exact State.collTidy_stays (.putInst s _) put hb (.inl hs)

variable (hd : (s.die.net.inst cid k).due ≠ [])
include hd

theorem State.onColl_passes {d : Nat} (h : s.combineAt (s.coll cid) ((s.die.net.inst cid k).withImage smod mext next img) = some (d, true)) :
    InstBecomes s cid k { (s.die.net.inst cid k).withImage smod mext next img with sent := true } (s.onColl smod cid k 0 mext next img) := by
  obtain ⟨hc, hk⟩ := s.die.net.inst_key cid k
  have put : (s.putInst ((s.die.net.inst cid k).withImage smod mext next img)).die.net.inst cid k = (s.die.net.inst cid k).withImage smod mext next img :=
    Net.inst_putInst hc hk
  have sends := State.collAdvance_passes put hk3 hs hb ho h
  rw [State.onColl_image hf]
  exact State.collTidy_stays (((CollStep.putInst s _).trans (.putInst _ _)).trans sends.collStep) ((sends.inst cid k).trans (Net.inst_putInst hc hk)) hb (.inr (.inl hd))

theorem State.onColl_root (h : s.combineAt (s.coll cid) ((s.die.net.inst cid k).withImage smod mext next img) = none) :
    InstBecomes s cid k { (s.die.net.inst cid k).withImage smod mext next img with sent := true, result := some ((s.die.net.inst cid k).withImage smod mext next img).total }
      (s.onColl smod cid k 0 mext next img) := by
  obtain ⟨hc, hk⟩ := s.die.net.inst_key cid k
  have put : (s.putInst ((s.die.net.inst cid k).withImage smod mext next img)).die.net.inst cid k = (s.die.net.inst cid k).withImage smod mext next img :=
    Net.inst_putInst hc hk
  have sends := State.collAdvance_root put hk3 hs hb ho h
  rw [State.onColl_image hf]
  exact State.collTidy_stays (((CollStep.putInst s _).trans (.setResult _ _ _)).trans sends.collStep) ((sends.inst cid k).trans (Net.inst_putInst hc hk)) hb (.inr (.inl hd))

end

/-- A result that is due here is kept. -/
theorem State.onColl_taken {s : State} {smod cid k phase mext next : Nat} {img : Slot} (hf : (s.die.net.inst cid k).Fits mext next) (hp : phase ≠ 0)
    (hb : (s.die.net.inst cid k).bad = false) (hd : (s.die.net.inst cid k).due ≠ [] ∨ s.ownIn (s.coll cid) (s.die.net.inst cid k) = false) :
    InstBecomes s cid k { s.die.net.inst cid k with mext := mext, next := next, result := some img, sent := true } (s.onColl smod cid k phase mext next img) := by
  obtain ⟨hc, hk⟩ := s.die.net.inst_key cid k
  obtain ⟨u, sends, e⟩ := State.onColl_result (img := img) (smod := smod) hf hp
  rw [e]
  exact State.collTidy_stays ((CollStep.setResult s _ _).trans sends.collStep) ((sends.inst cid k).trans (Net.inst_putInst hc hk)) hb (.inr hd)

/-- An image of another extent is logged, and its round ends (R336). -/
theorem State.onColl_ends {s : State} {smod cid k phase mext next : Nat} {img : Slot} (hf : ¬ (s.die.net.inst cid k).Fits mext next) :
    let t := s.onColl smod cid k phase mext next img
    (∀ j ∈ t.die.net.insts, j.coll ≠ cid ∨ j.inst ≠ k) ∧ t.reg 0x6000C = s.reg 0x6000C + 1 ∧ SameStns s t [] ∧ t.die.mesh = s.die.mesh ∧ t.lpddr = s.lpddr := by
  obtain ⟨hc, hk⟩ := s.die.net.inst_key cid k
  obtain ⟨-, hstns, hm, hl⟩ := CollKeeps.onColl s smod cid k phase mext next img
  have put : (s.putInst { s.die.net.inst cid k with bad := true }).die.net.inst cid k = { s.die.net.inst cid k with bad := true } := Net.inst_putInst hc hk
  dsimp only
  rw [State.onColl_clash hf] at hstns hm hl ⊢
  obtain ⟨gone, same⟩ := State.collTidy_bad
    (s := (s.putInst { s.die.net.inst cid k with bad := true }).logFault 0x0508 0 0x300 (BitVec.ofNat 32 cid) (BitVec.ofNat 64 k)) (cid := cid) (k := k)
    (by rw [State.net_logFault, put])
  exact ⟨gone, same.trans (State.wr_logFault _ _ _ _ _ _), hstns, hm, hl⟩

/-! ### A result that is written -/

/-- The station whose result is at the head of its arrival buffer. -/
theorem State.resultWritten {s : State} {i : Nat} {tl : Tile} {rest : List Tile} {tok : Nat} (hw : tl.write = true) :
    let t := ((s.setStn i { s.stn i with arrive := rest }).addToSlots i tl).giveToken i tok
    (t.stn i).arrive = rest ∧ (t.stn i).slots = writeResult (s.stn i).slots tl ∧
    (bitAt (s.stn i).tokens tok = false → (t.stn i).tokens = putBit (s.stn i).tokens tok true ∧ SameRegs s t [pageBase i + 0x14C]) ∧
    (bitAt (s.stn i).tokens tok = true → (t.stn i).tokens = (s.stn i).tokens) ∧
    (t.stn i).pm = (s.stn i).pm ∧ (t.stn i).banks = (s.stn i).banks ∧ OnlyChanges s t [pageBase i + 0x14C, pageBase i + 0x154] [i] := by
  have added : OnlyChanges s ((s.setStn i { s.stn i with arrive := rest }).addToSlots i tl) [pageBase i + 0x14C] [i] :=
    (OnlyChanges.setStn _ _ _ _ _ (List.mem_singleton_self i)).trans (State.addToSlots_only _ _ _)
  have stn : ((s.setStn i { s.stn i with arrive := rest }).addToSlots i tl).stn i = { s.stn i with arrive := rest, slots := writeResult (s.stn i).slots tl } := by
    rw [State.stn_addToSlots, State.stn_setStn, if_pos rfl]
    unfold Tile.applied
    rw [hw]
    rfl
  generalize (s.setStn i { s.stn i with arrive := rest }).addToSlots i tl = u at added stn
  obtain ⟨uregs, ustns, ucore⟩ := added
  have both : OnlyChanges s u [pageBase i + 0x14C, pageBase i + 0x154] [i] := ⟨fun a ha => uregs a (by simp_all), ustns, ucore⟩
  dsimp only
  cases ht : bitAt (s.stn i).tokens tok with
  | true =>
    have e : u.giveToken i tok = u.bump (pageBase i + 0x154) 1 := by
      unfold State.giveToken State.pbump
      exact if_pos (by rw [stn]; exact ht)
    rw [e, State.stn_bump, stn]
    exact ⟨rfl, rfl, nofun, fun _ => rfl, rfl, rfl, both.bump 1 (by simp)⟩
  | false =>
    have e : u.giveToken i tok = u.setStn i { u.stn i with tokens := putBit (u.stn i).tokens tok true } := State.stn_giveToken_absent (by rw [stn]; exact ht)
    rw [e, State.stn_setStn, if_pos rfl, stn]
    exact ⟨rfl, rfl, fun _ => ⟨rfl, uregs⟩, nofun, rfl, rfl, both.trans (OnlyChanges.setStn _ _ _ _ _ (List.mem_singleton_self i))⟩

end Sys2Proof.Machine

namespace Sys2Proof
open Machine

/-- Settles O41: a REDUCE that joins through `Joined`, the images through `State.collAdvance`, the results through `State.feedResult` and the arrival buffer. -/
theorem collectivesCombine : Obligations.CollectivesCombine := by
  refine fun s => ⟨fun i f h hb => ⟨fun hl hr => ?_, exec_reduce_waits h hb⟩, fun smod cid k phase mext next img => ⟨fun hl hr hb => ⟨?_, ?_, ?_⟩, fun hl hr hf => ?_, ?_⟩,
    fun i hl => ⟨fun j r d hj hr hd => ⟨fun hs => ?_, fun hs hroom hhead hfirst => ?_⟩, fun tl rest tok hdue hparts ha hw ht => ⟨fun hs hfree => ?_, fun hs => ?_⟩⟩, fun i hl => ?_⟩
  · obtain ⟨hnext, hstn, hstns, hm, hlp⟩ := (Joined.joinColl s i f).keeps (.feedParts _ 64)
    refine runs_of (exec_reduce_joins h hb hl hr) ⟨hnext, ?_, ?_, ?_, hm, hstns, hlp⟩
    all_goals rw [hstn]; simp
  · rintro hf rfl ho
    exact runs_of (exec_coll _ _ _ _ _ _ _ hl hr) (State.onColl_kept hf hb ho)
  · rintro hf rfl ho hk hs hd
    refine ⟨fun d hc => ?_, fun d hc => ?_, fun hc => ?_⟩
    · exact runs_of (exec_coll _ _ _ _ _ _ _ hl hr) (State.onColl_due hf hb ho hk hs hc)
    · exact runs_of (exec_coll _ _ _ _ _ _ _ hl hr) (State.onColl_passes hf hb ho hk hs hd hc)
    · exact runs_of (exec_coll _ _ _ _ _ _ _ hl hr) (State.onColl_root hf hb ho hk hs hd hc)
  · exact fun hf hp hd => runs_of (exec_coll _ _ _ _ _ _ _ hl hr) (State.onColl_taken hf hp hb hd)
  · exact runs_of (exec_coll _ _ _ _ _ _ _ hl hr) (State.onColl_ends hf)
  · exact exec_coll_waits _ _ _ _ _ _ _
  · have wakes := State.feedResult_sleeps hj hs
    obtain ⟨⟨w, wstn⟩, -, wstns, wl, -, -⟩ := s.requestWake_frame i
    have live : (s.requestWake i).live = true := by
      unfold State.requestWake
      dsimp only
      split <;> exact hl
    have sleeps : (s.requestWake i).adds i = false := by
      rw [State.adds_eq live, wstn]
      exact congrArg (!·) hs
    obtain ⟨-, fstns, -, fl⟩ := CollKeeps.feedParts (s.requestWake i) 64
    have run : exec (.collectiveResultWrite i) s = .next ((s.requestWake i).feedParts 64) := by
      rw [exec_collectiveResultWrite hl, wakes, sleeps]
      rfl
    refine runs_of run ⟨?_, ?_, fun h1 h2 => ?_, fun j hj => ?_, fl.trans wl⟩
    · rw [fstns _ List.not_mem_nil, wstn]
    · rw [fstns _ List.not_mem_nil, wstn]
    · rw [fstns _ List.not_mem_nil]
      exact State.requestWake_wakeReq h1 h2
    · exact (fstns j List.not_mem_nil).trans (wstns j hj)
  · have enters := State.feedResult_enters hj hs hroom hr hd
    have ustn : (s.feedResult i).stn i = { s.stn i with arrive := (s.stn i).arrive ++ [resultTile (s.coll j.coll) j d.2 r] } :=
      (enters.keeps.2.1 _ List.not_mem_nil).trans ((State.stn_setStn _ _ _ _).trans (if_pos rfl))
    have stays : (s.feedResult i).addArrived i true = s.feedResult i := by
      cases ha : (s.stn i).arrive with
      | nil =>
        refine State.addArrived_stays (tl := resultTile (s.coll j.coll) j d.2 r) (rest := []) (by rw [ustn, ha]; rfl) (.inr ?_)
        rw [ustn]
        exact hfirst ha
      | cons tl rest => exact State.addArrived_stays (tl := tl) (by rw [ustn, ha]; rfl) (.inl (hhead tl (by simp [ha])))
    have run : exec (.collectiveResultWrite i) s = .next ((s.feedResult i).feedParts 64) := by
      rw [exec_collectiveResultWrite hl, stays, ite_self]
    obtain ⟨-, estns, -, el⟩ := enters.keeps
    obtain ⟨-, fstns, -, fl⟩ := CollKeeps.feedParts (s.feedResult i) 64
    refine runs_of run ⟨?_, ?_, fun hp => ?_, fun j hj => ?_, fl.trans el⟩
    · rw [fstns _ List.not_mem_nil, ustn]
    · rw [fstns _ List.not_mem_nil, ustn]
    · rw [State.feedParts_nil (enters.parts.trans hp)]
      exact enters.regs
    · exact (fstns j List.not_mem_nil).trans ((estns j List.not_mem_nil).trans (by rw [State.stn_setStn, if_neg (List.ne_of_not_mem_cons hj)]))
  · have nothing : s.feedResult i = s := State.feedResult_none hdue
    have run : exec (.collectiveResultWrite i) s = .next (((s.setStn i { s.stn i with arrive := rest }).addToSlots i tl).giveToken i tok) := by
      rw [exec_collectiveResultWrite hl, nothing, State.adds_eq hl, hs, State.addArrived_result ha hw ht hfree]
      refine congrArg _ (State.feedParts_nil ?_ 64)
      obtain ⟨-, -, -, -, -, -, -, -, core⟩ := State.resultWritten (s := s) (i := i) (rest := rest) (tok := tok) hw
      exact (congrArg (fun c : State => c.die.net.parts) core).trans hparts
    exact runs_of run (State.resultWritten hw)
  · have nothing : s.feedResult i = s := State.feedResult_none hdue
    have stays : (if s.adds i then s.addArrived i true else s) = s := by
      rcases hs with hs | hs
      · rw [State.adds_eq hl, hs]
        rfl
      · rw [State.addArrived_stays ha (.inr hs), ite_self]
    rw [exec_collectiveResultWrite hl, nothing, stays, State.feedParts_nil hparts]
  · exact exec_collectiveResultWrite_dead hl

end Sys2Proof
end

section
/-! PROOFS. BAR2 accesses (O55): an access that a station serves, one that waits for a sleeping station, and its time limit. -/
namespace Sys2Proof.Machine

/-! ### Serving -/

theorem OnlyChanges.mono {s t : State} {r l r' l' : List Nat} (h : OnlyChanges s t r l) (hr : ∀ a ∈ r, a ∈ r') (hl : ∀ j ∈ l, j ∈ l') : OnlyChanges s t r' l' :=
  ⟨fun a ha => h.1 a (fun m => ha (hr a m)), fun j hj => h.2.1 j (fun m => hj (hl j m)), h.2.2⟩

theorem OnlyChanges.out {s t : State} {r l : List Nat} (h : OnlyChanges s t r l) : t.out = s.out := show t.core.out = s.core.out from congrArg State.out h.2.2

/-- BUSY and BCONF4 after an access that met collisions and refusals (R93, R94). -/
def State.portMet (s : State) (i off busy refused : Nat) : State :=
  if off < 0x100000 then (s.countBusy i busy).countRefused i [(4, refused)] else s

/-- What an access raises of BUSY and of BCONF4 (R93, R94). -/
def PortCounts (s : State) (i off busy refused : Nat) (t : State) : Prop :=
  t.reg (0x204000 + 4 * i) = (if off < 0x100000 ∧ 0 < busy then satAdd (s.reg (0x204000 + 4 * i)) busy else s.reg (0x204000 + 4 * i)) ∧
  t.reg (pageBase i + 0x138) = (if off < 0x100000 ∧ 0 < refused then satAdd (s.reg (pageBase i + 0x138)) refused else s.reg (pageBase i + 0x138))

theorem State.portMet_none (s : State) {i off : Nat} (busy refused : Nat) (h : 0x100000 ≤ off) : s.portMet i off busy refused = s := if_neg (Nat.not_lt.mpr h)

theorem State.countBusy_eq (s : State) (i n : Nat) : s.countBusy i n = if 0 < n then s.bump (0x204000 + 4 * i) n else s := by
  unfold State.countBusy
  cases n <;> rfl

theorem State.countRefused_eq (s : State) (i n : Nat) : s.countRefused i [(4, n)] = if 0 < n then s.bump (pageBase i + 0x138) n else s := by
  unfold State.countRefused State.pbump
  cases n <;> rfl

theorem State.portMet_spec (s : State) (i off busy refused : Nat) (hi : i < 128) :
    PortCounts s i off busy refused (s.portMet i off busy refused) ∧ OnlyChanges s (s.portMet i off busy refused) [0x204000 + 4 * i, pageBase i + 0x138] [] := by
  have ne : 0x204000 + 4 * i ≠ pageBase i + 0x138 := by unfold pageBase; omega
  have count {t : State} (a n : Nat) (ha : a ∈ [0x204000 + 4 * i, pageBase i + 0x138]) (h : OnlyChanges s t [0x204000 + 4 * i, pageBase i + 0x138] []) :
      OnlyChanges s (if 0 < n then t.bump a n else t) [0x204000 + 4 * i, pageBase i + 0x138] [] := by
    split
    · exact h.bump n ha
    · exact h
  unfold State.portMet PortCounts
  by_cases h : off < 0x100000
  · rw [if_pos h, State.countRefused_eq, State.countBusy_eq]
    refine ⟨⟨?_, ?_⟩, count _ _ (by simp) (count _ _ (by simp) (OnlyChanges.refl s _ _))⟩
    · by_cases hb : 0 < busy <;> by_cases hr : 0 < refused <;> simp [h, hb, hr, ne]
    · by_cases hb : 0 < busy <;> by_cases hr : 0 < refused <;> simp [h, hb, hr, ne.symm]
  · rw [if_neg h]
    exact ⟨⟨by simp [h], by simp [h]⟩, OnlyChanges.refl s _ _⟩

/-- A read served (R431): the completion, whatever was drawn for it. -/
theorem State.serveBar2_read (s : State) (i off n busy refused : Nat) (hi : i < 128) :
    ∃ m bs, s.serveBar2 i off n none busy refused = ({ s.portMet i off busy refused with free := m } : State).emit (.completion 0 false bs) ∧ bs.length = n ∧
      (busy = 0 → bs = (List.range n).map (fun k => (s.stn i).winByte (off + k))) ∧
      (busy < 2 → ∀ k, k < n → off + k < 0x100000 → bs[k]? = some (mget byte0 (s.stn i).pm (off + k))) := by
  obtain ⟨-, -, stns, -⟩ := s.portMet_spec i off busy refused hi
  have stn : (s.portMet i off busy refused).stn i = s.stn i := stns i List.not_mem_nil
  unfold State.serveBar2
  have met : (if off < 0x100000 then (s.countBusy i busy).countRefused i [(4, refused)] else s) = s.portMet i off busy refused := rfl
  dsimp only
  rw [met, stn]
  obtain ⟨m, hm⟩ := (s.portMet i off busy refused).mixWords_state i (if 2 ≤ busy then winWords off n else [])
  have clean (h : busy < 2) : ((s.portMet i off busy refused).mixWords i (if 2 ≤ busy then winWords off n else [])).1 = (s.stn i).pm := by
    rw [if_neg (Nat.not_le.mpr h), ← stn]
    rfl
  by_cases h0 : busy = 0
  · rw [if_pos h0]
    refine ⟨m, _, congrArg (fun t : State => t.emit _) hm, by simp [Station.winRead], fun _ => ?_, fun h k hk ho => ?_⟩
    · rw [clean (by omega)]
      refine List.map_congr_left (fun k _ => ?_)
      unfold Station.winByte
      dsimp only
      split <;> rfl
    · rw [clean h]
      simp [Station.winRead, hk, ho]
  · rw [if_neg h0]
    refine ⟨m + 1, _, congrArg (fun t : State => t.fresh.2.emit _) hm, by simp [Station.winRead], fun h => absurd h h0, fun h k hk ho => ?_⟩
    rw [clean h]
    simp [Station.winRead, hk, ho]

/-- A write served (R431): to the slots of a station that is not stopped it is discarded and counted, beside its bytes of platform memory. -/
theorem State.serveBar2_write (s : State) (i off n : Nat) (bs : List Byte) (busy refused : Nat) (hi : i < 128) :
    s.serveBar2 i off n (some bs) busy refused =
      if winSlots off bs.length = true ∧ (s.stn i).ctl.run ≠ .stopped then
        ((s.portMet i off busy refused).setStn i ((s.stn i).putWinPm off bs)).bump 0x54004 1
      else (s.portMet i off busy refused).setStn i ((s.stn i).putWin off bs) := by
  obtain ⟨-, -, stns, -⟩ := s.portMet_spec i off busy refused hi
  have stn : (s.portMet i off busy refused).stn i = s.stn i := stns i List.not_mem_nil
  rw [← stn]
  unfold State.serveBar2
  exact if_congr (by simp [State.portMet]) rfl rfl

/-! ### The bytes of a write -/

theorem mget_windowFold (m : SMap Byte) (off : Nat) (bs : List Byte) (j : Nat) :
    mget byte0 (((List.range bs.length).zip bs).foldl (fun m p => if off + p.1 < 0x100000 then mset byte0 m (off + p.1) p.2 else m) m) j =
      if off ≤ j ∧ j < off + bs.length ∧ j < 0x100000 then bs.getD (j - off) 0 else mget byte0 m j := by
  induction bs using List.reverseRecOn with
  | nil => simp; omega
  | append_singleton bs b ih =>
    rw [List.length_append, List.length_singleton, List.range_succ, List.zip_append (by simp), List.foldl_append]
    generalize ((List.range bs.length).zip bs).foldl (fun m p => if off + p.1 < 0x100000 then mset byte0 m (off + p.1) p.2 else m) m = q at ih
    simp only [List.zip_cons_cons, List.zip_nil_right, List.foldl_cons, List.foldl_nil]
    by_cases hj : j = off + bs.length
    · subst hj
      split
      · rw [mget_mset_same, if_pos (by omega)]
        simp
      · rw [ih, if_neg (by omega), if_neg (by omega)]
    · have older : mget byte0 (if off + bs.length < 0x100000 then mset byte0 q (off + bs.length) b else q) j = mget byte0 q j := by
        split
        · exact mget_mset_other _ _ _ hj
        · rfl
      rw [older, ih]
      by_cases h : off ≤ j ∧ j < off + bs.length ∧ j < 0x100000
      · rw [if_pos h, if_pos (by omega), List.getD_append _ _ _ _ (by omega)]
      · rw [if_neg h, if_neg (by omega)]

theorem Station.pm_putWinPm (x : Station) (off : Nat) (bs : List Byte) (j : Nat) :
    mget byte0 (x.putWinPm off bs).pm j = if off ≤ j ∧ j < off + bs.length ∧ j < 0x100000 then bs.getD (j - off) 0 else mget byte0 x.pm j :=
  mget_windowFold x.pm off bs j

/-- A range of offsets outside a part of the window touches nothing of it. -/
theorem touched_eq_nil {lo hi size off n : Nat} (h : off + n ≤ lo ∨ hi ≤ off) : touched lo hi size off n = [] := by
  have none_in : ((List.range n).map (fun i => off + i)).filter (fun o => decide (lo ≤ o) && decide (o < hi)) = [] := by
    rw [List.filter_eq_nil_iff]
    rintro o ho
    obtain ⟨k, hk, rfl⟩ := List.mem_map.mp ho
    have := List.mem_range.mp hk
    simp only [Bool.and_eq_true, decide_eq_true_eq, not_and]
    omega
  unfold touched
  rw [none_in]
  rfl

/-- A write that reaches no slot writes platform memory alone (R430, R431). -/
theorem Station.putWin_platform (x : Station) {off : Nat} {bs : List Byte} (h : winSlots off bs.length = false) : x.putWin off bs = x.putWinPm off bs := by
  simp only [winSlots, Bool.and_eq_false_iff, decide_eq_false_iff_not] at h
  unfold Station.putWin
  rw [touched_eq_nil (by omega), touched_eq_nil (by omega)]
  rfl

/-- The eight bytes of an entry touch its block alone. -/
theorem touched_entry {off : Nat} (h1 : 0x100000 ≤ off) (h2 : off < 0x180000) (h8 : off % 8 = 0) : touched 0x100000 0x180000 8 off 8 = [off] := by
  have block (k : Nat) (hk : k < 8) : (off + k) / 8 * 8 = off := by omega
  have all : ((List.range 8).map (fun i => off + i)).filter (fun o => decide (0x100000 ≤ o) && decide (o < 0x180000)) = (List.range 8).map (fun i => off + i) := by
    rw [List.filter_eq_self]
    rintro o ho
    obtain ⟨k, hk, rfl⟩ := List.mem_map.mp ho
    have := List.mem_range.mp hk
    simp only [Bool.and_eq_true, decide_eq_true_eq]
    omega
  unfold touched
  rw [all, List.map_map]
  have same : (List.range 8).map ((fun o => o / 8 * 8) ∘ (fun i => off + i)) = List.replicate 8 off := by
    rw [List.eq_replicate_iff]
    refine ⟨rfl, fun b hb => ?_⟩
    obtain ⟨k, hk, rfl⟩ := List.mem_map.mp hb
    exact block k (List.mem_range.mp hk)
  rw [same]
  simp [List.replicate]

/-- Bytes laid over the whole of their block are the block. -/
theorem Station.laid_whole (x : Station) (off : Nat) {bs : List Byte} {n : Nat} (h : bs.length = n) : x.laid off n off bs = bs := by
  unfold Station.laid
  apply List.ext_getElem (by simp [h])
  intro k h1 h2
  simp [h2]

/-- An entry written at a stopped station: its code is set, its W cleared (R431). -/
theorem Station.putWin_entry (x : Station) {off : Nat} {bs : List Byte} (h1 : 0x100000 ≤ off) (h2 : off < 0x180000) (h8 : off % 8 = 0) (hl : bs.length = 8) :
    ((x.putWin off bs).slot ((off - 0x100000) / 0x2000)).entry (off % 0x2000 / 512) (off % 512 / 8) = ⟨BitVec.ofNat 48 (leNat (bs.take 6)), 0⟩ ∧
      (x.putWin off bs).pm = x.pm := by
  have still : ((List.range bs.length).zip bs).foldl (fun m p => if off + p.1 < 0x100000 then mset byte0 m (off + p.1) p.2 else m) x.pm = x.pm := by
    generalize (List.range bs.length).zip bs = l
    induction l with
    | nil => rfl
    | cons p r ih => rw [List.foldl_cons, if_neg (by omega), ih]
  unfold Station.putWin
  rw [hl, touched_entry h1 h2 h8, touched_eq_nil (lo := 0x180000) (.inl (by omega))]
  simp only [List.foldl_cons, List.foldl_nil]
  unfold Station.putWinEntry
  dsimp only
  rw [Station.slot_setSlot, if_pos rfl, Station.laid_whole _ _ hl]
  refine ⟨?_, still⟩
  unfold Slot.entry Slot.setEntry
  exact mget_mset_same _ _ _ _

/-! ### The commands -/

section
variable {s : State} {i : Stn} {off : Fin 4194304} {n : Fin 65} {busy : Fin 3} {refused : Nat}

theorem exec_bar2Access_down (w : Option (List Byte)) (h : s.endpointUp = false) : exec (.bar2Access i off n w ⟨busy, refused⟩) s = .next s :=
  if_neg (by simp [h])

theorem exec_bar2Access_ended (w : Option (List Byte)) (hu : s.endpointUp = true) (h : s.aborting = true ∨ s.memServed = false) :
    exec (.bar2Access i off n w ⟨busy, refused⟩) s =
      .next (if w.isNone then s.leaveL1.emit (.completion (if s.aborting then 4 else 1) false []) else s.leaveL1) :=
  (if_pos hu).trans (if_pos (by simpa using h))

variable (hu : s.endpointUp = true) (ha : s.aborting = false) (hm : s.memServed = true)
include hu ha hm

theorem exec_bar2Access_served (w : Option (List Byte)) (hs : (s.stn i).sleeps = false) :
    exec (.bar2Access i off n w ⟨busy, refused⟩) s = .next (s.leaveL1.serveBar2 i off n (w.map (·.take n)) busy refused) :=
  (if_pos hu).trans ((if_neg (by simp [ha, hm])).trans (if_neg (by simp [hs])))

theorem exec_bar2Access_held (w : Option (List Byte)) (hs : (s.stn i).sleeps = true) :
    let f : Flit := ⟨pcieNode, i, pcieNode, s.uptime, none, .bar2 off n (w.map (·.take n))⟩
    exec (.bar2Access i off n w ⟨busy, refused⟩) s = .next ((s.leaveL1.setMesh (s.die.mesh ++ [f])).holdAtRouter i f s.die.mesh) :=
  (if_pos hu).trans ((if_neg (by simp [ha, hm])).trans (if_pos hs))

end

/-- Whether a station that asks for wake joins the queue of the governor (R107). -/
theorem State.wakeQ_requestWake (s : State) (i : Nat) :
    (s.requestWake i).die.wakeQ =
      if (s.stn i).ctl.run = .asleep ∧ (s.stn i).ctl.wakeReq = false ∧ (s.stn i).ctl.admitted = false then s.die.wakeQ ++ [i] else s.die.wakeQ := by
  unfold State.requestWake
  dsimp only
  simp only [Bool.not_eq_true]
  split <;> rfl

/-- What a wake request and an access that waits leave alone. -/
def WaitKeeps (s : State) (i : Nat) (t : State) : Prop :=
  (t.stn i).pm = (s.stn i).pm ∧ t.out = s.out ∧ SameRegs s t [] ∧ SameStns s t [i] ∧ t.lpddr = s.lpddr

theorem State.out_requestWake (s : State) (i : Nat) : (s.requestWake i).out = s.out := by
  unfold State.requestWake
  dsimp only
  split <;> rfl

/-- An access to a sleeping station waits at its router, or behind a full one in the mesh, and wake is asked for (R105, R107, R310). -/
theorem State.holdAtRouter_spec (s : State) (i : Nat) (f : Flit) :
    let t := (s.setMesh (s.die.mesh ++ [f])).holdAtRouter i f s.die.mesh
    ((s.stn i).routerHeld.length < 128 → (t.stn i).routerHeld = (s.stn i).routerHeld ++ [f] ∧ t.die.mesh = s.die.mesh) ∧
    (128 ≤ (s.stn i).routerHeld.length → (t.stn i).routerHeld = (s.stn i).routerHeld ∧ t.die.mesh = s.die.mesh ++ [f]) ∧
    t.die.wakeQ = (if (s.stn i).ctl.run = .asleep ∧ (s.stn i).ctl.wakeReq = false ∧ (s.stn i).ctl.admitted = false then s.die.wakeQ ++ [i] else s.die.wakeQ) ∧
    WaitKeeps s i t := by
  have asks (u : State) (x : Station) (hu : u.stn i = x) (hc : x.ctl = (s.stn i).ctl) (hp : x.pm = (s.stn i).pm) (hq : u.die.wakeQ = s.die.wakeQ) (ho : u.out = s.out)
      (hr : SameRegs s u []) (hs : SameStns s u [i]) (hl : u.lpddr = s.lpddr) :
      ((u.requestWake i).stn i).routerHeld = x.routerHeld ∧ (u.requestWake i).die.mesh = u.die.mesh ∧
      (u.requestWake i).die.wakeQ = (if (s.stn i).ctl.run = .asleep ∧ (s.stn i).ctl.wakeReq = false ∧ (s.stn i).ctl.admitted = false then s.die.wakeQ ++ [i] else s.die.wakeQ) ∧
      WaitKeeps s i (u.requestWake i) := by
    obtain ⟨⟨w, wstn⟩, wregs, wstns, wl, wm, -⟩ := u.requestWake_frame i
    refine ⟨by rw [wstn, hu], wm, by rw [State.wakeQ_requestWake, hu, hc, hq], by rw [wstn, hu]; exact hp, (u.out_requestWake i).trans ho,
      fun a ha => (wregs a ha).trans (hr a ha), fun j hj => (wstns j hj).trans (hs j hj), wl.trans hl⟩
  unfold State.holdAtRouter
  dsimp only
  split
  · rename_i h
    rw [State.stn_setMesh] at h
    obtain ⟨h1, h2, h3, h4⟩ := asks (((s.setMesh (s.die.mesh ++ [f])).setMesh s.die.mesh).setStn i { s.stn i with routerHeld := (s.stn i).routerHeld ++ [f] })
      _ ((State.stn_setStn _ _ _ _).trans (if_pos rfl)) rfl rfl rfl rfl (fun _ _ => rfl) (fun j hj => (State.stn_setStn _ _ _ _).trans (if_neg (List.ne_of_not_mem_cons hj))) rfl
    exact ⟨fun _ => ⟨h1, h2⟩, fun hf => absurd h (Nat.not_lt.mpr hf), h3, h4⟩
  · rename_i h
    rw [State.stn_setMesh] at h
    obtain ⟨h1, h2, h3, h4⟩ := asks (s.setMesh (s.die.mesh ++ [f])) (s.stn i) rfl rfl rfl rfl rfl (fun _ _ => rfl) (fun _ _ => rfl) rfl
    exact ⟨fun hf => absurd hf h, fun _ => ⟨h1, h2⟩, h3, h4⟩

/-! ### The time limit -/

theorem exec_bar2Timeout_none {s : State} {i : Stn}
    (h : s.endpointUp = false ∨ (takeFlit (s.lateBar2 i) (s.stn i).routerHeld = none ∧ takeFlit (s.lateBar2 i) s.die.mesh = none)) :
    exec (.bar2Timeout i) s = .next s := by
  change execBar2Timeout i s = _
  unfold execBar2Timeout
  rcases h with h | ⟨h1, h2⟩
  · exact if_neg (by simp [h])
  · rw [h1, h2]
    exact ite_self _

theorem exec_bar2Timeout_router {s : State} {i : Stn} {f : Flit} {rest : List Flit} (hu : s.endpointUp = true)
    (h : takeFlit (s.lateBar2 i) (s.stn i).routerHeld = some (f, rest)) :
    exec (.bar2Timeout i) s = .next ((s.setStn i { s.stn i with routerHeld := rest }).endBar2 f) := by
  change execBar2Timeout i s = _
  unfold execBar2Timeout
  rw [h]
  exact if_pos hu

theorem exec_bar2Timeout_mesh {s : State} {i : Stn} {f : Flit} {rest : List Flit} (hu : s.endpointUp = true)
    (h : takeFlit (s.lateBar2 i) (s.stn i).routerHeld = none) (hm : takeFlit (s.lateBar2 i) s.die.mesh = some (f, rest)) :
    exec (.bar2Timeout i) s = .next ((s.setMesh rest).endBar2 f) := by
  change execBar2Timeout i s = _
  unfold execBar2Timeout
  rw [h, hm]
  exact if_pos hu

/-- A late read ends with Completer Abort, a late write is discarded and counted (R431). -/
theorem State.endBar2_spec (s : State) {f : Flit} {o m : Nat} {w : Option (List Byte)} (hb : f.body = .bar2 o m w) :
    (w = none → (s.endBar2 f).out = s.out ++ [.completion 4 false []] ∧ SameRegs s (s.endBar2 f) []) ∧
    (w ≠ none → (s.endBar2 f).reg 0x54004 = satAdd (s.reg 0x54004) 1 ∧ (s.endBar2 f).out = s.out ∧ SameRegs s (s.endBar2 f) [0x54004]) ∧
    (∀ j, (s.endBar2 f).stn j = s.stn j) ∧ (s.endBar2 f).die.mesh = s.die.mesh ∧ (s.endBar2 f).lpddr = s.lpddr := by
  unfold State.endBar2
  rw [hb]
  cases w with
  | none => exact ⟨fun _ => ⟨rfl, fun _ _ => rfl⟩, fun h => absurd rfl h, fun _ => rfl, rfl, rfl⟩
  | some bs =>
    have only : OnlyChanges s (s.bump 0x54004 1) [0x54004] [] := (OnlyChanges.refl s _ _).bump 1 (by simp)
    exact ⟨nofun, fun _ => ⟨by simp, only.out, only.1⟩, fun j => State.stn_bump _ _ _ _, only.mesh, only.lpddr⟩

end Sys2Proof.Machine
end

section
/-! PROOFS. BAR4 accesses (O55): what reading lines changes, the bytes of a write, and the cases of the command. -/
namespace Sys2Proof.Machine

/-! ### Lines that are read -/

/-- A fault record only adds to what the module puts out. -/
theorem State.out_logFault (s : State) (code step unit : Nat) (d0 : Word) (d1 : BitVec 64) : ∃ o, (s.logFault code step unit d0 d1).out = s.out ++ o := by
  have signalled (u : State) (v : Nat) : ∃ o, (u.signal v).out = u.out ++ o := by
    unfold State.signal
    dsimp only
    split
    · split
      · exact ⟨[], (List.append_nil _).symm⟩
      · exact ⟨_, rfl⟩
    · exact ⟨[], (List.append_nil _).symm⟩
  unfold State.logFault
  extract_lets wr ws s1 s2 s3 s4
  have before : s3.out = s.out := by
    have h2 : s2.out = s.out := by
      simp only [s2]
      split
      · rw [State.out_bump]
        exact State.out_setRegs s _ _
      · exact State.out_setRegs s _ _
    simpa [s3] using h2
  have printed : ∃ o, s4.out = s.out ++ o := by
    simp only [s4]
    split
    · exact ⟨_, congrArg (· ++ _) before⟩
    · exact ⟨[], before.trans (List.append_nil _).symm⟩
  obtain ⟨o, ho⟩ := printed
  obtain ⟨p, hp⟩ := signalled s4 0
  exact ⟨o ++ p, by rw [hp, ho, List.append_assoc]⟩

/-- What reading a line leaves alone, whatever it finds. -/
structure LineRead (s t : State) : Prop where
  out : ∃ o, t.out = s.out ++ o
  stns : ∀ j, t.stn j = s.stn j
  images : t.images = s.images

theorem LineRead.refl (s : State) : LineRead s s := ⟨⟨[], (List.append_nil _).symm⟩, fun _ => rfl, rfl⟩

theorem LineRead.trans {s t u : State} (h : LineRead s t) (k : LineRead t u) : LineRead s u := by
  obtain ⟨⟨o, ho⟩, hs, hi⟩ := h
  obtain ⟨⟨p, hp⟩, ks, ki⟩ := k
  exact ⟨⟨o ++ p, by rw [hp, ho, List.append_assoc]⟩, fun j => (ks j).trans (hs j), ki.trans hi⟩

/-- What the reading of a line without an error changes: the counter of corrected errors of a controller, and the power of a channel (R289, R294). -/
structure CleanRead (s t : State) : Prop where
  out : t.out = s.out
  stns : ∀ j, t.stn j = s.stn j
  images : t.images = s.images
  lpddr : t.lpddr = s.lpddr
  poison : t.poison = s.poison
  l480 : t.l480 = s.l480
  regs : ∀ a, 0x800 ≤ a % 0x1000 → t.reg a = s.reg a

theorem CleanRead.refl (s : State) : CleanRead s s := ⟨rfl, fun _ => rfl, rfl, rfl, rfl, rfl, fun _ _ => rfl⟩

theorem CleanRead.trans {s t u : State} (h : CleanRead s t) (k : CleanRead t u) : CleanRead s u :=
  ⟨k.out.trans h.out, fun j => (k.stns j).trans (h.stns j), k.images.trans h.images, k.lpddr.trans h.lpddr, k.poison.trans h.poison, k.l480.trans h.l480,
    fun a ha => (k.regs a ha).trans (h.regs a ha)⟩

theorem CleanRead.lineRead {s t : State} (h : CleanRead s t) : LineRead s t := ⟨⟨[], h.out.trans (List.append_nil _).symm⟩, h.stns, h.images⟩

theorem CleanRead.region {s t : State} (h : CleanRead s t) (a : Nat) : t.region a = s.region a := by
  have cap : t.capMib = s.capMib := by
    unfold State.capMib
    rw [h.l480]
  have snap : t.snapN = s.snapN := by
    unfold State.snapN
    rw [h.regs _ (by decide)]
  have top : t.userTop = s.userTop := by
    unfold State.userTop
    rw [cap, snap]
    simp [List.range_succ, h.regs]
  unfold State.region
  rw [cap, snap, top]

theorem CleanRead.inEcc {s t : State} (h : CleanRead s t) (l : Nat) : t.inEcc l = s.inEcc l := by
  unfold State.inEcc
  rw [h.region]
  simp [List.range_succ, h.regs]

theorem CleanRead.lineBad {s t : State} (h : CleanRead s t) (l : Nat) (now : Bool) : t.lineBad l now = s.lineBad l now := by
  unfold State.lineBad
  rw [h.inEcc, h.poison]

theorem CleanRead.bar4Bytes {s t : State} (h : CleanRead s t) (a n : Nat) : t.bar4Bytes a n = s.bar4Bytes a n := by
  unfold State.bar4Bytes
  refine List.map_congr_left (fun k _ => ?_)
  rw [h.region, h.lpddr]
  unfold State.imageBase
  rw [h.images]

theorem State.wakeChannel_clean (s : State) (l : Nat) : CleanRead s (s.wakeChannel l) := ⟨rfl, fun _ => rfl, rfl, rfl, rfl, rfl, fun _ _ => rfl⟩

theorem State.corrected_clean (s : State) (l : Nat) (ce : Bool) : CleanRead s (s.corrected l ce) := by
  unfold State.corrected State.mbump
  split
  · refine ⟨by simp, fun j => by simp, by simp, by simp, by simp, by simp, fun a ha => ?_⟩
    rw [State.reg_bump, if_neg (by omega)]
  · exact .refl s

/-- An uncorrectable line is marked and reported (R290). -/
theorem State.readUe_spec (s : State) (l : Nat) :
    LineRead s (s.readUe l) ∧ (s.readUe l).lpddr = s.lpddr ∧ (s.poison.contains l = true → (s.readUe l).poison = s.poison) := by
  have logs (s1 : State) (code step unit : Nat) (d0 : Word) (d1 : BitVec 64) : LineRead s1 (s1.logFault code step unit d0 d1) :=
    ⟨s1.out_logFault _ _ _ _ _, fun j => by simp, by simp⟩
  unfold State.readUe
  dsimp only
  have marked (q : List Nat) : LineRead s (({ s with poison := q } : State).bump (0x100018 + ctrlOf l * 0x1000) 1) :=
    ⟨⟨[], by simp⟩, fun j => (State.stn_bump _ _ _ _).trans rfl, by simp⟩
  split
  · exact ⟨(marked _).trans (logs _ _ _ _ _ _), by simp, fun h => by rw [State.poison_logFault, State.poison_bump]; exact if_pos h⟩
  · exact ⟨(marked _).trans (logs _ _ _ _ _ _), by simp, fun h => by rw [State.poison_logFault, State.poison_bump]; exact if_pos h⟩

theorem State.arrayError_lineRead (s : State) (l : Nat) : LineRead s (s.arrayError l) := by
  unfold State.arrayError
  split
  · exact .refl s
  · exact ⟨⟨[], (List.append_nil _).symm⟩, fun _ => rfl, rfl⟩

theorem State.readLine_clean {s : State} {l : Nat} (ce : Bool) (h : s.lineBad l false = false) : CleanRead s (s.readLine l ce false) := by
  have woken := s.wakeChannel_clean l
  have good : (s.wakeChannel l).lineBad l false = false := (woken.lineBad l false).trans h
  unfold State.readLine
  dsimp only
  rw [good]
  exact woken.trans (State.corrected_clean _ l ce)

theorem State.readLine_spec (s : State) (l : Nat) (ce ue : Bool) :
    LineRead s (s.readLine l ce ue) ∧ ((ue = true → s.inEcc l = true) → (s.readLine l ce ue).lpddr = s.lpddr) ∧
      (ue = false → (s.readLine l ce ue).poison = s.poison) := by
  have woken := s.wakeChannel_clean l
  by_cases hb : s.lineBad l ue = true
  · have e : s.readLine l ce ue = (s.wakeChannel l).readUe l := if_pos ((woken.lineBad l ue).trans hb)
    obtain ⟨read, lp, po⟩ := (s.wakeChannel l).readUe_spec l
    rw [e]
    refine ⟨woken.lineRead.trans read, fun _ => lp, fun hu => po ?_⟩
    subst hu
    simp only [State.lineBad, Bool.or_false, Bool.and_eq_true] at hb
    exact hb.1
  · rw [Bool.not_eq_true] at hb
    cases ue with
    | false =>
      have clean := State.readLine_clean ce hb
      exact ⟨clean.lineRead, fun _ => clean.lpddr, fun _ => clean.poison⟩
    | true =>
      have e : s.readLine l ce true = (s.wakeChannel l).arrayError l := (if_neg (by rw [woken.lineBad l true, hb]; decide)).trans (if_pos rfl)
      rw [e]
      refine ⟨woken.lineRead.trans (State.arrayError_lineRead _ l), fun h => absurd hb ?_, nofun⟩
      simp [State.lineBad, h rfl]

/-! ### A BAR4 read -/

theorem State.bar4Lines_clean (ls : List Nat) (ce : Bool) {s : State} (h : ∀ l ∈ ls, s.lineBad l false = false) :
    CleanRead s (ls.foldl (fun t l => t.readLine l ce false) s) := by
  induction ls generalizing s with
  | nil => exact .refl s
  | cons l ls ih =>
    have first := State.readLine_clean ce (h l (by simp))
    exact first.trans (ih (fun k hk => (first.lineBad k false).trans (h k (by simp [hk]))))

theorem State.bar4Lines_spec (ls : List Nat) (ce ue : Bool) (s : State) :
    let t := ls.foldl (fun t l => t.readLine l ce ue) s
    LineRead s t ∧ (ue = false → t.lpddr = s.lpddr ∧ t.poison = s.poison) := by
  induction ls generalizing s with
  | nil => exact ⟨.refl s, fun _ => ⟨rfl, rfl⟩⟩
  | cons l ls ih =>
    obtain ⟨read, lp, po⟩ := s.readLine_spec l ce ue
    obtain ⟨reads, same⟩ := ih (s.readLine l ce ue)
    refine ⟨read.trans reads, fun hu => ?_⟩
    obtain ⟨lp', po'⟩ := same hu
    exact ⟨lp'.trans (lp (fun h => absurd h (by simp [hu]))), po'.trans (po hu)⟩

/-- A read of lines without an error completes with their bytes (R290, R442). -/
theorem State.bar4Read_good {s : State} {a n : Nat} (ce : Bool) (h : ∀ l ∈ (linesOf a n).filter s.bar4Reads, s.lineBad l false = false) :
    let t := s.bar4Read a n ce false
    t.out = s.out ++ [.completion 0 false (s.bar4Bytes a n)] ∧ t.lpddr = s.lpddr ∧ t.poison = s.poison ∧ SameStns s t [] := by
  have clean := State.bar4Lines_clean _ ce h
  have good : ((linesOf a n).filter s.bar4Reads).any (fun l => s.lineBad l false) = false := List.any_eq_false.mpr (fun l hl => by simp [h l hl])
  unfold State.bar4Read
  dsimp only
  rw [good, clean.bar4Bytes]
  exact ⟨congrArg (· ++ _) clean.out, clean.lpddr, clean.poison, fun j _ => clean.stns j⟩

/-- A read that meets an uncorrectable line completes poisoned (R290). -/
theorem State.bar4Read_poisoned {s : State} {a n : Nat} {ue : Bool} (ce : Bool) (h : ∃ l ∈ (linesOf a n).filter s.bar4Reads, s.lineBad l ue = true) :
    let t := s.bar4Read a n ce ue
    (∃ o bs, t.out = s.out ++ o ++ [.completion 0 true bs] ∧ bs.length = n) ∧ SameStns s t [] ∧ (ue = false → t.lpddr = s.lpddr ∧ t.poison = s.poison) := by
  obtain ⟨⟨⟨o, ho⟩, stns, -⟩, same⟩ := State.bar4Lines_spec ((linesOf a n).filter s.bar4Reads) ce ue s
  have bad : ((linesOf a n).filter s.bar4Reads).any (fun l => s.lineBad l ue) = true := List.any_eq_true.mpr h
  unfold State.bar4Read
  dsimp only
  rw [bad]
  exact ⟨⟨o, _, congrArg (· ++ _) ho, by simp [State.bar4Bytes]⟩, fun j _ => stns j, same⟩

/-! ### A BAR4 write -/

/-- Images and stations stand. -/
def KeepsImages (s t : State) : Prop := t.images = s.images ∧ ∀ j, t.stn j = s.stn j

theorem State.imageBase_congr {s t : State} (h : t.images = s.images) (a : Nat) : t.imageBase a = s.imageBase a := by
  unfold State.imageBase
  rw [h]

theorem State.asCells_congr {s t : State} (h : t.images = s.images) (a : Nat) (bs : List Byte) : t.asCells a bs = s.asCells a bs :=
  List.map_congr_left (fun p _ => congrArg (p.2 ^^^ ·) (State.imageBase_congr h _))

/-- The bytes of a line that is written, whole or in part (R287, R289). -/
theorem State.writeLine_spec (s : State) (l off : Nat) (bs : List Byte) (ce ue : Bool) :
    (s.writeLine l off bs ce ue).lpddr = putBytes s.lpddr (l * 64 + off) (s.asCells (l * 64 + off) bs) ∧ KeepsImages s (s.writeLine l off bs ce ue) := by
  have woken := s.wakeChannel_clean l
  unfold State.writeLine
  dsimp only
  rw [State.asCells_congr woken.images, woken.inEcc]
  split
  · rename_i h
    rw [h.1]
    exact ⟨rfl, rfl, fun _ => rfl⟩
  · split
    · rename_i h
      obtain ⟨read, lp, -⟩ := (s.wakeChannel l).readLine_spec l ce ue
      have old : ((s.wakeChannel l).readLine l ce ue).lpddr = s.lpddr := lp (fun _ => (woken.inEcc l).trans h)
      exact ⟨congrArg (putBytes · _ _) old, read.images, read.stns⟩
    · exact ⟨rfl, rfl, fun _ => rfl⟩

theorem State.getD_asCells (s : State) (a : Nat) (bs : List Byte) {k : Nat} (h : k < bs.length) : (s.asCells a bs).getD k 0 = bs.getD k 0 ^^^ s.imageBase (a + k) := by
  unfold State.asCells
  rw [List.getD_eq_getElem _ _ (by simp [h]), List.getD_eq_getElem _ _ h]
  simp

theorem State.length_asCells (s : State) (a : Nat) (bs : List Byte) : (s.asCells a bs).length = bs.length := by simp [State.asCells]

/-- The lines of a write, one after another: after `m` of them the bytes below the next one hold what was written. -/
theorem State.bar4Lines_write (s : State) (a : Nat) (bs : List Byte) (ce ue : Bool) (m : Nat) :
    let t := ((List.range m).map (fun k => a / 64 + k)).foldl (fun t l => t.writeLine l (pieceOf a bs l).1 (pieceOf a bs l).2 ce ue) s
    (∀ j, mget byte0 t.lpddr j =
      if a ≤ j ∧ j < a + bs.length ∧ j < (a / 64 + m) * 64 then bs.getD (j - a) 0 ^^^ s.imageBase j else mget byte0 s.lpddr j) ∧ KeepsImages s t := by
  induction m with
  | zero =>
    refine ⟨fun j => ?_, rfl, fun _ => rfl⟩
    rw [if_neg (by omega)]
    rfl
  | succ m ih =>
    rw [List.range_succ, List.map_append, List.foldl_append]
    generalize ((List.range m).map (fun k => a / 64 + k)).foldl (fun t l => t.writeLine l (pieceOf a bs l).1 (pieceOf a bs l).2 ce ue) s = t at ih
    obtain ⟨bytes, images, stns⟩ := ih
    simp only [List.map_cons, List.map_nil, List.foldl_cons, List.foldl_nil]
    obtain ⟨lp, images', stns'⟩ := t.writeLine_spec (a / 64 + m) (pieceOf a bs (a / 64 + m)).1 (pieceOf a bs (a / 64 + m)).2 ce ue
    refine ⟨fun j => ?_, images'.trans images, fun i => (stns' i).trans (stns i)⟩
    have start : (a / 64 + m) * 64 + (pieceOf a bs (a / 64 + m)).1 = max a ((a / 64 + m) * 64) := by unfold pieceOf; dsimp only; omega
    have size : (pieceOf a bs (a / 64 + m)).2.length = min ((a / 64 + m) * 64 + 64 - max a ((a / 64 + m) * 64)) (bs.length - (max a ((a / 64 + m) * 64) - a)) := by
      simp [pieceOf]
    rw [lp, start, mget_putBytes, State.length_asCells, size]
    by_cases hj : max a ((a / 64 + m) * 64) ≤ j ∧ j < a + bs.length ∧ j < (a / 64 + m) * 64 + 64
    · rw [if_pos (by omega), if_pos (by omega), State.getD_asCells _ _ _ (by omega), State.imageBase_congr images]
      have pos : max a ((a / 64 + m) * 64) + (j - max a ((a / 64 + m) * 64)) = j := by omega
      have inside : j - max a ((a / 64 + m) * 64) < (a / 64 + m) * 64 + 64 - max a ((a / 64 + m) * 64) := by omega
      have ix : max a ((a / 64 + m) * 64) - a + (j - max a ((a / 64 + m) * 64)) = j - a := by omega
      rw [pos]
      unfold pieceOf
      dsimp only
      rw [List.getD_eq_getElem?_getD, List.getElem?_take, if_pos inside, List.getElem?_drop, ix, ← List.getD_eq_getElem?_getD]
    · rw [if_neg (by omega), bytes j]
      exact if_congr (by omega) rfl rfl

/-- A write of user or golden bytes stores them and no others (R287, R442). -/
theorem State.bar4Write_stores {s : State} {a : Nat} (bs : List Byte) (ce ue : Bool) (h : s.region a = .user ∨ s.region a = .golden) :
    let t := s.bar4Write a bs ce ue
    t.rdBytesAt a bs.length = bs ∧ (∀ j, j < a ∨ a + bs.length ≤ j → mget byte0 t.lpddr j = mget byte0 s.lpddr j) ∧ t.images = s.images ∧ SameStns s t [] := by
  have e : s.bar4Write a bs ce ue = (linesOf a bs.length).foldl (fun t l => t.writeLine l (pieceOf a bs l).1 (pieceOf a bs l).2 ce ue) s := by
    unfold State.bar4Write
    rcases h with h | h <;> rw [h]
  obtain ⟨bytes, images, stns⟩ : (∀ j, mget byte0 (s.bar4Write a bs ce ue).lpddr j = if a ≤ j ∧ j < a + bs.length then bs.getD (j - a) 0 ^^^ s.imageBase j else mget byte0 s.lpddr j) ∧
      KeepsImages s (s.bar4Write a bs ce ue) := by
    rw [e]
    unfold linesOf
    by_cases h0 : bs.length = 0
    · rw [if_pos h0]
      exact ⟨fun j => (if_neg (by omega)).symm, rfl, fun _ => rfl⟩
    · rw [if_neg h0]
      obtain ⟨bytes, kept⟩ := s.bar4Lines_write a bs ce ue ((a + bs.length - 1) / 64 - a / 64 + 1)
      exact ⟨fun j => (bytes j).trans (if_congr (by omega) rfl rfl), kept⟩
  refine ⟨?_, fun j hj => (bytes j).trans (if_neg (by omega)), images, fun j _ => stns j⟩
  unfold State.rdBytesAt
  apply List.ext_getElem (by simp)
  intro k h1 h2
  simp only [List.getElem_map, List.getElem_range]
  rw [bytes, if_pos (by omega), State.imageBase_congr images, BitVec.xor_assoc, BitVec.xor_self, BitVec.xor_zero, Nat.add_sub_cancel_left, List.getD_eq_getElem _ _ h2]

/-- A write to the spill, a snapshot or a code store is counted only (R287). -/
theorem State.bar4Write_counted {s : State} {a : Nat} (bs : List Byte) (ce ue : Bool) (h : s.region a = .spill ∨ s.region a = .snapshot ∨ s.region a = .store) :
    s.bar4Write a bs ce ue = s.bump 0x100808 1 := by
  unfold State.bar4Write
  rcases h with h | h | h <;> rw [h]

/-! ### The command -/

section
variable {s : State} {off n : Nat} {ce ue : Bool}

theorem exec_bar4Access_down (w : Option (List Byte)) (h : s.endpointUp = false) : exec (.bar4Access off n w ce ue) s = .next s :=
  if_neg (by simp [h])

theorem exec_bar4Access_ended (w : Option (List Byte)) (hu : s.endpointUp = true) (h : s.aborting = true ∨ s.memServed = false) :
    exec (.bar4Access off n w ce ue) s = .next (if w.isNone then s.leaveL1.emit (.completion (if s.aborting then 4 else 1) false []) else s.leaveL1) := by
  refine (if_pos hu).trans ?_
  by_cases ha : s.aborting = true
  · rw [ha]
    rfl
  · rw [Bool.not_eq_true] at ha
    have hm : s.memServed = false := h.resolve_left (by simp [ha])
    rw [ha, hm]
    rfl

variable (hu : s.endpointUp = true) (ha : s.aborting = false) (hm : s.memServed = true)
include hu ha hm

theorem exec_bar4Access_beyond (w : Option (List Byte)) (h : s.capBytes ≤ fld (s.reg 0x54000) 0 10 * 2 ^ 30 + off % 2 ^ 36) :
    exec (.bar4Access off n w ce ue) s = .next (if w.isNone then s.leaveL1.emit (.completion 1 false []) else s.leaveL1) :=
  (if_pos hu).trans ((if_neg (by simp [ha])).trans (if_pos (by simp only [hm]; simpa using h)))

theorem exec_bar4Access_read (h : fld (s.reg 0x54000) 0 10 * 2 ^ 30 + off % 2 ^ 36 < s.capBytes) :
    exec (.bar4Access off n none ce ue) s = .next (s.leaveL1.bar4Read (fld (s.reg 0x54000) 0 10 * 2 ^ 30 + off % 2 ^ 36) n ce ue) :=
  (if_pos hu).trans ((if_neg (by simp [ha])).trans (if_neg (by simp only [hm]; simpa using h)))

theorem exec_bar4Access_write (bs : List Byte) (h : fld (s.reg 0x54000) 0 10 * 2 ^ 30 + off % 2 ^ 36 < s.capBytes) :
    exec (.bar4Access off n (some bs) ce ue) s = .next (s.leaveL1.bar4Write (fld (s.reg 0x54000) 0 10 * 2 ^ 30 + off % 2 ^ 36) bs ce ue) :=
  (if_pos hu).trans ((if_neg (by simp [ha])).trans (if_neg (by simp only [hm]; simpa using h)))

end

end Sys2Proof.Machine
end

section
/-! PROOFS. O55: the clauses of the window accesses, and their settlement. -/
namespace Sys2Proof.Machine

/-! ### Each access that is served -/

/-- A read of a window completes and changes the port's counters alone (R93, R94, R431). -/
theorem State.serveBar2_reads (s : State) (i : Stn) (off n busy refused : Nat) :
    let t := s.serveBar2 i off n none busy refused
    (∃ bs : List Byte, t.out = s.out ++ [.completion 0 false bs] ∧ bs.length = n ∧
      (busy = 0 → bs = (List.range n).map (fun k => (s.stn i).winByte (off + k))) ∧
      (busy < 2 → ∀ k, k < n → off + k < 0x100000 → bs[k]? = some (mget byte0 (s.stn i).pm (off + k)))) ∧
    PortCounts s i off busy refused t ∧ SameRegs s t [0x204000 + 4 * i, pageBase i + 0x138] ∧ SameStns s t [] ∧ t.lpddr = s.lpddr := by
  obtain ⟨m, bs, e, served⟩ := s.serveBar2_read i off n busy refused i.isLt
  obtain ⟨counts, only⟩ := s.portMet_spec i off busy refused i.isLt
  dsimp only
  rw [e]
  exact ⟨⟨bs, congrArg (· ++ _) only.out, served⟩, counts, only.1, only.2.1, only.lpddr⟩

/-- A write of platform memory stores its bytes and leaves the slots (R430, R431). -/
theorem State.serveBar2_writesPlatform (s : State) (i : Stn) {off : Nat} (n busy refused : Nat) {bs : List Byte} (h : winSlots off bs.length = false) :
    let t := s.serveBar2 i off n (some bs) busy refused
    (∀ k (h : k < bs.length), off + k < 0x100000 → mget byte0 (t.stn i).pm (off + k) = bs[k]) ∧
    (∀ j, j < off ∨ off + bs.length ≤ j → mget byte0 (t.stn i).pm j = mget byte0 (s.stn i).pm j) ∧
    (t.stn i).slots = (s.stn i).slots ∧ PortCounts s i off busy refused t ∧
    OnlyChanges s t [0x204000 + 4 * i, pageBase i + 0x138] [i] := by
  obtain ⟨counts, only⟩ := s.portMet_spec i off busy refused i.isLt
  dsimp only
  rw [s.serveBar2_write i off n bs busy refused i.isLt, if_neg (by simp [h]), Station.putWin_platform _ h]
  have written : (((s.portMet i off busy refused).setStn i ((s.stn i).putWinPm off bs)).stn i) = (s.stn i).putWinPm off bs := (State.stn_setStn _ _ _ _).trans (if_pos rfl)
  rw [written]
  refine ⟨fun k hk ho => ?_, fun j hj => ?_, rfl, counts, (only.mono (fun _ h => h) (by simp)).trans (.setStn _ _ _ _ _ (by simp))⟩
  · rw [Station.pm_putWinPm, if_pos (by omega), Nat.add_sub_cancel_left, List.getD_eq_getElem _ _ hk]
  · rw [Station.pm_putWinPm, if_neg (by omega)]

/-- A write to the slots of an awake station is discarded and counted (R431). -/
theorem State.serveBar2_discards (s : State) (i : Stn) {off : Nat} (n busy refused : Nat) {bs : List Byte} (ha : (s.stn i).ctl.run = .awake)
    (h : winSlots off bs.length = true) :
    let t := s.serveBar2 i off n (some bs) busy refused
    t.reg 0x54004 = satAdd (s.reg 0x54004) 1 ∧ (t.stn i).slots = (s.stn i).slots ∧ PortCounts s i off busy refused t ∧
    OnlyChanges s t [0x54004, 0x204000 + 4 * i, pageBase i + 0x138] [i] := by
  obtain ⟨counts, only⟩ := s.portMet_spec i off busy refused i.isLt
  dsimp only
  rw [s.serveBar2_write i off n bs busy refused i.isLt, if_pos ⟨h, by simp [ha]⟩]
  have busyAt : 0x204000 + 4 * i.val ≠ 0x54004 := by omega
  have confAt : pageBase i + 0x138 ≠ 0x54004 := by unfold pageBase; omega
  obtain ⟨c1, c2⟩ := counts
  refine ⟨?_, ?_, ⟨?_, ?_⟩, ?_⟩
  · rw [State.reg_bump, if_pos rfl, State.reg_setStn, only.1 _ (by simp [busyAt.symm, confAt.symm])]
  · rw [State.stn_bump, State.stn_setStn, if_pos rfl]
    rfl
  · rw [State.reg_bump, if_neg busyAt]
    exact c1
  · rw [State.reg_bump, if_neg confAt]
    exact c2
  · exact ((only.mono (fun a ha => List.mem_cons_of_mem _ ha) (by simp)).trans (.setStn _ _ _ _ _ (by simp))).bump 1 (by simp)

/-- A write of an entry at a stopped station (R431). -/
theorem State.serveBar2_putsEntry (s : State) (i : Stn) {off : Nat} (n busy refused : Nat) {bs : List Byte} (hs : (s.stn i).ctl.run = .stopped)
    (h1 : 0x100000 ≤ off) (h2 : off < 0x180000) (h8 : off % 8 = 0) (hl : bs.length = 8) :
    let t := s.serveBar2 i off n (some bs) busy refused
    ((t.stn i).slot ((off - 0x100000) / 0x2000)).entry (off % 0x2000 / 512) (off % 512 / 8) = ⟨BitVec.ofNat 48 (leNat (bs.take 6)), 0⟩ ∧
    (t.stn i).pm = (s.stn i).pm ∧ OnlyChanges s t [] [i] := by
  dsimp only
  rw [s.serveBar2_write i off n bs busy refused i.isLt, if_neg (by simp [hs]), State.portMet_none s busy refused h1, State.stn_setStn, if_pos rfl]
  obtain ⟨entry, pm⟩ := (s.stn i).putWin_entry h1 h2 h8 hl
  exact ⟨entry, pm, .setStn _ _ _ _ _ (by simp)⟩

/-! ### An access that has waited too long -/

theorem State.bar2Timeout_runs {s : State} {i : Stn} {f : Flit} {rest : List Flit} {o m : Nat} {w : Option (List Byte)} (hu : s.endpointUp = true) (hb : f.body = .bar2 o m w)
    (h : takeFlit (s.lateBar2 i) (s.stn i).routerHeld = some (f, rest) ∨
      (takeFlit (s.lateBar2 i) (s.stn i).routerHeld = none ∧ takeFlit (s.lateBar2 i) s.die.mesh = some (f, rest))) :
    Runs (.bar2Timeout i) s (fun t =>
      (takeFlit (s.lateBar2 i) (s.stn i).routerHeld ≠ none → (t.stn i).routerHeld = rest ∧ t.die.mesh = s.die.mesh) ∧
      (takeFlit (s.lateBar2 i) (s.stn i).routerHeld = none → (t.stn i).routerHeld = (s.stn i).routerHeld ∧ t.die.mesh = rest) ∧
      (t.stn i).pm = (s.stn i).pm ∧ (t.stn i).ctl = (s.stn i).ctl ∧
      (w = none → t.out = s.out ++ [.completion 4 false []] ∧ SameRegs s t []) ∧
      (w ≠ none → t.reg 0x54004 = satAdd (s.reg 0x54004) 1 ∧ t.out = s.out ∧ SameRegs s t [0x54004]) ∧ SameStns s t [i.val] ∧ t.lpddr = s.lpddr) := by
  rcases h with h | ⟨h, hm⟩
  · refine ⟨_, exec_bar2Timeout_router hu h, ?_⟩
    obtain ⟨read, write, stns, mesh, lp⟩ := (s.setStn i { s.stn i with routerHeld := rest }).endBar2_spec hb
    have own := (stns i).trans ((State.stn_setStn _ _ _ _).trans (if_pos rfl))
    rw [own, h]
    exact ⟨fun _ => ⟨rfl, mesh⟩, nofun, rfl, rfl, read, write,
      fun j hj => (stns j).trans ((State.stn_setStn _ _ _ _).trans (if_neg (List.ne_of_not_mem_cons hj))), lp⟩
  · refine ⟨_, exec_bar2Timeout_mesh hu h hm, ?_⟩
    obtain ⟨read, write, stns, mesh, lp⟩ := (s.setMesh rest).endBar2_spec hb
    rw [stns i, h]
    exact ⟨fun h => absurd rfl h, fun _ => ⟨rfl, mesh⟩, rfl, rfl, read, write, fun j _ => stns j, lp⟩

end Sys2Proof.Machine

namespace Sys2Proof
open Machine

/-- Settles O55: each access by the branch of its command, its bytes by the map that it writes. -/
theorem windowAccesses : Obligations.WindowAccesses := by
  unfold Obligations.WindowAccesses
  intro s
  refine ⟨fun hu ha hm => ⟨fun i off n busy refused => ⟨fun hs => ⟨?_, fun bs hw => ?_⟩, fun bs hr hw => ?_, fun bs hr h1 h2 h8 hl => ?_, fun w hs => ?_⟩,
    fun off n ce ue => ⟨fun hc hg hue => ?_, fun hc hb => ?_, fun bs hc hr => ?_, fun bs hc hr => ?_, fun hc => ⟨?_, fun bs => ?_⟩⟩⟩,
    fun i off n busy refused a m ce ue w => ⟨fun hu h => ⟨exec_bar2Access_ended w hu h, exec_bar4Access_ended w hu h⟩,
      fun hu => ⟨exec_bar2Access_down w hu, exec_bar4Access_down w hu⟩⟩,
    fun i => ⟨fun f rest o m w hu hb h => State.bar2Timeout_runs hu hb h, exec_bar2Timeout_none⟩⟩
  · exact ⟨_, exec_bar2Access_served hu ha hm none hs, s.leaveL1.serveBar2_reads i off n busy refused⟩
  · exact ⟨_, exec_bar2Access_served hu ha hm (some bs) hs, s.leaveL1.serveBar2_writesPlatform i n busy refused hw⟩
  · exact ⟨_, exec_bar2Access_served hu ha hm (some bs) (by simp [Station.sleeps, hr]), s.leaveL1.serveBar2_discards i n busy refused hr hw⟩
  · obtain ⟨entry, rest⟩ := s.leaveL1.serveBar2_putsEntry i n busy refused hr h1 h2 h8 hl
    have code : (bs.take n).take 6 = bs.take 6 := by
      rw [List.length_take] at hl
      rw [List.take_take, Nat.min_eq_left (by omega)]
    rw [code] at entry
    exact ⟨_, exec_bar2Access_served hu ha hm (some bs) (by simp [Station.sleeps, hr]), entry, rest⟩
  · exact ⟨_, exec_bar2Access_held hu ha hm w hs, s.leaveL1.holdAtRouter_spec i _⟩
  · subst hue
    exact ⟨_, exec_bar4Access_read hu ha hm hc, State.bar4Read_good ce hg⟩
  · exact ⟨_, exec_bar4Access_read hu ha hm hc, State.bar4Read_poisoned ce hb⟩
  · exact ⟨_, exec_bar4Access_write hu ha hm bs hc, State.bar4Write_stores bs ce ue hr⟩
  · refine ⟨_, exec_bar4Access_write hu ha hm bs hc, ?_⟩
    rw [State.bar4Write_counted (s := s.leaveL1) bs ce ue hr]
    exact ⟨by simp, (OnlyChanges.refl _ _ _).bump 1 (by simp)⟩
  · exact ⟨_, exec_bar4Access_beyond hu ha hm none hc, rfl⟩
  · exact exec_bar4Access_beyond hu ha hm (some bs) hc

end Sys2Proof
end

section
/-! PROOFS. TAKE (O19): a TAKE at the head waits for its token, removes it and retires, and holds every word behind it. -/
namespace Sys2Proof.Machine

/-- What stands at the head of the queue and may leave it. -/
theorem State.headWord_spec {s : State} {i o : Nat} {w : PWord} (h : s.headWord i o = some w) :
    (∃ q, (s.stn i).iss.queue = w :: q) ∧ s.live = true ∧ (s.stn i).mayIssue = true ∧ opc w = o ∧ s.legal i w = true := by
  unfold State.headWord at h
  split at h
  · cases h
  · rename_i v q hq
    split at h
    · rename_i hc
      cases h
      simp only [Bool.and_eq_true, decide_eq_true_eq] at hc
      obtain ⟨⟨⟨hl, hm⟩, ho⟩, hlegal⟩ := hc
      exact ⟨⟨q, hq⟩, hl, hm, ho, hlegal⟩
    · cases h

/-- The head of the queue is the word of one opcode only. -/
theorem State.headWord_other {s : State} {i o p : Nat} {w : PWord} (h : s.headWord i o = some w) (hne : o ≠ p) : s.headWord i p = none := by
  obtain ⟨⟨q, hq⟩, -, -, ho, -⟩ := State.headWord_spec h
  unfold State.headWord
  rw [hq]
  exact if_neg (by simp [ho, hne])

section
variable {s : State} {i : Stn} {w : PWord} (h : s.headWord i 0x31 = some w)
include h

theorem exec_wordIssue_take : exec (.wordIssue i) s = .next s := by
  obtain ⟨⟨q, hq⟩, hl, hm, ho, hlegal⟩ := State.headWord_spec h
  change execWordIssue i s = _
  unfold execWordIssue
  rw [hq]
  simp [hl, hm, ho, hlegal, Station.awaitsRouting, Station.zeroFits]

theorem exec_nop_take : exec (.nop i) s = .next s := by
  obtain ⟨⟨q, hq⟩, -, -, ho, -⟩ := State.headWord_spec h
  change execNop i s = _
  unfold execNop
  rw [hq]
  exact if_neg (by simp [ho])

theorem exec_interlock_take : exec (.interlock i) s = .next s := by
  change execInterlock i s = _
  unfold execInterlock
  rw [State.headWord_other h (by decide)]

/-- A TAKE whose effect has landed retires without one; any other waits for its token and removes it (R137, R270). -/
theorem exec_take {x : Station} {g : Option (Nat × Nat)} {landed : Bool} (hx : ((s.stn i).popHead w).takeGuard true = (x, g, landed)) :
    exec (.take i) s =
      if landed then .next (s.setStn i x.settle)
      else if bitAt x.tokens (fld w 20 8) then .next (s.setStn i ({ x with tokens := putBit x.tokens (fld w 20 8) false }.guardDone g).settle)
      else .next s := by
  change execTake i s = _
  unfold execTake
  rw [h]
  dsimp only
  rw [hx]

end

end Sys2Proof.Machine

namespace Sys2Proof
open Machine

/-- Settles O19: the TAKE is at the head, where no other command moves it, and what it takes from its station are its token and itself. -/
theorem takeWaitsForItsToken : Obligations.TakeWaitsForItsToken := by
  intro s i w h
  generalize hp : ((s.stn i).popHead w).takeGuard true = p
  obtain ⟨x, g, landed⟩ := p
  have ex := exec_take h hp
  obtain ⟨led, hx⟩ := Station.takeGuard_ledger hp
  dsimp only at hx ⊢
  subst hx
  refine ⟨exec_wordIssue_take h, exec_nop_take h, exec_interlock_take h, fun hr => ?_, fun hl ht => ?_, fun ht => ?_⟩
  · rw [← Station.takeGuard_runs (x := (s.stn i).popHead w) true hr, hp]
  · exact ex.trans ((if_neg (by simp [hl])).trans (if_neg (by simpa [Station.popHead] using ht)))
  · cases landed with
    | true =>
      refine runs_of (ex.trans (if_pos rfl)) ?_
      simp [Station.popHead, OnlyChanges.setStn]
    | false =>
      have present : bitAt (s.stn i).tokens (fld w 20 8) = true := ht.resolve_left nofun
      refine runs_of (ex.trans ((if_neg nofun).trans (if_pos present))) ?_
      simp [Station.popHead, OnlyChanges.setStn]

end Sys2Proof
end

section
/-! PROOFS. INTERLOCK and the ledger's commits (O21): an arrival that is posted, the release of a die interlock, and an entry that is dropped. -/
namespace Sys2Proof.Machine

/-! ### Steps over the stations -/

section
variable {f : State → Nat → State} (hf : ∀ t b j, j ≠ b → (f t b).stn j = t.stn j)
include hf

/-- A step for each of a list of stations leaves every other station. -/
theorem State.stn_foldl_of_not_mem {l : List Nat} {j : Nat} (h : j ∉ l) (s : State) : (l.foldl f s).stn j = s.stn j := by
  induction l generalizing s with
  | nil => rfl
  | cons b r ih =>
    rw [List.foldl_cons, ih (List.not_mem_of_not_mem_cons h), hf s b j (List.ne_of_not_mem_cons h)]

/-- A station that is listed once is left by the steps as its own step leaves it. -/
theorem State.stn_foldl_of_mem {l : List Nat} {j : Nat} (h : j ∈ l) (hn : l.Nodup) (s : State) :
    ∃ u, u.stn j = s.stn j ∧ (l.foldl f s).stn j = (f u j).stn j := by
  obtain ⟨a, b, rfl⟩ := List.append_of_mem h
  obtain ⟨-, hb, hab⟩ := List.nodup_append.mp hn
  have ha : j ∉ a := fun m => hab j m j List.mem_cons_self rfl
  refine ⟨a.foldl f s, State.stn_foldl_of_not_mem hf ha s, ?_⟩
  rw [List.foldl_append, List.foldl_cons, State.stn_foldl_of_not_mem hf (List.nodup_cons.mp hb).1]

end

/-! ### Release -/

/-- What a release leaves alone: tokens, platform memory, slots, signal boxes and flights of every station, the registers, LPDDR5X and the mesh. -/
def ReleaseKeeps (s t : State) : Prop :=
  (∀ j, (t.stn j).tokens = (s.stn j).tokens ∧ (t.stn j).pm = (s.stn j).pm ∧ (t.stn j).slots = (s.stn j).slots ∧
    (t.stn j).sb = (s.stn j).sb ∧ (t.stn j).iss.flight = (s.stn j).iss.flight) ∧
  SameRegs s t [] ∧ t.lpddr = s.lpddr ∧ t.die.mesh = s.die.mesh

theorem ReleaseKeeps.refl (s : State) : ReleaseKeeps s s := ⟨fun _ => ⟨rfl, rfl, rfl, rfl, rfl⟩, fun _ _ => rfl, rfl, rfl⟩

theorem ReleaseKeeps.trans {s t u : State} (h : ReleaseKeeps s t) (k : ReleaseKeeps t u) : ReleaseKeeps s u := by
  obtain ⟨h1, h2, h3, h4⟩ := h
  obtain ⟨k1, k2, k3, k4⟩ := k
  refine ⟨fun j => ?_, fun a ha => (k2 a ha).trans (h2 a ha), k3.trans h3, k4.trans h4⟩
  obtain ⟨a1, a2, a3, a4, a5⟩ := h1 j
  obtain ⟨b1, b2, b3, b4, b5⟩ := k1 j
  exact ⟨b1.trans a1, b2.trans a2, b3.trans a3, b4.trans a4, b5.trans a5⟩

theorem ReleaseKeeps.setStn {s : State} {i : Nat} {x : Station} (h1 : x.tokens = (s.stn i).tokens) (h2 : x.pm = (s.stn i).pm)
    (h3 : x.slots = (s.stn i).slots) (h4 : x.sb = (s.stn i).sb) (h5 : x.iss.flight = (s.stn i).iss.flight) : ReleaseKeeps s (s.setStn i x) := by
  refine ⟨fun j => ?_, fun _ _ => rfl, rfl, rfl⟩
  rw [State.stn_setStn]
  split
  · rename_i h
    rw [h]
    exact ⟨h1, h2, h3, h4, h5⟩
  · exact ⟨rfl, rfl, rfl, rfl, rfl⟩

/-- What a release makes of a station that waits: its arrival is gone, its departure staggered and its restart point taken (R139, R361, R457). -/
def Station.Released (x y : Station) : Prop :=
  y.iss.posted = none ∧ y.iss.stagger = true ∧ y.iss.queue = x.iss.queue ∧ y.restart = x.nextRestart.headD x.restart ∧ y.step4 = false

theorem State.releaseStn_spec (s : State) (i : Nat) :
    ReleaseKeeps s (s.releaseStn i) ∧ OnlyChanges s (s.releaseStn i) [] [i] ∧ (s.stn i).Released ((s.releaseStn i).stn i) := by
  unfold State.releaseStn
  refine ⟨.setStn (by simp) (by simp) (by simp) (by simp) (by simp), .setStn _ _ _ _ _ (List.mem_singleton_self i), ?_⟩
  rw [State.stn_setStn, if_pos rfl]
  simp [Station.Released]

/-- The step of a release for one station. -/
def State.releaseAt (domain : Bool) (ilk : Nat) (t : State) (i : Nat) : State :=
  match (t.stn i).iss.posted with
  | some p =>
    if p.domain = domain ∧ p.ilk = ilk then
      (if p.waits then t.releaseStn i
       else t.setStn i { t.stn i with iss := { (t.stn i).iss with posted := some { p with passed := true } } })
    else t
  | none => t

theorem State.release_eq (s : State) (domain : Bool) (ilk : Nat) : s.release domain ilk = (List.range 128).foldl (State.releaseAt domain ilk) s := rfl

theorem State.releaseAt_spec (t : State) (domain : Bool) (ilk i : Nat) :
    ReleaseKeeps t (t.releaseAt domain ilk i) ∧ ∀ j, j ≠ i → (t.releaseAt domain ilk i).stn j = t.stn j := by
  unfold State.releaseAt
  split
  · split
    · split
      · obtain ⟨keeps, ⟨-, stns, -⟩, -⟩ := t.releaseStn_spec i
        exact ⟨keeps, fun j hj => stns j (by simpa using hj)⟩
      · exact ⟨.setStn rfl rfl rfl rfl rfl, fun j hj => (State.stn_setStn _ _ _ _).trans (if_neg hj)⟩
    · exact ⟨.refl t, fun _ _ => rfl⟩
  · exact ⟨.refl t, fun _ _ => rfl⟩

theorem State.release_keeps (s : State) (domain : Bool) (ilk : Nat) : ReleaseKeeps s (s.release domain ilk) := by
  rw [State.release_eq]
  generalize List.range 128 = l
  induction l generalizing s with
  | nil => exact .refl s
  | cons b r ih => exact (s.releaseAt_spec domain ilk b).1.trans (ih _)

/-- A station that waits at the interlock is released. -/
theorem State.release_releases {s : State} {i : Stn} {p : Posted} (h : (s.stn i).iss.posted = some p) (hw : p.waits = true) :
    (s.stn i).Released ((s.release p.domain p.ilk).stn i) := by
  obtain ⟨u, hu, e⟩ := State.stn_foldl_of_mem (f := State.releaseAt p.domain p.ilk) (fun t b j hj => (t.releaseAt_spec p.domain p.ilk b).2 j hj)
    (List.mem_range.mpr i.isLt) List.nodup_range s
  have own : u.releaseAt p.domain p.ilk i = u.releaseStn i := by
    unfold State.releaseAt
    rw [hu, h]
    exact (if_pos ⟨rfl, rfl⟩).trans (if_pos hw)
  obtain ⟨-, -, released⟩ := u.releaseStn_spec i
  rw [State.release_eq, e, own, ← hu]
  exact released

/-! ### The arrival -/

/-- The station with its arrival posted and the word off the queue (R139). -/
def Station.arrived (x : Station) (w : PWord) : Station :=
  let y := (x.popHead w).endInterval
  { y with iss := { y.iss with posted := some ⟨bitAt w 28, fld w 20 8, (x.popHead w).iss.next, true, false⟩ } }

theorem State.postArrival_eq (s : State) (i : Nat) (w : PWord) :
    s.postArrival i w =
      if bitAt w 28 then (if s.otherIlk (fld w 20 8) then s.illegalOp i w else s.setStn i ((s.stn i).arrived w))
      else if (s.setStn i ((s.stn i).arrived w)).allPosted false (fld w 20 8) then (s.setStn i ((s.stn i).arrived w)).release false (fld w 20 8)
      else s.setStn i ((s.stn i).arrived w) := rfl

/-- A die interlock releases when every station of the job waits at it (R139). -/
theorem State.allPosted_iff (s : State) (domain : Bool) (ilk : Nat) :
    s.allPosted domain ilk = true ↔
      s.jobSet ≠ [] ∧ ∀ j ∈ s.jobSet, ∃ p, (s.stn j).iss.posted = some p ∧ p.domain = domain ∧ p.ilk = ilk ∧ p.passed = false := by
  unfold State.allPosted
  rw [Bool.and_eq_true, List.all_eq_true]
  refine and_congr (by simp) (forall₂_congr fun j _ => ?_)
  cases (s.stn j).iss.posted <;> simp [and_assoc]

section
variable {s : State} {i : Stn} {w : PWord}

theorem State.postArrival_posts (h : bitAt w 28 = true ∧ s.otherIlk (fld w 20 8) = false ∨
    bitAt w 28 = false ∧ (∃ j ∈ s.jobSet, j ≠ i.val ∧ (s.stn j).iss.posted = none)) :
    s.postArrival i w = s.setStn i ((s.stn i).arrived w) := by
  rw [State.postArrival_eq]
  rcases h with ⟨hd, ho⟩ | ⟨hd, j, hj, hne, hp⟩
  · rw [if_pos hd, if_neg (by simp [ho])]
  · rw [if_neg (by simp [hd]), if_neg]
    intro all
    obtain ⟨p, posted, -⟩ := ((State.allPosted_iff _ _ _).mp all).2 j hj
    rw [State.stn_setStn, if_neg hne, hp] at posted
    cases posted

theorem State.postArrival_releases (hd : bitAt w 28 = false) (hj : s.jobSet ≠ [])
    (h : ∀ j ∈ s.jobSet, j ≠ i.val → ∃ p, (s.stn j).iss.posted = some p ∧ p.domain = false ∧ p.ilk = fld w 20 8 ∧ p.passed = false) :
    s.postArrival i w = (s.setStn i ((s.stn i).arrived w)).release false (fld w 20 8) := by
  rw [State.postArrival_eq, if_neg (by simp [hd]), if_pos]
  refine (State.allPosted_iff _ _ _).mpr ⟨hj, fun j hm => ?_⟩
  rw [State.stn_setStn]
  split
  · exact ⟨_, rfl, hd, rfl, rfl⟩
  · exact h j hm ‹_›

variable (h : s.headWord i 0x38 = some w)
include h

theorem exec_interlock_waits (ho : (s.stn i).earlierOpen (s.stn i).iss.next = true) : exec (.interlock i) s = .next s := by
  change execInterlock i s = _
  unfold execInterlock
  rw [h]
  exact if_pos ho

variable (ho : (s.stn i).earlierOpen (s.stn i).iss.next = false)
include ho

theorem exec_interlock_passes (hp : (s.stn i).passedPost w = true) :
    exec (.interlock i) s = .next ((s.setStn i ((s.stn i).popHead w).endInterval).releaseStn i) := by
  change execInterlock i s = _
  unfold execInterlock
  rw [h]
  exact (if_neg (by simp [ho])).trans (if_pos hp)

theorem exec_interlock_posts (hp : (s.stn i).passedPost w = false) : exec (.interlock i) s = .next (s.postArrival i w) := by
  change execInterlock i s = _
  unfold execInterlock
  rw [h]
  exact (if_neg (by simp [ho])).trans (if_neg (by simp [hp]))

end

/-! ### The ledger -/

theorem exec_ledgerEntryCommit {s : State} {i : Stn} {e : LedgerEntry} (hw : s.works = true) (h : (s.stn i).commitable = some e) :
    exec (.ledgerEntryCommit i) s = .next (s.setStn i
      { s.stn i with ledger := { (s.stn i).ledger with entries := (s.stn i).ledger.entries.filter (fun g => decide (g.seq ≠ e.seq)) } }) := by
  change execLedgerEntryCommit i s = _
  unfold execLedgerEntryCommit
  dsimp only
  rw [h]
  exact if_pos hw

theorem Station.commitable_spec {x : Station} {e : LedgerEntry} (h : x.commitable = some e) : e ∈ x.ledger.entries ∧ ∀ g ∈ x.iss.flight, g.entry ≠ some e.seq := by
  have idle := List.find?_some h
  rw [Bool.and_eq_true, List.all_eq_true] at idle
  exact ⟨List.mem_of_find?_eq_some h, fun g hg => of_decide_eq_true (idle.2 g hg)⟩

end Sys2Proof.Machine

namespace Sys2Proof
open Machine

/-- Settles O21: an INTERLOCK in each of its cases, the release through the step of its own station, and the commit of a ledger entry. -/
theorem arrivalsPostAndLedgerEntriesCommit : Obligations.ArrivalsPostAndLedgerEntriesCommit := by
  refine ⟨fun s i w h => ⟨exec_interlock_waits h, fun ho hp => ?_, fun ho hp => ⟨fun hc => ?_, fun hd hj hall => ?_, fun hd hi => ?_⟩⟩, fun s i e hw h => ?_⟩
  · obtain ⟨⟨keeps, -⟩, only, hposted, hstagger, hqueue, -⟩ := (s.setStn i ((s.stn i).popHead w).endInterval).releaseStn_spec i
    obtain ⟨htokens, hpm, hslots, -⟩ := keeps i
    rw [State.stn_setStn, if_pos rfl] at hqueue htokens hpm hslots
    exact runs_of (exec_interlock_passes h ho hp) ⟨hposted, hstagger, hqueue, htokens, hpm, hslots, (OnlyChanges.setStn _ _ _ _ _ (List.mem_singleton_self _)).trans only⟩
  · refine runs_of (exec_interlock_posts h ho hp) ?_
    rw [State.postArrival_posts hc, State.stn_setStn, if_pos rfl]
    exact ⟨⟨_, rfl⟩, rfl, rfl, rfl, rfl, OnlyChanges.setStn _ _ _ _ _ (List.mem_singleton_self _)⟩
  · have own : (s.setStn i ((s.stn i).arrived w)).stn i = (s.stn i).arrived w := (State.stn_setStn _ _ _ _).trans (if_pos rfl)
    have arrives : ReleaseKeeps s (s.setStn i ((s.stn i).arrived w)) := .setStn rfl rfl rfl rfl rfl
    have released := State.release_releases (s := s.setStn i ((s.stn i).arrived w)) (i := i) (by rw [own]; rfl) rfl
    obtain ⟨keeps, hregs, hlpddr, hmesh⟩ := arrives.trans (State.release_keeps _ false (fld w 20 8))
    refine runs_of (exec_interlock_posts h ho hp) ?_
    rw [State.postArrival_releases hd hj hall]
    rw [own] at released
    dsimp only at released
    rw [hd] at released
    obtain ⟨hposted, hstagger, hqueue, hrestart, hstep4⟩ := released
    exact ⟨hposted, hstagger, hqueue, hrestart, hstep4, fun j => keeps j, hregs, hlpddr, hmesh⟩
  · refine runs_of (exec_interlock_posts h ho hp) ?_
    rw [State.postArrival_eq, if_pos hd, if_pos hi, State.stn_illegalOp, if_pos rfl]
    exact ⟨rfl, rfl, (s.reg_illegalOp i w).2, fun j hj => by rw [State.stn_illegalOp, if_neg (List.ne_of_not_mem_cons hj)], s.lpddr_illegalOp i w⟩
  · obtain ⟨hmem, hidle⟩ := Station.commitable_spec h
    refine runs_of (exec_ledgerEntryCommit hw h) ?_
    rw [State.stn_setStn, if_pos rfl]
    exact ⟨rfl, fun g hg => of_decide_eq_true (List.mem_filter.mp hg).2, hmem, hidle, rfl, rfl, rfl, OnlyChanges.setStn _ _ _ _ _ (List.mem_singleton_self _)⟩

end Sys2Proof
end

section
/-! PROOFS. What every instruction may meet beside its effect: refused requests and collisions, a slip, an abandoned word, and a router that holds a flit. -/
namespace Sys2Proof.Machine

/-! ### Flights under their numbers -/

/-- A change of flights that keeps their numbers is a change of the flight found by number. -/
theorem Station.flightOf_mapFlight (x : Station) {mark : Flight → Flight} (h : ∀ o, (mark o).seq = o.seq) (k : Nat) :
    ({ x with iss := { x.iss with flight := x.iss.flight.map mark } } : Station).flightOf k = (x.flightOf k).map mark := by
  unfold Station.flightOf
  rw [List.find?_map]
  congr 2
  funext o
  simp [h]

theorem Station.exists_flightOf {x : Station} {f : Flight} (h : f ∈ x.iss.flight) : ∃ o, x.flightOf f.seq = some o ∧ o.seq = f.seq := by
  cases ho : x.flightOf f.seq with
  | none => simpa using List.find?_eq_none.mp ho f h
  | some o => exact ⟨o, rfl, (Station.mem_flightOf ho).2⟩

theorem State.flightOf_setFlight {s : State} {i : Nat} {f g : Flight} (h : f ∈ (s.stn i).iss.flight) (hs : g.seq = f.seq) :
    ((s.setFlight i g).stn i).flightOf f.seq = some g := by
  unfold State.setFlight
  rw [State.stn_setStn, if_pos rfl]
  exact Station.flightOf_setFlight _ h hs

/-! ### Refused requests and collisions -/

/-- Refused requests and collisions change the counters of the station's platform memory and the count of free values alone (R93, R95). -/
theorem State.observed_only (s : State) (i : Nat) (o : Obs) :
    let t := ((s.countRefused i o.refused).seen i o.clash).2
    OnlyChanges { s with free := t.free } t (obsRegs i) [] := by
  obtain ⟨k, hregs, hstns, hcore⟩ := (s.countRefused i o.refused).seen_only i o.clash
  obtain ⟨rregs, rstns, rcore⟩ := State.countRefused_only i o.refused s
  have free : k = (((s.countRefused i o.refused).seen i o.clash).2).free := (congrArg State.free hcore).symm
  refine ⟨fun a ha => (hregs a ha).trans (rregs a ha), fun j hj => (hstns j hj).trans (rstns j hj), hcore.trans ?_⟩
  rw [← free]
  exact congrArg (fun c : State => { c with free := k }) rcore

section
variable {s t : State} {i : Nat} (h : OnlyChanges { s with free := t.free } t (obsRegs i) [])
include h

theorem State.stn_of_observed (j : Nat) : t.stn j = s.stn j := h.2.1 j List.not_mem_nil

theorem State.faultBits_of_observed : t.faultBits i = s.faultBits i := by
  have page (o : Nat) (h1 : 0x15C ≤ o) (h2 : o < 0x10000) : t.preg i o = s.preg i o :=
    h.1 _ (by simp only [obsRegs, pageBase, List.mem_cons, List.mem_map, List.mem_range]; omega)
  unfold State.faultBits
  rw [page 0x15C (by omega) (by omega), page 0x160 (by omega) (by omega)]

end

/-! ### Slips -/

/-- A slip marks flights under their numbers and logs a record (R147, R451). -/
theorem State.slip_eq (s : State) (i : Nat) (f : Flight) (q : Slip) :
    ∃ (mark : Flight → Flight) (d0 : Word) (d1 : BitVec 64),
      s.slip i f q = (s.setStn i { s.stn i with iss := { (s.stn i).iss with flight := (s.stn i).iss.flight.map mark } }).logFault 0x0102 0 i d0 d1 ∧
      (∀ o, (mark o).seq = o.seq) ∧
      ∀ o, o.seq = f.seq → mark o = { f with stage := .recover (if f.attempts = 0 then 1 else 4), why := ⟨0x0102, d0, d1⟩, tile := none, owed := 0 } := by
  refine ⟨_, _, _, rfl, fun o => ?_, fun o h => if_pos h⟩
  split
  · exact Eq.symm ‹_›
  · split <;> rfl

/-- A slip sends its instruction to the ladder and logs a record; of the station nothing but the flights changes. -/
theorem State.slip_spec {s : State} {i : Nat} {f : Flight} (q : Slip) (h : f ∈ (s.stn i).iss.flight) :
    let t := s.slip i f q
    (∃ fl, t.stn i = { s.stn i with iss := { (s.stn i).iss with flight := fl } }) ∧
    (∃ g, (t.stn i).flightOf f.seq = some g ∧ g.stage = .recover (if f.attempts = 0 then 1 else 4) ∧ g.why.code = 0x0102) ∧
    t.reg 0x6000C = s.reg 0x6000C + 1 ∧ SameStns s t [i] ∧ t.die.mesh = s.die.mesh ∧ t.lpddr = s.lpddr := by
  obtain ⟨o, ho, hos⟩ := Station.exists_flightOf h
  obtain ⟨mark, d0, d1, e, seq, marked⟩ := s.slip_eq i f q
  have own : (s.slip i f q).stn i = { s.stn i with iss := { (s.stn i).iss with flight := (s.stn i).iss.flight.map mark } } := by
    rw [e, State.stn_logFault, State.stn_setStn, if_pos rfl]
  have found : ((s.slip i f q).stn i).flightOf f.seq = some (mark o) := by
    rw [own]
    exact (Station.flightOf_mapFlight _ seq f.seq).trans (congrArg (Option.map mark) ho)
  rw [marked o hos] at found
  refine ⟨⟨_, own⟩, ⟨_, found, rfl, rfl⟩, ?_⟩
  rw [e]
  exact ⟨by simp, fun j hj => by simp [List.ne_of_not_mem_cons hj], by simp, by simp⟩

/-! ### ILLEGAL_OP after issue -/

/-- An abandoned instruction leaves flight, its station stops and a record is logged (R113). -/
theorem State.abandon_spec (s : State) (i : Nat) (f : Flight) :
    let t := s.abandon i f
    t.stn i = { s.stn i with
      iss := { (s.stn i).iss with flight := (s.stn i).iss.flight.filter (fun g => decide (g.seq ≠ f.seq)) }
      ctl := { (s.stn i).ctl with run := .stopped, stopping := false, issueOff := true, sleepReq := false } } ∧
    (t.stn i).flightOf f.seq = none ∧ t.reg 0x6000C = s.reg 0x6000C + 1 ∧ SameStns s t [i] ∧ t.die.mesh = s.die.mesh ∧ t.lpddr = s.lpddr := by
  have own : (s.abandon i f).stn i = { s.stn i with
      iss := { (s.stn i).iss with flight := (s.stn i).iss.flight.filter (fun g => decide (g.seq ≠ f.seq)) }
      ctl := { (s.stn i).ctl with run := .stopped, stopping := false, issueOff := true, sleepReq := false } } := by
    unfold State.abandon
    rw [State.stn_illegalOp, if_pos rfl, State.stn_setStn, if_pos rfl]
  refine ⟨own, ?_, (State.reg_illegalOp _ i f.word).2, fun j hj => ?_, ?_, State.lpddr_illegalOp _ i f.word⟩
  · rw [own]
    exact List.find?_eq_none.mpr (fun g hg => by simpa using (List.mem_filter.mp hg).2)
  · unfold State.abandon
    rw [State.stn_illegalOp, if_neg (List.ne_of_not_mem_cons hj), State.stn_setStn, if_neg (List.ne_of_not_mem_cons hj)]
  · simp [State.abandon, State.illegalOp, State.setFld]

/-! ### Flits at a sleeping station -/

/-- A flit waits at the router of a sleeping station, which asks for wake (R105, R107, R310). -/
theorem State.holdAtRouter_room {s : State} {i : Nat} (f : Flit) (rest : List Flit) (h : (s.stn i).routerHeld.length < 128) :
    let t := s.holdAtRouter i f rest
    (∃ w, t.stn i = { s.stn i with routerHeld := (s.stn i).routerHeld ++ [f], ctl := { (s.stn i).ctl with wakeReq := w } }) ∧
    t.die.mesh = rest ∧ SameRegs s t [] ∧ SameStns s t [i] ∧ t.lpddr = s.lpddr := by
  obtain ⟨⟨w, own⟩, regs, stns, lp, mesh, -⟩ :=
    ((s.setMesh rest).setStn i { s.stn i with routerHeld := (s.stn i).routerHeld ++ [f] }).requestWake_frame i
  unfold State.holdAtRouter
  dsimp only
  rw [if_pos h]
  rw [State.stn_setStn, if_pos rfl] at own
  exact ⟨⟨w, own⟩, mesh, regs, fun j hj => (stns j hj).trans ((State.stn_setStn _ _ _ _).trans (if_neg (List.ne_of_not_mem_cons hj))), lp⟩

end Sys2Proof.Machine
end

section
/-! PROOFS. Reductions (O16) and tokens (O20) between stations: what leaves, what arrives, and the answers that count an instruction off. -/
namespace Sys2Proof.Machine

/-! ### Arrivals -/

section
variable {s : State} {i : Stn} {f : Flit} {rest : List Flit} (hw : s.works = true)
include hw

theorem exec_reduceArrival {src : Stn} {tl : Tile} (h : s.nextRequest src i = some (f, rest)) (hb : f.body = .red tl) :
    exec (.reduceArrival i src) s =
      if (s.stn i).sleeps then .next (s.holdAtRouter i f rest)
      else if (s.stn i).arriveRoom then .next ((s.setMesh rest).setStn i { s.stn i with arrive := (s.stn i).arrive ++ [tl] })
      else .next s := by
  change execReduceArrival i src s = _
  unfold execReduceArrival
  rw [h]
  dsimp only
  rw [hb]
  exact if_pos hw

theorem exec_tokenArrival {src k : Nat} (h : s.nextRequest src i = some (f, rest)) (hb : f.body = .token k) :
    exec (.tokenArrival i src) s = if (s.stn i).sleeps then .next (s.holdAtRouter i f rest) else .next ((s.setMesh rest).serveToken i f k) := by
  change execTokenArrival i src s = _
  unfold execTokenArrival
  rw [h]
  dsimp only
  rw [hb]
  exact if_pos hw

theorem exec_ackReceipt {src : Nat} (h : s.nextAck src i = some (f, rest)) : exec (.ackReceipt i src) s = .next ((s.setMesh rest).takeAnswer i f) := by
  change execAckReceipt i src s = _
  unfold execAckReceipt
  rw [h]
  exact if_pos hw

end

/-! ### Answers -/

/-- An acknowledgement completes its instruction when it is the last that a sent one awaits, and else is counted off (R148, R307). -/
theorem Station.flightOf_acked {x : Station} {k : Nat} {f : Flight} (h : x.flightOf k = some f) :
    (x.acked k).flightOf k = if f.acks ≤ 1 ∧ f.stage = .sent ∧ opc f.word ≠ 0x20 then none else some { f with acks := f.acks - 1 } := by
  obtain ⟨hm, hs⟩ := Station.mem_flightOf h
  have counted : (x.setFlight { f with acks := f.acks - 1 }).flightOf k = some { f with acks := f.acks - 1 } := by
    rw [← hs]
    exact Station.flightOf_setFlight x hm rfl
  have last : f.acks - 1 = 0 ↔ f.acks ≤ 1 := by omega
  unfold Station.acked
  rw [h]
  dsimp only
  simp only [last]
  split
  · exact Station.flightOf_complete _ _
  · exact counted

/-- Flits that leave the mesh with their instruction change what the routers hold and what stations have counted, and nothing else (R147). -/
theorem State.dropFlits_spec (s : State) (i : Nat) :
    (∀ j, ∃ h g, (s.dropFlits i).stn j = { s.stn j with routerHeld := h, got := g }) ∧ SameRegs s (s.dropFlits i) [] ∧ (s.dropFlits i).lpddr = s.lpddr := by
  unfold State.dropFlits
  extract_lets back
  suffices forgets : ∀ (l : List Nat) (u : State), (∀ j, ∃ h g, u.stn j = { s.stn j with routerHeld := h, got := g }) ∧ SameRegs s u [] ∧ u.lpddr = s.lpddr →
      let t := l.foldl (fun (t : State) d => t.setStn d ((t.stn d).forget i back)) u
      (∀ j, ∃ h g, t.stn j = { s.stn j with routerHeld := h, got := g }) ∧ SameRegs s t [] ∧ t.lpddr = s.lpddr from
    forgets _ _ ⟨fun j => ⟨_, _, rfl⟩, fun _ _ => rfl, rfl⟩
  intro l
  induction l with
  | nil => exact fun u h => h
  | cons d r ih =>
    rintro u ⟨stns, regs, lp⟩
    refine ih _ ⟨fun j => ?_, regs, lp⟩
    obtain ⟨h, g, e⟩ := stns j
    rw [State.stn_setStn]
    split
    · rename_i hj
      rw [← hj, e]
      exact ⟨_, _, rfl⟩
    · exact ⟨h, g, e⟩

/-- An instruction whose slip is reported goes to its replay, and its flits leave (R147). -/
theorem State.slip_dropFlits_spec {s : State} {i : Nat} {f : Flight} (q : Slip) (h : f ∈ (s.stn i).iss.flight) :
    let t := (s.slip i f q).dropFlits i
    (∃ g, (t.stn i).flightOf f.seq = some g ∧ g.stage = .recover (if f.attempts = 0 then 1 else 4) ∧ g.why.code = 0x0102) ∧
    t.reg 0x6000C = s.reg 0x6000C + 1 ∧
    (∀ j, (t.stn j).pm = (s.stn j).pm ∧ (t.stn j).slots = (s.stn j).slots ∧ (t.stn j).tokens = (s.stn j).tokens) ∧ t.lpddr = s.lpddr := by
  obtain ⟨⟨fl, own⟩, found, wr, stns, -, lp⟩ := State.slip_spec q h
  obtain ⟨dstns, dregs, dlp⟩ := (s.slip i f q).dropFlits_spec i
  refine ⟨?_, (dregs _ List.not_mem_nil).trans wr, fun j => ?_, dlp.trans lp⟩
  · obtain ⟨held, got, e⟩ := dstns i
    rw [e]
    exact found
  · obtain ⟨held, got, e⟩ := dstns j
    rw [e]
    by_cases hj : j = i
    · rw [hj, own]
      exact ⟨rfl, rfl, rfl⟩
    · rw [stns j (by simpa using hj)]
      exact ⟨rfl, rfl, rfl⟩

/-! ### What leaves -/

section
variable {s : State} {i : Stn} {f : Flight} (h : s.accHead i 0x13 = some f) (hb : bitAt f.word 61 = false)
include h hb

theorem exec_reduce_sends (hl : s.live = true) : exec (.reduce i) s = .next (s.runReduce i f) := by
  change execReduce i s = _
  unfold execReduce
  rw [h]
  exact (if_neg (by simp [hl])).trans (if_neg (by simp [hb]))

end

theorem exec_reduce_halted {s : State} {i : Stn} {f : Flight} (h : s.accHead i 0x13 = some f) (hl : s.live = false) : exec (.reduce i) s = .next s := by
  change execReduce i s = _
  unfold execReduce
  rw [h]
  exact if_pos (by simp [hl])

theorem State.mem_accHead {s : State} {i o : Nat} {f : Flight} (h : s.accHead i o = some f) : f ∈ (s.stn i).iss.flight := by
  unfold State.accHead at h
  split at h
  · rename_i g hg
    split at h
    · cases h
      exact (State.mem_headOf hg).1
    · cases h
  · cases h

section
variable {s : State} {i : Stn} {f : Flight}

theorem exec_give (hl : s.live = true) (h : (s.stn i).iss.flight.find? (fun f => opc f.word = 0x32 && f.stage = .issued) = some f) :
    exec (.give i) s = .next (s.setFlight i { f with stage := .held }) := by
  change execGive i s = _
  unfold execGive
  rw [h]
  exact if_pos hl

variable (h : (s.stn i).iss.flight.find? (fun f => opc f.word = 0x32 && f.stage = .held) = some f)
include h

theorem exec_giveDeliver_waits (ho : (s.stn i).earlierOpen f.seq = true) : exec (.giveDeliver i) s = .next s := by
  change execGiveDeliver i s = _
  unfold execGiveDeliver
  rw [h]
  exact if_neg (by simp [ho])

theorem exec_giveDeliver (hl : s.live = true) (ho : (s.stn i).earlierOpen f.seq = false) : exec (.giveDeliver i) s = .next (s.deliver i f) := by
  change execGiveDeliver i s = _
  unfold execGiveDeliver
  rw [h]
  exact if_pos (by simp [hl, ho])

end

theorem State.giveToken_present {s : State} {i k : Nat} (h : bitAt (s.stn i).tokens k = true) : s.giveToken i k = s.pbump i 0x154 1 := if_pos h

theorem State.deliver_here {s : State} {i : Nat} {f : Flight} (h : fld f.word 28 2 = 0) :
    s.deliver i f = (s.giveToken i (fld f.word 20 8)).setStn i (((s.giveToken i (fld f.word 20 8)).stn i).complete f.seq) := if_pos h

theorem State.deliver_elsewhere {s : State} {i : Nat} {f : Flight} (h : fld f.word 28 2 ≠ 0) :
    s.deliver i f = (s.setFlight i { f with stage := .sent, acks := f.cap.dests.length, landed := 0 }).multicast i f.cap.dests
      (fun d => [⟨i, d, i, f.seq, none, .token (fld f.word 20 8)⟩]) := if_neg h

/-! ### Tokens that arrive -/

theorem State.mesh_giveToken (s : State) (i k : Nat) : (s.giveToken i k).die.mesh = s.die.mesh := by
  unfold State.giveToken
  dsimp only
  split
  · exact State.mesh_bump _ _ _
  · rfl

/-- The mesh after a token is served: the acknowledgement, when a station of this module awaits one elsewhere (R307). -/
theorem State.mesh_serveToken (s : State) (i : Nat) (f : Flit) (k : Nat) :
    (f.req < 128 → f.req ≠ i → f.mod = none → (s.serveToken i f k).die.mesh = s.die.mesh ++ [⟨i, f.req, f.req, f.txn, none, .ack⟩]) ∧
    (128 ≤ f.req ∨ f.mod ≠ none → s.serveToken i f k = s.giveToken i k) := by
  unfold State.serveToken
  refine ⟨fun hr hne hm => ?_, fun h => if_neg ?_⟩
  · dsimp only
    rw [if_pos (by simp [hr, hm])]
    unfold State.acknowledge State.respond
    rw [if_neg (by simp [hne]), if_pos hr, hm]
    exact congrArg (· ++ [_]) (State.mesh_giveToken s i k)
  · rcases h with h | h
    · simp [h]
    · simp [h]

/-- A token that was present already stays so and is counted (R273). -/
theorem State.serveToken_counts {s : State} {i : Nat} (f : Flit) {k : Nat} (h : bitAt (s.stn i).tokens k = true) :
    ((s.serveToken i f k).stn i).tokens = (s.stn i).tokens ∧ ∀ a, (s.serveToken i f k).reg a = (s.bump (pageBase i + 0x154) 1).reg a := by
  have given : s.giveToken i k = s.bump (pageBase i + 0x154) 1 := State.giveToken_present h
  generalize hu : s.bump (pageBase i + 0x154) 1 = u at given ⊢
  have ustn (j : Nat) : u.stn j = s.stn j := by rw [← hu, State.stn_bump]
  rcases s.serveToken_eq i f k with e | ⟨hm, e⟩
  · rw [e, given, ustn]
    exact ⟨rfl, fun _ => rfl⟩
  · rw [e, given]
    obtain ⟨-, -, counted, -⟩ := State.acknowledge_keeps (u.setStn f.req ((u.stn f.req).tokenLanded f.txn)) i f
    refine ⟨counted.trans ?_, fun a => State.reg_acknowledge i hm a⟩
    obtain ⟨-, -, landed, -⟩ := (s.stn i).tokenLanded_keeps f.txn
    rw [State.stn_setStn, ustn, ustn]
    split
    · rename_i hi
      rw [← hi]
      exact landed
    · rfl

theorem State.lpddr_serveToken (s : State) (i : Nat) (f : Flit) (k : Nat) : (s.serveToken i f k).lpddr = s.lpddr := congrArg (·.2.2.1) (s.serveToken_outside i f k)

end Sys2Proof.Machine

namespace Sys2Proof
open Machine

/-- Settles O16: the contribution that leaves, the arrival buffer or the router that takes it, and the answers. -/
theorem reductionsTravel : Obligations.ReductionsTravel := by
  refine fun s i => ⟨fun f h hb => ⟨fun hl => ?_, exec_reduce_halted h⟩, fun src f tl rest hw h hb => ⟨fun hs hroom => ?_, fun hs hroom => ?_, fun hs hroom => ?_⟩,
    fun src a rest hw h => ⟨fun hb => ?_, fun b k f hb hf => ?_⟩⟩
  · refine runs_of (exec_reduce_sends h hb hl) ⟨rfl, ?_, State.flightOf_setFlight (State.mem_accHead h) rfl, fun _ _ => rfl, fun j hj => ?_, rfl⟩
    · simp [State.runReduce, State.setFlight]
    · simp [State.runReduce, State.setFlight, List.ne_of_not_mem_cons hj]
  · refine runs_of ((exec_reduceArrival hw h hb).trans ((if_neg (by simp [hs])).trans (if_pos (by simpa [Station.arriveRoom] using hroom)))) ?_
    rw [State.stn_setStn, if_pos rfl]
    exact ⟨rfl, rfl, rfl, fun _ _ => rfl, fun j hj => by simp [List.ne_of_not_mem_cons hj], rfl⟩
  · exact (exec_reduceArrival hw h hb).trans ((if_neg (by simp [hs])).trans (if_neg (by simpa [Station.arriveRoom, Nat.lt_iff_add_one_le] using hroom)))
  · obtain ⟨⟨w, own⟩, hmesh, hregs, hstns, hlpddr⟩ := State.holdAtRouter_room f rest hroom
    refine runs_of ((exec_reduceArrival hw h hb).trans (if_pos hs)) ?_
    rw [own]
    exact ⟨rfl, hmesh, rfl, rfl, hregs, hstns, hlpddr⟩
  · have answer : (s.setMesh rest).takeAnswer i a = (s.setMesh rest).setStn i ((s.stn i).acked a.txn) := by
      unfold State.takeAnswer
      rw [hb]
      rfl
    obtain ⟨⟨-, -, -, -, -, hslots⟩, hpm, htokens, -⟩ := (s.stn i).acked_keeps a.txn
    refine runs_of (exec_ackReceipt hw h) ?_
    rw [answer, State.stn_setStn, if_pos rfl]
    refine ⟨fun f hf ha hs ho => (Station.flightOf_acked hf).trans (if_pos ⟨ha, hs, ho⟩), fun f hf hc => (Station.flightOf_acked hf).trans (if_neg ?_),
      rfl, hslots id, hpm, htokens, fun _ _ => rfl, fun j hj => by simp [List.ne_of_not_mem_cons hj], rfl⟩
    rintro ⟨ha, hs, ho⟩
    rcases hc with hc | hc | hc
    · omega
    · exact hc hs
    · exact ho hc
  · obtain ⟨hmem, hseq⟩ := Station.mem_flightOf hf
    have answer : (s.setMesh rest).takeAnswer i a = ((s.setMesh rest).slip i f ⟨b, BitVec.ofNat 4 k⟩).dropFlits i := by
      unfold State.takeAnswer
      rw [hb]
      dsimp only
      rw [State.stn_setMesh, hf]
    obtain ⟨found, wr, stns, lp⟩ := State.slip_dropFlits_spec (s := s.setMesh rest) ⟨b, BitVec.ofNat 4 k⟩ hmem
    refine runs_of (exec_ackReceipt hw h) ?_
    rw [answer, ← hseq]
    exact ⟨found, wr, fun j => stns j, lp⟩

/-- Settles O20: a GIVE that is held and delivered, and a token that a station or its router takes. -/
theorem tokensPassBetweenStations : Obligations.TokensPassBetweenStations := by
  refine fun s i => ⟨fun f hl h => ?_, fun f hl h => ⟨exec_giveDeliver_waits h, fun ho => ⟨fun hd => ?_, fun hd => ?_⟩⟩,
    fun src k f rest hw h hb => ⟨fun hs => ?_, fun hs hroom => ?_⟩⟩
  · exact runs_of (exec_give hl h) ⟨State.flightOf_setFlight (List.mem_of_find?_eq_some h) rfl, by simp [State.setFlight], OnlyChanges.setStn _ _ _ _ _ (List.mem_singleton_self _)⟩
  · obtain ⟨b, own, -⟩ := s.giveToken_only i (fld f.word 20 8)
    refine runs_of (exec_giveDeliver h hl ho) ?_
    rw [State.deliver_here hd, State.stn_setStn, if_pos rfl, Station.pm_complete, Station.slots_complete, Station.tokens_complete, own]
    refine ⟨Station.flightOf_complete _ _, rfl, rfl, fun ht => ?_, fun ht => ?_⟩
    · rw [State.stn_giveToken_absent ht, State.stn_setStn, if_pos rfl] at own
      rw [State.stn_giveToken_absent ht, ← own]
      exact ⟨rfl, (OnlyChanges.setStn _ _ _ _ _ (List.mem_singleton_self _)).trans (OnlyChanges.setStn _ _ _ _ _ (List.mem_singleton_self _))⟩
    · have only : OnlyChanges s (s.pbump i 0x154 1) [pageBase i + 0x154] [i.val] := (OnlyChanges.refl s _ _).bump 1 (List.mem_singleton_self _)
      rw [State.giveToken_present ht, State.pbump, State.stn_bump] at own
      rw [State.giveToken_present ht, ← own]
      exact ⟨rfl, by simp [State.pbump], only.trans (OnlyChanges.setStn _ _ _ _ _ (List.mem_singleton_self _))⟩
  · refine runs_of (exec_giveDeliver h hl ho) ?_
    rw [State.deliver_elsewhere hd]
    refine ⟨?_, State.flightOf_setFlight (List.mem_of_find?_eq_some h) rfl, by simp [State.setFlight], fun _ _ => rfl,
      fun j hj => by simp [State.setFlight, List.ne_of_not_mem_cons hj], rfl⟩
    exact congrArg (s.die.mesh ++ ·) List.map_eq_flatMap.symm
  · obtain ⟨⟨-, -, -, -, -, hslots⟩, hpm, -, absent, hstns⟩ := (s.setMesh rest).serveToken_spec i f k
    obtain ⟨acknowledged, silent⟩ := (s.setMesh rest).mesh_serveToken i f k
    refine runs_of ((exec_tokenArrival hw h hb).trans (if_neg (by simp [hs]))) ⟨absent, fun ht => ?_, acknowledged, fun hr => ?_, hpm, hslots id, hstns, State.lpddr_serveToken _ _ _ _⟩
    · obtain ⟨htokens, hregs⟩ := State.serveToken_counts (s := s.setMesh rest) (i := i) f ht
      exact ⟨htokens, (hregs _).trans ((State.reg_bump _ _ _ _).trans (if_pos rfl)), fun a ha => (hregs a).trans ((State.reg_bump _ _ _ _).trans (if_neg (by simpa using ha)))⟩
    · obtain ⟨-, -, gstns, -⟩ := (s.setMesh rest).giveToken_only i k
      rw [silent hr]
      exact ⟨State.mesh_giveToken _ _ _, gstns⟩
  · obtain ⟨⟨w, own⟩, hmesh, hregs, hstns, hlpddr⟩ := State.holdAtRouter_room f rest hroom
    refine runs_of ((exec_tokenArrival hw h hb).trans (if_pos hs)) ?_
    rw [own]
    exact ⟨rfl, hmesh, rfl, hregs, hstns, hlpddr⟩

end Sys2Proof
end

section
/-! PROOFS. PASS and PASSR (O11), WLOAD and its commit (O14): what each may meet, and what it then changes. -/
namespace Sys2Proof.Machine

/-! ### Frames -/

/-- What a PASS, PASSR or WLOAD leaves before a tile is added: slots, handed tiles, tokens and queued words of its station, the other stations, the mesh and LPDDR5X. -/
def PassKeeps (s : State) (i : Nat) (t : State) : Prop :=
  (t.stn i).slots = (s.stn i).slots ∧ (t.stn i).redq = (s.stn i).redq ∧ (t.stn i).tokens = (s.stn i).tokens ∧
  (t.stn i).iss.queue = (s.stn i).iss.queue ∧ SameStns s t [i] ∧ t.die.mesh = s.die.mesh ∧ t.lpddr = s.lpddr

theorem PassKeeps.refl (s : State) (i : Nat) : PassKeeps s i s := ⟨rfl, rfl, rfl, rfl, fun _ _ => rfl, rfl, rfl⟩

theorem PassKeeps.trans {s t u : State} {i : Nat} (h : PassKeeps s i t) (k : PassKeeps t i u) : PassKeeps s i u := by
  obtain ⟨h1, h2, h3, h4, h5, h6, h7⟩ := h
  obtain ⟨k1, k2, k3, k4, k5, k6, k7⟩ := k
  exact ⟨k1.trans h1, k2.trans h2, k3.trans h3, k4.trans h4, fun j hj => (k5 j hj).trans (h5 j hj), k6.trans h6, k7.trans h7⟩

theorem PassKeeps.of_stn {s t : State} {i : Nat} (h : ∀ j, t.stn j = s.stn j) (hm : t.die.mesh = s.die.mesh) (hl : t.lpddr = s.lpddr) : PassKeeps s i t := by
  unfold PassKeeps
  rw [h]
  exact ⟨rfl, rfl, rfl, rfl, fun j _ => h j, hm, hl⟩

theorem PassKeeps.setStn {s : State} {i : Nat} {x : Station} (h1 : x.slots = (s.stn i).slots) (h2 : x.redq = (s.stn i).redq)
    (h3 : x.tokens = (s.stn i).tokens) (h4 : x.iss.queue = (s.stn i).iss.queue) : PassKeeps s i (s.setStn i x) := by
  unfold PassKeeps
  rw [State.stn_setStn, if_pos rfl]
  exact ⟨h1, h2, h3, h4, fun _ hj => (State.stn_setStn _ _ _ _).trans (if_neg (List.ne_of_not_mem_cons hj)), rfl, rfl⟩

theorem PassKeeps.slip {s : State} {i : Nat} {f : Flight} (q : Slip) (h : f ∈ (s.stn i).iss.flight) : PassKeeps s i (s.slip i f q) := by
  obtain ⟨⟨fl, own⟩, -, -, stns, mesh, lp⟩ := State.slip_spec q h
  unfold PassKeeps
  rw [own]
  exact ⟨rfl, rfl, rfl, rfl, stns, mesh, lp⟩

theorem PassKeeps.abandon (s : State) (i : Nat) (f : Flight) : PassKeeps s i (s.abandon i f) := by
  obtain ⟨own, -, -, stns, mesh, lp⟩ := s.abandon_spec i f
  unfold PassKeeps
  rw [own]
  exact ⟨rfl, rfl, rfl, rfl, stns, mesh, lp⟩

theorem PassKeeps.bump (s : State) (i a k : Nat) : PassKeeps s i (s.bump a k) :=
  .of_stn (fun j => s.stn_bump a k j) (s.mesh_bump a k) (s.lpddr_bump a k)

theorem PassKeeps.observed (s : State) (i : Nat) (o : Obs) : PassKeeps s i ((s.countRefused i o.refused).seen i o.clash).2 := by
  have h := s.observed_only i o
  exact .of_stn (State.stn_of_observed h) h.mesh h.lpddr

/-- The counters of refused requests and collisions lie above the blocks of the module. -/
theorem not_mem_obsRegs (i : Nat) {a : Nat} (h : a < 0x200000) : a ∉ obsRegs i := by
  simp only [obsRegs, pageBase, List.mem_cons, List.mem_map, List.mem_range]
  omega

/-- A change after a count of free values has moved on. -/
theorem OnlyChanges.after_free {s t u : State} {r l : List Nat} (h : OnlyChanges { s with free := t.free } t r l) (k : OnlyChanges t u r l) :
    OnlyChanges { s with free := u.free } u r l := by
  have free : u.free = t.free := show u.core.free = t.core.free from congrArg State.free k.2.2
  rw [free]
  exact h.trans k

/-- A credit draw changes the account of the station and leaves the instruction as given but for what it owes (R350, R351). -/
theorem State.draw_spec {s : State} {i : Nat} {f g : Flight} (cost : Nat) (h : f ∈ (s.stn i).iss.flight) (hs : g.seq = f.seq) :
    let t := s.draw i cost g
    (∃ fl a b, t.stn i = { s.stn i with iss := { (s.stn i).iss with flight := fl, account := a, spent := b } }) ∧
    (∃ o, (t.stn i).flightOf f.seq = some { g with owed := o }) ∧ OnlyChanges s t [] [i] := by
  obtain ⟨a, b, o, e⟩ := s.draw_eq i cost g
  dsimp only
  rw [e, State.stn_setStn, if_pos rfl]
  exact ⟨⟨_, a, b, rfl⟩, ⟨o, Station.flightOf_setFlight _ (f := f) h hs⟩, OnlyChanges.setStn _ _ _ _ _ (List.mem_singleton_self i)⟩

theorem PassKeeps.draw {s : State} {i : Nat} {f g : Flight} (cost : Nat) (h : f ∈ (s.stn i).iss.flight) (hs : g.seq = f.seq) : PassKeeps s i (s.draw i cost g) := by
  obtain ⟨⟨fl, a, b, own⟩, -, only⟩ := State.draw_spec (s := s) cost h hs
  unfold PassKeeps
  rw [own]
  exact ⟨rfl, rfl, rfl, rfl, only.2.1, only.mesh, only.lpddr⟩

/-! ### The detour bank -/

/-- What a load of the detour bank changes of its station: platform memory, banks, and what the reload buffer and the detour bank hold (R453, R456). -/
def DetourKeeps (s : State) (i : Nat) (t : State) : Prop :=
  (∃ p b r d, t.stn i = { s.stn i with pm := p, banks := b, reloadBuf := r, detour := d }) ∧ SameStns s t [i] ∧ t.die.mesh = s.die.mesh ∧ t.lpddr = s.lpddr

theorem DetourKeeps.refl (s : State) (i : Nat) : DetourKeeps s i s := ⟨⟨_, _, _, _, rfl⟩, fun _ _ => rfl, rfl, rfl⟩

theorem DetourKeeps.trans {s t u : State} {i : Nat} (h : DetourKeeps s i t) (k : DetourKeeps t i u) : DetourKeeps s i u := by
  obtain ⟨⟨p, b, r, d, h1⟩, h2, h3, h4⟩ := h
  obtain ⟨⟨p', b', r', d', k1⟩, k2, k3, k4⟩ := k
  exact ⟨⟨p', b', r', d', by rw [k1, h1]⟩, fun j hj => (k2 j hj).trans (h2 j hj), k3.trans h3, k4.trans h4⟩

theorem DetourKeeps.of_stn {s t : State} {i : Nat} (h : ∀ j, t.stn j = s.stn j) (hm : t.die.mesh = s.die.mesh) (hl : t.lpddr = s.lpddr) : DetourKeeps s i t :=
  ⟨⟨_, _, _, _, h i⟩, fun _ _ => h _, hm, hl⟩

theorem DetourKeeps.setStn (s : State) (i : Nat) (p : SMap Byte) (b : SMap Bank) (r : Option (Nat × Nat)) (d : Option (Nat × Nat × Bool)) :
    DetourKeeps s i (s.setStn i { s.stn i with pm := p, banks := b, reloadBuf := r, detour := d }) :=
  ⟨⟨p, b, r, d, (State.stn_setStn _ _ _ _).trans (if_pos rfl)⟩, fun _ hj => (State.stn_setStn _ _ _ _).trans (if_neg (List.ne_of_not_mem_cons hj)), rfl, rfl⟩

theorem DetourKeeps.pmPut (s : State) (i a : Nat) (bs : List Byte) : DetourKeeps s i (s.pmPut i a bs) := .setStn s i _ _ _ _

theorem DetourKeeps.loadBank (s : State) (i m k : Nat) (b : Bank) (r : Option (Nat × Nat)) :
    DetourKeeps s i (s.setStn i { (s.stn i).setBank m k b with reloadBuf := r }) := .setStn s i _ _ _ _

theorem DetourKeeps.passKeeps {s t : State} {i : Nat} (h : DetourKeeps s i t) : PassKeeps s i t := by
  obtain ⟨⟨p, b, r, d, own⟩, stns, mesh, lp⟩ := h
  unfold PassKeeps
  rw [own]
  exact ⟨rfl, rfl, rfl, rfl, stns, mesh, lp⟩

theorem DetourKeeps.flight {s t : State} {i : Nat} (h : DetourKeeps s i t) : (t.stn i).iss.flight = (s.stn i).iss.flight := by
  obtain ⟨⟨p, b, r, d, own⟩, -⟩ := h
  rw [own]

theorem State.mesh_useLines (s : State) (ls ce : List Nat) : (s.useLines ls ce).die.mesh = s.die.mesh := by
  obtain ⟨r, q, p, h⟩ := s.useLines_eq ls ce
  rw [h]

theorem State.mesh_readUe (s : State) (l : Nat) : (s.readUe l).die.mesh = s.die.mesh := by
  unfold State.readUe
  dsimp only
  split
  · rw [State.mesh_logFault, State.mesh_bump]
  · rw [State.mesh_logFault, State.mesh_bump]

theorem DetourKeeps.reload (s : State) (i m k dm dk : Nat) (found : Option Nat) (ce : List Nat) : DetourKeeps s i (s.reload i m k dm dk found ce).1 := by
  unfold State.reload
  extract_lets base lines s0
  have used : DetourKeeps s i s0 := .of_stn (fun j => s.stn_useLines _ _ j) (s.mesh_useLines _ _) (s.lpddr_useLines _ _)
  split
  · rename_i l _
    obtain ⟨read, lp, -⟩ := s0.readUe_spec l
    exact used.trans (.of_stn read.stns (s0.mesh_readUe l) lp)
  · split
    · exact used.trans ((DetourKeeps.pmPut s0 i _ _).trans (.loadBank _ i dm dk _ _))
    · exact used.trans (.of_stn (fun j => State.stn_logFault ..) (State.mesh_logFault ..) (State.lpddr_logFault ..))

theorem DetourKeeps.detourReady (s : State) (i m k : Nat) (found : Option Nat) (ce : List Nat) : DetourKeeps s i (s.detourReady i m k found ce).1 := by
  unfold State.detourReady
  dsimp only
  split
  · exact .refl s i
  · generalize hr : s.reload i m k _ _ found ce = r
    have loaded : DetourKeeps s i r.1 := by
      rw [← hr]
      exact .reload s i m k _ _ found ce
    split
    · exact loaded.trans (.setStn r.1 i _ _ _ _)
    · exact loaded

theorem DetourKeeps.detourParts (i : Nat) (f : Flight) (o : Obs) (l : List Nat) (s : State) : DetourKeeps s i (detourParts i f o l s).state := by
  induction l generalizing s with
  | nil => exact .refl s i
  | cons m r ih =>
    have ready := DetourKeeps.detourReady s i m (bankOf f.word) (o.ue.map (·.1)) o.ce
    unfold Machine.detourParts
    dsimp only
    split
    · exact ready
    · exact ready.trans (ih _)

/-! ### PASS and PASSR -/

theorem exec_pass {s : State} {i : Stn} {o : Obs} {f : Flight} {c : Instr} (hw : s.works = true) (h : s.headOf i .mac = some f) (hb : (s.stn i).bankPending f = false)
    (hc : (c = .pass i o ∧ opc f.word = 1) ∨ (c = .passr i o ∧ opc f.word = 2)) : exec c s = .next (s.runPass i f o) := by
  rcases hc with ⟨rfl, ho⟩ | ⟨rfl, ho⟩
  · change execPass i o s = _
    unfold execPass
    rw [h]
    exact if_pos (by simp [hw, hb, ho])
  · change execPassr i o s = _
    unfold execPassr
    rw [h]
    exact if_pos (by simp [hw, hb, ho])

theorem State.runPass_slips {s : State} {i : Nat} {f : Flight} {o : Obs} {q : Slip} (h : slipAt (s.stn i) f o.slip = some q) : s.runPass i f o = s.slip i f q := by
  unfold State.runPass
  rw [h]

section
variable {s : State} {i : Nat} {f : Flight} {o : Obs} {p : SMap Byte × State} {det : DetourOut}
  (hsl : slipAt (s.stn i) f o.slip = none) (hp : (s.countRefused i o.refused).seen i o.clash = p)
  (hd : detourParts i f o ((mgrp f.word).filter (fun m => bitAt (p.2.faultBits i) m)) p.2 = det)
include hsl hp hd

theorem State.runPass_lost {m : Nat} (hl : det.lost = some m) :
    s.runPass i f o = det.state.setFlight i { f with stage := .recover 5, why := goldenWhy p.2 i m (bankOf f.word) } := by
  unfold State.runPass
  rw [hsl, hp]
  dsimp only
  rw [hd, hl]

variable {main : List Nat} {live : List Bank} (hm : (mgrp f.word).filter (fun m => !bitAt (p.2.faultBits i) m) = main)
  (hlive : (main.map (fun m => (p.2.stn i).bank m (bankOf f.word)) ++ det.banks).filter (fun b => !b.zero) = live) (hl : det.lost = none)
include hm hlive hl

theorem State.runPass_disagrees (ha : passAgrees f.word live = false) : s.runPass i f o = det.state.abandon i f := by
  unfold State.runPass
  rw [hsl, hp]
  dsimp only
  rw [hd, hl, hm, hlive]
  exact if_pos (by simp [ha])

/-- A pass whose banks agree computes its tile from the parts of its macros (R87, R117, R119). -/
theorem State.runPass_tile (ha : passAgrees f.word live = true) :
    ∃ u need g, s.runPass i f o = u.draw i need g ∧ OnlyChanges det.state u [pageBase i + 0x124] [] ∧ g.seq = f.seq ∧ g.stage = .computed ∧ g.word = f.word ∧
      g.tile = some (passTile i f live ((mainParts (p.2.stn i) p.1 f o.upsets main ++ det.outs).flatMap (·.2.adds))) := by
  unfold State.runPass
  rw [hsl, hp]
  dsimp only
  rw [hd, hl, hm, hlive]
  dsimp only
  rw [if_neg (by simp [ha])]
  refine ⟨_, _, _, rfl, ?_, rfl, rfl, rfl, rfl⟩
  split
  · exact .refl _ _ _
  · exact (OnlyChanges.refl _ _ _).bump _ (List.mem_singleton_self _)

end

theorem filter_eq_nil_of_filter_not {α : Type} {l : List α} {q : α → Bool} (h : l.filter (fun a => !q a) = l) : l.filter q = [] := by
  rw [List.filter_eq_self] at h
  rw [List.filter_eq_nil_iff]
  exact fun a ha => by simpa using h a ha

/-! ### WLOAD -/

theorem exec_wload {s : State} {i : Stn} {o : Obs} {f : Flight} (hw : s.works = true) (h : s.headOf i .mac = some f) (ho : opc f.word = 3) :
    exec (.wload i o) s = .next (if (s.stn i).wloadWaits f = true then s else s.runWload i f o) := by
  change execWload i o s = _
  unfold execWload
  rw [h]
  dsimp only
  cases (s.stn i).wloadWaits f <;> simp [hw, ho]

theorem State.runWload_slips {s : State} {i : Nat} {f : Flight} {o : Obs} {q : Slip} (h : slipAt (s.stn i) f o.slip = some q) : s.runWload i f o = s.slip i f q := by
  unfold State.runWload
  rw [h]

/-- The banks that a WLOAD writes: those of its macros, each under its number. -/
theorem map_filter_zip_range {β : Type} (l : List Nat) (q : Nat → Bool) (g : Nat → β) :
    ((((List.range l.length).zip l).filter (fun p => q p.2)).map (fun p => g p.2)) = (l.filter q).map g := by
  have names : ((List.range l.length).zip l).map Prod.snd = l := List.map_snd_zip (by simp)
  conv_rhs => rw [← names, List.filter_map, List.map_map]
  rfl

/-- What the write of rows may do to the detour bank (R456). -/
theorem State.dropDetour_spec (s : State) (i : Nat) (stale : Bool) (d : Option (Nat × Nat × Bool)) :
    let t := if stale then s.setStn i { s.stn i with detour := d } else s
    OnlyChanges s t [] [i] ∧ ∃ d', t.stn i = { s.stn i with detour := d' } := by
  cases stale with
  | true => exact ⟨OnlyChanges.setStn _ _ _ _ _ (List.mem_singleton_self i), d, (State.stn_setStn _ _ _ _).trans (if_pos rfl)⟩
  | false => exact ⟨.refl _ _ _, _, rfl⟩

/-- A WLOAD that no slip meets holds the images of its macros that are not faulted, and invalidates the detour bank (R71, R72, R120 to R122, R456). -/
theorem State.runWload_written {s : State} {i : Nat} {f : Flight} {o : Obs} (h : slipAt (s.stn i) f o.slip = none) :
    ∃ u need g, s.runWload i f o = u.draw i need g ∧
      OnlyChanges ((s.countRefused i o.refused).seen i o.clash).2 u [] [i] ∧ (∃ d, u.stn i = { s.stn i with detour := d }) ∧
      g.seq = f.seq ∧ g.stage = .written ∧ g.word = f.word ∧
      g.pend.map (·.1) = ((mgrp f.word).filter (fun m => !bitAt (s.faultBits i) m)).map (fun m => 4 * m + bankOf f.word) := by
  have observed := s.observed_only i o
  have own := State.stn_of_observed observed i
  have faulty := State.faultBits_of_observed observed
  unfold State.runWload
  rw [h]
  generalize (s.countRefused i o.refused).seen i o.clash = p at observed own faulty
  dsimp only
  obtain ⟨changed, d, udetour⟩ := p.2.dropDetour_spec i _ _
  refine ⟨_, _, _, rfl, changed, ⟨d, udetour.trans (by rw [own])⟩, rfl, rfl, rfl, ?_⟩
  rw [List.map_map, ← faulty]
  exact map_filter_zip_range (mgrp f.word) (fun m => !bitAt (p.2.faultBits i) m) (fun m => 4 * m + bankOf f.word)

/-- A commit of banks changes nothing of the station beside them. -/
theorem Station.eq_of_foldl_setBank (l : List (Nat × Bank)) (x : Station) :
    ∃ b, l.foldl (fun y p => y.setBank (p.1 / 4) (p.1 % 4) p.2) x = { x with banks := b } := by
  induction l generalizing x with
  | nil => exact ⟨_, rfl⟩
  | cons p r ih =>
    obtain ⟨b, e⟩ := ih (x.setBank (p.1 / 4) (p.1 % 4) p.2)
    exact ⟨b, e⟩

end Sys2Proof.Machine

namespace Sys2Proof
open Machine

/-- Settles O11: a pass slips, loses its detour image, disagrees, or computes its tile, and each of these leaves its frame. -/
theorem passesComputeOrStop : Obligations.PassesComputeOrStop := by
  intro s i o f c hw h hb hc
  have hmem := (State.mem_headOf h).1
  generalize hp : (s.countRefused i o.refused).seen i o.clash = p
  intro p' main det live
  have observed : OnlyChanges { s with free := p.2.free } p.2 (obsRegs i) [] := by
    have := s.observed_only i o
    rwa [hp] at this
  have pstn (j : Nat) : p.2.stn j = s.stn j := State.stn_of_observed observed j
  have detour := DetourKeeps.detourParts i f o ((mgrp f.word).filter (fun m => bitAt (p.2.faultBits i) m)) p.2
  have keeps : PassKeeps s i det.state := (PassKeeps.of_stn pstn observed.mesh observed.lpddr).trans detour.passKeeps
  have dmem : f ∈ (det.state.stn i).iss.flight := by
    rw [detour.flight, pstn]
    exact hmem
  have plain (hmain : main = mgrp f.word) : det = ⟨p.2, [], [], 0, none⟩ := by
    simp only [det, p', filter_eq_nil_of_filter_not hmain, detourParts_nil]
  cases hsl : slipAt (s.stn i) f o.slip with
  | some q =>
    obtain ⟨-, ⟨g, hg, hstage, -⟩, -⟩ := State.slip_spec q hmem
    obtain ⟨h1, h2, h3, h4, h5, h6, h7⟩ := PassKeeps.slip q hmem
    refine runs_of ((exec_pass hw h hb hc).trans (congrArg _ (State.runPass_slips hsl))) ⟨fun g' hg' => ?_, h1, h2, h3, h4, h5, h6, h7, nofun, nofun⟩
    rw [hg] at hg'
    cases hg'
    rw [hstage]
    nofun
  | none =>
    cases hl : det.lost with
    | some m =>
      have found : ((det.state.setFlight i _).stn i).flightOf f.seq = some _ :=
        State.flightOf_setFlight (g := { f with stage := .recover 5, why := goldenWhy p.2 i m (bankOf f.word) }) dmem rfl
      obtain ⟨h1, h2, h3, h4, h5, h6, h7⟩ := keeps.trans (.setStn (x := (det.state.stn i).setFlight { f with stage := .recover 5, why := goldenWhy p.2 i m (bankOf f.word) }) rfl rfl rfl rfl)
      refine runs_of ((exec_pass hw h hb hc).trans (congrArg _ (State.runPass_lost hsl hp rfl hl))) ⟨fun g hg => ?_, h1, h2, h3, h4, h5, h6, h7, fun _ => nofun, fun _ hmain => ?_⟩
      · rw [found] at hg
        cases hg
        nofun
      · rw [plain hmain] at hl
        cases hl
    | none =>
      cases ha : passAgrees f.word live with
      | false =>
        obtain ⟨own, gone, wr, -⟩ := det.state.abandon_spec i f
        obtain ⟨h1, h2, h3, h4, h5, h6, h7⟩ := keeps.trans (.abandon _ i f)
        refine runs_of ((exec_pass hw h hb hc).trans (congrArg _ (State.runPass_disagrees hsl hp rfl rfl rfl hl ha)))
          ⟨fun g hg => ?_, h1, h2, h3, h4, h5, h6, h7, fun _ _ => nofun, fun _ hmain _ => ⟨by rw [own], gone, wr.trans ?_⟩⟩
        · rw [gone] at hg
          cases hg
        · rw [plain hmain]
          exact congrArg (· + 1) (observed.1 _ (not_mem_obsRegs i (by decide)))
      | true =>
        obtain ⟨u, need, g, e, uonly, seq, computed, word, tile⟩ := State.runPass_tile hsl hp rfl rfl rfl hl ha
        have ustn (j : Nat) : u.stn j = det.state.stn j := uonly.2.1 j List.not_mem_nil
        have umem : f ∈ (u.stn i).iss.flight := by rw [ustn]; exact dmem
        obtain ⟨⟨fl, a, b, own⟩, ⟨w, found⟩, only⟩ := State.draw_spec (s := u) need umem seq
        obtain ⟨h1, h2, h3, h4, h5, h6, h7⟩ := keeps.trans ((PassKeeps.of_stn ustn uonly.mesh uonly.lpddr).trans (.draw need umem seq))
        refine runs_of ((exec_pass hw h hb hc).trans (congrArg _ e))
          ⟨fun g' hg => ?_, h1, h2, h3, h4, h5, h6, h7, fun _ _ _ => ⟨⟨_, found, computed, word, tile⟩, fun hmain => ?_⟩, fun _ _ => nofun⟩
        · rw [found] at hg
          cases hg
          rw [computed]
          nofun
        · have same : det.state = p.2 := congrArg DetourOut.state (plain hmain)
          rw [same] at ustn uonly
          rw [ustn, pstn] at own
          rw [own]
          exact ⟨rfl, rfl, (observed.mono (fun _ => List.mem_cons_of_mem _) (fun _ => nofun)).after_free
            ((uonly.mono (fun a ha => by rw [List.mem_singleton.mp ha]; exact List.mem_cons_self) (fun _ => nofun)).trans
              (only.mono (fun _ => nofun) (fun _ hj => hj)))⟩

/-- Settles O14: a WLOAD slips or holds its images, and the commit of the earliest written one writes their banks. -/
theorem weightLoadsCommit : Obligations.WeightLoadsCommit := by
  intro s i f hw
  refine ⟨fun o h ho => ⟨fun hb => ?_, fun hb => ?_⟩, fun h => ?_⟩
  · rw [exec_wload hw h ho, if_pos hb]
  · have hmem := (State.mem_headOf h).1
    have runs := exec_wload (o := o) hw h ho
    rw [if_neg (by simp [hb])] at runs
    cases hsl : slipAt (s.stn i) f o.slip with
    | some q =>
      rw [State.runWload_slips hsl] at runs
      obtain ⟨⟨fl, own⟩, ⟨g, found, stage, -⟩, -, stns, mesh, lp⟩ := State.slip_spec q hmem
      refine runs_of runs ⟨fun g' hg => ?_, by rw [own], by rw [own], by rw [own], by rw [own], stns, mesh, lp, nofun⟩
      rw [found] at hg
      cases hg
      rw [stage]
      nofun
    | none =>
      obtain ⟨u, need, g, e, uonly, ⟨d, ustn⟩, seq, stage, word, pend⟩ := State.runWload_written (o := o) hsl
      rw [e] at runs
      have umem : f ∈ (u.stn i).iss.flight := by rw [ustn]; exact hmem
      obtain ⟨⟨fl, a, b, own⟩, ⟨w, found⟩, only⟩ := State.draw_spec need umem seq
      have all := ((s.observed_only i o).mono (fun _ h => h) (fun _ => nofun)).after_free ((uonly.trans only).mono (fun _ => nofun) (fun _ h => h))
      rw [ustn] at own
      refine runs_of runs ⟨fun g' hg => ?_, by rw [own], by rw [own], by rw [own], by rw [own], all.2.1, all.mesh, all.lpddr,
        fun _ => ⟨⟨_, found, stage, word, pend⟩, all⟩⟩
      rw [found] at hg
      cases hg
      rw [stage]
      nofun
  intro busy
  have commit : exec (.wloadCommit i) s = if (s.works && decide (f.owed = 0) && !busy) = true
      then .next (s.setStn i ((f.pend.foldl (fun y p => y.setBank (p.1 / 4) (p.1 % 4) p.2) (s.stn i)).complete f.seq)) else .next s := by
    change execWloadCommit i s = _
    unfold execWloadCommit
    dsimp only
    rw [h]
  clear_value busy
  refine ⟨fun hb => ?_, fun h0 hb => ?_⟩
  · rw [commit, if_neg (by rcases hb with hb | hb <;> simp [hb])]
  · obtain ⟨b, e⟩ := Station.eq_of_foldl_setBank f.pend (s.stn i)
    have runs := commit.trans (if_pos (by simp [hw, h0, hb]))
    rw [e] at runs ⊢
    refine runs_of runs ?_
    rw [State.stn_setStn, if_pos rfl]
    exact ⟨by simp, by simp, by simp, by simp, by simp, OnlyChanges.setStn _ _ _ _ _ (List.mem_singleton_self _)⟩

end Sys2Proof
end

section
/-! PROOFS. CONSIST and its completion (O24). -/
namespace Sys2Proof.Machine

/-! ### A CONSIST that runs -/

/-- The guard of a landed effect is recorded in the ledger alone (R269). -/
theorem Station.guardDone_ledger (x : Station) (g : Option (Nat × Nat)) (c : Bool) : ∃ led, (if c then x.guardDone g else x) = { x with ledger := led } := by
  cases c with
  | false => exact ⟨_, rfl⟩
  | true => cases g <;> exact ⟨_, rfl⟩

/-- The counters that a CONSIST raises. -/
def consistRegs (i : Nat) : List Nat := [pageBase i + 0x120, pageBase i + 0x148, pageBase i + 0x14C]

theorem State.pbump_unless_zero (s : State) {i o k : Nat} {r : List Nat} (h : pageBase i + o ∈ r) : OnlyChanges s (if k = 0 then s else s.pbump i o k) r [] := by
  split
  · exact .refl _ _ _
  · exact (OnlyChanges.refl _ _ _).bump k h

theorem State.consistCounts_only (s : State) (i : Nat) (out : ConsistOut) : OnlyChanges s (s.consistCounts i out) (consistRegs i) [] :=
  ((s.pbump_unless_zero (by simp [consistRegs])).trans (State.pbump_unless_zero _ (by simp [consistRegs]))).trans (State.pbump_unless_zero _ (by simp [consistRegs]))

theorem State.runConsist_slips {s : State} {i : Nat} {f : Flight} {o : Obs} {q : Slip} (h : slipAt (s.stn i) f o.slip = some q) : s.runConsist i f o = s.slip i f q := by
  unfold State.runConsist
  rw [h]

theorem State.runConsist_uncorrectable {s : State} {i : Nat} {f : Flight} {o : Obs} {u : Nat × Nat} (h : slipAt (s.stn i) f o.slip = none) (hu : o.ue = some u) :
    s.runConsist i f o = s.tileBufUe i f u := by
  unfold State.runConsist
  rw [h, hu]

/-- The station after a CONSIST: its record slots set, its output in platform memory unless it goes to other stations (R133, R194). -/
def Station.consisted (x : Station) (led : Ledger) (c : ConsistOut) (far : Bool) (g : Flight) : Station :=
  ({ x with ledger := led, slots := c.slots, pm := if far then x.pm else pmApply x.pm c.writes } : Station).setFlight g

/-- A CONSIST that neither a slip nor an uncorrectable word meets (R133, R178, R194). -/
theorem State.runConsist_runs {s : State} {i : Nat} {f : Flight} {o : Obs} {p : SMap Byte × State} {c : ConsistOut} {far : Bool}
    (h : slipAt (s.stn i) f o.slip = none) (hu : o.ue = none) (hp : (s.countRefused i o.refused).seen i o.clash = p)
    (hc : (consistIn p.1 (s.stn i) f).run = c) (hf : (decide (fld f.word 102 2 = 1) || decide (fld f.word 102 2 = 2)) = far) :
    let dests := if c.writes.isEmpty then [] else f.cap.dests
    let g := { f with stage := .sent, acks := if far then dests.length else 0, result := c.result }
    ∃ led need, let s1 := p.2.setStn i ((s.stn i).consisted led c far g)
      s.runConsist i f o = ((if far then s1.multicast i dests (fun d => wrFlits i d f.seq c.writes) else s1).consistCounts i c).draw i need g := by
  have own : p.2.stn i = s.stn i := by
    have := State.stn_of_observed (s.observed_only i o) i
    rwa [hp] at this
  let d := (consistIn p.1 (s.stn i) f).d
  obtain ⟨led, done⟩ := (s.stn i).guardDone_ledger f.guard (d.stat || d.mv)
  intro dests g
  refine ⟨led, (d.nstg + 2) * (if d.pair then 2 * mextOf f.word else mextOf f.word), ?_⟩
  unfold State.runConsist
  rw [h, hu, hp]
  dsimp only
  rw [own, hc, hf]
  simp only [d] at done
  rw [done]
  rfl

theorem State.tileBufUe_spec {s : State} {i : Nat} {f : Flight} (u : Nat × Nat) (h : f ∈ (s.stn i).iss.flight) :
    let t := s.tileBufUe i f u
    (∃ fl, t.stn i = { s.stn i with iss := { (s.stn i).iss with flight := fl } }) ∧
    (∃ g, (t.stn i).flightOf f.seq = some g ∧ g.stage = .recover (if f.attempts = 0 then 1 else 4)) ∧ SameStns s t [i] ∧ t.lpddr = s.lpddr := by
  have own : (s.tileBufUe i f u).stn i = (s.stn i).setFlight { f with
      stage := .recover (if f.attempts = 0 then 1 else 4), why := ⟨0x0103, BitVec.ofNat 32 u.1, BitVec.ofNat 64 u.2⟩ } := by
    unfold State.tileBufUe State.setFlight
    dsimp only
    rw [State.stn_logFault, State.stn_setStn, if_pos rfl]
  refine ⟨⟨_, own⟩, ⟨_, by rw [own]; exact Station.flightOf_setFlight _ h rfl, rfl⟩, fun j hj => ?_, ?_⟩
  · simp [State.tileBufUe, State.setFlight, List.ne_of_not_mem_cons hj]
  · simp [State.tileBufUe, State.setFlight]

theorem exec_consist {s : State} {i : Stn} {o : Obs} {f : Flight} (hw : s.works = true) (h : s.headOf i .consist = some f) (ho : opc f.word = 0x20) :
    exec (.consist i o) s = .next (s.runConsist i f o) := by
  change execConsist i o s = _
  unfold execConsist
  rw [h]
  exact if_pos (by simp [hw, ho])

/-- What a CONSIST that runs leaves (R133, R194, R307). -/
theorem State.runConsist_spec {s : State} {i : Nat} {f : Flight} {o : Obs} {p : SMap Byte × State} {c : ConsistOut} {far : Bool} (hm : f ∈ (s.stn i).iss.flight)
    (h : slipAt (s.stn i) f o.slip = none) (hu : o.ue = none) (hp : (s.countRefused i o.refused).seen i o.clash = p)
    (hc : (consistIn p.1 (s.stn i) f).run = c) (hf : (decide (fld f.word 102 2 = 1) || decide (fld f.word 102 2 = 2)) = far) :
    let dests := if c.writes.isEmpty then [] else f.cap.dests
    let t := s.runConsist i f o
    (∃ led fl a b, t.stn i = { s.stn i with ledger := led, slots := c.slots, pm := if far then (s.stn i).pm else pmApply (s.stn i).pm c.writes
                                            iss := { (s.stn i).iss with flight := fl, account := a, spent := b } }) ∧
    (∃ g, (t.stn i).flightOf f.seq = some g ∧ g.stage = .sent ∧ g.word = f.word ∧ g.result = c.result ∧ g.acks = if far then dests.length else 0) ∧
    (far = false → OnlyChanges { s with free := t.free } t (consistRegs i ++ obsRegs i) [i]) ∧
    t.die.mesh = (if far then s.die.mesh ++ dests.flatMap (fun d => wrFlits i d f.seq c.writes) else s.die.mesh) ∧
    SameRegs s t (consistRegs i ++ obsRegs i) ∧ SameStns s t [i] ∧ t.lpddr = s.lpddr := by
  obtain ⟨led, need, e⟩ := State.runConsist_runs h hu hp hc hf
  have observed := s.observed_only i o
  rw [hp] at observed
  intro dests t
  let g : Flight := { f with stage := .sent, acks := if far then dests.length else 0, result := c.result }
  let s1 := p.2.setStn i ((s.stn i).consisted led c far g)
  let s2 := if far then s1.multicast i dests (fun d => wrFlits i d f.seq c.writes) else s1
  have moved : OnlyChanges p.2 s1 [] [i] := OnlyChanges.setStn _ _ _ _ _ (List.mem_singleton_self i)
  have s2stn (j : Nat) : s2.stn j = s1.stn j := by
    simp only [s2]
    split <;> rfl
  have counted := s2.consistCounts_only i c
  have ustn : (s2.consistCounts i c).stn i = (s.stn i).consisted led c far g := by
    rw [counted.2.1 i List.not_mem_nil, s2stn, State.stn_setStn, if_pos rfl]
  have umem : g ∈ ((s2.consistCounts i c).stn i).iss.flight := by
    rw [ustn]
    exact Station.mem_setFlight (f := f) hm rfl
  obtain ⟨⟨fl, a, b, own⟩, ⟨w, found⟩, drawn⟩ := State.draw_spec need umem rfl
  have e : t = (s2.consistCounts i c).draw i need g := e
  rw [← e] at own found drawn
  rw [ustn] at own
  have s2regs (a : Nat) : s2.reg a = p.2.reg a := by
    simp only [s2]
    split <;> exact moved.1 a List.not_mem_nil
  have s2lpddr : s2.lpddr = p.2.lpddr := by
    simp only [s2]
    split <;> exact moved.lpddr
  refine ⟨⟨led, fl, a, b, own⟩, ⟨_, found, rfl, rfl, rfl, rfl⟩, fun near => ?_, ?_, fun a ha => ?_, fun j hj => ?_, ?_⟩
  · have same : s2 = s1 := by simp only [s2, near, Bool.false_eq_true, if_false]
    rw [same] at counted drawn
    exact (observed.mono (fun _ => List.mem_append_right _) (fun _ => nofun)).after_free
      ((moved.mono (fun _ => nofun) (fun _ h => h)).trans ((counted.mono (fun _ => List.mem_append_left _) (fun _ => nofun)).trans
        (drawn.mono (fun _ => nofun) (fun _ h => h))))
  · rw [drawn.mesh, counted.mesh]
    have base : p.2.die.mesh = s.die.mesh := observed.mesh
    simp only [s2]
    split
    · rw [State.mesh_multicast, moved.mesh, base]
    · rw [moved.mesh, base]
  · rw [drawn.1 a List.not_mem_nil, counted.1 a (fun h => ha (List.mem_append_left _ h)), s2regs, observed.1 a (fun h => ha (List.mem_append_right _ h))]
    rfl
  · rw [drawn.2.1 j hj, counted.2.1 j List.not_mem_nil, s2stn, moved.2.1 j hj]
    exact State.stn_of_observed observed j
  · rw [drawn.lpddr, counted.lpddr, s2lpddr]
    exact observed.lpddr

/-! ### Its completion -/

theorem exec_consistComplete {s : State} {i : Stn} {f : Flight} (hw : s.works = true) (h : (s.stn i).iss.flight.find? (fun f => opc f.word = 0x20) = some f) :
    exec (.consistComplete i) s =
      .next (if f.stage = .sent ∧ f.acks = 0 ∧ f.owed = 0 then s.setStn i (((s.stn i).setResult f).complete f.seq) else s) := by
  change execConsistComplete i s = _
  unfold execConsistComplete
  dsimp only
  rw [h]
  simp only [hw, Bool.true_and, Bool.and_eq_true, decide_eq_true_eq, and_assoc]
  split <;> rfl

/-- A SUMMARY issued after a CONSIST that sets its results holds those results (R134). -/
theorem Station.result_of_setResult {x : Station} {f g : Flight} (h : g ∈ (x.setResult f).iss.flight) (ho : opc g.word = 0x21) (hs : f.seq < g.seq) : g.result = f.result := by
  obtain ⟨o, -, rfl⟩ := List.mem_map.mp h
  by_cases c : opc o.word = 0x21 ∧ f.seq < o.seq
  · rw [if_pos c]
  · rw [if_neg c] at ho hs
    exact absurd ⟨ho, hs⟩ c

end Sys2Proof.Machine

namespace Sys2Proof
open Machine

/-- Settles O24: a CONSIST slips, meets an uncorrectable word or runs, and its completion sets the reducer results. -/
theorem consistRunsAndCompletes : Obligations.ConsistRunsAndCompletes := by
  intro s i f hw
  refine ⟨fun o h ho => ?_, fun h => ⟨fun hb => ?_, fun h1 h2 h3 => ?_⟩⟩
  · have hmem := (State.mem_headOf h).1
    generalize hp : (s.countRefused i o.refused).seen i o.clash = p
    intro p' c far dests
    have runs := exec_consist (o := o) hw h ho
    cases hsl : slipAt (s.stn i) f o.slip with
    | some q =>
      rw [State.runConsist_slips hsl] at runs
      obtain ⟨⟨fl, own⟩, ⟨g, found, stage, -⟩, -, stns, -, lp⟩ := State.slip_spec q hmem
      refine runs_of runs ⟨fun g' hg => ?_, by rw [own], by rw [own], by rw [own], by rw [own], stns, lp, nofun⟩
      rw [found] at hg
      cases hg
      rw [stage]
      nofun
    | none =>
      cases hu : o.ue with
      | some u =>
        rw [State.runConsist_uncorrectable hsl hu] at runs
        obtain ⟨⟨fl, own⟩, ⟨g, found, stage⟩, stns, lp⟩ := State.tileBufUe_spec u hmem
        refine runs_of runs ⟨fun g' hg => ?_, by rw [own], by rw [own], by rw [own], by rw [own], stns, lp, fun _ => nofun⟩
        rw [found] at hg
        cases hg
        rw [stage]
        nofun
      | none =>
        generalize hf : (decide (fld f.word 102 2 = 1) || decide (fld f.word 102 2 = 2)) = far'
        have isFar : far ↔ far' = true := by simp only [far, ← hf, Bool.or_eq_true, decide_eq_true_eq]
        obtain ⟨⟨led, fl, a, b, own⟩, ⟨g, found, stage, word, result, acks⟩, near, mesh, regs, stns, lp⟩ := State.runConsist_spec hmem hsl hu hp rfl hf
        refine runs_of runs ⟨fun g' hg => ?_, by rw [own], by rw [own], by rw [own], by rw [own], stns, lp, fun _ _ => ⟨by rw [own],
          ⟨g, found, stage, word, result, fun hn => ?_, fun hy => ?_⟩, fun hn => ?_, fun hy => ?_⟩⟩
        · rw [found] at hg
          cases hg
          rw [stage]
          nofun
        · rw [acks, if_neg (mt isFar.mpr hn)]
        · rw [acks, if_pos (isFar.mp hy)]
        · rw [isFar, Bool.not_eq_true] at hn
          subst hn
          exact ⟨by rw [own]; rfl, near rfl⟩
        · rw [isFar.mp hy] at own mesh
          exact ⟨by rw [own]; rfl, mesh, regs⟩
  · rw [exec_consistComplete hw h, if_neg (by tauto)]
  · have runs := exec_consistComplete hw h
    rw [if_pos ⟨h1, h2, h3⟩] at runs
    refine runs_of runs ?_
    rw [State.stn_setStn, if_pos rfl]
    refine ⟨by simp [Station.setResult], by simp, fun g hg ho hs => ?_, by simp [Station.setResult], by simp [Station.setResult], by simp [Station.setResult],
      OnlyChanges.setStn _ _ _ _ _ (List.mem_singleton_self _)⟩
    rw [Station.flight_complete] at hg
    exact Station.result_of_setResult (List.mem_filter.mp hg).1 ho hs

end Sys2Proof
end

section
/-! PROOFS. LD and MCAST (O22, first part): the lines that leave their controllers, and what an uncorrectable one leads to. -/
namespace Sys2Proof.Machine

/-! ### Lines that leave -/

/-- The WR flit that carries line `r` of an LD or MCAST to a destination (R299, R304). -/
def lineFlit (s : State) (i : Nat) (f : Flight) (r : Nat) (ls : List Nat) (d : Nat) : Flit :=
  ⟨128 + ctrlEdge (ctrlOf (ldLine f.word r)), d, i, f.seq, none,
    .wr (whole ((fld f.word 20 14 + r) * 64 % 0x100000) (s.line (ldLine f.word r))) ls (totalOf f.word) (streamOf f.word)⟩

/-- Flits have joined the mesh, and nothing else has changed but the count of crossed links. -/
def State.posted (s : State) (fs : List Flit) (n : Nat) : State := (s.setMesh (s.die.mesh ++ fs)).addHops n

/-- From one state to another, flits of instruction `f` for its destinations have joined the mesh, those of the lines `rs` among them. -/
def LinesLeft (i : Nat) (f : Flight) (dests rs : List Nat) (s t : State) : Prop :=
  ∃ fs n, t = s.posted fs n ∧ (∀ g ∈ fs, g.req = i ∧ g.txn = f.seq ∧ g.dst ∈ dests ∧ g.mod = none) ∧
    ∀ r ∈ rs, ∀ d ∈ dests, ∃ ls, lineFlit s i f r ls d ∈ fs ∧ r ∈ ls

section
variable {i : Nat} {f : Flight} {dests : List Nat}

theorem LinesLeft.refl (s : State) : LinesLeft i f dests [] s s := ⟨[], 0, by simp [State.posted, State.setMesh, State.addHops], nofun, nofun⟩

theorem LinesLeft.trans {rs qs : List Nat} {s t u : State} (h : LinesLeft i f dests rs s t) (k : LinesLeft i f dests qs t u) : LinesLeft i f dests (rs ++ qs) s u := by
  obtain ⟨fs, n, rfl, hf, hl⟩ := h
  obtain ⟨gs, m, rfl, kf, kl⟩ := k
  refine ⟨fs ++ gs, n + m, ?_, fun g hg => (List.mem_append.mp hg).elim (hf g) (kf g), fun r hr d hd => ?_⟩
  · simp [State.posted, State.setMesh, State.addHops, Nat.add_assoc]
  · rcases List.mem_append.mp hr with hr | hr
    · obtain ⟨ls, hg, hls⟩ := hl r hr d hd
      exact ⟨ls, List.mem_append_left _ hg, hls⟩
    · obtain ⟨ls, hg, hls⟩ := kl r hr d hd
      exact ⟨ls, List.mem_append_right _ hg, hls⟩

theorem LinesLeft.sendLine (s : State) (skips : List Nat) (r : Nat) : LinesLeft i f dests [r] s (s.sendLine i f dests skips r) := by
  refine ⟨dests.flatMap (fun d => [lineFlit s i f r (r :: skips) d]), hopsOf i (128 + ctrlEdge (ctrlOf (ldLine f.word r))) +
    treeHops (128 + ctrlEdge (ctrlOf (ldLine f.word r))) dests, ?_, fun g hg => ?_, fun q hq d hd => ⟨r :: skips, ?_, ?_⟩⟩
  · simp [State.sendLine, State.posted, State.multicast, State.setMesh, State.addHops, Nat.add_assoc, lineFlit, State.line, pmTop]
  · obtain ⟨d, hd, hg⟩ := List.mem_flatMap.mp hg
    rw [List.mem_singleton.mp hg]
    exact ⟨rfl, rfl, hd, rfl⟩
  · rw [List.mem_singleton.mp hq]
    exact List.mem_flatMap.mpr ⟨d, hd, List.mem_singleton_self _⟩
  · rw [List.mem_singleton.mp hq]
    exact List.mem_cons_self

theorem LinesLeft.sendSkips (s : State) (skips : List Nat) : LinesLeft i f dests [] s (s.sendSkips i f dests skips) := by
  unfold State.sendSkips
  split
  · exact .refl s
  · refine ⟨_, 0, rfl, fun g hg => ?_, nofun⟩
    obtain ⟨d, hd, rfl⟩ := List.mem_map.mp hg
    exact ⟨rfl, rfl, hd, rfl⟩

theorem LinesLeft.foldl (rs : List Nat) (s : State) : LinesLeft i f dests rs s (rs.foldl (fun t q => t.sendLine i f dests [] q) s) := by
  induction rs generalizing s with
  | nil => exact .refl s
  | cons r rs ih => exact (LinesLeft.sendLine s [] r).trans (ih _)

theorem LinesLeft.sendLines (s : State) (skips rs : List Nat) : LinesLeft i f dests rs s (s.sendLines i f dests skips rs) := by
  cases rs with
  | nil => exact .sendSkips s skips
  | cons r rs => exact (LinesLeft.sendLine s skips r).trans (.foldl rs _)

theorem LinesLeft.clean {rs : List Nat} {s t : State} (h : LinesLeft i f dests rs s t) : CleanRead s t := by
  obtain ⟨fs, n, rfl, -⟩ := h
  exact ⟨rfl, fun _ => rfl, rfl, rfl, rfl, rfl, fun _ _ => rfl⟩

theorem LinesLeft.reg {rs : List Nat} {s t : State} (h : LinesLeft i f dests rs s t) (a : Nat) : t.reg a = s.reg a := by
  obtain ⟨fs, n, rfl, -⟩ := h
  rfl

end

/-! ### Reads -/

theorem State.useLines_clean (s : State) (ls ce : List Nat) : CleanRead s (s.useLines ls ce) := by
  unfold State.useLines
  induction ls generalizing s with
  | nil => exact .refl s
  | cons l ls ih => exact ((s.wakeChannel_clean l).trans (State.corrected_clean _ l _)).trans (ih _)

/-- Corrected reads leave the counters of uncorrectable lines (R289, R290). -/
theorem State.reg_useLines_other (s : State) (ls ce : List Nat) {a : Nat} (h : a % 0x1000 ≠ 0x14) : (s.useLines ls ce).reg a = s.reg a := by
  unfold State.useLines
  induction ls generalizing s with
  | nil => rfl
  | cons l ls ih =>
    rw [List.foldl_cons, ih]
    unfold State.corrected State.mbump
    split
    · rw [State.reg_bump, if_neg (by omega)]
      rfl
    · rfl

/-- The state in which an LD or MCAST reads: an error observed in the array of a line that it reads has happened (R288). -/
def State.ldSeen (s : State) (w : PWord) (us : List Nat) (ue : Option (Nat × Nat)) : State :=
  match ue with
  | some u => if (s.ldReads w us).any (fun p => decide (ldLine w p.1 = u.1)) then s.arrayError u.1 else s
  | none => s

theorem State.stn_ldSeen (s : State) (w : PWord) (us : List Nat) (ue : Option (Nat × Nat)) (j : Nat) : (s.ldSeen w us ue).stn j = s.stn j := by
  unfold State.ldSeen
  split
  · split
    · exact (s.arrayError_lineRead _).stns j
    · rfl
  · rfl

/-- Under inline ECC no error stays hidden (R289, R290). -/
theorem State.ldSeen_told {s : State} {ue : Option (Nat × Nat)} (w : PWord) (us : List Nat) (h : ∀ u, ue = some u → s.inEcc u.1 = true) : s.ldSeen w us ue = s := by
  cases ue with
  | none => rfl
  | some u =>
    have told : s.arrayError u.1 = s := if_pos (by rw [h u rfl]; rfl)
    unfold State.ldSeen
    dsimp only
    rw [told, ite_self]

/-- A line that the read finds uncorrectable. -/
def State.ldBad (s : State) (w : PWord) (ue : Option (Nat × Nat)) (p : Nat × Bool) : Bool := s.lineBad (ldLine w p.1) (namesLine ue (ldLine w p.1))

/-- The state in which the lines before the first uncorrectable one have left. -/
def State.ldSent (s : State) (i : Nat) (f : Flight) (dests us : List Nat) (o : Obs) : State :=
  let good := (s.ldReads f.word us).takeWhile (fun p => !s.ldBad f.word o.ue p)
  (s.useLines (good.map (fun p => ldLine f.word p.1)) o.ce).sendLines i f dests (s.ldSkips f.word us) ((good.filter (·.2)).map (·.1))

theorem State.runLd_eq (s : State) (i : Nat) (f : Flight) (dests : List Nat) (o : Obs) :
    let us := f.chunk (s.ldRoom i f dests) o.upto
    let s0 := s.ldSeen f.word us o.ue
    (∀ p, (s0.ldReads f.word us).find? (s0.ldBad f.word o.ue) = some p → s.runLd i f dests o = (s0.ldSent i f dests us o).moverUe i f (ldLine f.word p.1)) ∧
    ((s0.ldReads f.word us).find? (s0.ldBad f.word o.ue) = none →
      s.runLd i f dests o = (s0.ldSent i f dests us o).setFlight i (f.advance us (s0.ldSkips f.word us) dests.length)) := by
  intro us s0
  have e : s.runLd i f dests o = match (s0.ldReads f.word us).find? (s0.ldBad f.word o.ue) with
      | some p => (s0.ldSent i f dests us o).moverUe i f (ldLine f.word p.1)
      | none => (s0.ldSent i f dests us o).setFlight i (f.advance us (s0.ldSkips f.word us) dests.length) := rfl
  exact ⟨fun p h => by rw [e, h], fun h => by rw [e, h]⟩

theorem State.ldSent_clean (s : State) (i : Nat) (f : Flight) (dests us : List Nat) (o : Obs) : CleanRead s (s.ldSent i f dests us o) :=
  (s.useLines_clean _ _).trans (LinesLeft.sendLines _ _ _).clean

theorem State.reg_ldSent (s : State) (i : Nat) (f : Flight) (dests us : List Nat) (o : Obs) {a : Nat} (h : a % 0x1000 ≠ 0x14) : (s.ldSent i f dests us o).reg a = s.reg a :=
  ((LinesLeft.sendLines (i := i) (f := f) (dests := dests) _ _ _).reg a).trans (s.reg_useLines_other _ _ h)

theorem State.reg_ldSent_clean (s : State) (i : Nat) (f : Flight) (dests us : List Nat) {o : Obs} (h : o.ce = []) (a : Nat) : (s.ldSent i f dests us o).reg a = s.reg a := by
  refine ((LinesLeft.sendLines (i := i) (f := f) (dests := dests) _ _ _).reg a).trans ?_
  rw [h]
  exact s.reg_useLines_clean _ a

/-- With no line uncorrectable every line of the units leaves. -/
theorem State.ldSent_good {s : State} {i : Nat} {f : Flight} {dests us : List Nat} {o : Obs} (h : (s.ldReads f.word us).any (s.ldBad f.word o.ue) = false) :
    ∃ fs, (s.ldSent i f dests us o).die.mesh = s.die.mesh ++ fs ∧ (∀ g ∈ fs, g.req = i ∧ g.txn = f.seq ∧ g.dst ∈ dests ∧ g.mod = none) ∧
      ∀ r, (r, true) ∈ s.ldReads f.word us → ∀ d ∈ dests, ∃ ls, lineFlit s i f r ls d ∈ fs ∧ r ∈ ls := by
  have all : (s.ldReads f.word us).takeWhile (fun p => !s.ldBad f.word o.ue p) = s.ldReads f.word us := by
    simpa [List.takeWhile_eq_self_iff] using h
  unfold State.ldSent
  dsimp only
  rw [all]
  obtain ⟨fs, n, e, hf, hl⟩ := LinesLeft.sendLines (i := i) (f := f) (dests := dests)
    (s.useLines ((s.ldReads f.word us).map (fun p => ldLine f.word p.1)) o.ce) (s.ldSkips f.word us) (((s.ldReads f.word us).filter (·.2)).map (·.1))
  have same (r : Nat) (ls : List Nat) (d : Nat) : lineFlit (s.useLines ((s.ldReads f.word us).map (fun p => ldLine f.word p.1)) o.ce) i f r ls d = lineFlit s i f r ls d := by
    simp [lineFlit, State.line]
  refine ⟨fs, ?_, hf, fun r hr d hd => ?_⟩
  · rw [e]
    exact congrArg (· ++ fs) (s.mesh_useLines _ _)
  · obtain ⟨ls, hg, hr⟩ := hl r (List.mem_map.mpr ⟨_, List.mem_filter.mpr ⟨hr, rfl⟩, rfl⟩) d hd
    exact ⟨ls, by rwa [same] at hg, hr⟩

/-! ### Uncorrectable lines -/

theorem ctrlOf_lt (l : Nat) : ctrlOf l < 20 := by unfold ctrlOf; omega

/-- An uncorrectable line is counted at its controller and logged (R290). -/
theorem State.reg_readUe (s : State) (l : Nat) :
    (s.readUe l).reg (0x100018 + ctrlOf l * 0x1000) = satAdd (s.reg (0x100018 + ctrlOf l * 0x1000)) 1 ∧ (s.readUe l).reg 0x6000C = s.reg 0x6000C + 1 := by
  have hc := ctrlOf_lt l
  have logged (u : State) (code unit : Nat) (d0 : Word) (d1 : BitVec 64) (hu : u = ({ s with poison := u.poison } : State).bump (0x100018 + ctrlOf l * 0x1000) 1) :
      (u.logFault code 0 unit d0 d1).reg (0x100018 + ctrlOf l * 0x1000) = satAdd (s.reg (0x100018 + ctrlOf l * 0x1000)) 1 ∧
        (u.logFault code 0 unit d0 d1).reg 0x6000C = s.reg 0x6000C + 1 := by
    rw [State.reg_logFault _ _ _ _ _ _ _ (by omega) (by omega) (by omega), State.wr_logFault, hu, State.reg_bump, State.reg_bump, if_pos rfl, if_neg (by omega)]
    exact ⟨rfl, rfl⟩
  unfold State.readUe
  dsimp only
  split
  · exact logged _ _ _ _ _ (by rw [State.poison_bump])
  · exact logged _ _ _ _ _ (by rw [State.poison_bump])

/-- What the mover leaves of every station: platform memory, slots, banks, tokens and queued words. -/
def MoverKeeps (s t : State) : Prop := ∀ j, (t.stn j).pm = (s.stn j).pm ∧ (t.stn j).slots = (s.stn j).slots ∧ (t.stn j).banks = (s.stn j).banks ∧
  (t.stn j).tokens = (s.stn j).tokens ∧ (t.stn j).iss.queue = (s.stn j).iss.queue

theorem MoverKeeps.trans {s t u : State} (h : MoverKeeps s t) (k : MoverKeeps t u) : MoverKeeps s u := fun j =>
  have ⟨h1, h2, h3, h4, h5⟩ := h j
  have ⟨k1, k2, k3, k4, k5⟩ := k j
  ⟨k1.trans h1, k2.trans h2, k3.trans h3, k4.trans h4, k5.trans h5⟩

theorem MoverKeeps.of_stn {s t : State} (h : ∀ j, t.stn j = s.stn j) : MoverKeeps s t := fun j => by
  rw [h]
  exact ⟨rfl, rfl, rfl, rfl, rfl⟩

theorem MoverKeeps.setFlight (s : State) (i : Nat) (g : Flight) : MoverKeeps s (s.setFlight i g) := fun j => by
  unfold State.setFlight
  rw [State.stn_setStn]
  split
  · rename_i hj
    rw [hj]
    exact ⟨rfl, rfl, rfl, rfl, rfl⟩
  · exact ⟨rfl, rfl, rfl, rfl, rfl⟩

theorem MoverKeeps.dropFlits (s : State) (i : Nat) : MoverKeeps s (s.dropFlits i) := fun j => by
  obtain ⟨held, got, e⟩ := (s.dropFlits_spec i).1 j
  rw [e]
  exact ⟨rfl, rfl, rfl, rfl, rfl⟩

/-- An uncorrectable line aborts the instruction of the mover (R290, R450). -/
theorem State.moverUe_spec {s : State} {i : Nat} {f : Flight} (l : Nat) (h : f ∈ (s.stn i).iss.flight) :
    let t := s.moverUe i f l
    MoverKeeps s t ∧ (∃ g, (t.stn i).flightOf f.seq = some g ∧ g.stage = s.ueStage f l ∧ g.word = f.word) ∧ t.lpddr = s.lpddr ∧
    t.reg (0x100018 + ctrlOf l * 0x1000) = satAdd (s.reg (0x100018 + ctrlOf l * 0x1000)) 1 ∧ t.reg 0x6000C = s.reg 0x6000C + 1 := by
  obtain ⟨read, lp, -⟩ := s.readUe_spec l
  obtain ⟨counted, logged⟩ := s.reg_readUe l
  have hm : f ∈ ((s.readUe l).stn i).iss.flight := by rwa [read.stns]
  let g : Flight := { f with
    stage := s.ueStage f l, ueLine := some l
    why := ⟨if s.region (l * 64) = .golden then 0x0202 else 0x0201, BitVec.ofNat 32 (ctrlOf l), BitVec.ofNat 64 l⟩ }
  have aborted : s.moverUe i f l = ((s.readUe l).setFlight i g).dropFlits i := rfl
  obtain ⟨stns, regs, dlp⟩ := ((s.readUe l).setFlight i g).dropFlits_spec i
  rw [aborted]
  refine ⟨((MoverKeeps.of_stn read.stns).trans (.setFlight _ i g)).trans (.dropFlits _ i), ⟨g, ?_, rfl, rfl⟩, dlp.trans lp,
    (regs _ List.not_mem_nil).trans counted, (regs _ List.not_mem_nil).trans logged⟩
  obtain ⟨held, got, e⟩ := stns i
  rw [e]
  exact State.flightOf_setFlight hm rfl

/-! ### LD and MCAST -/

/-- LD and MCAST leave platform memory, slots, banks, tokens and queues as they are. -/
theorem State.runLd_keeps {s : State} {i : Nat} {f : Flight} (dests : List Nat) (o : Obs) (h : f ∈ (s.stn i).iss.flight) : MoverKeeps s (s.runLd i f dests o) := by
  obtain ⟨aborts, moves⟩ := s.runLd_eq i f dests o
  generalize hs0 : s.ldSeen f.word (f.chunk (s.ldRoom i f dests) o.upto) o.ue = s0 at aborts moves
  have seen (j : Nat) : s0.stn j = s.stn j := by
    rw [← hs0]
    exact s.stn_ldSeen _ _ _ j
  have sent (us : List Nat) (j : Nat) : (s0.ldSent i f dests us o).stn j = s.stn j := ((s0.ldSent_clean i f dests us o).stns j).trans (seen j)
  cases hb : (s0.ldReads f.word (f.chunk (s.ldRoom i f dests) o.upto)).find? (s0.ldBad f.word o.ue) with
  | some p =>
    rw [aborts p hb]
    exact (MoverKeeps.of_stn (sent _)).trans (State.moverUe_spec _ (by rwa [sent])).1
  | none =>
    rw [moves hb]
    exact (MoverKeeps.of_stn (sent _)).trans (.setFlight _ i _)

section
variable {s : State} {i : Nat} {f : Flight} {dests us : List Nat} {o : Obs} (h : f ∈ (s.stn i).iss.flight)
  (hu : ∀ u, o.ue = some u → s.inEcc u.1 = true) (hus : f.chunk (s.ldRoom i f dests) o.upto = us)
include h hu hus

/-- An LD or MCAST whose lines are all readable moves past its units (R123, R127, R304). -/
theorem State.runLd_moves (hg : (s.ldReads f.word us).any (s.ldBad f.word o.ue) = false) :
    ((s.runLd i f dests o).stn i).flightOf f.seq = some (f.advance us (s.ldSkips f.word us) dests.length) ∧
    (∃ fs, (s.runLd i f dests o).die.mesh = s.die.mesh ++ fs ∧ (∀ g ∈ fs, g.req = i ∧ g.txn = f.seq ∧ g.dst ∈ dests ∧ g.mod = none) ∧
      ∀ r, (r, true) ∈ s.ldReads f.word us → ∀ d ∈ dests, ∃ ls, lineFlit s i f r ls d ∈ fs ∧ r ∈ ls) ∧
    (o.ce = [] → SameRegs s (s.runLd i f dests o) []) ∧ SameStns s (s.runLd i f dests o) [i] ∧ (s.runLd i f dests o).lpddr = s.lpddr := by
  have e := (s.runLd_eq i f dests o).2
  rw [State.ldSeen_told _ _ hu, hus] at e
  rw [e (by simpa [List.find?_eq_none] using hg)]
  have clean := s.ldSent_clean i f dests us o
  have hm : f ∈ ((s.ldSent i f dests us o).stn i).iss.flight := by rwa [clean.stns]
  refine ⟨State.flightOf_setFlight hm rfl, State.ldSent_good hg, fun hc a _ => s.reg_ldSent_clean i f dests us hc a, fun j hj => ?_, clean.lpddr⟩
  unfold State.setFlight
  rw [State.stn_setStn, if_neg (List.ne_of_not_mem_cons hj), clean.stns]

/-- An LD or MCAST that meets an uncorrectable line goes to the ladder (R290). -/
theorem State.runLd_aborts {p : Nat × Bool} (hp : (s.ldReads f.word us).find? (s.ldBad f.word o.ue) = some p) :
    (∃ g, ((s.runLd i f dests o).stn i).flightOf f.seq = some g ∧ g.stage = s.ueStage f (ldLine f.word p.1) ∧ g.word = f.word) ∧
    (s.runLd i f dests o).reg (0x100018 + ctrlOf (ldLine f.word p.1) * 0x1000) = satAdd (s.reg (0x100018 + ctrlOf (ldLine f.word p.1) * 0x1000)) 1 ∧
    (s.runLd i f dests o).reg 0x6000C = s.reg 0x6000C + 1 ∧ (s.runLd i f dests o).lpddr = s.lpddr := by
  have e := (s.runLd_eq i f dests o).1 p
  rw [State.ldSeen_told _ _ hu, hus] at e
  rw [e hp]
  generalize ldLine f.word p.1 = l
  have clean := s.ldSent_clean i f dests us o
  have hm : f ∈ ((s.ldSent i f dests us o).stn i).iss.flight := by rwa [clean.stns]
  obtain ⟨-, ⟨g, found, stage, word⟩, lp, counted, logged⟩ := State.moverUe_spec l hm
  have hc := ctrlOf_lt l
  rw [s.reg_ldSent i f dests us o (by omega)] at counted
  rw [s.reg_ldSent i f dests us o (by omega)] at logged
  have same : (s.ldSent i f dests us o).ueStage f l = s.ueStage f l := by
    unfold State.ueStage
    rw [clean.region]
  exact ⟨⟨g, found, stage.trans same, word⟩, counted, logged, lp.trans clean.lpddr⟩

end

theorem exec_ld {s : State} {i : Stn} {o : Obs} {f : Flight} {c : Instr} {dests : List Nat} (hl : s.live = true) (h : s.headOf i .mover = some f)
    (hc : (c = .ld i o ∧ opc f.word = 0x08 ∧ dests = [i.val]) ∨ (c = .mcast i o ∧ opc f.word = 0x0A ∧ dests = f.cap.dests)) :
    exec c s = .next (s.runLd i f dests o) := by
  rcases hc with ⟨rfl, ho, rfl⟩ | ⟨rfl, ho, rfl⟩
  · change execLd i o s = _
    unfold execLd
    rw [h]
    exact if_pos (by simp [hl, ho])
  · change execMcast i o s = _
    unfold execMcast
    rw [h]
    exact if_pos (by simp [hl, ho])

end Sys2Proof.Machine
end

section
/-! PROOFS. ST (O22, second part), and LD, ST and MCAST together. -/
namespace Sys2Proof.Machine

/-! ### Lines written to LPDDR5X -/

/-- A written line reads as written, and every other as before (R289). -/
theorem State.line_setLine (s : State) (l : Nat) {bs : List Byte} (h : bs.length = 64) (k : Nat) : (s.setLine l bs).line k = if k = l then bs else s.line k := by
  have byte (j : Nat) : mget byte0 (putBytes s.lpddr (l * 64) bs) j = if l * 64 ≤ j ∧ j < l * 64 + 64 then bs.getD (j - l * 64) 0 else mget byte0 s.lpddr j := by
    rw [mget_putBytes, h]
  unfold State.line State.setLine
  dsimp only
  split
  · rename_i hk
    subst hk
    refine List.ext_getElem (by simp [h]) (fun n h1 h2 => ?_)
    rw [List.getElem_map, List.getElem_range, byte, if_pos (by omega), Nat.add_sub_cancel_left]
    exact (List.getElem_eq_getD 0).symm
  · refine List.map_congr_left (fun n hn => ?_)
    have := List.mem_range.mp hn
    rw [byte, if_neg (by omega)]

/-- A line of an ST on its way to LPDDR5X: its channel woken, the line written, the links to its controller crossed (R125, R283). -/
def State.storeLine (i : Nat) (far : Nat → Nat) (val : Nat → List Byte) (s : State) (r : Nat) : State :=
  ((s.wakeChannel (far r)).setLine (far r) (val r)).addHops (hopsOf i (128 + ctrlEdge (ctrlOf (far r))))

section
variable (i : Nat) (far : Nat → Nat) (val : Nat → List Byte)

theorem State.stn_storeLines (rs : List Nat) (s : State) (j : Nat) : (rs.foldl (State.storeLine i far val) s).stn j = s.stn j := by
  induction rs generalizing s with
  | nil => rfl
  | cons r rs ih => exact ih _

theorem State.reg_storeLines (rs : List Nat) (s : State) (a : Nat) : (rs.foldl (State.storeLine i far val) s).reg a = s.reg a := by
  induction rs generalizing s with
  | nil => rfl
  | cons r rs ih => exact ih _

theorem State.mesh_storeLines (rs : List Nat) (s : State) : (rs.foldl (State.storeLine i far val) s).die.mesh = s.die.mesh := by
  induction rs generalizing s with
  | nil => rfl
  | cons r rs ih => exact ih _

variable {val} (h : ∀ r, (val r).length = 64)
include h

theorem State.line_storeLine (s : State) (r k : Nat) : (s.storeLine i far val r).line k = if k = far r then val r else s.line k :=
  (s.wakeChannel (far r)).line_setLine (far r) (h r) k

/-- A line that no line of the ST goes to stays. -/
theorem State.line_storeLines_other {rs : List Nat} (s : State) {l : Nat} (hl : ∀ r ∈ rs, far r ≠ l) : (rs.foldl (State.storeLine i far val) s).line l = s.line l := by
  induction rs generalizing s with
  | nil => rfl
  | cons r rs ih =>
    rw [List.foldl_cons, ih _ (fun q hq => hl q (List.mem_cons_of_mem r hq)), State.line_storeLine i far h, if_neg (hl r List.mem_cons_self).symm]

/-- A line that one line of the ST goes to holds that line. -/
theorem State.line_storeLines {rs : List Nat} (s : State) {r : Nat} (hr : r ∈ rs) (hq : ∀ q ∈ rs, q ≠ r → far q ≠ far r) :
    (rs.foldl (State.storeLine i far val) s).line (far r) = val r := by
  induction rs generalizing s with
  | nil => cases hr
  | cons a rs ih =>
    by_cases later : r ∈ rs
    · exact ih _ later (fun q h => hq q (List.mem_cons_of_mem a h))
    · obtain rfl : r = a := (List.mem_cons.mp hr).resolve_right later
      have others (q : Nat) (h : q ∈ rs) : far q ≠ far r := hq q (List.mem_cons_of_mem r h) (fun e => later (e ▸ h))
      rw [List.foldl_cons, State.line_storeLines_other i far h _ others, State.line_storeLine i far h, if_pos rfl]

end

theorem length_stLine (pm : SMap Byte) (w : PWord) (r : Nat) : (stLine pm w r).length = 64 := by simp [stLine, pmLine, rdBytes, addrs]

/-! ### What an ST reads -/

/-- Reads of an ST leave its station and its lines; with no collision they read platform memory as it stands (R94, R95). -/
theorem State.stReads_spec (s : State) (i : Nat) (o : Obs) :
    let q := ((s.countRefused i o.refused).countBusy i (2 * o.clash.length)).mixWords i o.clash
    (∀ j, q.2.stn j = s.stn j) ∧ q.2.lpddr = s.lpddr ∧ q.2.die.mesh = s.die.mesh ∧ SameRegs s q.2 (obsRegs i) ∧ (o.clash = [] → q.1 = (s.stn i).pm) := by
  intro q
  have refused := State.countRefused_only i o.refused s
  have busy : OnlyChanges (s.countRefused i o.refused) ((s.countRefused i o.refused).countBusy i (2 * o.clash.length)) (obsRegs i) [] := by
    rw [State.countBusy_eq]
    split
    · exact (OnlyChanges.refl _ _ _).bump _ List.mem_cons_self
    · exact .refl _ _ _
  have both := refused.trans busy
  obtain ⟨n, e⟩ := ((s.countRefused i o.refused).countBusy i (2 * o.clash.length)).mixWords_state i o.clash
  have e : q.2 = _ := e
  rw [e]
  refine ⟨fun j => both.2.1 j List.not_mem_nil, both.lpddr, both.mesh, both.1, fun hc => ?_⟩
  have read : q.1 = (((s.countRefused i o.refused).countBusy i (2 * o.clash.length)).stn i).pm := by
    simp only [q, hc]
    rfl
  rw [read, both.2.1 i List.not_mem_nil]

/-! ### ST -/

theorem exec_st {s : State} {i : Stn} {o : Obs} {f : Flight} (hl : s.live = true) (h : s.headOf i .mover = some f) (ho : opc f.word = 0x09) :
    exec (.st ⟨i, o⟩) s = .next (s.runSt i f o) := by
  change execSt ⟨i, o⟩ s = _
  unfold execSt
  rw [h]
  exact if_pos (by simp [hl, ho])

/-- What the flits of an ST add to the mesh, and nothing else. -/
theorem State.sendAll_when (s : State) (c : Prop) [Decidable c] (fs : List Flit) :
    let t := if c then s.sendAll fs else s
    (∀ j, t.stn j = s.stn j) ∧ (∀ a, t.reg a = s.reg a) ∧ t.lpddr = s.lpddr ∧ t.die.mesh = s.die.mesh ++ if c then fs else [] := by
  intro t
  simp only [t]
  split
  · exact ⟨fun _ => rfl, fun _ => rfl, rfl, rfl⟩
  · exact ⟨fun _ => rfl, fun _ => rfl, rfl, (List.append_nil _).symm⟩

theorem State.mesh_sendOut (s : State) (node dmod pick : Nat) (fs : List Flit) : (s.sendOut node dmod pick fs).die.mesh = s.die.mesh := by
  obtain ⟨n, ps, o, e⟩ := Sends.sendOut s node dmod pick fs
  rw [e]
  rfl

theorem State.lpddr_sendOut (s : State) (node dmod pick : Nat) (fs : List Flit) : (s.sendOut node dmod pick fs).lpddr = s.lpddr :=
  congrArg (·.2.2.1) (s.sendOut_outside node dmod pick fs)

section
variable {s : State} {i : Nat} {f : Flight} {o : Obs} {pm : SMap Byte} {s1 : State} {us : List Nat}
  (hq : ((s.countRefused i o.refused).countBusy i (2 * o.clash.length)).mixWords i o.clash = (pm, s1)) (hus : f.chunk (unitsOf f.word) o.upto = us)
include hq hus

/-- An ST to LPDDR5X writes its lines, and with the last each controller acknowledges its own (R125, R307, R326). -/
theorem State.runSt_far (hd : fld f.word 121 2 = 0) :
    let s2 := (stLines pm f.word us).foldl (State.storeLine i (stFar f.word) (stLine pm f.word)) s1
    let cs := stCtrls f.word (f.skipped ++ stSkips pm f.word us)
    let g := f.advance us (stSkips pm f.word us) cs.length
    s.runSt i f o = if g.stage = .sent then (s2.setFlight i g).sendAll (cs.map (fun c => ⟨128 + ctrlEdge c, i, i, f.seq, none, .ack⟩)) else s2.setFlight i g := by
  unfold State.runSt
  dsimp only
  rw [hq, hus]
  exact if_pos hd

/-- An ST to a station sends its lines, through a port when the station is of another module (R125). -/
theorem State.runSt_near (hd : fld f.word 121 2 ≠ 0) :
    let s2 := s1.setFlight i (f.advance us (stSkips pm f.word us) 1)
    let far := decide (fld f.word 121 2 = 2) && decide (fld f.word 55 14 ≠ s.modid)
    s.runSt i f o = if far = true then s2.sendOut i (fld f.word 55 14) (i + fld f.word 48 7) (stFlits pm i f (some s.modid) (stLines pm f.word us) (stSkips pm f.word us))
      else s2.sendAll (stFlits pm i f none (stLines pm f.word us) (stSkips pm f.word us)) := by
  unfold State.runSt
  dsimp only
  rw [hq, hus]
  exact if_neg hd

theorem State.runSt_far_spec (hd : fld f.word 121 2 = 0) :
    let cs := stCtrls f.word (f.skipped ++ stSkips pm f.word us)
    let g := f.advance us (stSkips pm f.word us) cs.length
    let t := s.runSt i f o
    t.stn i = (s.stn i).setFlight g ∧ SameStns s t [i] ∧
    (∀ l, t.line l = ((stLines pm f.word us).foldl (State.storeLine i (stFar f.word) (stLine pm f.word)) s1).line l) ∧
    t.die.mesh = s.die.mesh ++ (if g.stage = .sent then cs.map (fun c => ⟨128 + ctrlEdge c, i, i, f.seq, none, .ack⟩) else []) ∧
    SameRegs s t (obsRegs i) := by
  intro cs g t
  have reads := s.stReads_spec i o
  rw [hq] at reads
  obtain ⟨stns, lp, mesh, regs, -⟩ := reads
  have e : t = _ := State.runSt_far hq hus hd
  let s2 := (stLines pm f.word us).foldl (State.storeLine i (stFar f.word) (stLine pm f.word)) s1
  have stored (j : Nat) : s2.stn j = s.stn j := (State.stn_storeLines i _ _ _ s1 j).trans (stns j)
  obtain ⟨tstn, treg, tlp, tmesh⟩ := (s2.setFlight i g).sendAll_when (g.stage = .sent) (cs.map (fun c => ⟨128 + ctrlEdge c, i, i, f.seq, none, .ack⟩))
  rw [e]
  refine ⟨(tstn i).trans ?_, fun j hj => (tstn j).trans ?_, fun l => ?_, tmesh.trans ?_, fun a ha => ?_⟩
  · unfold State.setFlight
    rw [State.stn_setStn, if_pos rfl, stored]
  · unfold State.setFlight
    rw [State.stn_setStn, if_neg (List.ne_of_not_mem_cons hj), stored]
  · unfold State.line
    rw [tlp]
    rfl
  · exact congrArg (· ++ _) ((State.mesh_storeLines i _ _ _ s1).trans mesh)
  · exact (treg a).trans ((State.reg_storeLines i _ _ _ s1 a).trans (regs a ha))

theorem State.runSt_near_spec (hd : fld f.word 121 2 ≠ 0) :
    let t := s.runSt i f o
    t.stn i = (s.stn i).setFlight (f.advance us (stSkips pm f.word us) 1) ∧ SameStns s t [i] ∧ t.lpddr = s.lpddr ∧
    (fld f.word 121 2 = 2 → fld f.word 55 14 ≠ s.modid → t.die.mesh = s.die.mesh) ∧
    (fld f.word 121 2 ≠ 2 ∨ fld f.word 55 14 = s.modid →
      t.die.mesh = s.die.mesh ++ stFlits pm i f none (stLines pm f.word us) (stSkips pm f.word us) ∧ SameRegs s t (obsRegs i)) := by
  intro t
  have reads := s.stReads_spec i o
  rw [hq] at reads
  obtain ⟨stns, lp, mesh, regs, -⟩ := reads
  have e : t = _ := State.runSt_near hq hus hd
  rw [e]
  let g := f.advance us (stSkips pm f.word us) 1
  have own : (s1.setFlight i g).stn i = (s.stn i).setFlight g := by
    unfold State.setFlight
    rw [State.stn_setStn, if_pos rfl, stns]
  have others : SameStns s (s1.setFlight i g) [i] := fun j hj => by
    unfold State.setFlight
    rw [State.stn_setStn, if_neg (List.ne_of_not_mem_cons hj), stns]
  split
  · rename_i far
    simp only [Bool.and_eq_true, decide_eq_true_eq] at far
    exact ⟨(State.stn_sendOut ..).trans own, fun j hj => (State.stn_sendOut ..).trans (others j hj), (State.lpddr_sendOut ..).trans lp,
      fun _ _ => (State.mesh_sendOut ..).trans mesh, fun near => absurd near (by tauto)⟩
  · rename_i near
    simp only [Bool.and_eq_true, decide_eq_true_eq] at near
    exact ⟨own, others, lp, fun h2 hm => absurd ⟨h2, hm⟩ near, fun _ => ⟨congrArg (· ++ _) mesh, regs⟩⟩

end

end Sys2Proof.Machine

namespace Sys2Proof
open Machine

/-- Settles O22: LD and MCAST send their lines or meet one that is uncorrectable, and ST writes its lines or sends them. -/
theorem moverMovesLines : Obligations.MoverMovesLines := by
  constructor
  · intro s i o f c dests hl h hc us bad
    have hmem := (State.mem_headOf h).1
    have keeps := State.runLd_keeps dests o hmem
    refine runs_of (exec_ld hl h hc) ⟨fun j => ?_, (keeps i).2.2.2.2, fun hu => ⟨?_, fun hg => ?_, fun p hp => ?_⟩⟩
    · obtain ⟨pm, slots, banks, tokens, -⟩ := keeps j
      exact ⟨pm, slots, banks, tokens⟩
    · cases hg : (s.ldReads f.word us).any bad with
      | false =>
        obtain ⟨-, -, -, -, lp⟩ := State.runLd_moves (o := o) hmem hu rfl hg
        exact lp
      | true =>
        obtain ⟨p, hp⟩ := Option.isSome_iff_exists.mp (List.find?_isSome.mpr (List.any_eq_true.mp hg))
        obtain ⟨-, -, -, lp⟩ := State.runLd_aborts (o := o) hmem hu rfl hp
        exact lp
    · obtain ⟨found, ⟨fs, mesh, sent, lines⟩, regs, stns, -⟩ := State.runLd_moves (o := o) hmem hu rfl hg
      refine ⟨found, ⟨fs, mesh, sent⟩, fun r hr d hd => ?_, regs, stns⟩
      obtain ⟨ls, hf, hls⟩ := lines r hr d hd
      exact ⟨ls, by rw [mesh]; exact List.mem_append_right _ hf, hls⟩
    · obtain ⟨found, counted, logged, -⟩ := State.runLd_aborts (o := o) hmem hu rfl hp
      exact ⟨found, counted, logged⟩
  · intro s i o f hl h ho us
    have hmem := (State.mem_headOf h).1
    obtain ⟨-, lp, -, -, seen⟩ := s.stReads_spec i o
    generalize hq : ((s.countRefused i o.refused).countBusy i (2 * o.clash.length)).mixWords i o.clash = q at lp seen
    obtain ⟨pm, s1⟩ := q
    by_cases hd : fld f.word 121 2 = 0
    · obtain ⟨own, stns, lines, mesh, regs⟩ := State.runSt_far_spec hq rfl hd
      refine runs_of (exec_st hl h ho) ⟨by rw [own]; rfl, by rw [own]; rfl, by rw [own]; rfl, by rw [own]; rfl, stns, fun hn => absurd hd hn, fun hc => ?_⟩
      cases seen hc
      rw [if_pos hd]
      refine ⟨by rw [own]; exact Station.flightOf_setFlight _ hmem rfl, fun _ => ⟨fun r hr alone => ?_, fun l hl => ?_, mesh, regs⟩, fun h2 => absurd hd (by omega), fun hn => absurd hd hn⟩
      · rw [lines]
        exact State.line_storeLines i _ (length_stLine _ _) s1 hr alone
      · rw [lines, State.line_storeLines_other i _ (length_stLine _ _) s1 hl]
        unfold State.line
        rw [lp]
    · obtain ⟨own, stns, lp, away, home⟩ := State.runSt_near_spec hq rfl hd
      refine runs_of (exec_st hl h ho) ⟨by rw [own]; rfl, by rw [own]; rfl, by rw [own]; rfl, by rw [own]; rfl, stns, fun _ => lp, fun hc => ?_⟩
      cases seen hc
      rw [if_neg hd]
      exact ⟨by rw [own]; exact Station.flightOf_setFlight _ hmem rfl, fun h0 => absurd h0 hd, away, fun _ => home⟩

end Sys2Proof
end

section
/-! PROOFS. DISPATCH (O31, first part): what starting, sending and pulling back leave, and what goes to one queue. -/
namespace Sys2Proof.Machine

/-! ### Frames -/

/-- What the sends of a DISPATCH change: its record and what its station knows of the queues, the count of deferred vectors, mesh and ports. -/
def DispatchKeeps (i : Nat) (s t : State) : Prop :=
  (∃ ds xo, t.stn i = { s.stn i with disp := ds, xopen := xo }) ∧ SameRegs s t [pageBase i + 0x150] ∧ SameStns s t [i] ∧ t.lpddr = s.lpddr

section
variable {i : Nat} {s t u : State}

theorem DispatchKeeps.still (hs : ∀ j, t.stn j = s.stn j) (hr : ∀ a, t.reg a = s.reg a) (hl : t.lpddr = s.lpddr) : DispatchKeeps i s t :=
  ⟨⟨_, _, hs i⟩, fun a _ => hr a, fun j _ => hs j, hl⟩

theorem DispatchKeeps.refl (s : State) : DispatchKeeps i s s := .still (fun _ => rfl) (fun _ => rfl) rfl

theorem DispatchKeeps.trans (h : DispatchKeeps i s t) (k : DispatchKeeps i t u) : DispatchKeeps i s u := by
  obtain ⟨⟨ds, xo, h1⟩, h2, h3, h4⟩ := h
  obtain ⟨⟨es, yo, k1⟩, k2, k3, k4⟩ := k
  exact ⟨⟨es, yo, by rw [k1, h1]⟩, fun a ha => (k2 a ha).trans (h2 a ha), fun j hj => (k3 j hj).trans (h3 j hj), k4.trans h4⟩

theorem DispatchKeeps.setStn (s : State) (ds : List DispRec) (xo : List XOpen) : DispatchKeeps i s (s.setStn i { s.stn i with disp := ds, xopen := xo }) :=
  ⟨⟨ds, xo, (State.stn_setStn _ _ _ _).trans (if_pos rfl)⟩, fun _ _ => rfl, fun _ hj => (State.stn_setStn _ _ _ _).trans (if_neg (List.ne_of_not_mem_cons hj)), rfl⟩

theorem DispatchKeeps.setStn_of_eq {x : Station} (h : ∃ ds xo, x = { s.stn i with disp := ds, xopen := xo }) : DispatchKeeps i s (s.setStn i x) := by
  obtain ⟨ds, xo, rfl⟩ := h
  exact .setStn s ds xo

theorem DispatchKeeps.deferred (s : State) (n : Nat) : DispatchKeeps i s (s.pbump i 0x150 n) :=
  ⟨⟨_, _, s.stn_bump _ n i⟩, fun _ ha => (s.reg_bump ..).trans (if_neg (List.ne_of_not_mem_cons ha)), fun j _ => s.stn_bump _ n j, s.lpddr_bump _ n⟩

theorem DispatchKeeps.toQueue (s : State) (txn : Nat) (md : Option Nat) (b : FlitBody) : DispatchKeeps i s (s.toQueue i txn md b) := by
  unfold State.toQueue
  split
  · exact .refl s
  · rename_i m
    obtain ⟨n, ps, o, e⟩ := Sends.sendOut s i m i [⟨i, syncHub, i, txn, some s.modid, b⟩]
    rw [e]
    exact .still (fun _ => rfl) (fun _ => rfl) rfl

theorem DispatchKeeps.foldl {α : Type} {f : State → α → State} (h : ∀ s a, DispatchKeeps i s (f s a)) (l : List α) (s : State) : DispatchKeeps i s (l.foldl f s) :=
  List.foldlRecOn l f (DispatchKeeps.refl s) (fun t k a _ => k.trans (h t a))

end

/-! ### Sends -/

/-- What a station knows of the queues, and its records, are all that a DISPATCH sets at its station. -/
theorem Station.eq_of_dispatched (x : Station) (d : DispRec) (k : XOpen) (c : Prop) [Decidable c] :
    ∃ ds xo, (if c then (x.setRec d).setKnown k else x.setRec d) = { x with disp := ds, xopen := xo } := by
  split <;> exact ⟨_, _, rfl⟩

theorem Station.eq_of_pulledBack (x : Station) (round : Nat → Nat) (d : DispRec) (qs : List Nat) :
    ∃ ds xo, qs.foldl (fun (y : Station) q => y.setKnown { y.known none q with round := some (round q) }) (x.setRec d) = { x with disp := ds, xopen := xo } := by
  refine List.foldlRecOn (motive := fun (y : Station) => ∃ ds xo, y = { x with disp := ds, xopen := xo }) qs _ ⟨(x.setRec d).disp, x.xopen, rfl⟩ (fun y h q _ => ?_)
  obtain ⟨ds, xo, e⟩ := h
  rw [e]
  exact ⟨_, _, rfl⟩

theorem State.shareFor_keeps {s s0 : State} {i n : Nat} {q : Option Nat × Nat} (h : s.shareFor i q = some (n, s0)) : DispatchKeeps i s s0 := by
  unfold State.shareFor at h
  dsimp only at h
  split at h
  · split at h
    · cases h
      exact .refl s
    · cases h
  · split at h
    · cases h
      exact .setStn s (s.stn i).disp _
    · cases h
      exact .refl s

theorem State.sendShare_keeps (s : State) (i : Nat) (f : Flight) (upto : Option Nat) (q : Option Nat × Nat × Nat) : DispatchKeeps i s (s.sendShare i f upto q) := by
  unfold State.sendShare
  extract_lets qq
  split
  · exact .refl s
  · split
    · exact .refl s
    · split
      · exact .refl s
      · rename_i share s0 shared
        extract_lets x mine done due now last left d1 y known s1 s2 s3
        have shown : DispatchKeeps i s0 s1 := .setStn_of_eq (x.eq_of_dispatched d1 { known with round := none } (last = true))
        have counted : DispatchKeeps i s1 s2 := by
          simp only [s2]
          split
          · exact .deferred s1 left
          · exact .refl s1
        have sent : DispatchKeeps i s s3 := (State.shareFor_keeps shared).trans (shown.trans (counted.trans (.foldl (fun t _ => .toQueue t _ _ _) now s2)))
        split
        · exact sent.trans (.toQueue s3 _ _ _)
        · exact sent

theorem State.runDispatch_keeps (s : State) (i : Nat) (f : Flight) (upto : Option Nat) : DispatchKeeps i s (s.runDispatch i f upto) :=
  .foldl (fun t q => t.sendShare_keeps i f upto q) _ s

/-- A pull-back changes records, what the station knows of the queues, and the mesh (R147). -/
theorem State.pullBackAll_keeps (s : State) (i : Nat) : DispatchKeeps i s (s.pullBackAll i) := by
  refine .foldl (fun t f => ?_) _ s
  unfold State.pullBack
  extract_lets gone
  split
  · exact .refl t
  · dsimp only
    exact .setStn_of_eq (s := t.setMesh _) (Station.eq_of_pulledBack _ (fun q => (t.xq q).round) _ _)

/-! ### Starts -/

/-- The station and the DISPATCH after a start (R216). -/
theorem State.startDispatch_spec {s : State} {i : Nat} {f : Flight} (h : f ∈ (s.stn i).iss.flight) :
    let t := s.startDispatch i f
    let sent : Flight := { f with stage := .sent, acks := (s.queuesOf f).length, landed := 0 }
    (t.stn i).flightOf f.seq = (if s.queuesOf f = [] then none else some sent) ∧
    ((t.stn i).pm = (s.stn i).pm ∧ (t.stn i).slots = (s.stn i).slots ∧ (t.stn i).banks = (s.stn i).banks ∧ (t.stn i).tokens = (s.stn i).tokens ∧
      (t.stn i).iss.queue = (s.stn i).iss.queue) ∧
    (s.queuesOf f ≠ [] → t.stn i = ({ s.stn i with disp := (s.stn i).disp.map (fun d => if d.seq = f.seq then { d with
      started := true, queues := s.queuesOf f, routes := s.routesOf (s.stn i).pm f, unsent := s.routesOf (s.stn i).pm f, unplaced := s.routesOf (s.stn i).pm f } else d) } : Station).setFlight sent) ∧
    OnlyChanges s t [] [i] := by
  intro t sent
  have own : t.stn i = _ := (State.stn_setStn _ _ _ _).trans (if_pos rfl)
  refine ⟨?_, ?_, fun hq => ?_, OnlyChanges.setStn _ _ _ _ _ (List.mem_singleton_self i)⟩
  · rw [own]
    split
    · rename_i hq
      rw [if_pos (by simpa using hq)]
      exact Station.flightOf_complete _ _
    · rename_i hq
      rw [if_neg (by simpa using hq)]
      exact Station.flightOf_setFlight _ (f := f) h rfl
  · rw [own]
    split
    · simp
    · exact ⟨rfl, rfl, rfl, rfl, rfl⟩
  · rw [own, if_neg (by simpa using hq)]

/-! ### What a DISPATCH finds in the state after refused requests -/

section
variable {s t : State} {i : Nat} {l : List Nat} (h : OnlyChanges s t (obsRegs i) l)
include h

theorem State.modid_of_refused : t.modid = s.modid := by
  unfold State.modid
  rw [h.1 _ (not_mem_obsRegs i (by decide))]

theorem State.queuesOf_of_refused : t.queuesOf = s.queuesOf := by
  unfold State.queuesOf State.entryOf
  rw [State.modid_of_refused h]

theorem State.routesOf_of_refused : t.routesOf = s.routesOf := by
  unfold State.routesOf State.entryOf
  rw [State.modid_of_refused h]

end

theorem State.headOf_of_refused {s t : State} {i : Nat} (h : OnlyChanges s t (obsRegs i) []) (u : PUnit) : t.headOf i u = s.headOf i u := by
  unfold State.headOf
  rw [h.2.1 i List.not_mem_nil]

/-- The state in which the started DISPATCHes of a station send: the next one has started (R140, R216). -/
def State.dispatchNext (s : State) (i : Nat) (o : Obs) : State :=
  let s0 := s.countRefused i o.refused
  match s0.headOf i .mover with
  | some f => if opc f.word = 0x40 then s0.startDispatch i f else s0
  | none => s0

/-- The DISPATCHes of a station that send. -/
def State.dispatching (s : State) (i : Nat) : List Flight := (s.stn i).iss.flight.filter (fun f => decide (opc f.word = 0x40) && decide (f.stage = .sent))

section
variable {s : State} {i : Stn} {o : Obs} (hl : s.live = true)
include hl

theorem exec_dispatch_slips {f : Flight} {q : Slip} (h : s.dispatchSlip i o.slip = some (f, q)) : exec (.dispatch i o) s = .next ((s.slip i f q).pullBackAll i) := by
  change execDispatch i o s = _
  unfold execDispatch
  rw [if_pos hl, h]

theorem exec_dispatch (h : s.dispatchSlip i o.slip = none) : exec (.dispatch i o) s =
    .next (((s.dispatchNext i o).dispatching i).foldl (fun t f => t.runDispatch i f o.upto) (s.dispatchNext i o)) := by
  change execDispatch i o s = _
  unfold execDispatch
  rw [if_pos hl, h]
  rfl

end

/-! ### One queue of this module -/

theorem Station.known_names (x : Station) (md : Option Nat) (q : Nat) : (x.known md q).mod = md ∧ (x.known md q).q = q := by
  unfold Station.known
  cases h : x.xopen.find? (fun o => decide (o.mod = md) && decide (o.q = q)) with
  | none => exact ⟨rfl, rfl⟩
  | some o => simpa using List.find?_some h

/-- A station knows of a queue what was set last. -/
theorem Station.known_setKnown (x : Station) {o : XOpen} {md : Option Nat} {q : Nat} (hm : o.mod = md) (hq : o.q = q) : (x.setKnown o).known md q = o := by
  subst hm hq
  unfold Station.known Station.setKnown
  have gone : (x.xopen.filter (fun p => !(decide (p.mod = o.mod) && decide (p.q = o.q)))).find? (fun p => decide (p.mod = o.mod) && decide (p.q = o.q)) = none :=
    List.find?_eq_none.mpr (fun p hp => by simpa [imp_iff_not_or] using (List.mem_filter.mp hp).2)
  rw [List.find?_append, gone]
  simp

section
variable {s : State} {i q r : Nat} {f : Flight} {upto : Option Nat}

/-- Nothing goes to a queue that is not open to the station. -/
theorem State.sendShare_closed (h : ((s.stn i).known none q).round = none) : s.sendShare i f upto (none, q, r) = s := by
  have shut (d : DispRec) : (s.stn i).roundFor d (none, q) = none := by
    unfold Station.roundFor
    rw [h]
  unfold State.sendShare
  dsimp only
  cases (s.stn i).disp.find? (fun d => d.seq = f.seq) with
  | none => rfl
  | some d => dsimp only; rw [shut]

/-- Nothing goes to a queue that does not serve. -/
theorem State.sendShare_unserved (h : (s.xq q).serves = false) : s.sendShare i f upto (none, q, r) = s := by
  have shut : s.shareFor i (none, q) = none := if_neg (by simp [h])
  unfold State.sendShare
  dsimp only
  rw [shut]
  split
  · rfl
  · split <;> rfl

/-- A vector of a DISPATCH on its way to a queue of this module. -/
def vecFlit (pm : SMap Byte) (i q r : Nat) (f : Flight) (v : Routed) : Flit :=
  ⟨i, syncHub, i, f.seq, none, .xqVec q r v.m v.j (dfmtOf f.word) (dispatchVec pm f.word v.m).1 (dispatchVec pm f.word v.m).2⟩

/-- The marker of a DISPATCH at a queue of this module. -/
def markFlit (i q r : Nat) (f : Flight) (count : Nat) (more : Bool) : Flit := ⟨i, syncHub, i, f.seq, none, .xqMark q r count more⟩

/-- At the first round a queue that serves gets the vectors of its share and the marker (R140, R220). -/
theorem State.sendShare_first {d : DispRec} (hd : (s.stn i).disp = [d]) (hs : d.seq = f.seq) (hn : d.sentTo = []) (hp : d.part = [])
    (hq : (s.xq q).serves = true) (hk : ((s.stn i).known none q).round = some 1) {mine : List Routed}
    (hm : d.unsent.filter (fun v => decide (v.mod = none) && decide (v.q = q)) = mine) :
    ∃ y, (y.known none q).round = none ∧
      let n := min (s.xq q).share mine.length
      let s1 := s.setStn i y
      let s2 := if (s.xq q).share < mine.length then s1.pbump i 0x150 (mine.length - (s.xq q).share) else s1
      s.sendShare i f none (none, q, r) = ((mine.take n).foldl (fun t v => t.sendFlit (vecFlit (s.stn i).pm i q r f v)) s2).sendFlit
        (markFlit i q r f n (decide ((s.xq q).share < mine.length))) := by
  have found : (s.stn i).disp.find? (fun d => d.seq = f.seq) = some d := by simp [hd, hs]
  have round : (s.stn i).roundFor d (none, q) = some 1 := by
    unfold Station.roundFor
    simp [hk, hd, hn]
  have share : s.shareFor i (none, q) = some ((s.xq q).share, s) := if_pos hq
  unfold State.sendShare
  dsimp only
  rw [found]
  dsimp only
  rw [round]
  dsimp only
  rw [share]
  dsimp only
  rw [hm, hp]
  have all : min (min (s.xq q).share mine.length) mine.length = min (s.xq q).share mine.length := by omega
  simp only [List.find?_nil, Option.map_none, Option.getD_none, Nat.sub_zero, min_self, List.length_take, all, le_refl, decide_true, Bool.true_and, if_true]
  have left : mine.length - min (s.xq q).share mine.length = mine.length - (s.xq q).share := by omega
  simp only [left, Nat.sub_pos_iff_lt, decide_eq_true_eq, Nat.zero_add]
  obtain ⟨hmod, hqueue⟩ := (s.stn i).known_names none q
  exact ⟨_, congrArg XOpen.round (Station.known_setKnown (o := { (s.stn i).known none q with round := none }) _ hmod hqueue), rfl⟩

/-- Flits sent one by one join the mesh in their order. -/
theorem State.sendFlits_spec {α : Type} (g : α → Flit) (l : List α) (s : State) :
    let t := l.foldl (fun t a => t.sendFlit (g a)) s
    t.die.mesh = s.die.mesh ++ l.map g ∧ (∀ a, t.reg a = s.reg a) ∧ ∀ j, t.stn j = s.stn j := by
  induction l generalizing s with
  | nil => exact ⟨(List.append_nil _).symm, fun _ => rfl, fun _ => rfl⟩
  | cons a l ih =>
    obtain ⟨mesh, regs, stns⟩ := ih (s.sendFlit (g a))
    exact ⟨by rw [List.foldl_cons, mesh, State.mesh_sendFlit, List.append_assoc]; rfl, regs, stns⟩

theorem State.sendShare_first_spec {d : DispRec} (hd : (s.stn i).disp = [d]) (hs : d.seq = f.seq) (hn : d.sentTo = []) (hp : d.part = [])
    (hq : (s.xq q).serves = true) (hk : ((s.stn i).known none q).round = some 1) {mine : List Routed}
    (hm : d.unsent.filter (fun v => decide (v.mod = none) && decide (v.q = q)) = mine) :
    let n := min (s.xq q).share mine.length
    let t := s.sendShare i f none (none, q, r)
    t.die.mesh = s.die.mesh ++ (mine.take n).map (vecFlit (s.stn i).pm i q r f) ++ [markFlit i q r f n (decide ((s.xq q).share < mine.length))] ∧
    t.reg (pageBase i + 0x150) = (if (s.xq q).share < mine.length then satAdd (s.reg (pageBase i + 0x150)) (mine.length - (s.xq q).share) else s.reg (pageBase i + 0x150)) ∧
    ((t.stn i).known none q).round = none := by
  obtain ⟨y, shut, e⟩ := State.sendShare_first (r := r) hd hs hn hp hq hk hm
  intro n t
  have e : t = _ := e
  obtain ⟨mesh, regs, stns⟩ := State.sendFlits_spec (vecFlit (s.stn i).pm i q r f) (mine.take n)
    (if (s.xq q).share < mine.length then (s.setStn i y).pbump i 0x150 (mine.length - (s.xq q).share) else s.setStn i y)
  rw [e, State.mesh_sendFlit, State.reg_sendFlit, State.stn_sendFlit, mesh, regs, stns]
  split
  · rename_i more
    unfold State.pbump
    rw [State.mesh_bump, State.reg_bump, if_pos rfl, State.stn_bump, State.stn_setStn, if_pos rfl]
    exact ⟨rfl, rfl, shut⟩
  · rw [State.stn_setStn, if_pos rfl]
    exact ⟨rfl, rfl, shut⟩

end

theorem State.runDispatch_one {s : State} {i q r : Nat} {f : Flight} {upto : Option Nat} (h : s.queuesOf f = [(none, q, r)]) :
    s.runDispatch i f upto = s.sendShare i f upto (none, q, r) := by
  unfold State.runDispatch
  rw [h]
  rfl

theorem State.queuesOf_of_keeps {s t : State} {i : Nat} (h : DispatchKeeps i s t) : t.queuesOf = s.queuesOf := by
  obtain ⟨-, regs, -⟩ := h
  have modid : t.modid = s.modid := by
    unfold State.modid
    rw [regs 0x80808 (by simp [pageBase]; omega)]
  unfold State.queuesOf State.entryOf
  rw [modid]

/-- A DISPATCH to one queue sends once, however often its number stands in flight: what it has sent shuts the queue (R220). -/
theorem State.runDispatches_once {s : State} {i q r : Nat} {f : Flight} {upto : Option Nat} {l : List Flight} (hl : l ≠ []) (hf : ∀ g ∈ l, g = f)
    (hq : s.queuesOf f = [(none, q, r)])
    (hk : let t := s.sendShare i f upto (none, q, r); t.sendShare i f upto (none, q, r) = t) :
    l.foldl (fun t g => t.runDispatch i g upto) s = s.sendShare i f upto (none, q, r) := by
  obtain ⟨g, rest, rfl⟩ := List.exists_cons_of_ne_nil hl
  rw [List.foldl_cons, hf g List.mem_cons_self, State.runDispatch_one hq]
  refine List.foldlRecOn (motive := (· = s.sendShare i f upto (none, q, r))) rest _ rfl (fun t ht g hg => ?_)
  rw [ht, hf g (List.mem_cons_of_mem _ hg), State.runDispatch_one (by rw [State.queuesOf_of_keeps (s.sendShare_keeps i f upto _), hq])]
  exact hk

/-! ### The DISPATCH that starts -/

theorem State.dispatchNext_starts {s : State} {i : Nat} {o : Obs} {f : Flight} (h : s.headOf i .mover = some f) (ho : opc f.word = 0x40) :
    s.dispatchNext i o = (s.countRefused i o.refused).startDispatch i f := by
  unfold State.dispatchNext
  dsimp only
  rw [State.headOf_of_refused (State.countRefused_only i o.refused s), h]
  exact if_pos ho

theorem State.dispatchNext_waits {s : State} {i : Nat} {o : Obs} (h : ∀ f, s.headOf i .mover = some f → opc f.word ≠ 0x40) :
    s.dispatchNext i o = s.countRefused i o.refused := by
  unfold State.dispatchNext
  dsimp only
  rw [State.headOf_of_refused (State.countRefused_only i o.refused s)]
  cases hf : s.headOf i .mover with
  | none => rfl
  | some f => exact if_neg (h f hf)

section
variable {s : State} {i : Nat} {o : Obs} {f : Flight} (h : s.headOf i .mover = some f) (ho : opc f.word = 0x40)
include h ho

/-- The station and the DISPATCH after its start, refused requests counted (R216). -/
theorem State.dispatchNext_spec :
    let t := s.dispatchNext i o
    let sent : Flight := { f with stage := .sent, acks := (s.queuesOf f).length, landed := 0 }
    (t.stn i).flightOf f.seq = (if s.queuesOf f = [] then none else some sent) ∧
    ((t.stn i).pm = (s.stn i).pm ∧ (t.stn i).slots = (s.stn i).slots ∧ (t.stn i).banks = (s.stn i).banks ∧ (t.stn i).tokens = (s.stn i).tokens ∧
      (t.stn i).iss.queue = (s.stn i).iss.queue) ∧
    (s.queuesOf f ≠ [] → t.stn i = ({ s.stn i with disp := (s.stn i).disp.map (fun d => if d.seq = f.seq then { d with
      started := true, queues := s.queuesOf f, routes := s.routesOf (s.stn i).pm f, unsent := s.routesOf (s.stn i).pm f, unplaced := s.routesOf (s.stn i).pm f } else d) } : Station).setFlight sent) ∧
    OnlyChanges s t (obsRegs i) [i] := by
  have refused := State.countRefused_only i o.refused s
  have same : (s.countRefused i o.refused).stn i = s.stn i := refused.2.1 i List.not_mem_nil
  have started := State.startDispatch_spec (s := s.countRefused i o.refused) (i := i) (f := f) (by rw [same]; exact (State.mem_headOf h).1)
  rw [State.queuesOf_of_refused refused, State.routesOf_of_refused refused, same] at started
  rw [State.dispatchNext_starts h ho]
  obtain ⟨found, keeps, own, only⟩ := started
  exact ⟨found, keeps, own, (refused.mono (fun _ h => h) (fun _ => nofun)).trans (only.mono (fun _ => nofun) (fun _ h => h))⟩

/-- With no other DISPATCH in flight, those that send are the one that has started. -/
theorem State.dispatching_next (hq : s.queuesOf f ≠ []) (hf : (s.stn i).iss.flight.filter (fun g => decide (opc g.word = 0x40)) = [f]) :
    let l := (s.dispatchNext i o).dispatching i
    l ≠ [] ∧ ∀ g ∈ l, g = { f with stage := .sent, acks := (s.queuesOf f).length, landed := 0 } := by
  obtain ⟨-, -, own, -⟩ := State.dispatchNext_spec (o := o) h ho
  have own := own hq
  have hm := (State.mem_headOf h).1
  intro l
  have mem (g : Flight) : g ∈ l ↔ g ∈ ((s.dispatchNext i o).stn i).iss.flight ∧ opc g.word = 0x40 ∧ g.stage = .sent := by
    simp [l, State.dispatching]
  rw [own] at mem
  refine ⟨List.ne_nil_of_mem ((mem _).mpr ⟨Station.mem_setFlight (f := f) hm rfl, ho, rfl⟩), fun g hg => ?_⟩
  obtain ⟨hg, hop, -⟩ := (mem g).mp hg
  obtain ⟨a, ha, rfl⟩ := List.mem_map.mp hg
  by_cases ha' : a.seq = f.seq
  · exact if_pos ha'
  · rw [if_neg ha'] at hop
    have only : a ∈ (s.stn i).iss.flight.filter (fun g => decide (opc g.word = 0x40)) := List.mem_filter.mpr ⟨ha, by simpa using hop⟩
    rw [hf, List.mem_singleton] at only
    exact absurd (congrArg Flight.seq only) ha'

end

theorem State.xq_of_core {s t : State} (h : t.core = s.core) (q : Nat) : t.xq q = s.xq q :=
  show t.core.xq q = s.core.xq q from congrArg (·.xq q) h

theorem State.dispatchSlip_mem {s : State} {i : Nat} {sl : Option Slip} {f : Flight} {q : Slip} (h : s.dispatchSlip i sl = some (f, q)) : f ∈ (s.stn i).iss.flight := by
  unfold State.dispatchSlip at h
  split at h
  · rename_i g hg
    obtain ⟨a, -, e⟩ := Option.map_eq_some_iff.mp h
    cases e
    exact List.mem_of_find?_eq_some hg
  · cases h

end Sys2Proof.Machine
end

section
/-! PROOFS. GATHER, and DISPATCH and GATHER together (O31). -/
namespace Sys2Proof.Machine

/-! ### Frames -/

/-- What a GATHER leaves: slots, banks, tokens and queued words of its station, the other stations and LPDDR5X. -/
def GatherKeeps (i : Nat) (s t : State) : Prop :=
  (t.stn i).slots = (s.stn i).slots ∧ (t.stn i).banks = (s.stn i).banks ∧ (t.stn i).tokens = (s.stn i).tokens ∧
  (t.stn i).iss.queue = (s.stn i).iss.queue ∧ SameStns s t [i] ∧ t.lpddr = s.lpddr

/-- No instruction has joined those in flight at a station. -/
def NoneJoins (i : Nat) (s t : State) : Prop := ∀ g ∈ (t.stn i).iss.flight, g ∈ (s.stn i).iss.flight

section
variable {i : Nat} {s t u : State}

theorem GatherKeeps.still (hs : ∀ j, t.stn j = s.stn j) (hl : t.lpddr = s.lpddr) : GatherKeeps i s t := by
  unfold GatherKeeps
  rw [hs]
  exact ⟨rfl, rfl, rfl, rfl, fun j _ => hs j, hl⟩

theorem GatherKeeps.refl (s : State) : GatherKeeps i s s := .still (fun _ => rfl) rfl

theorem GatherKeeps.trans (h : GatherKeeps i s t) (k : GatherKeeps i t u) : GatherKeeps i s u := by
  obtain ⟨h1, h2, h3, h4, h5, h6⟩ := h
  obtain ⟨k1, k2, k3, k4, k5, k6⟩ := k
  exact ⟨k1.trans h1, k2.trans h2, k3.trans h3, k4.trans h4, fun j hj => (k5 j hj).trans (h5 j hj), k6.trans h6⟩

theorem GatherKeeps.setStn {x : Station} (h1 : x.slots = (s.stn i).slots) (h2 : x.banks = (s.stn i).banks) (h3 : x.tokens = (s.stn i).tokens)
    (h4 : x.iss.queue = (s.stn i).iss.queue) : GatherKeeps i s (s.setStn i x) := by
  unfold GatherKeeps
  rw [State.stn_setStn, if_pos rfl]
  exact ⟨h1, h2, h3, h4, fun j hj => (State.stn_setStn _ _ _ _).trans (if_neg (List.ne_of_not_mem_cons hj)), rfl⟩

theorem GatherKeeps.setFlight (s : State) (g : Flight) : GatherKeeps i s (s.setFlight i g) := .setStn rfl rfl rfl rfl

theorem GatherKeeps.pmMask (s : State) (ws : List MaskedByte) : GatherKeeps i s (s.pmMask i ws) := .setStn rfl rfl rfl rfl

theorem NoneJoins.trans (h : NoneJoins i s t) (k : NoneJoins i t u) : NoneJoins i s u := fun g hg => h g (k g hg)

theorem NoneJoins.setStn {x : Station} (h : ∀ g ∈ x.iss.flight, g ∈ (s.stn i).iss.flight) : NoneJoins i s (s.setStn i x) := fun g hg => by
  rw [State.stn_setStn, if_pos rfl] at hg
  exact h g hg

end

/-! ### Placing results -/

/-- A result at hand is placed in platform memory, and the record has one place less (R140, R221). -/
def State.placed (s : State) (i : Nat) (d : DispRec) (rest : List Flit) (ws : List MaskedByte) : State :=
  ((s.setMesh rest).setStn i ((s.stn i).setRec d)).pmMask i ws

theorem State.stn_placed (s : State) (i : Nat) (d : DispRec) (rest : List Flit) (ws : List MaskedByte) :
    (s.placed i d rest ws).stn i = { (s.stn i).setRec d with pm := pmApply (s.stn i).pm ws } := by
  unfold State.placed State.pmMask
  rw [State.stn_setStn, if_pos rfl, State.stn_setStn, if_pos rfl]
  rfl

theorem State.mesh_placed (s : State) (i : Nat) (d : DispRec) (rest : List Flit) (ws : List MaskedByte) : (s.placed i d rest ws).die.mesh = rest := rfl

theorem State.reg_placed (s : State) (i : Nat) (d : DispRec) (rest : List Flit) (ws : List MaskedByte) (a : Nat) : (s.placed i d rest ws).reg a = s.reg a := rfl

theorem State.placed_keeps (s : State) (i : Nat) (d : DispRec) (rest : List Flit) (ws : List MaskedByte) :
    GatherKeeps i s (s.placed i d rest ws) ∧ NoneJoins i s (s.placed i d rest ws) := by
  have set : GatherKeeps i s ((s.setMesh rest).setStn i ((s.stn i).setRec d)) := .setStn (s := s.setMesh rest) rfl rfl rfl rfl
  refine ⟨set.trans (.pmMask _ ws), fun g hg => ?_⟩
  rw [State.stn_placed] at hg
  exact hg

theorem placeAll_keeps (i seq n : Nat) (s : State) : GatherKeeps i s (placeAll i seq n s) ∧ NoneJoins i s (placeAll i seq n s) := by
  induction n generalizing s with
  | zero => exact ⟨.refl s, fun _ hg => hg⟩
  | succ n ih =>
    unfold placeAll
    dsimp only
    split
    · split
      · refine ⟨.setStn (by simp) (by simp) (by simp) (by simp), .setStn (fun g hg => ?_)⟩
        rw [Station.flight_complete] at hg
        exact (List.mem_filter.mp hg).1
      · split
        · exact ⟨.refl s, fun _ hg => hg⟩
        · rename_i f d _ _ _ _ g rest _
          split
          · split
            · obtain ⟨own, -, -, stns, -, lp⟩ := (s.setMesh rest).abandon_spec i f
              unfold GatherKeeps NoneJoins
              rw [own]
              exact ⟨⟨rfl, rfl, rfl, rfl, stns, lp⟩, fun g hg => (List.mem_filter.mp hg).1⟩
            · obtain ⟨kept, fewer⟩ := s.placed_keeps i { d with unplaced := d.unplaced.filter (fun r => !(decide (r.q = _) && decide (r.m = _) && decide (r.j = _))) } rest _
              obtain ⟨later, last⟩ := ih _
              exact ⟨kept.trans later, fewer.trans last⟩
          · exact ⟨.refl s, fun _ hg => hg⟩
    · exact ⟨.refl s, fun _ hg => hg⟩

/-- A GATHER that has none to place completes (R140, R148). -/
theorem placeAll_done {i seq n : Nat} {s : State} {f : Flight} {d : DispRec} (hf : (s.stn i).flightOf seq = some f)
    (hd : (s.stn i).disp.find? (fun d => d.gather = some seq) = some d) (hu : d.unplaced = []) :
    placeAll i seq (n + 1) s = s.setStn i ({ s.stn i with disp := (s.stn i).disp.filter (fun e => decide (e.seq ≠ d.seq)) }.complete seq) := by
  unfold placeAll
  dsimp only
  rw [hf, hd]
  exact if_pos (by rw [hu]; rfl)

/-- The next result at hand is placed (R140, R221). -/
theorem placeAll_next {i seq n q m j : Nat} {s : State} {f : Flight} {d : DispRec} {g : Flit} {rest : List Flit} {dt sc : List Byte}
    (hf : (s.stn i).flightOf seq = some f) (hd : (s.stn i).disp.find? (fun d => d.gather = some seq) = some d) (hu : d.unplaced ≠ [])
    (hg : takeFlit (fun g => awaited i d g && s.pathOpen g.src i) s.die.mesh = some (g, rest)) (hb : g.body = .xqRes q m j dt sc)
    (hl : dt.length = fld f.word 67 8 * 64) :
    placeAll i seq (n + 1) s = placeAll i seq n (s.placed i
      { d with unplaced := d.unplaced.filter (fun r => !(decide (r.q = q) && decide (r.m = m) && decide (r.j = j))) } rest (gatherWrites f.word m j (some (dt, sc)))) := by
  rw [placeAll]
  dsimp only
  rw [hf, hd]
  dsimp only
  rw [if_neg (by simpa using hu), hg]
  dsimp only
  rw [hb]
  exact if_neg (not_not.mpr hl)

/-! ### Starting -/

theorem State.askQueue_keeps (s : State) (i : Nat) (q : Option Nat × Nat × Nat) : (∀ j, (s.askQueue i q).stn j = s.stn j) ∧ (s.askQueue i q).lpddr = s.lpddr := by
  unfold State.askQueue
  split
  · exact ⟨fun _ => rfl, rfl⟩
  · exact ⟨fun _ => State.stn_sendOut .., State.lpddr_sendOut ..⟩

/-- A GATHER starts when its DISPATCH is recorded (R221). -/
theorem State.startGather_spec (s : State) (i : Nat) (f : Flight) :
    GatherKeeps i s (s.startGather i f) ∧
    ((s.stn i).disp.find? (fun d => d.gather = some f.seq) ≠ none →
      ((s.startGather i f).stn i).iss.flight = ((s.stn i).setFlight { f with stage := .sent }).iss.flight) := by
  unfold State.startGather
  dsimp only
  cases hd : (s.stn i).disp.find? (fun d => d.gather = some f.seq) with
  | none => exact ⟨.refl s, fun h => absurd rfl h⟩
  | some d =>
    dsimp only
    generalize (List.range (mextOf f.word)).flatMap _ = ws
    have started : GatherKeeps i s ((s.setFlight i { f with stage := .sent }).pmMask i ws) :=
      (GatherKeeps.setFlight s _).trans (.pmMask _ ws)
    have own : (((s.setFlight i { f with stage := .sent }).pmMask i ws).stn i).iss.flight = ((s.stn i).setFlight { f with stage := .sent }).iss.flight := by
      unfold State.pmMask State.setFlight
      rw [State.stn_setStn, if_pos rfl, State.stn_setStn, if_pos rfl]
    generalize (s.setFlight i { f with stage := .sent }).pmMask i ws = s1 at started own
    have asked : (∀ j, (d.queues.foldl (fun (t : State) q => t.askQueue i q) s1).stn j = s1.stn j) ∧ (d.queues.foldl (fun (t : State) q => t.askQueue i q) s1).lpddr = s1.lpddr :=
      List.foldlRecOn (motive := fun t : State => (∀ j, t.stn j = s1.stn j) ∧ t.lpddr = s1.lpddr) d.queues _ ⟨fun _ => rfl, rfl⟩ (fun t ht q _ =>
        have ⟨stns, lp⟩ := t.askQueue_keeps i q
        ⟨fun j => (stns j).trans (ht.1 j), lp.trans ht.2⟩)
    obtain ⟨stns, lp⟩ := asked
    exact ⟨started.trans (.still stns lp), fun _ => by rw [stns, own]⟩

/-- The state in which the started GATHERs of a station place results: the next one has started (R140, R221). -/
def State.gatherNext (s : State) (i : Nat) : State :=
  match s.headOf i .mover with
  | some f => if opc f.word = 0x41 then s.startGather i f else s
  | none => s

/-- The started GATHERs of a station. -/
def State.gathering (s : State) (i : Nat) : List Flight := (s.stn i).iss.flight.filter (fun f => decide (opc f.word = 0x41) && decide (f.stage = .sent))

theorem exec_gather {s : State} {i : Stn} {o : Obs} (hl : s.live = true) (hs : o.slip = none) :
    exec (.gather i o) s = .next (((s.gatherNext i).gathering i).foldl (fun t f => placeAll i f.seq (t.die.mesh.length + 1) t) (s.gatherNext i)) := by
  change execGather i o s = _
  unfold execGather
  rw [if_pos hl, hs]
  dsimp only [slipAt, Option.map_none]
  simp only [Option.bind_fun_none]
  rfl

theorem State.gatherNext_starts {s : State} {i : Nat} {f : Flight} (h : s.headOf i .mover = some f) (ho : opc f.word = 0x41) : s.gatherNext i = s.startGather i f := by
  unfold State.gatherNext
  rw [h]
  exact if_pos ho

theorem State.gatherNext_waits {s : State} {i : Nat} (h : ∀ f, s.headOf i .mover = some f → opc f.word ≠ 0x41) : s.gatherNext i = s := by
  unfold State.gatherNext
  cases hf : s.headOf i .mover with
  | none => rfl
  | some f => exact if_neg (h f hf)

theorem State.gatherNext_keeps (s : State) (i : Nat) : GatherKeeps i s (s.gatherNext i) := by
  unfold State.gatherNext
  split
  · split
    · exact (s.startGather_spec i _).1
    · exact .refl s
  · exact .refl s

theorem takeFlit_length {p : Flit → Bool} {l rest : List Flit} {g : Flit} (h : takeFlit p l = some (g, rest)) : l.length = rest.length + 1 := by
  induction l generalizing rest with
  | nil => cases h
  | cons a l ih =>
    unfold takeFlit at h
    split at h
    · cases h
      rfl
    · obtain ⟨⟨b, r⟩, hb, e⟩ := Option.map_eq_some_iff.mp h
      cases e
      rw [List.length_cons, ih hb]
      rfl

/-- The record of a GATHER is found after it is replaced. -/
theorem Station.find?_setRec {x : Station} {d e : DispRec} {k : Nat} (h : x.disp.find? (fun d => d.gather = some k) = some d) (hs : e.seq = d.seq) (hg : e.gather = d.gather)
    (one : ∀ a ∈ x.disp, a.seq = d.seq → a = d) : (x.setRec e).disp.find? (fun d => d.gather = some k) = some e := by
  have named (a : DispRec) (ha : a ∈ x.disp) : decide ((if a.seq = e.seq then e else a).gather = some k) = decide (a.gather = some k) := by
    split
    · rename_i same
      rw [one a ha (same.trans hs), hg]
    · rfl
  unfold Station.setRec
  rw [List.find?_map]
  have same : x.disp.find? ((fun d : DispRec => decide (d.gather = some k)) ∘ fun a => if a.seq = e.seq then e else a) = some d := by
    rw [← h]
    exact List.find?_congr named
  rw [same]
  exact congrArg some (if_pos hs.symm)

/-- The result at hand for the last place of a GATHER is written, and the GATHER completes (R140, R221). -/
theorem placeAll_last {s : State} {i : Nat} {f : Flight} {d : DispRec} {z : Routed} {g : Flit} {rest : List Flit} {dt sc : List Byte}
    (hf : (s.stn i).flightOf f.seq = some f) (hd : (s.stn i).disp.find? (fun d => d.gather = some f.seq) = some d) (hz : d.unplaced = [z])
    (hg : takeFlit (fun g => awaited i d g && s.pathOpen g.src i) s.die.mesh = some (g, rest)) (hb : g.body = .xqRes z.q z.m z.j dt sc)
    (hl : dt.length = fld f.word 67 8 * 64) (one : ∀ e ∈ (s.stn i).disp, e.seq = d.seq → e = d) :
    let t := placeAll i f.seq (s.die.mesh.length + 1) s
    (t.stn i).pm = pmApply (s.stn i).pm (gatherWrites f.word z.m z.j (some (dt, sc))) ∧ (t.stn i).flightOf f.seq = none ∧ t.die.mesh = rest ∧ SameRegs s t [] := by
  intro t
  have next : t = _ := placeAll_next (n := s.die.mesh.length) hf hd (by rw [hz]; exact List.cons_ne_nil z []) hg hb hl
  rw [takeFlit_length hg] at next
  generalize hd1 : ({ d with unplaced := d.unplaced.filter (fun r => !(decide (r.q = z.q) && decide (r.m = z.m) && decide (r.j = z.j))) } : DispRec) = d1 at next
  generalize gatherWrites f.word z.m z.j (some (dt, sc)) = ws at next ⊢
  have own := s.stn_placed i d1 rest ws
  have found : ((s.placed i d1 rest ws).stn i).flightOf f.seq = some f := by
    rw [own]
    exact hf
  have recorded : ((s.placed i d1 rest ws).stn i).disp.find? (fun d => d.gather = some f.seq) = some d1 := by
    rw [own]
    exact Station.find?_setRec hd (by rw [← hd1]) (by rw [← hd1]) one
  have none_left : d1.unplaced = [] := by
    rw [← hd1, hz]
    simp
  rw [placeAll_done found recorded none_left] at next
  rw [next, State.stn_setStn, if_pos rfl, State.mesh_setStn, State.mesh_placed, Station.pm_complete]
  refine ⟨?_, Station.flightOf_complete _ _, rfl, fun a _ => ?_⟩
  · rw [own]
  · rw [State.reg_setStn, State.reg_placed]

/-! ### Frames of both -/

/-- Sends of a DISPATCH leave what its statement names. -/
theorem DispatchKeeps.flightOf {i : Nat} {s t : State} (h : DispatchKeeps i s t) (k : Nat) : (t.stn i).flightOf k = (s.stn i).flightOf k := by
  obtain ⟨⟨ds, xo, own⟩, -⟩ := h
  rw [own]
  rfl

end Sys2Proof.Machine

namespace Sys2Proof
open Machine

section
variable {s : State} {i : Stn} {o : Obs} (hl : s.live = true)
include hl

/-- An aborted DISPATCH goes to its replay (R147). -/
theorem dispatch_slips {f : Flight} {q : Slip} (h : s.dispatchSlip i o.slip = some (f, q)) :
    Runs (.dispatch i o) s (fun t =>
      (∃ g, (t.stn i).flightOf f.seq = some g ∧ g.stage = .recover (if f.attempts = 0 then 1 else 4) ∧ g.why.code = 0x0102) ∧
      t.reg 0x6000C = s.reg 0x6000C + 1 ∧ (t.stn i).pm = (s.stn i).pm ∧ (t.stn i).slots = (s.stn i).slots ∧ SameStns s t [i.val] ∧ t.lpddr = s.lpddr) := by
  obtain ⟨⟨fl, own⟩, ⟨g, found, stage, code⟩, wr, stns, -, lp⟩ := State.slip_spec q (State.dispatchSlip_mem h)
  have keeps := (s.slip i f q).pullBackAll_keeps i
  have still := keeps.flightOf f.seq
  obtain ⟨⟨ds, xo, back⟩, regs, others, blp⟩ := keeps
  rw [own] at back
  refine runs_of (exec_dispatch_slips hl h) ⟨⟨g, still.trans found, stage, code⟩, (regs _ (by simp [pageBase]; omega)).trans wr, by rw [back], by rw [back],
    fun j hj => (others j hj).trans (stns j hj), blp.trans lp⟩

variable (h : s.dispatchSlip i o.slip = none)
include h

/-- A DISPATCH starts, and whatever is sent leaves platform memory, slots, banks and tokens (R140, R216, R220). -/
theorem dispatch_starts :
    Runs (.dispatch i o) s (fun t =>
      (∀ f, s.headOf i .mover = some f → opc f.word = 0x40 → (t.stn i).flightOf f.seq =
        (if s.queuesOf f = [] then none else some { f with stage := .sent, acks := (s.queuesOf f).length, landed := 0 })) ∧
      (t.stn i).pm = (s.stn i).pm ∧ (t.stn i).slots = (s.stn i).slots ∧ (t.stn i).banks = (s.stn i).banks ∧ (t.stn i).tokens = (s.stn i).tokens ∧
      (t.stn i).iss.queue = (s.stn i).iss.queue ∧ SameRegs s t ((pageBase i + 0x150) :: obsRegs i) ∧ SameStns s t [i.val] ∧ t.lpddr = s.lpddr) := by
  have next : (∀ f, s.headOf i .mover = some f → opc f.word = 0x40 → ((s.dispatchNext i o).stn i).flightOf f.seq =
        (if s.queuesOf f = [] then none else some { f with stage := .sent, acks := (s.queuesOf f).length, landed := 0 })) ∧
      (((s.dispatchNext i o).stn i).pm = (s.stn i).pm ∧ ((s.dispatchNext i o).stn i).slots = (s.stn i).slots ∧
        ((s.dispatchNext i o).stn i).banks = (s.stn i).banks ∧ ((s.dispatchNext i o).stn i).tokens = (s.stn i).tokens ∧
        ((s.dispatchNext i o).stn i).iss.queue = (s.stn i).iss.queue) ∧ OnlyChanges s (s.dispatchNext i o) (obsRegs i) [i] := by
    by_cases starts : ∃ f, s.headOf i .mover = some f ∧ opc f.word = 0x40
    · obtain ⟨f, hf, ho⟩ := starts
      obtain ⟨found, keeps, -, only⟩ := State.dispatchNext_spec (o := o) hf ho
      refine ⟨fun g hg _ => ?_, keeps, only⟩
      cases hf.symm.trans hg
      exact found
    · have refused := State.countRefused_only i o.refused s
      rw [State.dispatchNext_waits (fun f hf ho => starts ⟨f, hf, ho⟩), refused.2.1 i List.not_mem_nil]
      exact ⟨fun f hf ho => absurd ⟨f, hf, ho⟩ starts, ⟨rfl, rfl, rfl, rfl, rfl⟩, refused.mono (fun _ h => h) (fun _ => nofun)⟩
  obtain ⟨found, ⟨pm, slots, banks, tokens, queue⟩, only⟩ := next
  have sent : DispatchKeeps i (s.dispatchNext i o) (((s.dispatchNext i o).dispatching i).foldl (fun t f => t.runDispatch i f o.upto) (s.dispatchNext i o)) :=
    .foldl (fun t f => t.runDispatch_keeps i f o.upto) _ _
  have still := sent.flightOf
  obtain ⟨⟨ds, xo, own⟩, regs, stns, lp⟩ := sent
  refine runs_of (exec_dispatch hl h) ⟨fun f hf ho => (still f.seq).trans (found f hf ho), by rw [own]; exact pm, by rw [own]; exact slots, by rw [own]; exact banks,
    by rw [own]; exact tokens, by rw [own]; exact queue, fun a ha => ?_, fun j hj => (stns j hj).trans (only.2.1 j hj), lp.trans only.lpddr⟩
  rw [List.mem_cons, not_or] at ha
  exact (regs a (by simpa using ha.1)).trans (only.1 a ha.2)

section
variable {f : Flight} {q r : Nat} {d : DispRec} (hf : s.headOf i .mover = some f) (ho : opc f.word = 0x40) (hq : s.queuesOf f = [(none, q, r)])
  (hfl : (s.stn i).iss.flight.filter (fun g => decide (opc g.word = 0x40)) = [f])
include hf ho hq hfl

/-- A DISPATCH alone in flight whose map names one queue sends to that queue alone (R217, R220). -/
theorem exec_dispatch_one
    (once : let t := (s.dispatchNext i o).sendShare i { f with stage := .sent, acks := 1, landed := 0 } o.upto (none, q, r)
      t.sendShare i { f with stage := .sent, acks := 1, landed := 0 } o.upto (none, q, r) = t) :
    exec (.dispatch i o) s = .next ((s.dispatchNext i o).sendShare i { f with stage := .sent, acks := 1, landed := 0 } o.upto (none, q, r)) := by
  have named : s.queuesOf f ≠ [] := by rw [hq]; exact List.cons_ne_nil _ _
  obtain ⟨some, all⟩ := State.dispatching_next (o := o) hf ho named hfl
  rw [hq] at all
  obtain ⟨-, -, -, only⟩ := State.dispatchNext_spec (o := o) hf ho
  have same : (s.dispatchNext i o).queuesOf { f with stage := .sent, acks := 1, landed := 0 } = [(none, q, r)] := by
    rw [State.queuesOf_of_refused only]
    exact hq
  exact (exec_dispatch hl h).trans (congrArg _ (State.runDispatches_once some all same once))

variable (hd : (s.stn i).disp = [d]) (hds : d.seq = f.seq) (hn : d.sentTo = []) (hp : d.part = [])

/-- While its queue does not serve, a DISPATCH that starts sends nothing (R220). -/
theorem dispatch_unserved (hs : (s.xq q).serves = false) :
    Runs (.dispatch i o) s (fun t => (t.stn i).flightOf f.seq = some { f with stage := .sent, acks := 1, landed := 0 } ∧ OnlyChanges s t (obsRegs i) [i.val]) := by
  obtain ⟨found, -, -, only⟩ := State.dispatchNext_spec (o := o) hf ho
  have stays := State.sendShare_unserved (i := i.val) (r := r) (f := { f with stage := .sent, acks := 1, landed := 0 }) (upto := o.upto)
    ((congrArg XQueue.serves (State.xq_of_core only.2.2 q)).trans hs)
  have runs := exec_dispatch_one (o := o) hl h hf ho hq hfl (by rw [stays]; exact stays)
  rw [stays] at runs
  rw [if_neg (by rw [hq]; exact List.cons_ne_nil _ _), hq] at found
  exact runs_of runs ⟨found, only⟩

include hd hds hn hp

/-- A DISPATCH sends the share of its queue and the marker (R140, R217, R220). -/
theorem dispatch_sends (hs : (s.xq q).serves = true) (hk : ((s.stn i).known none q).round = some 1) (hu : o.upto = none) :
    let mine := (s.routesOf (s.stn i).pm f).filter (fun z => decide (z.mod = none) && decide (z.q = q))
    Runs (.dispatch i o) s (fun t =>
      (∃ vs, t.die.mesh = s.die.mesh ++ vs ++ [⟨i.val, syncHub, i.val, f.seq, none, .xqMark q r (min (s.xq q).share mine.length) (decide ((s.xq q).share < mine.length))⟩] ∧
        vs.length = min (s.xq q).share mine.length ∧
        ∀ g ∈ vs, g.src = i.val ∧ g.dst = syncHub ∧ g.txn = f.seq ∧ isVecOf q r g = true) ∧
      t.reg (pageBase i + 0x150) = (if (s.xq q).share < mine.length then satAdd (s.reg (pageBase i + 0x150)) (mine.length - (s.xq q).share) else s.reg (pageBase i + 0x150))) := by
  intro mine
  obtain ⟨-, -, own, only⟩ := State.dispatchNext_spec (o := o) hf ho
  have own := own (by rw [hq]; exact List.cons_ne_nil _ _)
  rw [hd, List.map_singleton, if_pos hds] at own
  have xq := State.xq_of_core only.2.2 q
  have spec := State.sendShare_first_spec (s := s.dispatchNext i o) (i := i.val) (q := q) (r := r) (f := { f with stage := .sent, acks := 1, landed := 0 }) (mine := mine)
    (d := { d with started := true, queues := s.queuesOf f, routes := s.routesOf (s.stn i).pm f, unsent := s.routesOf (s.stn i).pm f, unplaced := s.routesOf (s.stn i).pm f })
    (by rw [own]; rfl) hds hn hp (by rw [xq]; exact hs) (by rw [own]; exact hk) rfl
  rw [xq] at spec
  obtain ⟨mesh, counted, shut⟩ := spec
  have runs := exec_dispatch_one (o := o) hl h hf ho hq hfl (by rw [hu]; exact State.sendShare_closed shut)
  rw [hu] at runs
  refine runs_of runs ⟨⟨_, mesh.trans (by rw [only.mesh]; rfl), ?_, fun g hg => ?_⟩, counted.trans ?_⟩
  · rw [List.length_map, List.length_take]
    omega
  · obtain ⟨v, -, rfl⟩ := List.mem_map.mp hg
    exact ⟨rfl, rfl, rfl, by simp [vecFlit, isVecOf]⟩
  · rw [only.1 (pageBase i + 0x150) (by simp only [obsRegs, pageBase, List.mem_cons, List.mem_map, List.mem_range]; omega)]

end

end

section
variable {s : State} {i : Stn} {o : Obs} (hl : s.live = true) (hs : o.slip = none)
include hl hs

/-- A GATHER starts, and whatever is placed leaves slots, banks and tokens (R140, R221). -/
theorem gather_starts :
    Runs (.gather i o) s (fun t =>
      (∀ f, s.headOf i .mover = some f → opc f.word = 0x41 → ∀ g, (t.stn i).flightOf f.seq = some g → g.stage ≠ .issued ∨ (s.stn i).disp.find? (fun d => d.gather = some f.seq) = none) ∧
      (t.stn i).slots = (s.stn i).slots ∧ (t.stn i).banks = (s.stn i).banks ∧ (t.stn i).tokens = (s.stn i).tokens ∧
      (t.stn i).iss.queue = (s.stn i).iss.queue ∧ SameStns s t [i.val] ∧ t.lpddr = s.lpddr) := by
  obtain ⟨keeps, fewer⟩ := List.foldlRecOn (motive := fun t => GatherKeeps i (s.gatherNext i) t ∧ NoneJoins i (s.gatherNext i) t) ((s.gatherNext i).gathering i)
    (fun t f => placeAll i f.seq (t.die.mesh.length + 1) t) ⟨.refl _, fun _ hg => hg⟩ (fun t ht f _ =>
      have ⟨kept, left⟩ := placeAll_keeps i f.seq (t.die.mesh.length + 1) t
      ⟨ht.1.trans kept, ht.2.trans left⟩)
  refine runs_of (exec_gather hl hs) ⟨fun f hf ho g hg => ?_, (s.gatherNext_keeps i).trans keeps⟩
  obtain ⟨mem, seq⟩ := Station.mem_flightOf hg
  by_cases hd : (s.stn i).disp.find? (fun d => d.gather = some f.seq) = none
  · exact .inr hd
  · have joined := fewer g mem
    rw [State.gatherNext_starts hf ho, (s.startGather_spec i f).2 hd] at joined
    rw [Station.eq_of_mem_setFlight joined seq]
    exact .inl nofun

/-- Of one started GATHER the results at hand are placed. -/
theorem exec_gather_one {f : Flight} (hg : ∀ g, s.headOf i .mover = some g → opc g.word ≠ 0x41)
    (hfl : (s.stn i).iss.flight.filter (fun g => decide (opc g.word = 0x41) && decide (g.stage = .sent)) = [f]) :
    exec (.gather i o) s = .next (placeAll i f.seq (s.die.mesh.length + 1) s) := by
  have going : s.gathering i = [f] := hfl
  rw [exec_gather hl hs, State.gatherNext_waits hg, going]
  rfl

end

/-- Settles O31: a DISPATCH slips, or starts and sends its queue's share; a GATHER starts, and places the results at hand. -/
theorem dispatchSendsItsShare : Obligations.DispatchSendsItsShare := by
  intro s i o hl
  refine ⟨fun f sl h => dispatch_slips hl h, fun h => dispatch_starts hl h, fun f q r d hf ho h hq hfl hd hds hn hp =>
    ⟨fun hs hk hu => dispatch_sends hl h hf ho hq hfl hd hds hn hp hs hk hu, fun hs => dispatch_unserved hl h hf ho hq hfl hs⟩,
    fun hs => gather_starts hl hs, fun f d hs hg hfl hf hd => ⟨fun hu => ?_, fun z g rest dt sc hz hg' hb hlen one => ?_⟩⟩
  · have runs := exec_gather_one hl hs hg hfl
    rw [placeAll_done hf hd hu] at runs
    refine runs_of runs ?_
    rw [State.stn_setStn, if_pos rfl]
    exact ⟨Station.flightOf_complete _ _, Station.pm_complete _ _, OnlyChanges.setStn _ _ _ _ _ (List.mem_singleton_self _)⟩
  · exact runs_of (exec_gather_one hl hs hg hfl) (placeAll_last hf hd hz hg' hb hlen one)

end Sys2Proof
end

section
/-! PROOFS. Session writes (O28): what a host write of a session descriptor does in each of its cases, and the requests to park. -/
namespace Sys2Proof.Machine

/-! ### The fields of a session descriptor -/

theorem fld_eq_extractLsb' {n : Nat} (w : BitVec n) (lo len : Nat) : fld w lo len = (w.extractLsb' lo len).toNat := rfl

/-- A field of a masked word is the field, masked. -/
theorem fld_and {n : Nat} (w m : BitVec n) (lo len : Nat) : fld (w &&& m) lo len = fld w lo len &&& fld m lo len := by
  simp only [fld_eq_extractLsb', BitVec.extractLsb'_and, BitVec.toNat_and]

/-- STATE takes what a write of byte 0 bears (R229, R230). -/
theorem fld_sessState (old v : Word) {en : BitVec 4} (h : bitAt en 0 = true) : fld (enabled old en v &&& sessMask 0) 0 8 = fld v 0 8 := by
  have byte : fld (enabled old en v) 0 8 = fld v 0 8 := (fld_enabled old v en (k := 0) (by decide)).trans (if_pos h)
  have whole : fld (sessMask 0) 0 8 = 2 ^ 8 - 1 := by decide
  rw [fld_and, byte, whole, Nat.and_two_pow_sub_one_eq_mod]
  exact Nat.mod_mod _ _

theorem sessAddr_ne (n : Nat) {j k : Nat} (h : j ≠ k) : sessAddr n j ≠ sessAddr n k := by
  unfold sessAddr
  omega

/-! ### A write that is served -/

theorem sessAddr_bounds (n : Fin 10240) (k : Fin 16) : 0x400000 ≤ sessAddr n k ∧ sessAddr n k < 0x4A0000 := by
  have hn := n.isLt
  have hk := k.isLt
  unfold sessAddr
  omega

theorem rwMask_sessAddr (n : Fin 10240) (k : Fin 16) : rwMask (sessAddr n k) = some (sessMask (sessAddr n k % 64 / 4)) := by
  obtain ⟨hl, hu⟩ := sessAddr_bounds n k
  have h4 : sessAddr n k % 4 = 0 := by unfold sessAddr; omega
  unfold rwMask
  repeat (refine (if_neg (by omega)).trans ?_)
  exact if_pos (by omega)

theorem byteWritable_sessAddr (n : Fin 10240) (k : Fin 16) : byteWritable (sessAddr n k) = true := by
  obtain ⟨hl, hu⟩ := sessAddr_bounds n k
  simp [byteWritable, hl, hu]

/-- All of the session table is served in the same states (R405). -/
theorem State.writeServed_sessions {s : State} (h : s.writeServed 0x400000 = true) (a : Nat) : s.writeServed a = true := by
  obtain ⟨up, state⟩ := Bool.and_eq_true_iff.mp h
  have ready : 5 ≤ s.mstate := by simpa using state
  exact Bool.and_eq_true_iff.mpr ⟨up, by simp [ready]⟩

theorem exec_sessionStateWrite (n : Fin 10240) (k : Fin 16) (en : BitVec 4) (v : Word) (s : State) :
    exec (.sessionStateWrite n k en v) s = .next (s.bar0Write (sessAddr n k) en v) := rfl

theorem exec_sessionCmdPark (v : Word) (s : State) : exec (.sessionCmdPark v) s = .next (s.bar0Write 0x4F0008 0xF v) := rfl

theorem runs_sessionStateWrite {s : State} {n : Fin 10240} {k : Fin 16} {en : BitVec 4} {v : Word} {P : State → Prop} (hs : s.supState = 0)
    (h : s.writeServed 0x400000 = true) (he : en ≠ 0) (hp : P (s.leaveL1.sessionWrite n k en v)) : Runs (.sessionStateWrite n k en v) s P := by
  have base := (sessAddr_bounds n k).1
  have session : (sessAddr n k - 0x400000) / 64 = n := by unfold sessAddr; omega
  have dword : sessAddr n k % 64 / 4 = k := by unfold sessAddr; omega
  have e := State.bar0Write_bytes (v := v) (State.writeServed_sessions h _) hs (by rw [rwMask_sessAddr]; rfl) (byteWritable_sessAddr n k) he
  rw [if_pos base, session, dword] at e
  exact runs_of ((exec_sessionStateWrite n k en v s).trans (congrArg _ e)) hp

theorem runs_sessionCmdPark {s : State} {v : Word} {P : State → Prop} (hs : s.supState = 0) (h : s.writeServed 0x400000 = true)
    (hp : P (s.leaveL1.sessionCmd v)) : Runs (.sessionCmdPark v) s P :=
  runs_of ((exec_sessionCmdPark v s).trans (congrArg _ (State.bar0Write_eq (State.writeServed_sessions h _) hs (by decide) (by decide)))) hp

/-! ### A write in each of its cases -/

/-- The moves that R230 lists for the host. -/
theorem hostMove_iff (old new : Nat) : hostMove old new = true ↔ (old, new) ∈ [(0, 1), (1, 2), (1, 0), (2, 0), (4, 0)] := decide_eq_true_iff

section
variable {s : State} {n k : Nat} {en : BitVec 4} (v : Word)

/-- A write that bears no state sets its dword (R229, R470). -/
theorem State.sessionWrite_fields (h : s.sessState n ≠ 3) (hk : k ≠ 0 ∨ bitAt en 0 = false) :
    s.sessionWrite n k en v = s.setReg (sessAddr n k) (enabled (s.reg (sessAddr n k)) en v &&& sessMask k) := by
  unfold State.sessionWrite
  exact (if_neg h).trans (if_neg (by rcases hk with h | h <;> simp [h]))

/-- A move that R230 lists is taken. -/
theorem State.sessionWrite_moves (h : s.sessState n ≠ 3) (he : bitAt en 0 = true)
    (hm : (s.sessState n, fld v 0 8) ∈ [(0, 1), (1, 2), (1, 0), (2, 0), (4, 0)]) :
    s.sessionWrite n 0 en v =
      let t := s.setReg (sessAddr n 0) (enabled (s.reg (sessAddr n 0)) en v &&& sessMask 0)
      if fld v 0 8 = 2 then t.giveReadySeq n else t := by
  unfold State.sessionWrite
  exact (if_neg h).trans ((if_pos (by simp [he])).trans (if_pos ((hostMove_iff _ _).mpr hm)))

/-- Any write while BERTHED, and a state that R230 does not list, are refused. -/
theorem State.sessionWrite_refused (h : s.sessState n = 3 ∨ (k = 0 ∧ bitAt en 0 = true ∧ (s.sessState n, fld v 0 8) ∉ [(0, 1), (1, 2), (1, 0), (2, 0), (4, 0)])) :
    s.sessionWrite n k en v = s.refuseSession := by
  unfold State.sessionWrite
  by_cases berthed : s.sessState n = 3
  · exact if_pos berthed
  · obtain ⟨hk, he, hm⟩ := h.resolve_left berthed
    exact (if_neg berthed).trans ((if_pos (by simp [hk, he])).trans (if_neg (mt (hostMove_iff _ _).mp hm)))

end

/-- A refusal is counted and signalled, and changes nothing else (R230, R441). -/
theorem State.refuseSession_spec (s : State) :
    let t := s.refuseSession
    t.reg 0x4F000C = satAdd (s.reg 0x4F000C) 1 ∧ SameRegs s t [0x4F000C] ∧ SameStns s t [] ∧ t.lpddr = s.lpddr ∧ t.die.sess = s.die.sess := by
  unfold State.refuseSession
  exact ⟨by simp, fun a ha => by simp [List.ne_of_not_mem_cons ha], fun j _ => by simp, by simp, by simp⟩

/-- A session that enters READY takes the next READYSEQ (R230). -/
theorem State.giveReadySeq_spec (s : State) (n : Nat) :
    let t := s.giveReadySeq n
    (∀ a, t.reg a = if a = sessAddr n 3 then s.die.sess.readySeq else s.reg a) ∧ t.die.sess.readySeq = s.die.sess.readySeq + 1 ∧
    SameStns s t [] ∧ t.lpddr = s.lpddr :=
  ⟨fun a => State.reg_setReg s _ a _, rfl, fun j _ => State.stn_setReg s _ _ j, State.lpddr_setReg s _ _⟩

/-- The registers, the counter and the frame of a move that is taken (R230). -/
theorem State.sessionMoved_spec (s : State) (n : Nat) {en : BitVec 4} (v : Word) (he : bitAt en 0 = true) :
    let u := s.setReg (sessAddr n 0) (enabled (s.reg (sessAddr n 0)) en v &&& sessMask 0)
    let t := if fld v 0 8 = 2 then u.giveReadySeq n else u
    t.sessState n = fld v 0 8 ∧ (fld v 0 8 = 2 → t.reg (sessAddr n 3) = s.die.sess.readySeq ∧ t.die.sess.readySeq = s.die.sess.readySeq + 1) ∧
    SameRegs s t (if fld v 0 8 = 2 then [sessAddr n 0, sessAddr n 3] else [sessAddr n 0]) ∧ SameStns s t [] ∧ t.lpddr = s.lpddr := by
  intro u
  have moved : u.sessState n = fld v 0 8 := by
    unfold State.sessState
    rw [State.reg_setReg, if_pos rfl]
    exact fld_sessState _ _ he
  have regs : SameRegs s u [sessAddr n 0] := fun a ha => (State.reg_setReg ..).trans (if_neg (List.ne_of_not_mem_cons ha))
  have stns (j : Nat) : u.stn j = s.stn j := State.stn_setReg ..
  have lp : u.lpddr = s.lpddr := State.lpddr_setReg ..
  by_cases ready : fld v 0 8 = 2
  · obtain ⟨given, next, others, mem⟩ := u.giveReadySeq_spec n
    have seq : u.die.sess = s.die.sess := State.sess_setReg ..
    rw [seq] at given next
    rw [if_pos ready, if_pos ready]
    refine ⟨?_, fun _ => ⟨(given _).trans (if_pos rfl), next⟩, fun a ha => ?_, fun j hj => (others j hj).trans (stns j), mem.trans lp⟩
    · unfold State.sessState
      rw [given, if_neg (sessAddr_ne n (by decide))]
      exact moved
    · obtain ⟨h0, h3⟩ := not_or.mp (mt List.mem_cons.mpr ha)
      exact (given a).trans ((if_neg (by simpa using h3)).trans (regs a (by simpa using h0)))
  · rw [if_neg ready, if_neg ready]
    exact ⟨moved, fun h => absurd h ready, regs, fun j _ => stns j, lp⟩

/-! ### SESSION_CMD -/

/-- PARK of a BERTHED session stands as a request beside the others (R232). -/
theorem State.sessionCmd_parks {s : State} {n : Fin 10240} {v : Word} (hn : fld v 0 14 = n) (hp : fld v 14 2 = 1) (hb : s.sessState n = 3) :
    ∃ l, s.sessionCmd v = { s with die := { s.die with sess := { s.die.sess with park := l } } } ∧ n.val ∈ l ∧ ∀ m ∈ s.die.sess.park, m ∈ l := by
  unfold State.sessionCmd
  rw [hn]
  refine ⟨_, if_pos (by simp [hp, hb]), ?_⟩
  split
  · rename_i stands
    exact ⟨by simpa using stands, fun _ h => h⟩
  · exact ⟨List.mem_append_right _ (List.mem_singleton_self _), fun _ h => List.mem_append_left _ h⟩

theorem State.sessionCmd_refused {s : State} {n : Nat} {v : Word} (hn : fld v 0 14 = n) (h : fld v 14 2 ≠ 1 ∨ s.sessState n ≠ 3) :
    s.sessionCmd v = s.refuseSession := by
  unfold State.sessionCmd
  rw [hn]
  exact if_neg (by rcases h with h | h <;> simp [h])

end Sys2Proof.Machine

namespace Sys2Proof
open Machine

/-- Settles O28: every write of a session descriptor sets fields, moves the session or is refused, and a command parks a BERTHED session or is refused. -/
theorem sessionWrites : Obligations.SessionWrites := by
  intro s n hs h
  refine ⟨fun k en v he => ⟨fun hb hk => runs_sessionStateWrite hs h he ?_, fun hb hk h0 hm => runs_sessionStateWrite hs h he ?_, fun hr => runs_sessionStateWrite hs h he ?_⟩,
    fun v hn hp hb => runs_sessionCmdPark hs h ?_, fun v hn hr => runs_sessionCmdPark hs h ?_⟩
  · rw [State.sessionWrite_fields (s := s.leaveL1) v hb hk]
    exact ⟨(State.reg_setReg ..).trans (if_pos rfl), fun b => (fld_enabled _ _ _ b.isLt).trans (apply_ite (fld · (8 * b.val) 8) _ _ _).symm, OnlyChanges.setReg _ _ _⟩
  · rw [hk, State.sessionWrite_moves (s := s.leaveL1) v hb h0 hm]
    exact s.leaveL1.sessionMoved_spec n v h0
  · rw [State.sessionWrite_refused (s := s.leaveL1) v hr]
    exact s.leaveL1.refuseSession_spec
  · obtain ⟨l, e, stands, others⟩ := State.sessionCmd_parks (s := s.leaveL1) hn hp hb
    rw [e]
    exact ⟨stands, others, rfl, fun _ _ => rfl, fun _ _ => rfl, rfl⟩
  · obtain ⟨counted, regs, stns, mem, sess⟩ := s.leaveL1.refuseSession_spec
    rw [State.sessionCmd_refused (s := s.leaveL1) hn hr]
    exact ⟨counted, sess, regs, stns, mem⟩

end Sys2Proof
end

section
/-! PROOFS. Expert queues (O32): a marker taken, refused or left; a round handed to its owner; its results returned and the next opening. -/
namespace Sys2Proof.Machine

/-! ### What openings and answers leave alone -/

@[simp] theorem State.xq_setXq_same (s : State) (q : Nat) (x : XQueue) : (s.setXq q x).xq q = x := mget_mset_same _ _ _ _

theorem State.xq_of_xqs {s t : State} (h : t.die.xqs = s.die.xqs) (q : Nat) : t.xq q = s.xq q := congrArg (mget _ · q) h

/-- What the hub changes as it opens rounds and sends: at the stations what they know of the queues, and neither registers nor LPDDR5X. -/
structure HubKeeps (s t : State) : Prop where
  stns : ∀ j, ∃ xo, t.stn j = { s.stn j with xopen := xo }
  regs : SameRegs s t []
  lpddr : t.lpddr = s.lpddr

theorem HubKeeps.still {s t : State} (hs : ∀ j, t.stn j = s.stn j) (hr : ∀ a, t.reg a = s.reg a) (hl : t.lpddr = s.lpddr) : HubKeeps s t :=
  ⟨fun j => ⟨_, hs j⟩, fun a _ => hr a, hl⟩

theorem HubKeeps.refl (s : State) : HubKeeps s s := .still (fun _ => rfl) (fun _ => rfl) rfl

theorem HubKeeps.trans {s t u : State} (h : HubKeeps s t) (k : HubKeeps t u) : HubKeeps s u where
  stns j := by
    obtain ⟨_, e⟩ := h.stns j
    obtain ⟨yo, e'⟩ := k.stns j
    exact ⟨yo, by rw [e', e]⟩
  regs a ha := (k.regs a ha).trans (h.regs a ha)
  lpddr := k.lpddr.trans h.lpddr

theorem HubKeeps.moverKeeps {s t : State} (h : HubKeeps s t) : MoverKeeps s t := fun j => by
  obtain ⟨_, e⟩ := h.stns j
  rw [e]
  exact ⟨rfl, rfl, rfl, rfl, rfl⟩

theorem HubKeeps.setXq (s : State) (q : Nat) (x : XQueue) : HubKeeps s (s.setXq q x) := .still (fun _ => rfl) (fun _ => rfl) rfl

theorem HubKeeps.sendFlit (s : State) (f : Flit) : HubKeeps s (s.sendFlit f) := .still (fun _ => rfl) (fun _ => rfl) rfl

theorem HubKeeps.addHops (s : State) (n : Nat) : HubKeeps s (s.addHops n) := .still (fun _ => rfl) (fun _ => rfl) rfl

theorem HubKeeps.setKnown (s : State) (i : Nat) (o : XOpen) : HubKeeps s (s.setStn i ((s.stn i).setKnown o)) where
  stns j := by
    rw [State.stn_setStn]
    split
    · rename_i hj
      rw [hj]
      exact ⟨_, rfl⟩
    · exact ⟨_, rfl⟩
  regs _ _ := rfl
  lpddr := rfl

theorem State.sendOut_keeps (s : State) (node dmod pick : Nat) (fs : List Flit) :
    HubKeeps s (s.sendOut node dmod pick fs) ∧ (s.sendOut node dmod pick fs).die.xqs = s.die.xqs := by
  obtain ⟨n, ps, o, e⟩ := Sends.sendOut s node dmod pick fs
  rw [e]
  exact ⟨.still (fun _ => rfl) (fun _ => rfl) rfl, rfl⟩

theorem State.respond_here {f : Flit} (s : State) (node : Nat) (b : FlitBody) (h : f.mod = none) :
    s.respond node f b = s.sendFlit ⟨node, f.req, f.req, f.txn, none, b⟩ := by
  unfold State.respond
  rw [h]

theorem State.respond_keeps (s : State) (node : Nat) (f : Flit) (b : FlitBody) :
    HubKeeps s (s.respond node f b) ∧ (s.respond node f b).die.xqs = s.die.xqs := by
  cases h : f.mod with
  | none =>
    rw [State.respond_here s node b h]
    exact ⟨.sendFlit s _, rfl⟩
  | some m =>
    unfold State.respond
    rw [h]
    exact s.sendOut_keeps node m _ _

/-! ### Openings -/

/-- A queue that opens a round tells stations, here and elsewhere, and no queue changes by it (R220, R226). -/
theorem State.xqOpenTo_keeps (s : State) (q round : Nat) (ranks : List Nat) :
    HubKeeps s (s.xqOpenTo q round ranks) ∧ (s.xqOpenTo q round ranks).die.xqs = s.die.xqs ∧ (s.xqOpenTo q round ranks).die.mesh = s.die.mesh := by
  unfold State.xqOpenTo
  refine List.foldlRecOn (motive := fun t => HubKeeps s t ∧ t.die.xqs = s.die.xqs ∧ t.die.mesh = s.die.mesh) ranks _ ⟨.refl s, rfl, rfl⟩ (fun t ht r _ => ?_)
  obtain ⟨kept, queues, mesh⟩ := ht
  split
  · exact ⟨kept, queues, mesh⟩
  · exact ⟨(kept.trans (.setKnown t _ _)).trans (.addHops _ _), queues, mesh⟩
  · obtain ⟨sent, same⟩ := t.sendOut_keeps syncHub _ _ _
    exact ⟨kept.trans sent, same.trans queues, (State.mesh_sendOut ..).trans mesh⟩

/-- The queue after its dispatch has closed: open for the next one, with nothing of it in (R220). -/
theorem State.xqClose_spec (s : State) (q : Nat) :
    let t := s.xqClose q
    HubKeeps s t ∧ t.die.mesh = s.die.mesh ∧
    (t.xq q).marks = [] ∧ (t.xq q).vecs = [] ∧ (t.xq q).round = 1 ∧ (t.xq q).disp = (s.xq q).disp + 1 ∧ (t.xq q).busy = false := by
  have opened (x : XQueue) (ranks : List Nat) := (s.setXq q x).xqOpenTo_keeps q 1 ranks
  intro t
  obtain ⟨kept, queues, mesh⟩ := opened _ _
  have own : t.xq q = _ := (State.xq_of_xqs queues q).trans (State.xq_setXq_same ..)
  rw [own]
  exact ⟨(HubKeeps.setXq s q _).trans kept, mesh, rfl, rfl, rfl, rfl, rfl⟩

/-! ### A marker -/

theorem exec_xqMarker (q : Fin 64) (rank : Nat) (s : State) : exec (.xqMarker q rank) s = execXqMarker q rank s := rfl

section
variable {s : State} {q : Fin 64} {rank : Nat}

theorem exec_xqMarker_waits (h : (s.xq q).busy = true ∨ rank ∉ (s.xq q).expected ∨ takeFlit (isMarkOf q rank) s.die.mesh = none) :
    exec (.xqMarker q rank) s = .next s := by
  rw [exec_xqMarker]
  unfold execXqMarker
  dsimp only
  split
  · rename_i ready
    simp only [Bool.and_eq_true, Bool.not_eq_true', List.contains_iff_mem] at ready
    obtain ⟨⟨-, idle⟩, expected⟩ := ready
    rcases h with h | h | h
    · exact absurd h (by simp [idle])
    · exact absurd expected h
    · rw [h]
  · rfl

variable {f : Flit} {rest : List Flit} (hl : s.live = true) (hs : (s.xq q).serves = true) (hb : (s.xq q).busy = false) (hr : rank ∈ (s.xq q).expected)
  (hm : takeFlit (isMarkOf q rank) s.die.mesh = some (f, rest))
include hl hs hb hr hm

/-- A marker at hand, as the links on its way and its vectors allow (R220, R222, R299). -/
theorem exec_xqMarker_at_hand : exec (.xqMarker q rank) s =
    if s.pathOpen f.src syncHub then
      let s1 := s.setMesh (rest.filter (fun g => !isVecOf q rank g))
      if (rest.filter (isVecOf q rank)).all (s.xq q).takes then .next (s1.xqAccept q rank f (rest.filter (isVecOf q rank))) else .next (s1.xqRefused q f)
    else .next s := by
  rw [exec_xqMarker]
  unfold execXqMarker
  dsimp only
  rw [if_pos (by simp [hl, hs, hb, hr]), hm]

theorem exec_xqMarker_taken (hp : s.pathOpen f.src syncHub = true) (hv : ∀ g ∈ rest, isVecOf q rank g = true → (s.xq q).takes g = true) :
    exec (.xqMarker q rank) s = .next ((s.setMesh (rest.filter (fun g => !isVecOf q rank g))).xqAccept q rank f (rest.filter (isVecOf q rank))) :=
  (exec_xqMarker_at_hand hl hs hb hr hm).trans ((if_pos hp).trans (if_pos (List.all_eq_true.mpr (fun g hg => have ⟨mem, vec⟩ := List.mem_filter.mp hg; hv g mem vec))))

theorem exec_xqMarker_refused (hp : s.pathOpen f.src syncHub = true) {g : Flit} (hg : g ∈ rest) (hv : isVecOf q rank g = true) (ht : (s.xq q).takes g = false) :
    exec (.xqMarker q rank) s = .next ((s.setMesh (rest.filter (fun g => !isVecOf q rank g))).xqRefused q f) :=
  (exec_xqMarker_at_hand hl hs hb hr hm).trans ((if_pos hp).trans (if_neg (fun all => absurd (List.all_eq_true.mp all g (List.mem_filter.mpr ⟨hg, hv⟩)) (by simp [ht]))))

theorem exec_xqMarker_stopped (hp : s.pathOpen f.src syncHub = false) : exec (.xqMarker q rank) s = .next s :=
  (exec_xqMarker_at_hand hl hs hb hr hm).trans (if_neg (by simp [hp]))

end

/-- A DISPATCH of this module that has been taken in whole is recorded at its station, in flight and in the ledger (R268, R269). -/
theorem State.dispatchLanded_spec (s : State) (f : Flit) :
    let t := s.dispatchLanded f
    MoverKeeps s t ∧ SameStns s t [f.req] ∧ (∀ a, t.reg a = s.reg a) ∧ t.lpddr = s.lpddr ∧ t.die.xqs = s.die.xqs ∧ t.die.mesh = s.die.mesh := by
  intro t
  simp only [t]
  unfold State.dispatchLanded
  split
  · refine ⟨fun j => ?_, fun j hj => (State.stn_setStn ..).trans (if_neg (List.ne_of_not_mem_cons hj)), fun _ => rfl, rfl, rfl, rfl⟩
    rw [State.stn_setStn]
    split
    · rename_i hj
      rw [hj]
      split <;> simp
    · exact ⟨rfl, rfl, rfl, rfl, rfl⟩
  · exact ⟨.of_stn (fun _ => rfl), fun _ _ => rfl, fun _ => rfl, rfl, rfl, rfl⟩

/-- A marker without MORE is the last of its DISPATCH here: it is recorded and acknowledged (R220, R268). -/
def State.markerAnswered (s : State) (f : Flit) : State := if (markOf f).2 then s else (s.dispatchLanded f).respond syncHub f .ack

theorem State.markerAnswered_spec (s : State) (f : Flit) :
    let t := s.markerAnswered f
    MoverKeeps s t ∧ SameStns s t [f.req] ∧ SameRegs s t [] ∧ t.lpddr = s.lpddr ∧ t.die.xqs = s.die.xqs ∧
    (f.mod = none → t.die.mesh = s.die.mesh ++ if (markOf f).2 then [] else [⟨syncHub, f.req, f.req, f.txn, none, .ack⟩]) := by
  intro t
  simp only [t]
  unfold State.markerAnswered
  split
  · exact ⟨.of_stn (fun _ => rfl), fun _ _ => rfl, fun _ _ => rfl, rfl, rfl, fun _ => (List.append_nil _).symm⟩
  · obtain ⟨kept, others, regs, mem, queues, mesh⟩ := s.dispatchLanded_spec f
    obtain ⟨hub, same⟩ := (s.dispatchLanded f).respond_keeps syncHub f .ack
    refine ⟨kept.trans hub.moverKeeps, fun j hj => (State.stn_respond ..).trans (others j hj), fun a ha => (hub.regs a ha).trans (regs a), hub.lpddr.trans mem, same.trans queues, fun here => ?_⟩
    rw [State.respond_here _ _ _ here, State.mesh_sendFlit, mesh]

/-- A queue with a marker and its vectors taken in (R220). -/
def XQueue.marked (x : XQueue) (rank : Nat) (f : Flit) (vs : List Flit) : XQueue :=
  { x with
    marks := x.marks.filter (fun k => decide (k.1 ≠ rank)) ++ [(rank, (markOf f).1, (markOf f).2)]
    vecs := x.vecs.filter (fun v => decide (v.1 ≠ rank)) ++ vs.flatMap vecOf
    srcs := mset (fun _ => ((0 : Nat), (none : Option Nat))) x.srcs rank (f.req, f.mod)
    told := if x.round = 1 then mset (fun _ => (0 : Nat)) x.told rank (mget (fun _ => (0 : Nat)) x.told rank + 1) else x.told }

theorem State.xqAccept_eq (s : State) (q rank : Nat) (f : Flit) (vs : List Flit) :
    s.xqAccept q rank f vs =
      let y := (s.xq q).marked rank f vs
      let t := (s.setXq q y).markerAnswered f
      if y.full && y.marks.all (fun k => decide (k.2.1 = 0)) then t.xqClose q else t := rfl

/-- A round with a vector in it does not close its dispatch. -/
theorem State.xqAccept_open {s : State} {q rank : Nat} {f : Flit} (vs : List Flit) (h : 0 < (markOf f).1) :
    s.xqAccept q rank f vs = (s.setXq q ((s.xq q).marked rank f vs)).markerAnswered f := by
  refine (State.xqAccept_eq s q rank f vs).trans (if_neg ?_)
  have counts : ¬ (markOf f).1 = 0 := by omega
  simp [XQueue.marked, counts]

/-- A round whose only rank has sent nothing closes its dispatch (R220). -/
theorem State.xqAccept_closes {s : State} {q rank : Nat} {f : Flit} (vs : List Flit) (h : (markOf f).1 = 0) (he : (s.xq q).expected = [rank]) (hm : (s.xq q).marks = []) :
    s.xqAccept q rank f vs = ((s.setXq q ((s.xq q).marked rank f vs)).markerAnswered f).xqClose q := by
  refine (State.xqAccept_eq s q rank f vs).trans (if_pos ?_)
  have same : ((s.xq q).marked rank f vs).expected = [rank] := he
  unfold XQueue.full
  rw [same]
  simp [XQueue.marked, h, hm]

/-- Whatever a marker brings, no register, memory, slot, bank or token changes. -/
theorem State.xqAccept_keeps (s : State) (q rank : Nat) (f : Flit) (vs : List Flit) :
    let t := s.xqAccept q rank f vs
    SameRegs s t [] ∧ t.lpddr = s.lpddr ∧ MoverKeeps s t := by
  obtain ⟨kept, -, regs, mem, -⟩ := (s.setXq q ((s.xq q).marked rank f vs)).markerAnswered_spec f
  obtain ⟨closed, -⟩ := ((s.setXq q ((s.xq q).marked rank f vs)).markerAnswered f).xqClose_spec q
  intro t
  have e : t = _ := s.xqAccept_eq q rank f vs
  rw [e]
  dsimp only
  split
  · exact ⟨fun a ha => (closed.regs a ha).trans (regs a ha), closed.lpddr.trans mem, kept.trans closed.moverKeeps⟩
  · exact ⟨regs, mem, kept⟩

/-- What a marker of a round leads to: it stands in the queue with its vectors, or with nothing in the round the dispatch closes (R220). -/
theorem State.xqAccept_spec (s : State) (q rank : Nat) (f : Flit) (vs : List Flit) :
    let t := s.xqAccept q rank f vs
    (0 < (markOf f).1 →
      (t.xq q).marks = (s.xq q).marks.filter (fun k => decide (k.1 ≠ rank)) ++ [(rank, (markOf f).1, (markOf f).2)] ∧
      (t.xq q).vecs = (s.xq q).vecs.filter (fun v => decide (v.1 ≠ rank)) ++ vs.flatMap vecOf ∧ (t.xq q).round = (s.xq q).round ∧
      (f.mod = none → t.die.mesh = s.die.mesh ++ (if (markOf f).2 then [] else [⟨syncHub, f.req, f.req, f.txn, none, .ack⟩])) ∧ SameStns s t [f.req]) ∧
    ((markOf f).1 = 0 → (s.xq q).expected = [rank] → (s.xq q).marks = [] →
      (t.xq q).marks = [] ∧ (t.xq q).vecs = [] ∧ (t.xq q).round = 1 ∧ (t.xq q).disp = (s.xq q).disp + 1 ∧ (t.xq q).busy = false) := by
  obtain ⟨-, others, -, -, queues, mesh⟩ := (s.setXq q ((s.xq q).marked rank f vs)).markerAnswered_spec f
  have own := (State.xq_of_xqs queues q).trans (State.xq_setXq_same ..)
  refine ⟨fun count => ?_, fun count one first => ?_⟩
  · rw [State.xqAccept_open vs count, own]
    exact ⟨rfl, rfl, rfl, mesh, others⟩
  · obtain ⟨-, -, marks, vecs, round, disp, busy⟩ := ((s.setXq q ((s.xq q).marked rank f vs)).markerAnswered f).xqClose_spec q
    rw [own] at disp
    rw [State.xqAccept_closes vs count one first]
    exact ⟨marks, vecs, round, disp, busy⟩

theorem State.xqs_abandon (s : State) (i : Nat) (f : Flight) : (s.abandon i f).die.xqs = s.die.xqs := by
  simp [State.abandon, State.illegalOp, State.setFld]

/-- A vector that does not fit abandons its DISPATCH here, and the queue keeps what it had (R222). -/
theorem State.xqRefused_spec {s : State} {q : Nat} {f : Flit} {h : Flight} (hm : f.mod = none) (hf : (s.stn f.req).flightOf f.txn = some h) :
    let t := s.xqRefused q f
    t.xq q = s.xq q ∧ (t.stn f.req).flightOf f.txn = none ∧ t.reg 0x6000C = s.reg 0x6000C + 1 ∧ t.lpddr = s.lpddr := by
  have e : s.xqRefused q f = s.abandon f.req h := by
    unfold State.xqRefused
    rw [hm]
    dsimp only
    rw [hf]
  obtain ⟨-, gone, logged, -, -, mem⟩ := s.abandon_spec f.req h
  rw [(Station.mem_flightOf hf).2] at gone
  rw [e]
  exact ⟨State.xq_of_xqs (State.xqs_abandon ..) q, gone, logged, mem⟩

theorem State.xqs_requestWake (s : State) (i : Nat) : (s.requestWake i).die.xqs = s.die.xqs := by
  unfold State.requestWake
  dsimp only
  split <;> rfl

/-! ### A round starts -/

theorem exec_xqRoundStart (q : Fin 64) (s : State) : exec (.xqRoundStart q) s = execXqRoundStart q s := rfl

section
variable {s : State} {q : Fin 64}

theorem exec_xqRoundStart_waits (h : (s.xq q).busy = true ∨ (s.xq q).full = false ∨ ∀ k ∈ (s.xq q).marks, k.2.1 = 0) :
    exec (.xqRoundStart q) s = .next s := by
  rw [exec_xqRoundStart]
  unfold execXqRoundStart
  refine if_neg ?_
  rcases h with h | h | h
  · simp [h]
  · simp [h]
  · have empty : (s.xq q).marks.any (fun k => decide (0 < k.2.1)) = false := List.any_eq_false.mpr (fun k hk => by simp [h k hk])
    simp [empty]

/-- A full round is with the owner: the queue is busy, and from the second round on it is counted (R220, R224). -/
def State.roundTaken (s : State) (q : Nat) : State :=
  let t := s.setXq q { s.xq q with served := (s.xq q).roundWrites.2, busy := true, vecs := [] }
  if 1 < (s.xq q).round then t.bump (0x20601C + 0x40 * q) 1 else t

theorem exec_xqRoundStart_starts (hl : s.live = true) (hs : (s.xq q).serves = true) (hb : (s.xq q).busy = false) (hf : (s.xq q).full = true)
    (hm : ∃ k ∈ (s.xq q).marks, 0 < k.2.1) :
    exec (.xqRoundStart q) s = .next (((s.roundTaken q).sendAll (wrFlits syncHub (s.xq q).owner q (s.xq q).roundWrites.1)).sendFlit
      ⟨syncHub, (s.xq q).owner, syncHub, q, none, .token (fld ((s.xq q).word 1) 16 8)⟩) := by
  rw [exec_xqRoundStart]
  unfold execXqRoundStart
  exact if_pos (by simpa [hl, hs, hb, hf] using hm)

end

theorem State.roundTaken_spec (s : State) (q : Nat) :
    let t := s.roundTaken q
    ((t.xq q).busy = true ∧ (t.xq q).marks = (s.xq q).marks ∧ (t.xq q).served = (s.xq q).roundWrites.2 ∧ (t.xq q).round = (s.xq q).round) ∧ t.die.mesh = s.die.mesh ∧
    (t.reg (0x20601C + 0x40 * q) = if 1 < (s.xq q).round then satAdd (s.reg (0x20601C + 0x40 * q)) 1 else s.reg (0x20601C + 0x40 * q)) ∧
    SameRegs s t [0x20601C + 0x40 * q] ∧ SameStns s t [] ∧ t.lpddr = s.lpddr := by
  intro t
  simp only [t]
  unfold State.roundTaken
  dsimp only
  split
  · rw [State.xq_of_xqs (State.xqs_bump ..) q, State.xq_setXq_same]
    exact ⟨⟨rfl, rfl, rfl, rfl⟩, State.mesh_bump .., (State.reg_bump ..).trans (if_pos rfl),
      fun a ha => (State.reg_bump ..).trans (if_neg (List.ne_of_not_mem_cons ha)), fun j _ => State.stn_bump .., State.lpddr_bump ..⟩
  · rw [State.xq_setXq_same]
    exact ⟨⟨rfl, rfl, rfl, rfl⟩, rfl, rfl, fun _ _ => rfl, fun _ _ => rfl, rfl⟩

/-! ### A round returns -/

theorem exec_xqTout (q : Fin 64) (s : State) : exec (.xqTout q) s = execXqTout q s := rfl

/-- Steps that each send one flit send as many as there are steps. -/
theorem State.mesh_foldl_sends {α : Type} {g : State → α → State} {l : List α} (h : ∀ t, ∀ a ∈ l, ∃ f, (g t a).die.mesh = t.die.mesh ++ [f]) (s : State) :
    ∃ rs, (l.foldl g s).die.mesh = s.die.mesh ++ rs ∧ rs.length = l.length := by
  induction l generalizing s with
  | nil => exact ⟨[], (List.append_nil _).symm, rfl⟩
  | cons a l ih =>
    obtain ⟨f, hf⟩ := h s a List.mem_cons_self
    obtain ⟨rs, mesh, len⟩ := ih (fun t b hb => h t b (List.mem_cons_of_mem _ hb)) (g s a)
    exact ⟨f :: rs, by rw [List.foldl_cons, mesh, hf, List.append_assoc]; rfl, congrArg (· + 1) len⟩

theorem State.xqReturn_keeps (s : State) (q : Nat) : HubKeeps s (s.xqReturn q) ∧ (s.xqReturn q).die.xqs = s.die.xqs := by
  unfold State.xqReturn
  refine List.foldlRecOn (motive := fun t => HubKeeps s t ∧ t.die.xqs = s.die.xqs) (s.xq q).served _ ⟨.refl s, rfl⟩ (fun t ht v _ => ?_)
  obtain ⟨kept, queues⟩ := ht
  dsimp only
  split
  · exact ⟨(kept.trans (.addHops t _)).trans (.sendFlit _ _), queues⟩
  · have out := State.sendOut_keeps (t.addHops (((s.xq q).vout + 1) * hopsOf syncHub (s.xq q).owner)) syncHub
    exact ⟨(kept.trans (.addHops t _)).trans (out _ _ _).1, (out _ _ _).2.trans queues⟩

/-- Results for ranks of this module join the mesh, one for each position served (R221). -/
theorem State.mesh_xqReturn {s : State} {q : Nat}
    (h : ∀ v ∈ (s.xq q).served, (mget (fun _ => ((0 : Nat), (none : Option Nat))) (s.xq q).srcs v.2.1).2 = none) :
    ∃ rs, (s.xqReturn q).die.mesh = s.die.mesh ++ rs ∧ rs.length = (s.xq q).served.length := by
  unfold State.xqReturn
  refine State.mesh_foldl_sends (fun t v hv => ?_) s
  dsimp only
  rw [h v hv]
  exact ⟨_, rfl⟩

/-- TOUT is removed from its owner and the results leave (R221). -/
def State.toutTaken (s : State) (q : Nat) : State :=
  let o := s.stn (s.xq q).owner
  (s.setStn (s.xq q).owner { o with tokens := putBit o.tokens (fld ((s.xq q).word 1) 24 8) false }).xqReturn q

/-- The queue after a round, with the next one open for the ranks that have more (R220). -/
def XQueue.nextRound (x : XQueue) : XQueue :=
  { x with round := x.round + 1, expect := (x.marks.filter (fun k => k.2.2)).map (·.1), marks := [], vecs := [], served := [], busy := false }

/-- The next opening after a round: of its next round, or of the next dispatch when no marker bears MORE (R220). -/
def State.xqReopen (s : State) (q : Nat) : State :=
  if (s.xq q).nextRound.expect.isEmpty then s.xqClose q
  else (s.setXq q (s.xq q).nextRound).xqOpenTo q ((s.xq q).round + 1) (s.xq q).nextRound.expect

section
variable {s : State} {q : Fin 64}

theorem exec_xqTout_waits (h : (s.xq q).busy = false ∨ bitAt (s.stn (s.xq q).owner).tokens (fld ((s.xq q).word 1) 24 8) = false ∨ (s.xq q).awaitedBy = false) :
    exec (.xqTout q) s = .next s := by
  rw [exec_xqTout]
  unfold execXqTout
  exact if_neg (by rcases h with h | h | h <;> simp [h])

variable (hl : s.live = true) (hb : (s.xq q).busy = true) (ht : bitAt (s.stn (s.xq q).owner).tokens (fld ((s.xq q).word 1) 24 8) = true)
  (ha : (s.xq q).awaitedBy = true)
include hl hb ht ha

theorem exec_xqTout_wakes (hs : (s.stn (s.xq q).owner).sleeps = true) : exec (.xqTout q) s = .next (s.requestWake (s.xq q).owner) := by
  rw [exec_xqTout]
  unfold execXqTout
  exact (if_pos (by simp [hl, hb, ht, ha])).trans (if_pos hs)

theorem exec_xqTout_returns (hs : (s.stn (s.xq q).owner).sleeps = false) : exec (.xqTout q) s = .next ((s.toutTaken q).xqReopen q) := by
  have same : (s.toutTaken q).xq q = s.xq q := State.xq_of_xqs (State.xqReturn_keeps _ q).2 q
  rw [exec_xqTout]
  unfold execXqTout State.xqReopen
  rw [same]
  refine (if_pos (by simp [hl, hb, ht, ha])).trans ((if_neg (by simp [hs])).trans ?_)
  exact (apply_ite Host.Outcome.next _ _ _).symm

end

theorem State.xqReopen_spec (s : State) (q : Nat) :
    let t := s.xqReopen q
    HubKeeps s t ∧ t.die.mesh = s.die.mesh ∧ (t.xq q).busy = false ∧ (t.xq q).marks = [] ∧
    ((s.xq q).marks.filter (fun k => k.2.2) = [] → (t.xq q).round = 1 ∧ (t.xq q).disp = (s.xq q).disp + 1) ∧
    ((s.xq q).marks.filter (fun k => k.2.2) ≠ [] → (t.xq q).round = (s.xq q).round + 1 ∧ (t.xq q).expect = ((s.xq q).marks.filter (fun k => k.2.2)).map (·.1)) := by
  have none_more : (s.xq q).nextRound.expect.isEmpty = true ↔ (s.xq q).marks.filter (fun k => k.2.2) = [] := by
    simp [XQueue.nextRound]
  intro t
  simp only [t]
  unfold State.xqReopen
  split
  · rename_i empty
    have empty := none_more.mp empty
    obtain ⟨kept, mesh, marks, -, round, disp, busy⟩ := s.xqClose_spec q
    exact ⟨kept, mesh, busy, marks, fun _ => ⟨round, disp⟩, fun more => absurd empty more⟩
  · rename_i more
    have more := mt none_more.mpr more
    obtain ⟨kept, queues, mesh⟩ := (s.setXq q (s.xq q).nextRound).xqOpenTo_keeps q ((s.xq q).round + 1) (s.xq q).nextRound.expect
    have own := (State.xq_of_xqs queues q).trans (State.xq_setXq_same ..)
    rw [own]
    exact ⟨(HubKeeps.setXq s q _).trans kept, mesh, rfl, rfl, fun empty => absurd empty more, fun _ => ⟨rfl, rfl⟩⟩

/-- The results have left, and the queue is open again; of the stations only what they know of it, and the token of the owner, have changed (R220, R221). -/
theorem State.toutReturned_spec (s : State) (q : Nat) :
    let x := s.xq q
    let o := s.stn x.owner
    let t := (s.toutTaken q).xqReopen q
    (t.stn x.owner).tokens = putBit o.tokens (fld (x.word 1) 24 8) false ∧ (t.xq q).busy = false ∧ (t.xq q).marks = [] ∧
    (x.marks.filter (fun k => k.2.2) = [] → (t.xq q).round = 1 ∧ (t.xq q).disp = x.disp + 1) ∧
    (x.marks.filter (fun k => k.2.2) ≠ [] → (t.xq q).round = x.round + 1 ∧ (t.xq q).expect = (x.marks.filter (fun k => k.2.2)).map (·.1)) ∧
    ((∀ v ∈ x.served, (mget (fun _ => ((0 : Nat), (none : Option Nat))) x.srcs v.2.1).2 = none) → ∃ rs, t.die.mesh = s.die.mesh ++ rs ∧ rs.length = x.served.length) ∧
    (∀ j, j ≠ x.owner → t.stn j = { s.stn j with xopen := (t.stn j).xopen }) ∧
    t.stn x.owner = { o with tokens := (t.stn x.owner).tokens, xopen := (t.stn x.owner).xopen } ∧ SameRegs s t [] ∧ t.lpddr = s.lpddr := by
  obtain ⟨sent, queues⟩ : HubKeeps _ (s.toutTaken q) ∧ (s.toutTaken q).die.xqs = s.die.xqs := State.xqReturn_keeps _ q
  obtain ⟨opened, mesh, busy, marks, closes, goes_on⟩ := (s.toutTaken q).xqReopen_spec q
  rw [State.xq_of_xqs queues q] at closes goes_on
  obtain ⟨stns, regs, mem⟩ := sent.trans opened
  intro x o t
  obtain ⟨xo, own⟩ := stns x.owner
  rw [State.stn_setStn, if_pos rfl] at own
  refine ⟨congrArg Station.tokens own, busy, marks, closes, goes_on, fun here => ?_, fun j hj => ?_, by rw [own], regs, mem⟩
  · obtain ⟨rs, results, len⟩ := State.mesh_xqReturn (s := s.setStn x.owner { o with tokens := putBit o.tokens (fld (x.word 1) 24 8) false }) (q := q) here
    exact ⟨rs, mesh.trans results, len⟩
  · obtain ⟨yo, e⟩ := stns j
    rw [State.stn_setStn, if_neg hj] at e
    rw [e]

end Sys2Proof.Machine

namespace Sys2Proof
open Machine

/-- Settles O32: a marker is taken, refused or left; a full round starts; and TOUT brings its results back and opens the queue again. -/
theorem expertQueuesRunRounds : Obligations.ExpertQueuesRunRounds := by
  intro s q hl hs
  refine ⟨fun rank f rest hb hr hm => ⟨fun hp hv => ?_, fun g h hp hg hv ht hn hf => ?_, fun hp => exec_xqMarker_stopped hl hs hb hr hm hp⟩,
    fun rank h => exec_xqMarker_waits h, fun hb hf hm => ?_, fun h => exec_xqRoundStart_waits h,
    fun hb ht ha => ⟨fun hz => ?_, fun hz => runs_of (exec_xqTout_returns hl hb ht ha hz) (s.toutReturned_spec q)⟩, fun h => exec_xqTout_waits h⟩
  · obtain ⟨regs, mem, kept⟩ := (s.setMesh (rest.filter (fun g => !isVecOf q rank g))).xqAccept_keeps q rank f (rest.filter (isVecOf q rank))
    exact runs_of (exec_xqMarker_taken hl hs hb hr hm hp hv) ⟨regs, mem, kept, State.xqAccept_spec ..⟩
  · exact runs_of (exec_xqMarker_refused hl hs hb hr hm hp hg hv ht) (State.xqRefused_spec hn hf)
  · obtain ⟨⟨busy, marks, served, round⟩, mesh, counted, regs, stns, mem⟩ := s.roundTaken_spec q
    refine runs_of (exec_xqRoundStart_starts hl hs hb hf hm)
      ⟨busy, marks, served, round, ?_, counted, regs, stns, mem⟩
    rw [State.mesh_sendFlit, State.mesh_sendAll, mesh]
  · obtain ⟨⟨w, own⟩, regs, others, mem, mesh, -⟩ := s.requestWake_frame (s.xq q).owner
    exact runs_of (exec_xqTout_wakes hl hb ht ha hz)
      ⟨State.xq_of_xqs (State.xqs_requestWake ..) q, by rw [own], mesh, State.requestWake_wakeReq, regs, others, mem⟩

end Sys2Proof
end

section
/-! PROOFS. Refresh exponents (O30): the records are read, the exponent line and the fold line are written, and the bank's token is granted. -/
namespace Sys2Proof.Machine

/-! ### Records that are read -/

/-- What a read that finds no new error leaves alone: the stations, the mesh and the bytes of LPDDR5X (R289, R290). -/
structure ReadsOnly (s t : State) : Prop where
  stns : ∀ j, t.stn j = s.stn j
  mesh : t.die.mesh = s.die.mesh
  lpddr : t.lpddr = s.lpddr

theorem ReadsOnly.trans {s t u : State} (h : ReadsOnly s t) (k : ReadsOnly t u) : ReadsOnly s u :=
  ⟨fun j => (k.stns j).trans (h.stns j), k.mesh.trans h.mesh, k.lpddr.trans h.lpddr⟩

theorem ReadsOnly.foldl {β : Type} {f : State → β → State} (hf : ∀ t b, ReadsOnly t (f t b)) (bs : List β) (s : State) : ReadsOnly s (bs.foldl f s) := by
  induction bs generalizing s with
  | nil => exact ⟨fun _ => rfl, rfl, rfl⟩
  | cons b bs ih => exact (hf s b).trans (ih _)

theorem State.mesh_corrected (s : State) (l : Nat) (ce : Bool) : (s.corrected l ce).die.mesh = s.die.mesh := by
  unfold State.corrected
  split
  · exact State.mesh_bump _ _ _
  · rfl

theorem State.readLine_readsOnly (s : State) (l : Nat) (ce : Bool) : ReadsOnly s (s.readLine l ce false) := by
  obtain ⟨⟨-, stns, -⟩, lp, -⟩ := s.readLine_spec l ce false
  refine ⟨stns, ?_, lp nofun⟩
  unfold State.readLine
  dsimp only
  split
  · exact State.mesh_readUe _ l
  · exact State.mesh_corrected _ l ce

/-- The eight records of a bank, five lines each (R252, R254). -/
def State.recordsRead (s : State) (recs : List Nat) : State := recs.foldl (fun (t : State) l => t.readLines l 5) s

theorem State.recordsRead_readsOnly (s : State) (recs : List Nat) : ReadsOnly s (s.recordsRead recs) :=
  .foldl (fun t l => .foldl (fun u k => u.readLine_readsOnly (l + k) false) (List.range 5) t) recs s

theorem State.memBytes_of_lpddr {s t : State} (h : t.lpddr = s.lpddr) (a n : Nat) : t.memBytes a n = s.memBytes a n := by
  rw [State.memBytes, h]
  rfl

/-- The exponents depend on the bytes of LPDDR5X alone (R253). -/
theorem State.refreshExps_of_lpddr {s t : State} (h : t.lpddr = s.lpddr) (recs : List Nat) : t.refreshExps recs = s.refreshExps recs := by
  simp only [State.refreshExps, State.cmx, State.memBytes_of_lpddr h]

/-! ### Lines that are written -/

/-- Bytes that read one by one as a list read together as that list. -/
theorem State.memBytes_eq {s : State} {a n : Nat} {bs : List Byte} (hn : bs.length = n) (h : ∀ k < n, mget byte0 s.lpddr (a + k) = bs.getD k 0) :
    s.memBytes a n = bs := by
  refine List.ext_getElem (by simp [State.memBytes, hn]) (fun k _ hk => ?_)
  simp only [State.memBytes, List.getElem_map, List.getElem_range]
  exact (h k (hn ▸ hk)).trans (List.getElem_eq_getD 0).symm

theorem State.stn_setLines (n : Nat) (s : State) (l : Nat) (bs : List Byte) (j : Nat) : (s.setLines l bs n).stn j = s.stn j := by
  induction n generalizing s l bs with
  | zero => rfl
  | succ n ih => exact ih ..

theorem State.mesh_setLines (n : Nat) (s : State) (l : Nat) (bs : List Byte) : (s.setLines l bs n).die.mesh = s.die.mesh := by
  induction n generalizing s l bs with
  | zero => rfl
  | succ n ih => exact ih ..

theorem State.mget_putLine (s : State) (l : Nat) (bs : List Byte) (a : Nat) :
    mget byte0 (s.putLine l bs).lpddr a = if l * 64 ≤ a ∧ a < l * 64 + bs.length then bs.getD (a - l * 64) 0 else mget byte0 s.lpddr a :=
  mget_putBytes ..

/-- A byte of LPDDR5X after `n` whole lines are written from line `l` on. -/
theorem State.mget_setLines (n : Nat) (s : State) (l : Nat) {bs : List Byte} (h : bs.length = 64 * n) (a : Nat) :
    mget byte0 (s.setLines l bs n).lpddr a = if l * 64 ≤ a ∧ a < l * 64 + 64 * n then bs.getD (a - l * 64) 0 else mget byte0 s.lpddr a := by
  induction n generalizing s l bs with
  | zero => exact (if_neg (by omega)).symm
  | succ n ih =>
    have first : (bs.take 64).length = 64 := by simp; omega
    rw [State.setLines, ih _ _ (by simp; omega), State.mget_putLine, first]
    by_cases later : (l + 1) * 64 ≤ a ∧ a < (l + 1) * 64 + 64 * n
    · rw [if_pos later, if_pos (by omega), List.getD_eq_getElem?_getD, List.getElem?_drop, ← List.getD_eq_getElem?_getD]
      congr 1
      omega
    · rw [if_neg later]
      by_cases here : l * 64 ≤ a ∧ a < l * 64 + 64
      · rw [if_pos here, if_pos (by omega), List.getD_eq_getElem?_getD, List.getElem?_take_of_lt (by omega), ← List.getD_eq_getElem?_getD]
      · rw [if_neg here, if_neg (by omega)]

/-! ### The two items of a bank -/

theorem State.length_refreshExps (s : State) (recs : List Nat) : (s.refreshExps recs).length = 64 := by simp [State.refreshExps, raised]

/-- A fold line of 64 codes and T is five lines (R240). -/
theorem length_foldLine {es : List Nat} (h : es.length = 64) : (foldLine es).length = 320 := by
  have codes (f : Nat → Nat) : (es.flatMap (fun e => leBytes 4 (f e))).length = 4 * es.length := by
    simp [List.length_flatMap, leBytes, Nat.mul_comm]
  unfold foldLine
  simp only [List.length_append, codes (fun e => if e = 0 then 0 else _), h]
  simp [padTo]

/-- The exponent line of a bank (R254). -/
def expBytes (es : List Nat) : List Byte := es.map (fun e => BitVec.ofNat 8 e)

/-- The exponent line and the fold line written (R254). -/
def State.putExps (s : State) (expLine fold : Nat) (es : List Nat) : State := (s.putLine expLine (expBytes es)).setLines fold (foldLine es) 5

theorem State.stn_putExps (s : State) (expLine fold : Nat) (es : List Nat) (j : Nat) : (s.putExps expLine fold es).stn j = s.stn j :=
  State.stn_setLines ..

theorem State.mesh_putExps (s : State) (expLine fold : Nat) (es : List Nat) : (s.putExps expLine fold es).die.mesh = s.die.mesh :=
  State.mesh_setLines ..

/-- A byte of LPDDR5X after both items are written: the fold line is the later one. -/
theorem State.mget_putExps (s : State) (expLine fold : Nat) {es : List Nat} (h : es.length = 64) (a : Nat) :
    mget byte0 (s.putExps expLine fold es).lpddr a =
      if fold * 64 ≤ a ∧ a < fold * 64 + 320 then (foldLine es).getD (a - fold * 64) 0
      else if expLine * 64 ≤ a ∧ a < expLine * 64 + 64 then (expBytes es).getD (a - expLine * 64) 0 else mget byte0 s.lpddr a := by
  rw [State.putExps, State.mget_setLines 5 _ _ (length_foldLine h), State.mget_putLine, expBytes, List.length_map, h]

/-- Items in lines of their own both read as written, and no other byte changes (R254). -/
theorem State.putExps_spec (s : State) {expLine fold : Nat} {es : List Nat} (h : es.length = 64) (apart : expLine < fold ∨ fold + 5 ≤ expLine) :
    let t := s.putExps expLine fold es
    t.line expLine = expBytes es ∧ t.memBytes (fold * 64) 320 = foldLine es ∧
    ∀ a, a / 64 ≠ expLine → (a / 64 < fold ∨ fold + 5 ≤ a / 64) → mget byte0 t.lpddr a = mget byte0 s.lpddr a := by
  refine ⟨State.memBytes_eq (by simp [expBytes, h]) (fun k hk => ?_), State.memBytes_eq (length_foldLine h) (fun k hk => ?_), fun a ha hf => ?_⟩
  · rw [State.mget_putExps s _ _ h, if_neg (by omega), if_pos (by omega), Nat.add_sub_cancel_left]
  · rw [State.mget_putExps s _ _ h, if_pos (by omega), Nat.add_sub_cancel_left]
  · rw [State.mget_putExps s _ _ h, if_neg (by omega), if_neg (by omega)]

/-! ### The token -/

theorem State.grantToken_awake {s : State} {i : Nat} (k : Nat) (h : (s.stn i).sleeps = false) : s.grantToken i k = s.giveToken i k :=
  if_neg (by simpa [Station.sleeps] using h)

theorem State.grantToken_asleep {s : State} {i : Nat} (k : Nat) (h : (s.stn i).sleeps = true) :
    s.grantToken i k = (s.setMesh (s.die.mesh ++ [⟨coreNode, i, coreNode, 0, none, .token k⟩])).holdAtRouter i ⟨coreNode, i, coreNode, 0, none, .token k⟩ s.die.mesh :=
  if_pos (by simpa [Station.sleeps] using h)

/-- A given token is present, whether or not it was before (R273). -/
theorem State.giveToken_sets (s : State) (i : Nat) {k : Nat} (hk : k < 256) : bitAt ((s.giveToken i k).stn i).tokens k = true := by
  cases ht : bitAt (s.stn i).tokens k with
  | true => rwa [State.giveToken_present ht, State.pbump, State.stn_bump]
  | false => rw [State.stn_giveToken_absent ht, State.stn_setStn, if_pos rfl, bitAt_putBit _ _ _ _ hk, if_pos rfl]

/-- A granted token is present at a station that is awake, and waits at the router of one that sleeps, or behind a full router (R107, R310). -/
theorem State.grantToken_spec (s : State) (i : Nat) {k : Nat} (hk : k < 256) :
    let t := s.grantToken i k
    ((s.stn i).sleeps = false → bitAt (t.stn i).tokens k = true) ∧
    ((s.stn i).sleeps = true → (s.stn i).routerHeld.length < 128 →
      (t.stn i).routerHeld = (s.stn i).routerHeld ++ [⟨coreNode, i, coreNode, 0, none, .token k⟩]) ∧
    SameStns s t [i] ∧ t.die.mesh.length ≤ s.die.mesh.length + 1 ∧ t.lpddr = s.lpddr := by
  intro t
  cases hs : (s.stn i).sleeps with
  | false =>
    obtain ⟨-, -, stns, mem⟩ := s.giveToken_only i k
    rw [show t = s.giveToken i k from State.grantToken_awake k hs]
    exact ⟨fun _ => s.giveToken_sets i hk, nofun, stns, by rw [State.mesh_giveToken]; omega, mem⟩
  | true =>
    obtain ⟨room, full, -, -, -, -, stns, mem⟩ := s.holdAtRouter_spec i ⟨coreNode, i, coreNode, 0, none, .token k⟩
    rw [← State.grantToken_asleep k hs] at room full stns mem
    refine ⟨nofun, fun _ h => (room h).1, stns, ?_, mem⟩
    rcases Nat.lt_or_ge (s.stn i).routerHeld.length 128 with h | h
    · exact (congrArg List.length (room h).2).trans_le (Nat.le_succ _)
    · exact (congrArg List.length (full h).2).trans_le (by simp)

/-! ### The command -/

theorem exec_exponentDerivation_live {s : State} (hl : s.live = true) (b : Fin 32768) (recs : List Nat) (expLine fold : Nat) (tok : Byte) :
    exec (.exponentDerivation b recs expLine fold tok) s =
      .next (((s.recordsRead recs).putExps expLine fold ((s.recordsRead recs).refreshExps recs)).grantToken (b.val / 256) tok.toNat) :=
  if_pos hl

end Sys2Proof.Machine

namespace Sys2Proof
open Machine

/-- Settles O30: reading the records changes no byte, so the exponents are those of the state before; the two items are written in lines of their own, and the token is then granted. -/
theorem refreshExponentsAreDerived : Obligations.RefreshExponentsAreDerived := by
  intro s b recs expLine fold tok hl apart
  obtain ⟨rstns, rmesh, rmem⟩ := s.recordsRead_readsOnly recs
  have run := exec_exponentDerivation_live hl b recs expLine fold tok
  rw [State.refreshExps_of_lpddr rmem] at run
  obtain ⟨line, folded, others⟩ := (s.recordsRead recs).putExps_spec (s.length_refreshExps recs) apart
  have wstns (j : Nat) := ((s.recordsRead recs).stn_putExps expLine fold (s.refreshExps recs) j).trans (rstns j)
  have wmesh := ((s.recordsRead recs).mesh_putExps expLine fold (s.refreshExps recs)).trans rmesh
  obtain ⟨awake, asleep, stns, mesh, mem⟩ := ((s.recordsRead recs).putExps expLine fold (s.refreshExps recs)).grantToken_spec (b.val / 256) tok.isLt
  rw [wstns] at awake asleep
  rw [wmesh] at mesh
  rw [← mem, rmem] at others
  exact runs_of run ⟨(State.memBytes_of_lpddr mem _ _).trans line, (State.memBytes_of_lpddr mem _ _).trans folded, others, awake, asleep,
    fun j hj => (stns j hj).trans (wstns j), mesh⟩

end Sys2Proof
end

section
/-! PROOFS. Ticket counters (O17): what a served request returns, and what it leaves of its counter. -/
namespace Sys2Proof.Machine

/-- Below its LIMIT a counter returns VAL and counts on (R262). -/
theorem State.serveTicket_below {s : State} {c : Nat} (h : (s.reg (tktBase c)).toNat < (s.reg (tktBase c + 4)).toNat) :
    s.serveTicket c = (s.reg (tktBase c), s.setReg (tktBase c) (s.reg (tktBase c) + 1)) := by
  unfold State.serveTicket
  exact if_pos h

/-- At its LIMIT a counter returns the exhausted value and counts that in EXH (R262). -/
theorem State.serveTicket_exhausted {s : State} {c : Nat} (h : (s.reg (tktBase c + 4)).toNat ≤ (s.reg (tktBase c)).toNat) :
    s.serveTicket c = (0xFFFFFFFF, s.bump (tktBase c + 12) 1) := by
  unfold State.serveTicket
  exact if_neg (Nat.not_lt.mpr h)

/-- A word below another does not wrap as it counts on. -/
theorem toNat_add_one_of_lt {v l : Word} (h : v.toNat < l.toNat) : (v + 1).toNat = v.toNat + 1 := by
  have := l.isLt
  rw [BitVec.toNat_add_of_lt (by simp; omega)]
  rfl

/-- The registers of a counter after a request; whatever it returns, only VAL and EXH may move. -/
theorem State.serveTicket_only (s : State) (c : Nat) : OnlyChanges s (s.serveTicket c).2 [tktBase c, tktBase c + 12] [] := by
  unfold State.serveTicket
  dsimp only
  split
  · exact (OnlyChanges.setReg s _ _).mono (by simp) (by simp)
  · exact (OnlyChanges.setReg s _ _).mono (by simp) (by simp)

/-- A value returned is recorded in the ledger of its station and nowhere else (R267). -/
theorem Station.recordValue_only (x : Station) (seq : Nat) (v : Word) : x.recordValue seq v = { x with ledger := (x.recordValue seq v).ledger } := by
  unfold Station.recordValue
  split
  · rfl
  · split <;> rfl

/-- The request of a station after its counter has served it (R262, R264, R267). -/
def State.tktServed (s : State) (c i : Nat) (f : Flit) (rest : List Flit) : State :=
  let p := (s.setMesh rest).serveTicket c
  (p.2.setStn i ((p.2.stn i).recordValue f.txn p.1)).sendFlit ⟨syncHub, i, i, f.txn, none, .tktval p.1⟩

section
variable {s : State} {c : Fin 64} {i : Stn} {f : Flit} {rest : List Flit} (hw : s.works = true) (hf : s.nextTkt i = some (f, rest))
include hw hf

theorem exec_tktRequest_served (hb : f.body = .tkt c.val) : exec (.tktRequest c i) s = .next (s.tktServed c i f rest) := by
  change execTktRequest c i s = _
  unfold execTktRequest
  rw [if_pos hw, hf]
  exact if_pos hb

/-- A request for another counter is not this counter's to serve (R306). -/
theorem exec_tktRequest_other (hb : f.body ≠ .tkt c.val) : exec (.tktRequest c i) s = .next s := by
  change execTktRequest c i s = _
  unfold execTktRequest
  rw [if_pos hw, hf]
  exact if_neg hb

end

/-- The frame of a served request: the station's ledger, VAL and EXH. -/
theorem State.tktServed_frame (s : State) (c i : Nat) (f : Flit) (rest : List Flit) :
    let t := s.tktServed c i f rest
    t.stn i = { s.stn i with ledger := (t.stn i).ledger } ∧ SameRegs s t [tktBase c, tktBase c + 12] ∧ SameStns s t [i] ∧ t.lpddr = s.lpddr := by
  obtain ⟨regs, stns, -⟩ := (s.setMesh rest).serveTicket_only c
  have stn (j : Nat) : (s.tktServed c i f rest).stn j =
      if j = i then (s.stn i).recordValue f.txn ((s.setMesh rest).serveTicket c).1 else s.stn j := by
    simp only [State.tktServed, State.stn_sendFlit, State.stn_setStn, stns _ List.not_mem_nil, State.stn_setMesh]
  have reg (a : Nat) : (s.tktServed c i f rest).reg a = ((s.setMesh rest).serveTicket c).2.reg a := by
    simp only [State.tktServed, State.reg_sendFlit, State.reg_setStn]
  have mem : (s.tktServed c i f rest).lpddr = ((s.setMesh rest).serveTicket c).2.lpddr := by
    simp only [State.tktServed, State.lpddr_sendFlit, State.lpddr_setStn]
  refine ⟨?_, fun a ha => (reg a).trans (regs a ha), fun j hj => (stn j).trans (if_neg (List.ne_of_not_mem_cons hj)), mem.trans ((s.setMesh rest).serveTicket_only c).lpddr⟩
  rw [stn, if_pos rfl]
  exact Station.recordValue_only ..

/-- The registers and the mesh after a request below LIMIT (R262). -/
theorem State.tktServed_below {s : State} {c : Nat} (i : Nat) (f : Flit) (rest : List Flit)
    (h : (s.reg (tktBase c)).toNat < (s.reg (tktBase c + 4)).toNat) :
    let t := s.tktServed c i f rest
    (∀ a, t.reg a = if a = tktBase c then s.reg (tktBase c) + 1 else s.reg a) ∧
    t.die.mesh = rest ++ [⟨syncHub, i, i, f.txn, none, .tktval (s.reg (tktBase c))⟩] := by
  have served := State.serveTicket_below (s := s.setMesh rest) h
  simp only [State.tktServed, served]
  exact ⟨fun a => by simp, by simp⟩

/-- The registers and the mesh after a request at LIMIT (R262). -/
theorem State.tktServed_exhausted {s : State} {c : Nat} (i : Nat) (f : Flit) (rest : List Flit)
    (h : (s.reg (tktBase c + 4)).toNat ≤ (s.reg (tktBase c)).toNat) :
    let t := s.tktServed c i f rest
    (∀ a, t.reg a = if a = tktBase c + 12 then satAdd (s.reg (tktBase c + 12)) 1 else s.reg a) ∧
    t.die.mesh = rest ++ [⟨syncHub, i, i, f.txn, none, .tktval 0xFFFFFFFF⟩] := by
  have served := State.serveTicket_exhausted (s := s.setMesh rest) h
  simp only [State.tktServed, served]
  exact ⟨fun a => by simp, by simp⟩

end Sys2Proof.Machine

namespace Sys2Proof
open Machine

/-- Settles O17: a request is served at its counter below LIMIT or at it, and in both cases leaves everything but VAL, EXH and the station's ledger. -/
theorem ticketCountersServeRequests : Obligations.TicketCountersServeRequests := by
  intro s c i f rest hw hf
  refine ⟨fun hb => runs_of (exec_tktRequest_served hw hf hb) ⟨fun h => ?_, fun h => ?_, s.tktServed_frame c i f rest⟩, exec_tktRequest_other hw hf⟩
  · obtain ⟨regs, mesh⟩ := State.tktServed_below i.val f rest h
    have val := (regs (tktBase c)).trans (if_pos rfl)
    exact ⟨val, (congrArg BitVec.toNat val).trans (toNat_add_one_of_lt h), (regs _).trans (if_neg (by omega)), mesh⟩
  · obtain ⟨regs, mesh⟩ := State.tktServed_exhausted i.val f rest h
    exact ⟨(regs _).trans (if_neg (by omega)), (regs _).trans (if_pos rfl), mesh⟩

end Sys2Proof
end

section
/-! PROOFS. Host writes to tokens, to the local store window and to ticket counters (O27). -/
namespace Sys2Proof.Machine

/-! ### Tokens -/

/-- The bits of the token field that a word written to register `k` of it bears (R274). -/
theorem bitAt_tokenWord (v : Word) (k : Nat) {b : Nat} (hb : b < 256) :
    bitAt (BitVec.ofNat 256 (v.toNat <<< (32 * k))) b = (decide (32 * k ≤ b) && decide (b < 32 * k + 32) && bitAt v (b - 32 * k)) := by
  have beyond : ¬ b < 32 * k + 32 → 32 * k ≤ b → bitAt v (b - 32 * k) = false := fun h _ => BitVec.getLsbD_of_ge v _ (by omega)
  have bit : bitAt (BitVec.ofNat 256 (v.toNat <<< (32 * k))) b = (decide (32 * k ≤ b) && bitAt v (b - 32 * k)) := by
    simp only [bitAt, BitVec.getLsbD_ofNat, Nat.testBit_shiftLeft, BitVec.testBit_toNat, hb, decide_true, Bool.true_and, ge_iff_le]
  rw [bit]
  by_cases hl : 32 * k ≤ b
  · by_cases hu : b < 32 * k + 32
    · simp [hl, hu]
    · simp [hl, hu, beyond hu hl]
  · simp [hl]

/-- A 1 written to STN_TOKk makes its token absent (R274). -/
theorem State.tokClear_spec (s : State) (i k : Nat) (v : Word) :
    let t := s.tokClear i k v
    (∀ b, b < 256 → bitAt (t.stn i).tokens b =
      (bitAt (s.stn i).tokens b && !(decide (32 * k ≤ b) && decide (b < 32 * k + 32) && bitAt v (b - 32 * k)))) ∧
    t.stn i = { s.stn i with tokens := (t.stn i).tokens } ∧ OnlyChanges s t [] [i] := by
  have stn : (s.tokClear i k v).stn i = { s.stn i with tokens := (s.stn i).tokens &&& ~~~(BitVec.ofNat 256 (v.toNat <<< (32 * k))) } :=
    (State.stn_setStn _ _ _ _).trans (if_pos rfl)
  refine ⟨fun b hb => ?_, by rw [stn], OnlyChanges.setStn _ _ _ _ _ (List.mem_singleton_self i)⟩
  rw [stn, ← bitAt_tokenWord v k hb]
  simp [bitAt, hb]

/-- A 1 written to STN_TOKSETk makes its token present (R274). -/
theorem State.tokSet_spec (s : State) (i k : Nat) (v : Word) :
    let t := s.tokSet i k v
    (∀ b, b < 256 → bitAt (t.stn i).tokens b =
      (bitAt (s.stn i).tokens b || (decide (32 * k ≤ b) && decide (b < 32 * k + 32) && bitAt v (b - 32 * k)))) ∧
    t.stn i = { s.stn i with tokens := (t.stn i).tokens } ∧ OnlyChanges s t [] [i] := by
  have stn : (s.tokSet i k v).stn i = { s.stn i with tokens := (s.stn i).tokens ||| BitVec.ofNat 256 (v.toNat <<< (32 * k)) } :=
    (State.stn_setStn _ _ _ _).trans (if_pos rfl)
  refine ⟨fun b hb => ?_, by rw [stn], OnlyChanges.setStn _ _ _ _ _ (List.mem_singleton_self i)⟩
  rw [stn, ← bitAt_tokenWord v k hb]
  exact BitVec.getLsbD_or

/-! ### The local store window -/

theorem leBytes_succ (n v : Nat) : leBytes (n + 1) v = BitVec.ofNat 8 v :: leBytes n (v >>> 8) := by
  simp only [leBytes, List.range_succ_eq_map, List.map_cons, List.map_map]
  refine congrArg₂ _ rfl (List.map_congr_left fun k _ => ?_)
  rw [Function.comp_apply, ← Nat.shiftRight_add, Nat.mul_succ, Nat.add_comm]

/-- The bytes of a number spell it, as far as they reach. -/
theorem leNat_leBytes (n v : Nat) : leNat (leBytes n v) = v % 256 ^ n := by
  induction n generalizing v with
  | zero => rw [Nat.pow_zero, Nat.mod_one]; rfl
  | succ n ih =>
    rw [leBytes_succ, leNat, ih, Nat.pow_succ', Nat.mod_mul, BitVec.toNat_ofNat, Nat.shiftRight_eq_div_pow]

/-- Bytes written with wrap that do not run into themselves read back as one string. -/
theorem rdBytes_wrBytes {top : Nat} (m : SMap Byte) (a : Nat) {bs : List Byte} (hb : bs.length ≤ top) : rdBytes top (wrBytes top m a bs) a bs.length = bs := by
  refine List.ext_getElem (by simp [rdBytes, addrs]) (fun k _ hk => ?_)
  simp only [rdBytes, addrs, List.map_map, List.getElem_map, List.getElem_range, Function.comp_apply]
  exact (mget_wrBytes top m a bs hb hk).trans (List.getElem_eq_getD 0).symm

/-- A word of the local store reads as written. -/
theorem SignalBox.word_wr (b : SignalBox) (a : Nat) (v : Word) : (b.wr a 4 v.toNat).word a = v := by
  have read : rdBytes lsTop (wrBytes lsTop b.store a (leBytes 4 v.toNat)) a 4 = leBytes 4 v.toNat := rdBytes_wrBytes _ a (bs := leBytes 4 v.toNat) (by simp [leBytes, lsTop])
  unfold SignalBox.word SignalBox.wr
  rw [read, leNat_leBytes, show 256 ^ 4 = 2 ^ 32 from rfl, Nat.mod_eq_of_lt v.isLt, BitVec.ofNat_toNat, BitVec.setWidth_eq]

/-- A word written inside the local store leaves every other byte. -/
theorem SignalBox.mget_wr_other (b : SignalBox) {a j : Nat} (v : Nat) (ha : a + 4 ≤ 0x10000) (hj : j < a ∨ a + 4 ≤ j) :
    mget byte0 (b.wr a 4 v).store j = mget byte0 b.store j := by
  refine mget_wrBytes_other _ _ _ _ (fun k hk => ?_)
  have inside : k < 4 := by simpa [leBytes] using hk
  rw [lsTop, Nat.mod_eq_of_lt (by omega)]
  omega

/-- The byte of the local store at which word `k` of the window stands, in the half that STN_LSWIN selects (R477). -/
def State.windowAt (s : State) (i k : Nat) : Nat := 0x8000 * fld (s.preg i 0x170) 0 1 + 4 * k

theorem State.windowAt_le (s : State) (i : Nat) (k : Fin 8192) : s.windowAt i k + 4 ≤ 0x10000 := by
  have half : fld (s.preg i 0x170) 0 1 < 2 ^ 1 := Nat.mod_lt _ (by decide)
  unfold State.windowAt
  omega

/-- A word written through the window of a stopped station (R477). -/
theorem State.windowWrite_stopped {s : State} {i : Nat} (k : Fin 8192) (v : Word) (h : (s.stn i).ctl.run = .stopped) :
    let t := s.windowWrite i k v
    (t.stn i).sb.word (s.windowAt i k) = v ∧
    (∀ b, b < s.windowAt i k ∨ s.windowAt i k + 4 ≤ b → b < 0x10000 → mget byte0 (t.stn i).sb.store b = mget byte0 (s.stn i).sb.store b) ∧
    t.stn i = { s.stn i with sb := { (s.stn i).sb with store := (t.stn i).sb.store } } ∧ OnlyChanges s t [] [i] := by
  have taken : s.windowWrite i k v = s.setSb i ((s.stn i).sb.wr (s.windowAt i k) 4 v.toNat) := if_pos h
  have stn : (s.windowWrite i k v).stn i = { s.stn i with sb := (s.stn i).sb.wr (s.windowAt i k) 4 v.toNat } := by
    rw [taken]
    exact (State.stn_setStn _ _ _ _).trans (if_pos rfl)
  intro t
  rw [show t.stn i = _ from stn, show t = _ from taken]
  exact ⟨SignalBox.word_wr _ _ v, fun b hb _ => SignalBox.mget_wr_other _ _ (s.windowAt_le i k) hb, rfl, OnlyChanges.setStn _ _ _ _ _ (List.mem_singleton_self i)⟩

/-- A word for a station that runs is discarded and counted (R477). -/
theorem State.windowWrite_running {s : State} {i : Nat} (k : Nat) (v : Word) (h : (s.stn i).ctl.run ≠ .stopped) : s.windowWrite i k v = s.bump 0x24 1 := by
  unfold State.windowWrite
  exact if_neg h

/-! ### Writes to a station's page -/

theorem stnMask_tokens {o : Nat} (hl : 0x300 ≤ o) (hu : o ≤ 0x33C) : stnMask o = some 0 := by
  unfold stnMask
  repeat (refine (if_neg (by omega)).trans ?_)
  exact if_pos (by omega)

theorem stnMask_window {o : Nat} (hl : 0x8000 ≤ o) (hu : o < 0x10000) : stnMask o = some 0 := by
  unfold stnMask
  repeat (refine (if_neg (by omega)).trans ?_)
  exact if_pos (by omega)

theorem State.stnWrite_tokClear (s : State) (i : Nat) (k : Fin 8) (v : Word) : s.stnWrite i (0x300 + 4 * k) v = s.tokClear i k v := by
  unfold State.stnWrite
  rw [if_neg (by omega), if_pos (by omega), show (0x300 + 4 * k.val - 0x300) / 4 = k by omega]

theorem State.stnWrite_tokSet (s : State) (i : Nat) (k : Fin 8) (v : Word) : s.stnWrite i (0x320 + 4 * k) v = s.tokSet i k v := by
  unfold State.stnWrite
  rw [if_neg (by omega), if_neg (by omega), if_pos (by omega), show (0x320 + 4 * k.val - 0x320) / 4 = k by omega]

theorem State.stnWrite_window (s : State) (i : Nat) (k : Fin 8192) (v : Word) : s.stnWrite i (0x8000 + 4 * k) v = s.windowWrite i k v := by
  unfold State.stnWrite
  rw [if_neg (by omega), if_neg (by omega), if_neg (by omega), if_pos (by omega), show (0x8000 + 4 * k.val - 0x8000) / 4 = k by omega]

section
variable {s : State} {i : Stn} {v : Word} {P : State → Prop} (hs : s.supState = 0)
include hs

/-- A command that is a served write to a station's page does what the write does there. -/
theorem runs_pageWrite {c : Instr} {o : Nat} {t : State} (hc : exec c s = .next (s.bar0Write (pageBase i + o) 0xF v))
    (h : s.writeServed (pageBase i + o) = true) (ho : o < 0x10000) (h4 : o % 4 = 0) (hm : stnMask o = some 0) (ht : s.leaveL1.stnWrite i o v = t)
    (hp : P t) : Runs c s P :=
  runs_of (hc.trans (congrArg _ ((State.bar0Write_page h hs ho h4 (by rw [hm]; rfl)).trans ht))) hp

theorem runs_stnTokClear {k : Fin 8} (h : s.writeServed (pageBase i + 0x300 + 4 * k) = true) (hp : P (s.leaveL1.tokClear i k v)) :
    Runs (.stnTokClear i k v) s P := by
  rw [Nat.add_assoc] at h
  have write : exec (.stnTokClear i k v) s = .next (s.bar0Write (pageBase i + (0x300 + 4 * k)) 0xF v) := by rw [← Nat.add_assoc]; rfl
  exact runs_pageWrite hs write h (by omega) (by omega) (stnMask_tokens (by omega) (by omega)) (State.stnWrite_tokClear ..) hp

theorem runs_stnTokset {k : Fin 8} (h : s.writeServed (pageBase i + 0x320 + 4 * k) = true) (hp : P (s.leaveL1.tokSet i k v)) :
    Runs (.stnTokset i k v) s P := by
  rw [Nat.add_assoc] at h
  have write : exec (.stnTokset i k v) s = .next (s.bar0Write (pageBase i + (0x320 + 4 * k)) 0xF v) := by rw [← Nat.add_assoc]; rfl
  exact runs_pageWrite hs write h (by omega) (by omega) (stnMask_tokens (by omega) (by omega)) (State.stnWrite_tokSet ..) hp

theorem runs_localStoreWindowWrite {k : Fin 8192} (h : s.writeServed (pageBase i + 0x8000 + 4 * k) = true) (hp : P (s.leaveL1.windowWrite i k v)) :
    Runs (.localStoreWindowWrite i k v) s P := by
  rw [Nat.add_assoc] at h
  have write : exec (.localStoreWindowWrite i k v) s = .next (s.bar0Write (pageBase i + (0x8000 + 4 * k)) 0xF v) := by rw [← Nat.add_assoc]; rfl
  exact runs_pageWrite hs write h (by omega) (by omega) (stnMask_window (by omega) (by omega)) (State.stnWrite_window ..) hp

end

/-! ### Ticket counters -/

theorem tktBase_bounds (c : Fin 64) : 0x208000 ≤ tktBase c ∧ tktBase c + 12 < 0x208400 ∧ tktBase c % 0x10 = 0 := by
  unfold tktBase
  omega

/-- VAL and LIMIT take all their bits (R280). -/
theorem rwMask_tkt {a : Nat} (hl : 0x208000 ≤ a) (hu : a < 0x208400) (h4 : a % 4 = 0) (h8 : a % 0x10 ≠ 8) : rwMask a = some 0xFFFFFFFF := by
  have block : rwMask a = meshMask (a - 0x200000) := by
    unfold rwMask
    repeat (refine (if_neg (by omega)).trans ?_)
    exact if_pos (by omega)
  rw [block]
  unfold meshMask
  repeat (refine (if_neg (by omega)).trans ?_)
  exact (if_pos (by omega)).trans (if_neg (by omega))

theorem State.tktValWrite_eq (s : State) (c : Nat) (v : Word) :
    s.tktValWrite c v = (s.setReg (tktBase c) v).setReg (tktBase c + 8) (s.reg (tktBase c + 8) + 1) := rfl

/-- A write to VAL begins an epoch (R263). -/
theorem State.tktValWrite_spec (s : State) (c : Nat) (v : Word) :
    let t := s.tktValWrite c v
    t.reg (tktBase c) = v ∧ t.reg (tktBase c + 8) = s.reg (tktBase c + 8) + 1 ∧ OnlyChanges s t [tktBase c, tktBase c + 8] [] := by
  have first : OnlyChanges s (s.setReg (tktBase c) v) [tktBase c, tktBase c + 8] [] := (OnlyChanges.setReg ..).mono (by simp) (by simp)
  rw [State.tktValWrite_eq]
  exact ⟨by simp, by simp, first.trans ((OnlyChanges.setReg ..).mono (by simp) (by simp))⟩

theorem State.regWrite_tktVal (s : State) (c : Fin 64) (v : Word) : s.regWrite (tktBase c) v = s.tktValWrite c v := by
  obtain ⟨hl, hu, h16⟩ := tktBase_bounds c
  have hr : ¬ isRwo (tktBase c) = true := by simp only [isRwo, Bool.or_eq_true, Bool.and_eq_true, decide_eq_true_eq]; omega
  have index : (tktBase c - 0x208000) / 0x10 = c := by unfold tktBase; omega
  unfold State.regWrite
  rw [index]
  repeat (refine (if_neg (by omega)).trans ?_)
  exact if_pos (by omega)

theorem State.regWrite_tktLimit (s : State) (c : Fin 64) (v : Word) : s.regWrite (tktBase c + 4) v = s.setReg (tktBase c + 4) v := by
  obtain ⟨hl, hu, h16⟩ := tktBase_bounds c
  have hr : ¬ isRwo (tktBase c + 4) = true := by simp only [isRwo, Bool.or_eq_true, Bool.and_eq_true, decide_eq_true_eq]; omega
  unfold State.regWrite State.setRw
  repeat (refine (if_neg (by omega)).trans ?_)
  rw [rwMask_tkt (by omega) (by omega) (by omega) (by omega)]
  have all : (v &&& BitVec.allOnes 32) ||| (s.reg (tktBase c + 4) &&& ~~~BitVec.allOnes 32) = v := by
    rw [BitVec.and_allOnes, BitVec.not_allOnes, BitVec.and_zero, BitVec.or_zero]
  exact congrArg _ all

section
variable {s : State} {c : Fin 64} {v : Word} {P : State → Prop} (hs : s.supState = 0) (h : s.writeServed 0x208000 = true)
include hs h

theorem State.bar0Write_tkt {a : Nat} (hl : 0x208000 ≤ a) (hu : a < 0x208400) (h4 : a % 4 = 0) (h8 : a % 0x10 ≠ 8) :
    s.bar0Write a 0xF v = s.leaveL1.regWrite a v :=
  have ready : s.writeServed 0x400000 = s.writeServed 0x208000 := rfl
  State.bar0Write_eq (State.writeServed_sessions (ready.trans h) a) hs (by rw [rwMask_tkt hl hu h4 h8]; rfl) (byteWritable_eq_false (by omega))

theorem runs_meshTktValWrite (hp : P (s.leaveL1.tktValWrite c v)) : Runs (.meshTktValWrite c v) s P := by
  obtain ⟨hl, hu, h16⟩ := tktBase_bounds c
  have write : exec (.meshTktValWrite c v) s = .next (s.bar0Write (tktBase c) 0xF v) := rfl
  exact runs_of (write.trans (congrArg _ ((State.bar0Write_tkt hs h hl (by omega) (by omega) (by omega)).trans (State.regWrite_tktVal ..)))) hp

theorem runs_meshTktLimitWrite (hp : P (s.leaveL1.setReg (tktBase c + 4) v)) : Runs (.meshTktLimitWrite c v) s P := by
  obtain ⟨hl, hu, h16⟩ := tktBase_bounds c
  have place : 0x208004 + 0x10 * c.val = tktBase c + 4 := by unfold tktBase; omega
  have write : exec (.meshTktLimitWrite c v) s = .next (s.bar0Write (tktBase c + 4) 0xF v) := by rw [← place]; rfl
  exact runs_of (write.trans (congrArg _ ((State.bar0Write_tkt hs h (by omega) (by omega) (by omega) (by omega)).trans (State.regWrite_tktLimit ..)))) hp

end

end Sys2Proof.Machine

namespace Sys2Proof
open Machine

/-- Settles O27: each write by the branch of its command, the tokens bit by bit, the window by whether its station is stopped. -/
theorem tokenWindowAndTicketWrites : Obligations.TokenWindowAndTicketWrites := by
  refine ⟨fun s i v hs => ⟨fun k h => runs_stnTokClear hs h (State.tokClear_spec _ _ _ _), fun k h => runs_stnTokset hs h (State.tokSet_spec _ _ _ _),
    fun k h => ⟨fun stopped => runs_localStoreWindowWrite hs h ?_, fun runs => runs_localStoreWindowWrite hs h ?_⟩⟩,
    fun s c v hs h => ⟨runs_meshTktValWrite hs h (State.tktValWrite_spec _ _ _), runs_meshTktLimitWrite hs h ?_⟩⟩
  · exact State.windowWrite_stopped (s := s.leaveL1) k v stopped
  · rw [State.windowWrite_running (s := s.leaveL1) k v runs]
    exact ⟨(State.reg_bump ..).trans (if_pos rfl), OnlyChanges.setReg ..⟩
  · exact ⟨(State.reg_setReg ..).trans (if_pos rfl), OnlyChanges.setReg ..⟩

end Sys2Proof
end

section
/-! PROOFS. What reading lines and reporting faults change, and that no register write changes the plan (O29, first part). -/
namespace Sys2Proof.Machine

/-! ### Reports -/

/-- Only registers, the marks of uncorrectable lines, the power of channels, the endpoint's pending bits and the output differ: what the reading of lines and the reporting of faults may change. -/
def Reports (s t : State) : Prop :=
  ∃ r q x d o p, t = { s with aoReg := r, out := o, poison := p, die := { s.die with reg := q, pcie := x, pdown := d } }

theorem Reports.refl (s : State) : Reports s s := ⟨s.aoReg, s.die.reg, s.die.pcie, s.die.pdown, s.out, s.poison, rfl⟩

theorem Reports.trans {s t u : State} (h : Reports s t) (k : Reports t u) : Reports s u := by
  obtain ⟨_, _, _, _, _, _, rfl⟩ := h
  obtain ⟨r, q, x, d, o, p, rfl⟩ := k
  exact ⟨r, q, x, d, o, p, rfl⟩

theorem Reports.foldl {β : Type} {f : State → β → State} (h : ∀ t b, Reports t (f t b)) (l : List β) (s : State) : Reports s (l.foldl f s) := by
  induction l generalizing s with
  | nil => exact .refl s
  | cons b l ih => exact (h s b).trans (ih _)

theorem Reports.setReg (s : State) (a : Nat) (v : Word) : Reports s (s.setReg a v) := by
  unfold State.setReg
  split
  · exact ⟨_, s.die.reg, s.die.pcie, s.die.pdown, s.out, s.poison, rfl⟩
  · exact ⟨s.aoReg, _, s.die.pcie, s.die.pdown, s.out, s.poison, rfl⟩

theorem Reports.signal (s : State) (v : Nat) : Reports s (s.signal v) := by
  obtain ⟨x, o, e⟩ := s.signal_eq v
  exact ⟨s.aoReg, s.die.reg, x, s.die.pdown, o, s.poison, e⟩

theorem Reports.logFault (s : State) (c p u : Nat) (d : Word) (e : BitVec 64) : Reports s (s.logFault c p u d e) := by
  obtain ⟨r, q, x, o, h⟩ := s.logFault_eq c p u d e
  exact ⟨_, _, x, s.die.pdown, o, s.poison, h⟩

theorem Reports.wakeChannel (s : State) (l : Nat) : Reports s (s.wakeChannel l) := ⟨s.aoReg, s.die.reg, s.die.pcie, _, s.out, s.poison, rfl⟩

theorem Reports.readUe (s : State) (l : Nat) : Reports s (s.readUe l) := by
  have marked (p : List Nat) : Reports s { s with poison := p } := ⟨s.aoReg, s.die.reg, s.die.pcie, s.die.pdown, s.out, p, rfl⟩
  unfold State.readUe
  dsimp only
  split
  · exact ((marked _).trans (.setReg ..)).trans (.logFault ..)
  · exact ((marked _).trans (.setReg ..)).trans (.logFault ..)

/-- A line that is read without a new error of the array. -/
theorem Reports.readLine (s : State) (l : Nat) (ce : Bool) : Reports s (s.readLine l ce false) := by
  unfold State.readLine
  dsimp only
  split
  · exact (Reports.wakeChannel s l).trans (.readUe ..)
  · refine (Reports.wakeChannel s l).trans ?_
    rw [if_neg Bool.false_ne_true]
    unfold State.corrected
    split
    · exact .setReg ..
    · exact .refl _

theorem Reports.enter (s : State) (n : Nat) : Reports s (s.enter n) := by
  unfold State.enter
  dsimp only
  split
  · exact .setReg ..
  · exact (Reports.setReg ..).trans (.signal ..)

theorem Reports.plan {s t : State} (h : Reports s t) : t.plan = s.plan := by
  obtain ⟨_, _, _, _, _, _, rfl⟩ := h
  rfl

theorem Reports.stn {s t : State} (h : Reports s t) (j : Nat) : t.stn j = s.stn j := by
  obtain ⟨_, _, _, _, _, _, rfl⟩ := h
  rfl

theorem Reports.lpddr {s t : State} (h : Reports s t) : t.lpddr = s.lpddr := by
  obtain ⟨_, _, _, _, _, _, rfl⟩ := h
  rfl

theorem Reports.net {s t : State} (h : Reports s t) : t.die.net = s.die.net ∧ t.die.sess = s.die.sess := by
  obtain ⟨_, _, _, _, _, _, rfl⟩ := h
  exact ⟨rfl, rfl⟩

theorem Reports.job {s t : State} (h : Reports s t) : t.die.job = s.die.job ∧ t.die.jobStarted = s.die.jobStarted ∧ t.die.jobStns = s.die.jobStns := by
  obtain ⟨_, _, _, _, _, _, rfl⟩ := h
  exact ⟨rfl, rfl, rfl⟩

/-! ### The plan -/

theorem State.plan_ite (c : Prop) [Decidable c] (s t : State) : (if c then s else t).plan = if c then s.plan else t.plan := apply_ite State.plan c s t

theorem State.plan_foldl {β : Type} {f : State → β → State} (h : ∀ t b, (f t b).plan = t.plan) (l : List β) (s : State) : (l.foldl f s).plan = s.plan := by
  induction l generalizing s with
  | nil => rfl
  | cons b l ih => exact (ih _).trans (h s b)

theorem Sends.plan {s t : State} (h : Sends s t) : t.plan = s.plan := by
  obtain ⟨_, _, rfl⟩ := h
  rfl

@[simp] theorem State.plan_enter (s : State) (n : Nat) : (s.enter n).plan = s.plan := (Reports.enter s n).plan
@[simp] theorem State.plan_readLine (s : State) (l : Nat) (ce : Bool) : (s.readLine l ce false).plan = s.plan := (Reports.readLine s l ce).plan
@[simp] theorem State.plan_toPort (s : State) (p : Nat) (w : Waiting) : (s.toPort p w).plan = s.plan := (Sends.toPort s p w).plan
@[simp] theorem State.plan_routeWaiting (s : State) (w : Waiting) : (s.routeWaiting w).plan = s.plan := (Sends.routeWaiting s w).plan
@[simp] theorem State.plan_setPort (s : State) (p : Nat) (q : Port) : (s.setPort p q).plan = s.plan := rfl
@[simp] theorem State.plan_setNet (s : State) (n : Net) : (s.setNet n).plan = s.plan := rfl
@[simp] theorem State.plan_putLine (s : State) (l : Nat) (bs : List Byte) : (s.putLine l bs).plan = s.plan := rfl
@[simp] theorem State.plan_sessMove (s : State) (i st b : Nat) : (s.sessMove i st b).plan = s.plan := by simp [State.sessMove]
@[simp] theorem State.plan_setBerth (s : State) (b : Nat) (v : Option Nat) : (s.setBerth b v).plan = s.plan := rfl

@[simp] theorem State.plan_requestWake (s : State) (i : Nat) : (s.requestWake i).plan = s.plan := by
  simp [State.requestWake, State.plan_ite]

@[simp] theorem State.plan_putCtrl (s : State) (i : Nat) (v : Word) : (s.putCtrl i v).plan = s.plan := by
  simp [State.putCtrl, State.plan_ite]

theorem State.plan_stnWrite (s : State) (i o : Nat) (v : Word) : (s.stnWrite i o v).plan = s.plan := by
  simp [State.stnWrite, State.ctrlWrite, State.tokClear, State.tokSet, State.windowWrite, State.setSb, State.setRw, State.plan_ite]

theorem State.plan_mbxWrite (s : State) (v : Word) : (s.mbxWrite v).plan = s.plan := by
  simp [State.mbxWrite, State.mbxPost, State.plan_ite]

theorem State.plan_goldenWrite (s : State) (v : Word) : (s.goldenWrite v).plan = s.plan := by
  simp [State.goldenWrite, State.setGolden, State.plan_ite]

/-- A fuse that is committed, or found exhausted, leaves the plan (R418). -/
theorem State.plan_ceilingWrite (s : State) (v : Word) (detail : List Byte) : (s.ceilingWrite v detail).plan = s.plan := by
  unfold State.ceilingWrite State.commitFuse State.exhausted
  dsimp only
  split_ifs <;> simp [State.setMeas]

@[simp] theorem State.plan_govWrite (s : State) (a : Nat) (v : Word) : (s.govWrite a v).plan = s.plan := by
  unfold State.govWrite
  dsimp only
  split
  case h_1 =>
    split
    · exact (State.plan_foldl (fun t b => by simp) _ _).trans (State.plan_setReg ..)
    · exact State.plan_setReg ..
  case h_7 => exact State.plan_ceilingWrite ..
  case h_8 => split <;> simp
  all_goals simp [State.setGov]

theorem State.plan_tenderCtrl (s : State) (v : Word) : (s.tenderCtrl v).plan = s.plan := by
  simp [State.tenderCtrl, State.tellTender, State.paths, State.setTbit, State.setAuth, State.plan_ite]

theorem State.plan_qCtrl (s : State) (q : Nat) (v : Word) : (s.qCtrl q v).plan = s.plan := by
  simp [State.qCtrl, State.qClear, State.poll, State.readCons, State.setProd, State.setCons, State.plan_ite]

theorem State.plan_beginRoll (s : State) (w : FaultInfo) (unit : Nat) : (s.beginRoll w unit).plan = s.plan := by
  simp [State.beginRoll]

/-! ### A direction that is lost, and the line clear that may follow -/

theorem State.plan_unberth (s : State) : s.unberth.plan = s.plan := by
  refine State.plan_foldl (fun t p => ?_) _ _
  split <;> simp

theorem State.plan_clearStations (s : State) : s.clearStations.plan = s.plan := by
  unfold State.clearStations
  exact State.plan_foldl (fun _ _ => State.plan_setStn ..) _ _

theorem State.plan_clearTickets (s : State) : s.clearTickets.plan = s.plan := by
  unfold State.clearTickets
  exact State.plan_foldl (fun t c => by simp) _ _

theorem State.plan_clearQueues (s : State) : s.clearQueues.plan = s.plan := by
  unfold State.clearQueues
  exact State.plan_foldl (fun _ _ => by simp [State.setXq]) _ _

theorem State.plan_lineClear (s : State) (lce : Nat) : (s.lineClear lce).plan = s.plan := by
  simp [State.lineClear, State.endCoast, State.plan_ite, State.plan_unberth, State.plan_clearStations, State.plan_clearTickets, State.plan_clearQueues]

theorem State.plan_startClear (s : State) (w : FaultInfo) (unit : Nat) : (s.startClear w unit).plan = s.plan := by
  have flooded (b : FrameBody) : (s.flood none b).plan = s.plan := State.plan_foldl (fun t p => by simp [State.plan_ite]) _ _
  simp [State.startClear, State.actClear, State.plan_ite, State.plan_beginRoll, State.plan_lineClear, flooded]

theorem State.plan_takeStep5 (s : State) (w : FaultInfo) (unit : Nat) : (s.takeStep5 w unit).plan = s.plan := by
  simp [State.takeStep5, State.recovery, State.ladder, State.plan_startClear]

theorem State.plan_step5 (s : State) (w : FaultInfo) (unit : Nat) (own : Bool) : (s.step5 w unit own).plan = s.plan := by
  simp [State.step5, State.retire, State.plan_takeStep5, State.plan_ite]

theorem State.plan_abortFlight (s : State) (w : FaultInfo) (k : Nat × Nat) : (s.abortFlight w k).plan = s.plan := by
  unfold State.abortFlight
  split <;> rfl

theorem State.plan_loseDirection (s : State) (d : Nat) : (s.loseDirection d).plan = s.plan := by
  unfold State.loseDirection
  extract_lets ws owners w s1 s2 stay s3 v
  have emptied : s1.plan = s.plan := State.plan_foldl (fun t p => t.plan_setPort p _) _ _
  have aborted : s2.plan = s1.plan := (State.plan_foldl (fun t k => t.plan_abortFlight w k) _ _).trans (State.plan_logFault ..)
  have routed : s3.plan = s2.plan := State.plan_foldl (fun t k => by simp) _ _
  have same := routed.trans (aborted.trans emptied)
  split
  · exact (State.plan_step5 ..).trans ((State.plan_logFault ..).trans same)
  · exact same

theorem State.plan_failOver (s : State) (p : Nat) : (s.failOver p).plan = s.plan := by
  unfold State.failOver
  dsimp only
  split_ifs
  · exact (State.plan_foldl (fun t w => by simp) _ _).trans (by simp)
  · exact State.plan_loseDirection ..
  · rfl

theorem State.plan_setPortState (s : State) (p st : Nat) : (s.setPortState p st).plan = s.plan := by
  simp [State.setPortState, State.plan_ite]

theorem State.plan_trainPort (s : State) (p : Nat) : (s.trainPort p).plan = s.plan := by
  simp [State.trainPort, State.plan_setPortState, State.plan_ite]

theorem State.plan_settleLinks (s : State) : s.settleLinks.plan = s.plan := by
  simp [State.settleLinks, State.plan_ite]

theorem State.plan_linkCtrlWrite (s : State) (p : Nat) (v : Word) : (s.linkCtrlWrite p v).plan = s.plan := by
  unfold State.linkCtrlWrite
  extract_lets was s1 s2
  have enabled : s2.plan = s.plan := by
    simp only [s2, s1, State.plan_ite, State.plan_settleLinks, State.plan_failOver, State.plan_setPortState, State.plan_trainPort, State.plan_setFld,
      State.plan_setReg, ite_self]
  rw [State.plan_ite, State.plan_trainPort, ite_self, enabled]

/-! ### Every register write -/

theorem State.plan_faultCtrl (s : State) (v : Word) : (s.faultCtrl v).plan = s.plan := by
  simp [State.faultCtrl, State.plan_beginRoll, State.plan_ite]

theorem State.plan_faultRd (s : State) (v : Word) : (s.faultRd v).plan = s.plan := State.plan_setReg ..

theorem State.plan_clearWrite (s : State) (v : Word) : (s.clearWrite v).plan = s.plan := by
  simp [State.clearWrite, State.plan_startClear, State.plan_ite]

theorem State.plan_memConfigWrite (s : State) (a : Nat) (v : Word) : (s.memConfigWrite a v).plan = s.plan := by
  simp [State.memConfigWrite, State.plan_ite]

theorem State.plan_setRw (s : State) (a : Nat) (v mask : Word) : (s.setRw a v mask).plan = s.plan := State.plan_setReg ..

theorem State.plan_rwoWrite (s : State) (a : Nat) (v : Word) : (s.rwoWrite a v).plan = s.plan := by
  simp [State.rwoWrite, State.plan_setRw, State.plan_ite]

theorem State.plan_xqWrite (s : State) (a : Nat) (v : Word) : (s.xqWrite a v).plan = s.plan := by
  simp [State.xqWrite, State.xqRefresh, State.setXq, State.plan_ite]

@[simp] theorem State.plan_tktValWrite (s : State) (c : Nat) (v : Word) : (s.tktValWrite c v).plan = s.plan := by
  simp [State.tktValWrite]

theorem State.plan_sessionCmd (s : State) (v : Word) : (s.sessionCmd v).plan = s.plan := by
  simp [State.sessionCmd, State.refuseSession, State.plan_ite]

/-- No register write changes the plan: each branch by its own lemma. -/
@[simp] theorem State.plan_regWrite (s : State) (a : Nat) (v : Word) : (s.regWrite a v).plan = s.plan := by
  unfold State.regWrite
  simp only [State.plan_ite, State.plan_stnWrite, State.plan_mbxWrite, State.plan_goldenWrite, State.plan_govWrite, State.plan_tenderCtrl, State.plan_setReg,
    State.plan_qCtrl, State.plan_faultCtrl, State.plan_faultRd, State.plan_linkCtrlWrite, State.plan_clearWrite, State.plan_memConfigWrite,
    State.plan_rwoWrite, State.plan_xqWrite, State.plan_tktValWrite, State.plan_sessionCmd, State.plan_setRw, ite_self]

end Sys2Proof.Machine
end

section
/-! PROOFS. Job start (O29, second part): the loaders begin, and then the job's stations. -/
namespace Sys2Proof.Machine

/-! ### Steps over stations -/

/-- A step that sets the stations of a list, each from what it was. -/
theorem State.stn_forStns {l : List Nat} (hn : l.Nodup) (s : State) (f : Station → Station) (j : Nat) :
    (s.forStns l f).stn j = if j ∈ l then f (s.stn j) else s.stn j := by
  have others (t : State) (i k : Nat) (h : k ≠ i) : (t.setStn i (f (t.stn i))).stn k = t.stn k := (State.stn_setStn ..).trans (if_neg h)
  unfold State.forStns
  split
  · obtain ⟨u, hu, e⟩ := State.stn_foldl_of_mem others ‹_› hn s
    rw [e, State.stn_setStn, if_pos rfl, hu]
  · exact State.stn_foldl_of_not_mem others ‹_› s

theorem State.plan_forStns (s : State) (l : List Nat) (f : Station → Station) : (s.forStns l f).plan = s.plan := by
  unfold State.forStns
  exact State.plan_foldl (fun _ _ => State.plan_setStn ..) _ _

/-- RUN set at a station: one that is stopped starts, and any other stays as it is (R108). -/
theorem State.stn_runStn (s : State) (i : Nat) :
    ((s.stn i).ctl.run = .stopped → (s.runStn i).stn i = (s.stn i).start) ∧
    ((s.stn i).ctl.run ≠ .stopped → ∃ w, (s.runStn i).stn i = { s.stn i with ctl := { (s.stn i).ctl with wakeReq := w } }) := by
  have run : bitAt (s.preg i 4 ||| 1) 0 = true := (bitAt_or_one _).1
  refine ⟨fun h => ?_, fun h => ?_⟩
  · have started := Station.runWrite_start run h
    obtain ⟨stn, -⟩ := s.putCtrl_idle (i := i) (v := s.preg i 4 ||| 1) (.inl (by rw [started]; nofun))
    exact stn.trans started
  · obtain ⟨⟨w, stn⟩, -⟩ := s.putCtrl_stn i (s.preg i 4 ||| 1)
    rw [Station.runWrite_running run h] at stn
    exact ⟨w, stn⟩

/-- A station that RUN is set at is not stopped, and its local store stays. -/
theorem State.runStn_runs (s : State) (i : Nat) : ((s.runStn i).stn i).ctl.run ≠ .stopped ∧ ((s.runStn i).stn i).sb.store = (s.stn i).sb.store := by
  obtain ⟨starts, stays⟩ := s.stn_runStn i
  by_cases h : (s.stn i).ctl.run = .stopped
  · rw [starts h]
    exact ⟨nofun, rfl⟩
  · obtain ⟨w, e⟩ := stays h
    rw [e]
    exact ⟨h, rfl⟩

theorem State.stn_runStn_other (s : State) (i j : Nat) (h : j ≠ i) : (s.runStn i).stn j = s.stn j := by
  have other : j ∉ [i] := by simpa using h
  obtain ⟨u, e, -, -, -, -, -, -, -, stns, -⟩ := s.putCtrl_eq i (s.preg i 4 ||| 1)
  obtain ⟨-, -, asks, -⟩ := u.requestWake_frame i
  have run : s.runStn i = if bitAt (s.preg i 4 ||| 1) 2 then u.requestWake i else u := e
  rw [run]
  split
  · exact (asks j other).trans (stns j other)
  · exact stns j other

/-- RUN set at each station of a list: a listed one has its own step, once. -/
theorem State.stn_runAll {l : List Nat} (hn : l.Nodup) {j : Nat} (hj : j ∈ l) (s : State) :
    ∃ u : State, u.stn j = s.stn j ∧ (l.foldl (fun (t : State) i => t.runStn i) s).stn j = (u.runStn j).stn j :=
  State.stn_foldl_of_mem (fun t i k h => t.stn_runStn_other i k h) hj hn s

/-! ### Steps 1 and 2 of R279 -/

/-- Registers, descriptors and constant regions leave the plan that they are taken from. -/
theorem State.plan_putRecords (s : State) (rs : List (Nat × Word)) : (s.putRecords rs).plan = s.plan := by
  unfold State.putRecords
  exact State.plan_foldl (fun _ _ => State.plan_regWrite ..) _ _

theorem State.plan_putChain (s : State) (c : BitVec 128 × Nat × List Word) : (s.putChain c).plan = s.plan := by
  unfold State.putChain
  exact State.plan_foldl (fun _ _ => State.plan_foldl (fun _ _ => State.plan_regWrite ..) _ _) _ _

theorem State.plan_applyPhases (s : State) : s.applyPhases.plan = s.plan := by
  unfold State.applyPhases
  exact State.plan_foldl (fun _ _ => by simp only [State.plan_ite, State.plan_govWrite, ite_self]) _ _

theorem State.plan_putDescs (s : State) : s.putDescs.plan = s.plan := by
  unfold State.putDescs
  exact State.plan_foldl (fun _ _ => State.plan_putLine ..) _ _

/-- The state in which the loader is put into the local stores: registers, descriptors and constant regions are in place. -/
def State.jobPrepared (s : State) : State :=
  let s1 := (s.plan.chains.foldl (fun (t : State) c => t.putChain c) (s.putRecords s.plan.jobRegs)).applyPhases.putDescs
  s1.plan.tables.foldl (fun (t : State) p => t.forStns (maskStns p.mask) (fun x => x.putTables p)) s1

theorem State.plan_jobPrepared (s : State) : s.jobPrepared.plan = s.plan := by
  unfold State.jobPrepared
  refine (State.plan_foldl (fun _ _ => State.plan_forStns ..) _ _).trans ?_
  rw [State.plan_putDescs, State.plan_applyPhases]
  exact (State.plan_foldl (fun _ _ => State.plan_putChain ..) _ _).trans (State.plan_putRecords ..)

/-- A station after the loaders have begun: it has taken the loader and then RUN. -/
theorem State.stn_beginJob (s : State) (i : Stn) :
    ∃ u : State, u.stn i = (s.jobPrepared.stn i).putStore 0 s.plan.loader ∧ s.beginJob.stn i = (u.runStn i).stn i := by
  have listed : i.val ∈ List.range 128 := List.mem_range.mpr i.isLt
  obtain ⟨u, hu, e⟩ := State.stn_runAll List.nodup_range listed (s.jobPrepared.forStns (List.range 128) (fun x => x.putStore 0 s.jobPrepared.plan.loader))
  rw [State.stn_forStns List.nodup_range, if_pos listed, State.plan_jobPrepared] at hu
  exact ⟨u, hu, e⟩

theorem State.phase_beginJob (s : State) : s.beginJob.die.job.phase = 1 := rfl

theorem exec_jobStart_begins {s : State} (h : s.mayStartJob = true) (hp : s.die.job.phase = 0) : exec .jobStart s = .next s.beginJob := by
  change execJobStart s = _
  unfold execJobStart
  exact if_pos (by simp [h, hp])

theorem exec_jobStart_waits {s : State} (hp : s.die.job.phase = 1) (h : s.allStopped = false) : exec .jobStart s = .next s := by
  change execJobStart s = _
  unfold execJobStart
  rw [if_neg (by simp [hp]), if_neg (by simp [h])]

theorem exec_jobStart_launches {s : State} (h : s.mayStartJob = true) (hp : s.die.job.phase = 1) (ha : s.allStopped = true) :
    exec .jobStart s = .next s.launchJob := by
  change execJobStart s = _
  unfold execJobStart
  rw [if_neg (by simp [hp]), if_pos (by simp [h, hp, ha])]

/-- The loader stands in the local store of every station, and each runs (R279). -/
theorem State.beginJob_spec {s : State} (hl : s.plan.loader.length ≤ 0x10000) (i : Stn) :
    (s.beginJob.stn i).ctl.run ≠ .stopped ∧ ∀ k (h : k < s.plan.loader.length), mget byte0 (s.beginJob.stn i).sb.store k = s.plan.loader[k] := by
  obtain ⟨u, hu, e⟩ := s.stn_beginJob i
  obtain ⟨runs, store⟩ := u.runStn_runs i
  rw [e, store, hu]
  refine ⟨runs, fun k h => ?_⟩
  have place : (0 + k) % lsTop = k := by rw [Nat.zero_add, lsTop, Nat.mod_eq_of_lt (by omega)]
  have byte := mget_wrBytes lsTop (s.jobPrepared.stn i).sb.store 0 s.plan.loader hl h
  rw [place] at byte
  exact byte.trans (List.getElem_eq_getD 0).symm

/-! ### Steps 3 and 4 of R279 -/

/-- A key of a sparse map reads as its default or as what is listed there. -/
theorem mget_eq_default_or_mem {α : Type} (d : Nat → α) (m : SMap α) (k : Nat) : mget d m k = d k ∨ (k, mget d m k) ∈ m := by
  induction m with
  | nil => exact .inl rfl
  | cons p r ih =>
    obtain ⟨a, x⟩ := p
    unfold mget
    split
    · rename_i h
      exact .inr (h ▸ List.mem_cons_self)
    · exact ih.imp_right (List.mem_cons_of_mem _)

theorem State.stopped_of_allStopped {s : State} (h : s.allStopped = true) (i : Nat) : (s.stn i).ctl.run = .stopped := by
  rcases mget_eq_default_or_mem (fun _ => Station.reset) s.die.stns i with e | m
  · exact congrArg (fun x => x.ctl.run) e
  · exact of_decide_eq_true (List.all_eq_true.mp h _ m)

/-- What putting programs, tokens and counters in place leaves alone: the plan, and the control of every station. -/
structure JobLoads (s t : State) : Prop where
  plan : t.plan = s.plan
  ctl : ∀ j, (t.stn j).ctl = (s.stn j).ctl

theorem JobLoads.refl (s : State) : JobLoads s s := ⟨rfl, fun _ => rfl⟩

theorem JobLoads.trans {s t u : State} (h : JobLoads s t) (k : JobLoads t u) : JobLoads s u :=
  ⟨k.plan.trans h.plan, fun j => (k.ctl j).trans (h.ctl j)⟩

theorem JobLoads.foldl {β : Type} {f : State → β → State} (h : ∀ t b, JobLoads t (f t b)) (l : List β) (s : State) : JobLoads s (l.foldl f s) := by
  induction l generalizing s with
  | nil => exact .refl s
  | cons b l ih => exact (h s b).trans (ih _)

theorem JobLoads.setReg (s : State) (a : Nat) (v : Word) : JobLoads s (s.setReg a v) := ⟨State.plan_setReg .., fun j => by rw [State.stn_setReg]⟩

theorem JobLoads.setStn (s : State) (i : Nat) {x : Station} (h : x.ctl = (s.stn i).ctl) : JobLoads s (s.setStn i x) := by
  refine ⟨rfl, fun j => ?_⟩
  rw [State.stn_setStn]
  split
  · rename_i e
    rw [h, e]
  · rfl

theorem JobLoads.forStns (s : State) (l : List Nat) {f : Station → Station} (h : ∀ x, (f x).ctl = x.ctl) : JobLoads s (s.forStns l f) :=
  .foldl (fun t i => .setStn t i (h _)) l s

theorem JobLoads.putCounters (s : State) (n : Nat) : JobLoads s (s.putCounters n) :=
  .foldl (fun _ _ => ((JobLoads.setReg ..).trans (.setReg ..)).trans (.setReg ..)) _ s

theorem JobLoads.putStore (s : State) (l : List Nat) (a : Nat) (bs : List Byte) : JobLoads s (s.forStns l (fun x => x.putStore a bs)) :=
  .forStns s l (fun _ => rfl)

theorem JobLoads.planStns {s t : State} (h : JobLoads s t) : t.planStns = s.planStns := by
  unfold State.planStns
  rw [h.plan]

/-- Programs and tokens in place (R279). -/
def State.jobProgrammed (s : State) : State :=
  let s1 := s.plan.programs.foldl (fun (t : State) p => t.forStns (maskStns p.1) (fun x => x.putStore 0 p.2)) s
  s1.plan.tokens.foldl (fun (t : State) k => if k.1 < 128 then t.presentToken k.1 (k.2 % 256) else t) s1

theorem JobLoads.jobProgrammed (s : State) : JobLoads s s.jobProgrammed := by
  refine (JobLoads.foldl (fun t p => .putStore t _ _ _) s.plan.programs s).trans (.foldl (fun t k => ?_) _ _)
  split
  · exact .setStn _ _ rfl
  · exact .refl t

/-- The state in which the job's stations start: the counters of step 0 and the restart points are in place too. -/
def State.jobPlaced (s : State) : State := (s.jobProgrammed.putCounters 0).forStns s.planStns (fun x => { x with restart := ⟨0, []⟩ })

theorem JobLoads.jobPlaced (s : State) : JobLoads s s.jobPlaced :=
  ((JobLoads.jobProgrammed s).trans (.putCounters _ 0)).trans (.forStns _ _ (fun _ => rfl))

/-- The stations of the job run, and the job is recorded as started (R279). -/
def State.jobRunning (s : State) : State :=
  let t := s.planStns.foldl (fun (t : State) i => t.runStn i) s.jobPlaced
  { t with die := { t.die with
    jobStns := s.planStns
    jobStarted := true
    job := { t.die.job with phase := 2, step := 0 }
    net := { t.die.net with timer := ⟨0, true, []⟩, boundary := false, insts := [], instNext := [], parts := [] } } }

theorem State.launchJob_eq (s : State) : s.launchJob = (((s.jobRunning.setReg 0x80830 0).readGolden).setMeas 7 s.jobRunning.goldenHash).enter 6 := by
  unfold State.jobRunning State.jobPlaced
  rw [← (JobLoads.jobProgrammed s).planStns]
  rfl

theorem State.nodup_planStns (s : State) : s.planStns.Nodup := List.nodup_range.filter _

theorem State.stn_jobRunning {s : State} (ha : s.allStopped = true) {i : Nat} (hi : i ∈ s.planStns) :
    (s.jobRunning.stn i).ctl.run = .awake ∧ (s.jobRunning.stn i).sb.pc = 0 := by
  obtain ⟨u, hu, e⟩ := State.stn_runAll s.nodup_planStns hi s.jobPlaced
  have stopped : (u.stn i).ctl.run = .stopped := by rw [hu, (JobLoads.jobPlaced s).ctl]; exact State.stopped_of_allStopped ha i
  have started : s.jobRunning.stn i = (u.stn i).start := e.trans ((u.stn_runStn i).1 stopped)
  rw [started]
  exact ⟨rfl, rfl⟩

theorem Reports.readGolden (s : State) : Reports s s.readGolden := by
  have lit : Reports s { s with die := { s.die with pdown := 0 } } := ⟨s.aoReg, s.die.reg, s.die.pcie, 0, s.out, s.poison, rfl⟩
  unfold State.readGolden
  exact lit.trans (.foldl (fun t l => .readUe t l) _ _)

/-- Reading an uncorrectable line leaves the registers of the links. -/
theorem State.reg_readUe_links (s : State) (l : Nat) {a : Nat} (hl : 0x70000 ≤ a) (hu : a < 0x100000) : (s.readUe l).reg a = s.reg a := by
  unfold State.readUe
  dsimp only
  split
  all_goals
    rw [State.reg_logFault _ _ _ _ _ _ _ (by omega) (by omega) (by omega), State.reg_bump, if_neg (by omega)]
    rfl

theorem State.reg_readGolden_links (s : State) {a : Nat} (hl : 0x70000 ≤ a) (hu : a < 0x100000) : s.readGolden.reg a = s.reg a := by
  have all (ls : List Nat) (t : State) : (ls.foldl State.readUe t).reg a = t.reg a := by
    induction ls generalizing t with
    | nil => rfl
    | cons l ls ih => exact (ih _).trans (t.reg_readUe_links l hl hu)
  unfold State.readGolden
  exact all _ _

theorem State.reg_enter (s : State) (n a : Nat) : (s.enter n).reg a = if a = 0x10000 then putFld (s.reg 0x10000) 0 3 n else s.reg a := by
  unfold State.enter
  dsimp only
  split <;> simp

theorem State.mstate_enter (s : State) (n : Nat) : (s.enter n).mstate = n % 8 := by
  unfold State.mstate
  rw [State.reg_enter, if_pos rfl]
  exact fld_putFld_same _ 0 3 n (by decide)

/-- Once the loaders have ended the job's stations run, and the module enters RUNNING (R279, R402). -/
theorem State.launchJob_spec {s : State} (ha : s.allStopped = true) :
    let t := s.launchJob
    t.die.job.phase = 2 ∧ t.die.job.step = 0 ∧ t.die.jobStarted = true ∧ t.die.jobStns = s.planStns ∧
    t.reg 0x80830 = 0 ∧ t.mstate = 6 ∧ (∀ i ∈ s.planStns, (t.stn i).ctl.run = .awake ∧ (t.stn i).sb.pc = 0) ∧
    t.lpddr = s.lpddr ∧ t.fuses = s.fuses ∧ t.flash = s.flash := by
  have outside := s.launchJob_outside
  have read : Reports s.jobRunning (s.jobRunning.setReg 0x80830 0).readGolden := (Reports.setReg ..).trans (.readGolden _)
  have entered := Reports.enter ((s.jobRunning.setReg 0x80830 0).readGolden.setMeas 7 s.jobRunning.goldenHash) 6
  have iseq : (s.jobRunning.setReg 0x80830 0).readGolden.reg 0x80830 = 0 :=
    (State.reg_readGolden_links _ (by decide) (by decide)).trans ((State.reg_setReg ..).trans (if_pos rfl))
  rw [← State.launchJob_eq] at entered
  obtain ⟨job, started, stns⟩ := entered.job
  obtain ⟨job', started', stns'⟩ := read.job
  have reg : s.launchJob.reg 0x80830 = 0 := by
    rw [State.launchJob_eq, State.reg_enter, if_neg (by decide)]
    exact iseq
  have state : s.launchJob.mstate = 6 := by rw [State.launchJob_eq, State.mstate_enter]
  have stn (i : Nat) : s.launchJob.stn i = s.jobRunning.stn i := (entered.stn i).trans (read.stn i)
  have ran := job.trans job'
  refine ⟨congrArg JobRun.phase ran, congrArg JobRun.step ran, started.trans started', stns.trans stns', reg, state, fun i hi => ?_,
    congrArg (·.2.2.1) outside, congrArg (·.2.1) outside, congrArg (·.2.2.2) outside⟩
  rw [stn]
  exact State.stn_jobRunning ha hi

end Sys2Proof.Machine
end

section
/-! PROOFS. Step boundaries (O29, third part): the counters of the next step, the job's stations asked to wake, and the sessions. -/
namespace Sys2Proof.Machine

/-! ### The job's stations asked to wake -/

/-- What asking stations to wake changes: the request of a station that is asleep. -/
structure WakesOnly (s t : State) : Prop where
  stns : ∀ j, ∃ w, t.stn j = { s.stn j with ctl := { (s.stn j).ctl with wakeReq := w } }
  up : ∀ j, (s.stn j).ctl.run ≠ .asleep → t.stn j = s.stn j
  regs : SameRegs s t []
  lpddr : t.lpddr = s.lpddr
  net : t.die.net = s.die.net
  job : t.die.job = s.die.job
  sess : t.die.sess = s.die.sess

theorem WakesOnly.refl (s : State) : WakesOnly s s := ⟨fun _ => ⟨_, rfl⟩, fun _ _ => rfl, fun _ _ => rfl, rfl, rfl, rfl, rfl⟩

theorem WakesOnly.trans {s t u : State} (h : WakesOnly s t) (k : WakesOnly t u) : WakesOnly s u where
  stns j := by
    obtain ⟨_, e⟩ := h.stns j
    obtain ⟨w, e'⟩ := k.stns j
    exact ⟨w, by rw [e', e]⟩
  up j hj := (k.up j (by rwa [h.up j hj])).trans (h.up j hj)
  regs a ha := (k.regs a ha).trans (h.regs a ha)
  lpddr := k.lpddr.trans h.lpddr
  net := k.net.trans h.net
  job := k.job.trans h.job
  sess := k.sess.trans h.sess

theorem WakesOnly.foldl {β : Type} {f : State → β → State} (h : ∀ t b, WakesOnly t (f t b)) (l : List β) (s : State) : WakesOnly s (l.foldl f s) := by
  induction l generalizing s with
  | nil => exact .refl s
  | cons b l ih => exact (h s b).trans (ih _)

theorem WakesOnly.requestWake (s : State) (i : Nat) : WakesOnly s (s.requestWake i) := by
  obtain ⟨⟨w, own⟩, regs, others, lp, -⟩ := s.requestWake_frame i
  have elsewhere (j : Nat) (h : j ≠ i) : (s.requestWake i).stn j = s.stn j := others j (by simpa using h)
  have rest : (s.requestWake i).die.net = s.die.net ∧ (s.requestWake i).die.job = s.die.job ∧ (s.requestWake i).die.sess = s.die.sess := by
    unfold State.requestWake
    dsimp only
    split <;> exact ⟨rfl, rfl, rfl⟩
  obtain ⟨net, job, sess⟩ := rest
  refine ⟨fun j => ?_, fun j hj => ?_, regs, lp, net, job, sess⟩
  · by_cases h : j = i
    · exact ⟨w, by rw [h, own]⟩
    · exact ⟨_, elsewhere j h⟩
  · by_cases h : j = i
    · rw [State.requestWake_idle (.inl (h ▸ hj))]
    · exact elsewhere j h

/-- The stations of the job asked to wake (R107, R265). -/
def State.wakeJob (s : State) : State := s.die.jobStns.foldl (fun (t : State) i => t.requestWake i) s

theorem WakesOnly.wakeJob (s : State) : WakesOnly s s.wakeJob := .foldl (fun t i => .requestWake t i) _ s

/-! ### The counters of the next step -/

theorem Reports.putCounters (s : State) (n : Nat) : Reports s (s.putCounters n) :=
  .foldl (fun _ _ => ((Reports.setReg ..).trans (.setReg ..)).trans (.setReg ..)) _ s

theorem State.putCounters_none {s : State} {n : Nat} (h : s.plan.counters.getD n [] = []) : s.putCounters n = s := by
  unfold State.putCounters
  rw [h]
  rfl

theorem State.putCounters_one {s : State} {n : Nat} {c : Fin 64} {v l : Word} (h : s.plan.counters.getD n [] = [(c.val, v, l)]) :
    s.putCounters n = (s.tktValWrite c v).setReg (tktBase c + 4) l := by
  have index : c.val % 64 = c := Nat.mod_eq_of_lt c.isLt
  have limit : 0x208004 + 0x10 * c.val = tktBase c + 4 := by unfold tktBase; omega
  unfold State.putCounters
  rw [h, List.foldl_cons, List.foldl_nil]
  dsimp only
  rw [index, limit]

/-- A counter that alone is named for a step takes its VAL and LIMIT in a new epoch (R265). -/
theorem State.reg_putCounters_one {s : State} {n : Nat} {c : Fin 64} {v l : Word} (h : s.plan.counters.getD n [] = [(c.val, v, l)]) :
    let t := s.putCounters n
    t.reg (tktBase c) = v ∧ t.reg (tktBase c + 4) = l ∧ t.reg (tktBase c + 8) = s.reg (tktBase c + 8) + 1 ∧
    SameRegs s t [tktBase c, tktBase c + 4, tktBase c + 8] := by
  obtain ⟨val, epoch, regs, -⟩ := s.tktValWrite_spec c v
  rw [State.putCounters_one h]
  refine ⟨?_, ?_, ?_, fun a ha => ?_⟩
  · rw [State.reg_setReg, if_neg (by omega), val]
  · rw [State.reg_setReg, if_pos rfl]
  · rw [State.reg_setReg, if_neg (by omega), epoch]
  · simp only [List.mem_cons, List.not_mem_nil, or_false, not_or] at ha
    obtain ⟨h0, h4, h8⟩ := ha
    rw [State.reg_setReg, if_neg h4, regs a (by simp [h0, h8])]

/-- The counters of the next step in place, and the step counted on (R265). -/
def State.stepCounted (s : State) : State :=
  let t := s.putCounters (s.die.job.step + 1)
  { t with die := { t.die with job := { t.die.job with step := s.die.job.step + 1 } } }

theorem State.stepWork_eq (s : State) : s.stepWork = (if s.plan.serving then s.sessionBoundary else s).stepCounted.wakeJob := rfl

/-! ### Sessions at a boundary -/

/-- What the session steps leave alone: the interlock, the job, the requests to park, and of each station what its instructions work on. -/
structure SessionKeeps (s t : State) : Prop where
  net : t.die.net = s.die.net
  job : t.die.job = s.die.job
  park : t.die.sess.park = s.die.sess.park
  stns : ∀ j, (t.stn j).pm = (s.stn j).pm ∧ (t.stn j).slots = (s.stn j).slots ∧ (t.stn j).banks = (s.stn j).banks ∧
    (t.stn j).tokens = (s.stn j).tokens ∧ (t.stn j).iss = (s.stn j).iss

theorem SessionKeeps.still {s t : State} (hn : t.die.net = s.die.net) (hj : t.die.job = s.die.job) (hp : t.die.sess.park = s.die.sess.park)
    (hs : ∀ j, t.stn j = s.stn j) : SessionKeeps s t := ⟨hn, hj, hp, fun j => by simp [hs j]⟩

theorem SessionKeeps.refl (s : State) : SessionKeeps s s := .still rfl rfl rfl (fun _ => rfl)

theorem SessionKeeps.trans {s t u : State} (h : SessionKeeps s t) (k : SessionKeeps t u) : SessionKeeps s u where
  net := k.net.trans h.net
  job := k.job.trans h.job
  park := k.park.trans h.park
  stns j := by
    obtain ⟨h1, h2, h3, h4, h5⟩ := h.stns j
    obtain ⟨k1, k2, k3, k4, k5⟩ := k.stns j
    exact ⟨k1.trans h1, k2.trans h2, k3.trans h3, k4.trans h4, k5.trans h5⟩

theorem SessionKeeps.foldl {β : Type} {f : State → β → State} (h : ∀ t b, SessionKeeps t (f t b)) (l : List β) (s : State) : SessionKeeps s (l.foldl f s) := by
  induction l generalizing s with
  | nil => exact .refl s
  | cons b l ih => exact (h s b).trans (ih _)

theorem Reports.session {s t : State} (h : Reports s t) : SessionKeeps s t := by
  obtain ⟨net, sess⟩ := h.net
  exact .still net h.job.1 (congrArg Sess.park sess) h.stn

theorem WakesOnly.session {s t : State} (h : WakesOnly s t) : SessionKeeps s t := by
  refine ⟨h.net, h.job, congrArg Sess.park h.sess, fun j => ?_⟩
  obtain ⟨w, e⟩ := h.stns j
  rw [e]
  exact ⟨rfl, rfl, rfl, rfl, rfl⟩

theorem SessionKeeps.setBerth (s : State) (b : Nat) (v : Option Nat) : SessionKeeps s (s.setBerth b v) := .still rfl rfl rfl (fun _ => rfl)

theorem SessionKeeps.putLine (s : State) (l : Nat) (bs : List Byte) : SessionKeeps s (s.putLine l bs) := .still rfl rfl rfl (fun _ => rfl)

theorem SessionKeeps.sessMove (s : State) (i st b : Nat) : SessionKeeps s (s.sessMove i st b) := ((Reports.setReg ..).trans (.setReg ..)).session

theorem SessionKeeps.setSb (s : State) (i : Nat) (b : SignalBox) : SessionKeeps s (s.setStn i { s.stn i with sb := b }) := by
  refine ⟨rfl, rfl, rfl, fun j => ?_⟩
  rw [State.stn_setStn]
  split
  · rename_i h
    rw [h]
    exact ⟨rfl, rfl, rfl, rfl, rfl⟩
  · exact ⟨rfl, rfl, rfl, rfl, rfl⟩

theorem SessionKeeps.sessFull (s : State) (b i : Nat) : SessionKeeps s (s.sessFull b i) := by
  unfold State.sessFull
  extract_lets m s1
  have moved : SessionKeeps s s1 := by
    have length : SessionKeeps s (s.setReg (sessAddr i 1) m) := (Reports.setReg ..).session
    exact ((length.trans (.sessMove ..)).trans (.setBerth ..)).trans (Reports.setReg ..).session
  exact moved.trans ((Reports.logFault ..).trans (.signal ..)).session

theorem SessionKeeps.appendStep (s : State) (b : Nat) : SessionKeeps s (s.appendStep b) := by
  unfold State.appendStep
  split
  · exact .refl s
  · have read := (Reports.readLine s (s.statusAddr b / 64) false).session
    dsimp only
    split
    · exact read.trans (.sessFull ..)
    · exact read.trans (Reports.setReg ..).session

theorem SessionKeeps.parkStep (s : State) (b : Nat) : SessionKeeps s (s.parkStep b) := by
  unfold State.parkStep
  split
  · exact .refl s
  · split
    · exact ((SessionKeeps.sessMove ..).trans (.setBerth ..)).trans (.putLine ..)
    · exact .refl s

theorem SessionKeeps.berthStep (s : State) : SessionKeeps s s.berthStep := by
  unfold State.berthStep
  dsimp only
  split
  · exact .foldl (fun _ _ => (SessionKeeps.sessMove ..).trans (.setBerth ..)) _ s
  · exact .refl s

/-- Berth records change the local store of a station alone (R233). -/
theorem Station.putStores_only (rs : List (Nat × List Byte)) (x : Station) :
    ∃ b, rs.foldl (fun (y : Station) r => y.putStore r.1 r.2) x = { x with sb := b } := by
  induction rs generalizing x with
  | nil => exact ⟨x.sb, rfl⟩
  | cons r rs ih =>
    obtain ⟨b, e⟩ := ih (x.putStore r.1 r.2)
    exact ⟨b, e⟩

theorem SessionKeeps.recordStep (s : State) : SessionKeeps s s.recordStep := by
  refine .foldl (fun t i => ?_) _ s
  obtain ⟨b, e⟩ := Station.putStores_only ((List.range 64).map s.berthRecord) (t.stn i)
  dsimp only
  rw [e]
  exact .setSb t i b

/-- Steps 1 to 3 of R232 for every berth. -/
def State.berthsEnded (s : State) : State :=
  (List.range 64).foldl (fun (t : State) b => t.parkStep b) ((List.range 64).foldl (fun (t : State) b => t.appendStep b) s)

/-- The requests to park are spent. -/
def State.parkCleared (s : State) : State := { s with die := { s.die with sess := { s.die.sess with park := [] } } }

theorem SessionKeeps.parkCleared {s t : State} (h : SessionKeeps s t) : SessionKeeps s.parkCleared t.parkCleared := ⟨h.net, h.job, rfl, h.stns⟩

theorem State.sessionBoundary_eq (s : State) : s.sessionBoundary = s.berthsEnded.parkCleared.berthStep.recordStep := by
  simp only [State.sessionBoundary, State.berthsEnded, State.parkCleared]

theorem SessionKeeps.berthsEnded (s : State) : SessionKeeps s s.berthsEnded :=
  (SessionKeeps.foldl (fun t b => .appendStep t b) _ s).trans (.foldl (fun t b => .parkStep t b) _ _)

/-- The five steps of R232 leave the interlock, the job and what instructions work on, and clear the requests to park. -/
theorem State.sessionBoundary_spec (s : State) : SessionKeeps s.parkCleared s.sessionBoundary := by
  rw [State.sessionBoundary_eq]
  exact (SessionKeeps.berthsEnded s).parkCleared.trans ((SessionKeeps.berthStep _).trans (.recordStep _))

/-! ### The command -/

theorem State.reg_setNet (s : State) (n : Net) (a : Nat) : (s.setNet n).reg a = s.reg a := rfl

theorem State.stn_setNet (s : State) (n : Net) (j : Nat) : (s.setNet n).stn j = s.stn j := rfl

section
variable {s : State} {ilk : Nat} (hi : s.postedIlk = some ilk) (hl : s.live = true) (hj : s.die.jobStarted = true) (hb : s.die.net.boundary = false)
  (ho : s.die.net.ilk.own = false) (hs : s.die.net.snap = none) (hr : s.die.net.roll = none)
include hi hl hj hb ho hs hr

/-- The job runner acts once every station of the job waits and the module has not arrived. -/
theorem exec_stepBoundary_acts : exec .stepBoundary s =
    .next ((if ilk = s.plan.stepIlk then s.stepWork else s).setNet { (if ilk = s.plan.stepIlk then s.stepWork else s).die.net with boundary := true }) := by
  change execStepBoundary s = _
  unfold execStepBoundary
  rw [hi]
  exact if_pos (by simp [hl, hj, hb, ho, hs, hr])

theorem exec_stepBoundary_other (h : ilk ≠ s.plan.stepIlk) : exec .stepBoundary s = .next (s.setNet { s.die.net with boundary := true }) := by
  rw [exec_stepBoundary_acts hi hl hj hb ho hs hr, if_neg h]

theorem exec_stepBoundary_step (h : ilk = s.plan.stepIlk) : exec .stepBoundary s = .next (s.stepWork.setNet { s.stepWork.die.net with boundary := true }) := by
  rw [exec_stepBoundary_acts hi hl hj hb ho hs hr, if_pos h]

end

theorem WakesOnly.stepWork_steps {s : State} (h : s.plan.serving = false) : WakesOnly s.stepCounted s.stepWork := by
  rw [State.stepWork_eq, h]
  exact .wakeJob _

theorem WakesOnly.stepWork_serves {s : State} (h : s.plan.serving = true) : WakesOnly s.sessionBoundary.stepCounted s.stepWork := by
  rw [State.stepWork_eq, h]
  exact .wakeJob _

/-- The step counted on moves the step and the counters that the plan names for it, and nothing else. -/
theorem State.stepCounted_spec (s : State) :
    let t := s.stepCounted
    t.die.job.step = s.die.job.step + 1 ∧ (∀ a, t.reg a = (s.putCounters (s.die.job.step + 1)).reg a) ∧ (∀ j, t.stn j = s.stn j) ∧
    t.die.net = s.die.net ∧ t.die.sess = s.die.sess ∧ t.lpddr = s.lpddr := by
  have counters := Reports.putCounters s (s.die.job.step + 1)
  obtain ⟨net, sess⟩ := counters.net
  exact ⟨rfl, fun _ => rfl, counters.stn, net, sess, counters.lpddr⟩

/-- The work at the step interlock of a plan that serves no sessions (R107, R265). -/
theorem State.stepWork_steps {s : State} (h : s.plan.serving = false) :
    let t := s.stepWork
    t.die.job.step = s.die.job.step + 1 ∧ t.die.net = s.die.net ∧ (∀ a, t.reg a = (s.putCounters (s.die.job.step + 1)).reg a) ∧
    (∀ j, t.stn j = { s.stn j with ctl := { (s.stn j).ctl with wakeReq := (t.stn j).ctl.wakeReq } }) ∧
    (∀ j, (s.stn j).ctl.run ≠ .asleep → t.stn j = s.stn j) ∧ t.lpddr = s.lpddr := by
  have wakes := WakesOnly.stepWork_steps h
  obtain ⟨step, regs, stns, net, -, lp⟩ := s.stepCounted_spec
  refine ⟨(congrArg JobRun.step wakes.job).trans step, wakes.net.trans net, fun a => (wakes.regs a List.not_mem_nil).trans (regs a), fun j => ?_,
    fun j hj => (wakes.up j (by rwa [stns])).trans (stns j), wakes.lpddr.trans lp⟩
  obtain ⟨w, e⟩ := wakes.stns j
  rw [e, stns]

/-- The work at the step interlock of a plan that serves sessions (R232). -/
theorem State.stepWork_serves {s : State} (h : s.plan.serving = true) :
    let t := s.stepWork
    t.die.job.step = s.die.job.step + 1 ∧ t.die.net = s.die.net ∧ t.die.sess.park = [] ∧
    (∀ j, (t.stn j).pm = (s.stn j).pm ∧ (t.stn j).slots = (s.stn j).slots ∧ (t.stn j).banks = (s.stn j).banks ∧
      (t.stn j).tokens = (s.stn j).tokens ∧ (t.stn j).iss = (s.stn j).iss) := by
  have wakes := WakesOnly.stepWork_serves h
  have sessions := s.sessionBoundary_spec
  obtain ⟨step, -, stns, net, sess, -⟩ := s.sessionBoundary.stepCounted_spec
  have work : (s.stepWork).die.net = s.die.net := wakes.net.trans (net.trans sessions.net)
  have park : (s.stepWork).die.sess.park = [] := (congrArg Sess.park (wakes.sess.trans sess)).trans sessions.park
  refine ⟨?_, work, park, fun j => ?_⟩
  · rw [wakes.job, step, sessions.job]
    rfl
  · have same := sessions.stns j
    rw [← stns j] at same
    obtain ⟨w, e⟩ := wakes.stns j
    rw [e]
    exact same

end Sys2Proof.Machine

namespace Sys2Proof
open Machine

/-- Settles O29: a job start begins the loaders, waits or launches the job; at an interlock the job runner's work is the counters of the next step, and the sessions before them for a plan that serves them. -/
theorem jobsStartAndStep : Obligations.JobsStartAndStep := by
  refine ⟨fun s may => ⟨fun hp hl => ?_, fun hp h => exec_jobStart_waits hp h, fun hp h => ?_⟩,
    fun s ilk hi hl hj hb ho hs hr => ⟨fun h => ?_, fun h hv => ?_, fun h hv => ?_⟩⟩
  · exact runs_of (exec_jobStart_begins may hp) ⟨s.phase_beginJob, fun i => s.beginJob_spec hl i⟩
  · exact runs_of (exec_jobStart_launches may hp h) (State.launchJob_spec h)
  · exact runs_of (exec_stepBoundary_other hi hl hj hb ho hs hr h) ⟨rfl, rfl, fun _ _ => rfl, fun _ _ => rfl, rfl⟩
  · obtain ⟨step, net, regs, stns, up, mem⟩ := State.stepWork_steps hv
    refine runs_of (exec_stepBoundary_step hi hl hj hb ho hs hr h) ⟨step, congrArg (fun n : Net => { n with boundary := true }) net, ?_⟩
    have reg (n : Net) (a : Nat) := (s.stepWork.reg_setNet n a).trans (regs a)
    simp only [State.stn_setNet]
    refine ⟨fun c v l hc => ?_, fun hc a _ => ?_, fun j => stns j, fun j => up j, mem⟩
    · obtain ⟨val, limit, epoch, others⟩ := State.reg_putCounters_one hc
      exact ⟨(reg _ _).trans val, (reg _ _).trans limit, (reg _ _).trans epoch, fun a ha => (reg _ a).trans (others a ha)⟩
    · rw [reg, State.putCounters_none hc]
  · obtain ⟨step, net, park, stns⟩ := State.stepWork_serves hv
    refine runs_of (exec_stepBoundary_step hi hl hj hb ho hs hr h) ⟨step, congrArg (fun n : Net => { n with boundary := true }) net, park, fun j => ?_⟩
    rw [State.stn_setNet]
    exact stns j

end Sys2Proof
end

section
/-! PROOFS. Memories in canonical form (O5): every step keeps what `Kept` says of LPDDR5X and the flash. -/
namespace Sys2Proof.Machine

/-- Every command keeps the memories: one that writes neither by `f_outside`, any other by `f_kept`. -/
theorem exec_kept {c : Instr} {s t : State} (h : exec c s = .next t) : Kept s.outside t.outside := by
  cases c with
  | sbInstruction => exact .of_outside (execSbInstruction_outside _ s h)
  | sbIssue3 => exact .of_outside (execSbIssue3_outside _ _ s h)
  | sbSumHi => exact .of_outside (execSbSumHi_outside _ _ s h)
  | sbSleep => exact .of_outside (execSbSleep_outside _ _ s h)
  | wordIssue => exact .of_outside (execWordIssue_outside _ s h)
  | nop => exact .of_outside (execNop_outside _ s h)
  | pass => exact .of_outside (execPass_outside _ _ s h)
  | passr => exact .of_outside (execPassr_outside _ _ s h)
  | wload => exact .of_outside (execWload_outside _ _ s h)
  | wloadCommit => exact .of_outside (execWloadCommit_outside _ s h)
  | ld => exact execLd_kept _ _ s h
  | st => exact execSt_kept _ s h
  | mcast => exact execMcast_kept _ _ s h
  | accrd => exact .of_outside (execAccrd_outside _ s h)
  | accwr => exact .of_outside (execAccwr_outside _ s h)
  | accclr => exact .of_outside (execAccclr_outside _ s h)
  | reduce => exact .of_outside (execReduce_outside _ s h)
  | consist => exact .of_outside (execConsist_outside _ _ s h)
  | consistComplete => exact .of_outside (execConsistComplete_outside _ s h)
  | summary => exact .of_outside (execSummary_outside _ s h)
  | summaryPost => exact .of_outside (execSummaryPost_outside _ s h)
  | ticket => exact .of_outside (execTicket_outside _ s h)
  | take => exact .of_outside (execTake_outside _ s h)
  | give => exact .of_outside (execGive_outside _ s h)
  | giveDeliver => exact .of_outside (execGiveDeliver_outside _ s h)
  | interlock => exact .of_outside (execInterlock_outside _ s h)
  | dispatch => exact .of_outside (execDispatch_outside _ _ s h)
  | gather => exact .of_outside (execGather_outside _ _ s h)
  | tileHandover => exact .of_outside (execTileHandover_outside _ _ s h)
  | reductionAdd => exact .of_outside (execReductionAdd_outside _ _ s h)
  | reduceArrival => exact .of_outside (execReduceArrival_outside _ _ s h)
  | ackReceipt => exact .of_outside (execAckReceipt_outside _ _ s h)
  | tokenArrival => exact .of_outside (execTokenArrival_outside _ _ s h)
  | runStart => exact execRunStart_kept _ _ s h
  | runStop => exact execRunStop_kept _ _ s h
  | wake => exact execWake_kept _ _ s h
  | sleepCommit => exact .of_outside (execSleepCommit_outside _ s h)
  | retentionReached => exact .of_outside (execRetentionReached_outside _ s h)
  | wakeComplete => exact .of_outside (execWakeComplete_outside _ s h)
  | stnTokClear => exact execStnTokClear_kept _ _ _ s h
  | stnTokset => exact execStnTokset_kept _ _ _ s h
  | localStoreWindowWrite => exact execLocalStoreWindowWrite_kept _ _ _ s h
  | meshReadRetry => exact execMeshReadRetry_kept _ _ _ s h
  | tktRequest => exact .of_outside (execTktRequest_outside _ _ s h)
  | tktval => exact .of_outside (execTktval_outside _ s h)
  | meshTktValWrite => exact execMeshTktValWrite_kept _ _ s h
  | meshTktLimitWrite => exact execMeshTktLimitWrite_kept _ _ s h
  | ledgerEntryCommit => exact .of_outside (execLedgerEntryCommit_outside _ s h)
  | jobStart => exact execJobStart_kept s h
  | stepBoundary => exact execStepBoundary_kept s h
  | exponentDerivation => exact execExponentDerivation_kept _ _ _ _ _ s h
  | sessionStateWrite => exact execSessionStateWrite_kept _ _ _ _ s h
  | sessionCmdPark => exact execSessionCmdPark_kept _ s h
  | xqMarker => exact .of_outside (execXqMarker_outside _ _ s h)
  | xqRoundStart => exact .of_outside (execXqRoundStart_outside _ s h)
  | xqTout => exact .of_outside (execXqTout_outside _ s h)
  | flitCrcRetransmit => exact .of_outside (execFlitCrcRetransmit_outside _ _ _ s h)
  | meshLinkRetrain => exact .of_outside (execMeshLinkRetrain_outside _ _ s h)
  | meshWrArrival => exact .of_outside (execMeshWrArrival_outside _ _ _ _ s h)
  | lpddrRequest => exact execLpddrRequest_kept _ _ _ _ _ s h
  | channelRetrain => exact .of_outside (execChannelRetrain_outside _ _ _ s h)
  | mr4Read => exact .of_outside (execMr4Read_outside _ _ s h)
  | rfm => exact .of_outside (execRfm_outside _ s h)
  | powerDownEntry => exact .of_outside (execPowerDownEntry_outside _ _ s h)
  | patrolScrub => exact execPatrolScrub_kept _ _ _ s h
  | goldenRebuild => exact execGoldenRebuild_kept _ s h
  | goldenLoad => exact execGoldenLoad_kept _ s h
  | memConfigWrite => exact execMemConfigWrite_kept _ _ s h
  | frameReceive => exact execFrameReceive_kept _ _ _ _ _ s h
  | portTraining => exact .of_outside (execPortTraining_outside _ _ _ _ s h)
  | trainingTimeout => exact .of_outside (execTrainingTimeout_outside _ s h)
  | laneFail => exact .of_outside (execLaneFail_outside _ _ s h)
  | linkEnWrite => exact execLinkEnWrite_kept _ _ s h
  | retrain => exact execRetrain_kept _ _ s h
  | moduleArrival => exact execModuleArrival_kept s h
  | present => exact .of_outside (execPresent_outside _ _ _ s h)
  | arrive => exact execArrive_kept _ _ _ _ _ _ _ s h
  | release => exact execRelease_kept _ _ _ _ _ s h
  | snapshotCopyDone => exact execSnapshotCopyDone_kept s h
  | snapLate => exact .of_outside (execSnapLate_outside s h)
  | departureStagger => exact .of_outside (execDepartureStagger_outside _ s h)
  | deadlineExpiry => exact .of_outside (execDeadlineExpiry_outside s h)
  | noNoticeExpiry => exact .of_outside (execNoNoticeExpiry_outside s h)
  | lateNotice => exact .of_outside (execLateNotice_outside _ _ _ _ _ _ _ s h)
  | haltNotice => exact .of_outside (execHaltNotice_outside _ _ _ s h)
  | resumeNotice => exact execResumeNotice_kept _ _ _ s h
  | haltAllowanceExpiry => exact .of_outside (execHaltAllowanceExpiry_outside s h)
  | coll => exact .of_outside (execColl_outside _ _ _ _ _ _ _ s h)
  | collectiveResultWrite => exact .of_outside (execCollectiveResultWrite_outside _ s h)
  | lineClearGo => exact execLineClearGo_kept _ s h
  | clearNotice => exact .of_outside (execClearNotice_outside _ _ _ s h)
  | governorPeriod => exact .of_outside (execGovernorPeriod_outside _ _ _ s h)
  | clockChange => exact .of_outside (execClockChange_outside s h)
  | calibration => exact .of_outside (execCalibration_outside _ _ s h)
  | alertAssert => exact .of_outside (execAlertAssert_outside _ _ s h)
  | alertDeassert => exact .of_outside (execAlertDeassert_outside _ s h)
  | alertHoldExpiry => exact .of_outside (execAlertHoldExpiry_outside s h)
  | regAlertLong => exact .of_outside (execRegAlertLong_outside _ s h)
  | supplyLowEnd => exact .of_outside (execSupplyLowEnd_outside s h)
  | temperatureRead => exact .of_outside (execTemperatureRead_outside _ s h)
  | thermalStepRise => exact .of_outside (execThermalStepRise_outside s h)
  | thermalStepFall => exact .of_outside (execThermalStepFall_outside s h)
  | thermalResume => exact execThermalResume_kept _ s h
  | thermalTrip => exact .of_outside (execThermalTrip_outside s h)
  | marginSample => exact execMarginSample_kept _ _ s h
  | coastReturn => exact .of_outside (execCoastReturn_outside s h)
  | govCeilingWrite => exact execGovCeilingWrite_kept _ s h
  | clrthr => exact execClrthr_kept _ s h
  | govLimitWrite => exact execGovLimitWrite_kept _ _ s h
  | inputSample => exact .of_outside (execInputSample_outside _ s h)
  | brownout => exact execBrownout_kept s h
  | overvoltage => exact execOvervoltage_kept s h
  | inputQualified => exact execInputQualified_kept _ s h
  | stateLost => exact execStateLost_kept s h
  | cartridgeRemoval => exact execCartridgeRemoval_kept s h
  | cartridgeInsertion => exact .of_outside (execCartridgeInsertion_outside s h)
  | authentication => exact .of_outside (execAuthentication_outside _ s h)
  | authRetry => exact .of_outside (execAuthRetry_outside _ s h)
  | reauth => exact execReauth_kept _ _ s h
  | chargeStart => exact .of_outside (execChargeStart_outside s h)
  | cal => exact execCal_kept _ s h
  | calDischargeEnd => exact .of_outside (execCalDischargeEnd_outside _ s h)
  | calageDay => exact .of_outside (execCalageDay_outside _ s h)
  | railPowerGoodTimeout => exact .of_outside (execRailPowerGoodTimeout_outside _ _ s h)
  | bringupRepeat => exact execBringupRepeat_kept _ s h
  | perstNAssert => exact .of_outside (execPerstNAssert_outside s h)
  | perstNDeassert => exact .of_outside (execPerstNDeassert_outside _ s h)
  | functionLevelReset => exact .of_outside (execFunctionLevelReset_outside s h)
  | configurationRequest => exact .of_outside (execConfigurationRequest_outside _ s h)
  | mbxBegin => exact execMbxBegin_kept _ s h
  | chunk => exact execChunk_kept _ s h
  | mbxEnd => exact execMbxEnd_kept _ s h
  | restart => exact execRestart_kept _ _ s h
  | mailboxOtherOp => exact execMailboxOtherOp_kept _ s h
  | mailboxComplete => exact execMailboxComplete_kept _ s h
  | unlock => exact .of_outside (execUnlock_outside _ s h)
  | getInfo => exact .of_outside (execGetInfo_outside _ _ s h)
  | getCert => exact .of_outside (execGetCert_outside _ _ s h)
  | getMeas => exact .of_outside (execGetMeas_outside _ _ s h)
  | getAudit => exact .of_outside (execGetAudit_outside _ _ s h)
  | attestationOtherCode => exact .of_outside (execAttestationOtherCode_outside _ _ s h)
  | setEndpointId => exact .of_outside (execSetEndpointId_outside _ _ _ _ s h)
  | getEndpointId => exact .of_outside (execGetEndpointId_outside _ _ s h)
  | getMctpVersionSupport => exact .of_outside (execGetMctpVersionSupport_outside _ _ _ s h)
  | getMessageTypeSupport => exact .of_outside (execGetMessageTypeSupport_outside _ _ s h)
  | getVendorDefinedMessageSupport => exact .of_outside (execGetVendorDefinedMessageSupport_outside _ _ _ s h)
  | registerWrite => exact execRegisterWrite_kept _ _ _ s h
  | loLatchRead => exact .of_outside (execLoLatchRead_outside _ _ s h)
  | bar2Access => exact .of_outside (execBar2Access_outside _ _ _ _ _ s h)
  | bar2Timeout => exact .of_outside (execBar2Timeout_outside _ s h)
  | bar4Access => exact execBar4Access_kept _ _ _ _ _ s h
  | hostqTailWrite => exact execHostqTailWrite_kept _ _ s h
  | hostqEn => exact execHostqEn_kept _ _ s h
  | qreset => exact execQreset_kept _ _ s h
  | inboundDescriptor => exact execInboundDescriptor_kept _ _ _ s h
  | outboundDescriptor => exact execOutboundDescriptor_kept _ _ _ s h
  | producerLinePoll => exact execProducerLinePoll_kept _ s h
  | msixUnmask => exact execMsixUnmask_kept _ s h
  | d3hot => exact .of_outside (execD3hot_outside s h)
  | l1Entry => exact .of_outside (execL1Entry_outside s h)
  | faultRdWrite => exact execFaultRdWrite_kept _ s h
  | tileReplay => exact execTileReplay_kept _ _ s h
  | macroReload => exact .of_outside (execMacroReload_outside _ _ s h)
  | routeAround => exact .of_outside (execRouteAround_outside _ s h)
  | stationRestart => exact .of_outside (execStationRestart_outside _ s h)
  | rollback => exact execRollback_kept s h
  | roll => exact execRoll_kept _ s h
  | scrub => exact .of_outside (execScrub_outside _ _ _ _ s h)
  | noNoticeRollbackExpiry => exact .of_outside (execNoNoticeRollbackExpiry_outside s h)
  | alwaysOnPowerLoss => exact execAlwaysOnPowerLoss_kept s h
  | cartridgeStatusRead => exact execCartridgeStatusRead_kept _ _ _ _ s h
  | perBankRefresh c j => exact .of_outside (execPerBankRefresh_outside c j s h)
  | mctpUnsupportedMessage smbus type => exact .of_outside (execMctpUnsupportedMessage_outside smbus type s h)

theorem step_kept {s t : State} (h : step s = .next t) : ∃ q, Kept (State.outside { s with pending := q }) t.outside := by
  unfold step at h
  split at h
  · next e =>
    cases h
    exact ⟨s.pending, s.tick_kept (Kept.refl _)⟩
  · next c r e => exact ⟨r, exec_kept h⟩

end Sys2Proof.Machine

namespace Sys2Proof
open Machine

/-- Settles O5: `Kept` holds of every step, and its last two parts are the canonical forms of both memories. -/
theorem stepsKeepMemoriesCanonical : Obligations.StepsKeepMemoriesCanonical := by
  intro s t hw h
  obtain ⟨q, -, -, mem, flash⟩ := step_kept h
  simp only [Memory.wf, Bool.and_eq_true] at hw ⊢
  exact ⟨mem hw.1, flash hw.2⟩

end Sys2Proof
end

section
/-! PROOFS. Requests to the LPDDR5X controllers (O34): what a request changes beside its line, a read of a line in each of its findings, and a write. -/
namespace Sys2Proof.Machine

/-! ### The frame of a request -/

/-- A bit written leaves every other, also beyond the word. -/
theorem bitAt_putBit_other {n : Nat} (w : BitVec n) {k i : Nat} (b : Bool) (h : i ≠ k) : bitAt (putBit w k b) i = bitAt w i := by
  by_cases inside : i < n
  · exact (bitAt_putBit _ _ _ _ inside).trans (if_neg h)
  · exact (BitVec.getLsbD_of_ge _ _ (by omega)).trans (BitVec.getLsbD_of_ge _ _ (by omega)).symm

/-- A register of the controller of a line (R281, R284). -/
def ctrlReg (line o : Nat) : Nat := 0x100000 + 0x1000 * ctrlOf line + o

@[simp] theorem ctrlReg_inj (line a b : Nat) : ctrlReg line a = ctrlReg line b ↔ a = b := Nat.add_left_cancel_iff

theorem ctrlReg_above (line o : Nat) : 0x100000 ≤ ctrlReg line o := by unfold ctrlReg; omega

/-- A counter of the controller of a line raised (R289). -/
theorem State.reg_mbump (s : State) (line o a : Nat) : (s.mbump (ctrlOf line) o).reg a = if a = ctrlReg line o then satAdd (s.reg (ctrlReg line o)) 1 else s.reg a :=
  State.reg_bump ..

/-- What serving a request for a line leaves: the other channels, the counter of corrections on the link, the bytes and the marks of every other line, stations, mesh and images. A channel that runs stays so (R283, R289, R290). -/
structure TouchesLine (line : Nat) (s t : State) : Prop where
  woken : bitAt s.die.pdown (channelOf line) = false → bitAt t.die.pdown (channelOf line) = false
  channels : ∀ k, k ≠ channelOf line → bitAt t.die.pdown k = bitAt s.die.pdown k
  link : t.reg (ctrlReg line 0x10) = s.reg (ctrlReg line 0x10)
  bytes : ∀ a, a / 64 ≠ line → mget byte0 t.lpddr a = mget byte0 s.lpddr a
  marks : ∀ l, l ≠ line → (l ∈ t.poison ↔ l ∈ s.poison)
  stns : SameStns s t []
  mesh : t.die.mesh = s.die.mesh
  images : t.images = s.images

namespace TouchesLine

variable {line : Nat}

theorem refl (s : State) : TouchesLine line s s := ⟨id, fun _ _ => rfl, rfl, fun _ _ => rfl, fun _ _ => .rfl, fun _ _ => rfl, rfl, rfl⟩

theorem trans {s t u : State} (h : TouchesLine line s t) (k : TouchesLine line t u) : TouchesLine line s u where
  woken hs := k.woken (h.woken hs)
  channels n hn := (k.channels n hn).trans (h.channels n hn)
  link := k.link.trans h.link
  bytes a ha := (k.bytes a ha).trans (h.bytes a ha)
  marks l hl := (k.marks l hl).trans (h.marks l hl)
  stns j hj := (k.stns j hj).trans (h.stns j hj)
  mesh := k.mesh.trans h.mesh
  images := k.images.trans h.images

theorem bump (s : State) {a : Nat} (n : Nat) (h : a ≠ ctrlReg line 0x10) : TouchesLine line s (s.bump a n) where
  woken := by simp
  channels := by simp
  link := by rw [State.reg_bump, if_neg h.symm]
  bytes := by simp
  marks := by simp
  stns j _ := State.stn_bump ..
  mesh := by simp
  images := by simp

theorem logFault (s : State) (code step unit : Nat) (d0 : Word) (d1 : BitVec 64) : TouchesLine line s (s.logFault code step unit d0 d1) where
  woken := by simp
  channels := by simp
  link := by
    have := ctrlReg_above line 0x10
    exact s.reg_logFault _ _ _ _ _ _ (by omega) (by omega) (by omega)
  bytes := by simp
  marks := by simp
  stns j _ := State.stn_logFault ..
  mesh := by simp
  images := by simp

theorem mark (s : State) : TouchesLine line s { s with poison := if s.poison.contains line then s.poison else s.poison ++ [line] } where
  woken := id
  channels _ _ := rfl
  link := rfl
  bytes _ _ := rfl
  marks l hl := by
    dsimp only
    split
    · exact .rfl
    · simp [hl]
  stns _ _ := rfl
  mesh := rfl
  images := rfl

theorem setPart (s : State) {off : Nat} {bs : List Byte} (h : off + bs.length ≤ 64) : TouchesLine line s (s.setPart (line * 64 + off) bs) where
  woken := id
  channels _ _ := rfl
  link := rfl
  bytes a ha := (mget_putBytes ..).trans (if_neg (by omega))
  marks _ _ := .rfl
  stns _ _ := rfl
  mesh := rfl
  images := rfl

theorem setLine (s : State) {bs : List Byte} (h : bs.length ≤ 64) : TouchesLine line s (s.setLine line bs) where
  woken := id
  channels _ _ := rfl
  link := rfl
  bytes a ha := (mget_putBytes ..).trans (if_neg (by omega))
  marks l hl := by simp [State.setLine, hl]
  stns _ _ := rfl
  mesh := rfl
  images := rfl

theorem corrected (s : State) (ce : Bool) : TouchesLine line s (s.corrected line ce) := by
  unfold State.corrected
  split
  · exact .bump s 1 (fun h => absurd ((ctrlReg_inj line 0x14 0x10).mp h) (by decide))
  · exact .refl s

theorem readUe (s : State) : TouchesLine line s (s.readUe line) := by
  unfold State.readUe
  dsimp only
  have counted := (mark s).trans (.bump (line := line) _ (a := 0x100018 + ctrlOf line * 0x1000) 1 (by unfold ctrlReg; omega))
  split
  · exact counted.trans (.logFault ..)
  · exact counted.trans (.logFault ..)

theorem arrayError (s : State) : TouchesLine line s (s.arrayError line) := by
  unfold State.arrayError
  split
  · exact .refl s
  · have drawn : TouchesLine line s { s with free := s.free + 1 } :=
      ⟨id, fun _ _ => rfl, rfl, fun _ _ => rfl, fun _ _ => .rfl, fun _ _ => rfl, rfl, rfl⟩
    exact drawn.trans (.setPart _ (off := 0) (bs := leBytes 64 (Config.freeNat s.free)) (by simp [leBytes]))

theorem wakeChannel (s : State) : TouchesLine line s (s.wakeChannel line) where
  woken _ := by
    unfold State.wakeChannel
    exact (bitAt_putBit _ _ _ _ (by unfold channelOf; omega)).trans (if_pos rfl)
  channels k hk := by
    unfold State.wakeChannel
    exact bitAt_putBit_other _ _ hk
  link := rfl
  bytes _ _ := rfl
  marks _ _ := .rfl
  stns _ _ := rfl
  mesh := rfl
  images := rfl

theorem readLine (s : State) (ce ue : Bool) : TouchesLine line (s.wakeChannel line) (s.readLine line ce ue) := by
  unfold State.readLine
  dsimp only
  split
  · exact .readUe _
  · split
    · exact .arrayError _
    · exact .corrected ..

theorem writeLine (s : State) {off : Nat} {bs : List Byte} (ce ue : Bool) (h : off + bs.length ≤ 64) :
    TouchesLine line (s.wakeChannel line) (s.writeLine line off bs ce ue) := by
  unfold State.writeLine
  dsimp only
  have fits : off + ((s.wakeChannel line).asCells (line * 64 + off) bs).length ≤ 64 := by rwa [State.length_asCells]
  split
  · exact .setLine _ (by omega)
  · split
    · exact ((wakeChannel _).trans (readLine ..)).trans (.setPart _ fits)
    · exact .setPart _ fits

end TouchesLine

theorem State.channel_wakeChannel (s : State) (line : Nat) : bitAt (s.wakeChannel line).die.pdown (channelOf line) = false :=
  (bitAt_putBit _ _ _ _ (by unfold channelOf; omega)).trans (if_pos rfl)

/-! ### Corrections on the link -/

/-- A correction on the link counted (R288). -/
def State.linkCounted (s : State) (line : Nat) (lce : Bool) : State := if lce then s.mbump (ctrlOf line) 0x10 else s

theorem State.linkCounted_clean (s : State) (line : Nat) (lce : Bool) : CleanRead s (s.linkCounted line lce) := by
  unfold State.linkCounted State.mbump
  split
  · refine ⟨by simp, fun j => by simp, by simp, by simp, by simp, by simp, fun a ha => ?_⟩
    rw [State.reg_bump, if_neg (by omega)]
  · exact .refl s

theorem State.reg_linkCounted (s : State) (line : Nat) (lce : Bool) :
    (s.linkCounted line lce).reg (ctrlReg line 0x10) =
      (if lce then satAdd (s.reg (ctrlReg line 0x10)) 1 else s.reg (ctrlReg line 0x10)) ∧
    SameRegs s (s.linkCounted line lce) [ctrlReg line 0x10] := by
  unfold State.linkCounted
  cases lce with
  | true => exact ⟨(State.reg_mbump ..).trans (if_pos rfl), fun a ha => (State.reg_mbump ..).trans (if_neg (by simpa using ha))⟩
  | false => exact ⟨rfl, fun _ _ => rfl⟩

theorem State.linkCounted_die (s : State) (line : Nat) (lce : Bool) :
    (s.linkCounted line lce).die.pdown = s.die.pdown ∧ (s.linkCounted line lce).die.mesh = s.die.mesh ∧ (s.linkCounted line lce).free = s.free := by
  unfold State.linkCounted State.mbump
  split
  · simp
  · simp

/-- What a request for a line changes beside its line: its channel leaves power-down, and the correction on its link is counted (R283, R288). -/
def RequestFrame (line : Nat) (lce : Bool) (s t : State) : Prop :=
  bitAt t.die.pdown (channelOf line) = false ∧ (∀ k, k ≠ channelOf line → bitAt t.die.pdown k = bitAt s.die.pdown k) ∧
  t.reg (ctrlReg line 0x10) = (if lce then satAdd (s.reg (ctrlReg line 0x10)) 1 else s.reg (ctrlReg line 0x10)) ∧
  (∀ a, a / 64 ≠ line → mget byte0 t.lpddr a = mget byte0 s.lpddr a) ∧ (∀ l, l ≠ line → (l ∈ t.poison ↔ l ∈ s.poison)) ∧
  SameStns s t [] ∧ t.die.mesh = s.die.mesh ∧ t.images = s.images

theorem TouchesLine.requestFrame {s t : State} {line : Nat} {lce : Bool} (h : TouchesLine line ((s.linkCounted line lce).wakeChannel line) t) :
    RequestFrame line lce s t := by
  have clean := s.linkCounted_clean line lce
  obtain ⟨pdown, mesh, -⟩ := s.linkCounted_die line lce
  have from_link := (TouchesLine.wakeChannel _).trans h
  refine ⟨h.woken (State.channel_wakeChannel ..), fun k hk => ?_, h.link.trans (s.reg_linkCounted line lce).1, fun a ha => ?_, fun l hl => ?_, fun j hj => ?_, ?_, ?_⟩
  · rw [from_link.channels k hk, pdown]
  · rw [from_link.bytes a ha, clean.lpddr]
  · rw [from_link.marks l hl, clean.poison]
  · rw [from_link.stns j hj, clean.stns]
  · rw [from_link.mesh, mesh]
  · rw [from_link.images, clean.images]

/-! ### A line that is read -/

theorem State.readLine_eq_corrected {s : State} {line : Nat} (ce : Bool) (h : s.lineBad line false = false) :
    s.readLine line ce false = (s.wakeChannel line).corrected line ce := by
  unfold State.readLine
  dsimp only
  rw [(s.wakeChannel_clean line).lineBad, h]
  rfl

theorem State.readLine_eq_arrayError {s : State} {line : Nat} (ce : Bool) (h : s.inEcc line = false) :
    s.readLine line ce true = (s.wakeChannel line).arrayError line := by
  unfold State.readLine State.lineBad
  dsimp only
  rw [(s.wakeChannel_clean line).inEcc, h]
  simp

theorem State.readLine_eq_readUe {s : State} {line : Nat} {ue : Bool} (ce : Bool) (h : s.lineBad line ue = true) :
    s.readLine line ce ue = (s.wakeChannel line).readUe line := by
  unfold State.readLine
  dsimp only
  rw [(s.wakeChannel_clean line).lineBad, h]
  rfl

/-- Under inline ECC a new error is found at once. -/
theorem State.ue_of_lineGood {s : State} {line : Nat} {ue : Bool} (he : s.inEcc line = true) (h : s.lineBad line ue = false) : ue = false := by
  simp only [State.lineBad, he, Bool.and_true, Bool.or_eq_false_iff] at h
  exact h.2

theorem State.inEcc_of_lineBad {s : State} {line : Nat} {ue : Bool} (h : s.lineBad line ue = true) : s.inEcc line = true := by
  simp only [State.lineBad, Bool.and_eq_true] at h
  exact h.2

/-- A line that reads good, corrected or not (R289). -/
theorem State.readLine_good {s : State} {line : Nat} (ce : Bool) (h : s.lineBad line false = false) :
    let t := s.readLine line ce false
    let r := ctrlReg line 0x14
    t.lpddr = s.lpddr ∧ t.poison = s.poison ∧ t.reg r = (if ce && s.inEcc line then satAdd (s.reg r) 1 else s.reg r) ∧ SameRegs s t [r] := by
  have clean := State.readLine_clean ce h
  refine ⟨clean.lpddr, clean.poison, ?_⟩
  rw [State.readLine_eq_corrected ce h]
  unfold State.corrected
  rw [(s.wakeChannel_clean line).inEcc]
  split
  · exact ⟨(State.reg_mbump ..).trans (if_pos rfl), fun a ha => (State.reg_mbump ..).trans (if_neg (by simpa using ha))⟩
  · exact ⟨rfl, fun _ _ => rfl⟩

/-- A line that reads uncorrectable (R290). -/
theorem State.readLine_bad {s : State} {line : Nat} {ue : Bool} (ce : Bool) (h : s.lineBad line ue = true) :
    let t := s.readLine line ce ue
    let r := ctrlReg line 0x18
    t.lpddr = s.lpddr ∧ line ∈ t.poison ∧ t.reg r = satAdd (s.reg r) 1 ∧ t.reg 0x6000C = s.reg 0x6000C + 1 := by
  have at_counter : ctrlReg line 0x18 = 0x100018 + ctrlOf line * 0x1000 := by unfold ctrlReg; omega
  obtain ⟨counted, logged⟩ := (s.wakeChannel line).reg_readUe line
  obtain ⟨-, lp, -⟩ := (s.wakeChannel line).readUe_spec line
  dsimp only
  rw [State.readLine_eq_readUe ce h, at_counter]
  refine ⟨lp, ?_, counted, logged⟩
  unfold State.readUe
  dsimp only
  split
  · rw [State.poison_logFault, State.poison_bump]
    exact mem_notePoison _ line
  · rw [State.poison_logFault, State.poison_bump]
    exact mem_notePoison _ line

theorem State.arrayError_eq {s : State} {line : Nat} (he : s.inEcc line = false) (hc : line * 64 < s.capBytes) :
    ∃ m, s.arrayError line = { s with free := s.free + 1, lpddr := m } :=
  ⟨_, if_neg (by simp [he, Nat.not_le.mpr hc])⟩

/-- An error in an array without inline ECC (R288). -/
theorem State.readLine_hidden {s : State} {line : Nat} (ce : Bool) (he : s.inEcc line = false) (hc : line * 64 < s.capBytes) :
    let t := s.readLine line ce true
    t.free = s.free + 1 ∧ t.poison = s.poison ∧ SameRegs s t [] := by
  obtain ⟨m, e⟩ := State.arrayError_eq (s := s.wakeChannel line) (((s.wakeChannel_clean line).inEcc line).trans he) hc
  dsimp only
  rw [State.readLine_eq_arrayError ce he, e]
  exact ⟨rfl, rfl, fun _ _ => rfl⟩

/-! ### A line that is written -/

/-- A write of a whole line stores it, and the line reads good (R289). -/
theorem State.writeLine_whole (s : State) (line : Nat) {bs : List Byte} (ce ue : Bool) (h : bs.length = 64) :
    s.writeLine line 0 bs ce ue = (s.wakeChannel line).setLine line ((s.wakeChannel line).asCells (line * 64) bs) := if_pos ⟨rfl, h⟩

theorem State.writeLine_part {s : State} {line off : Nat} {bs : List Byte} (ce ue : Bool) (h : ¬ (off = 0 ∧ bs.length = 64)) :
    ∃ cells, s.writeLine line off bs ce ue =
      (if s.inEcc line then (s.wakeChannel line).readLine line ce ue else s.wakeChannel line).setPart (line * 64 + off) cells := by
  refine ⟨(s.wakeChannel line).asCells (line * 64 + off) bs, ?_⟩
  unfold State.writeLine
  dsimp only
  rw [if_neg h, (s.wakeChannel_clean line).inEcc]
  exact (apply_ite (fun u : State => u.setPart _ _) ..).symm

/-- Bytes written read as written (R287, R289). -/
theorem State.writeLine_reads (s : State) (line off : Nat) (bs : List Byte) (ce ue : Bool) :
    (s.writeLine line off bs ce ue).rdBytesAt (line * 64 + off) bs.length = bs := by
  obtain ⟨lp, images, -⟩ := s.writeLine_spec line off bs ce ue
  unfold State.rdBytesAt
  refine List.ext_getElem (by simp) (fun k h1 h2 => ?_)
  simp only [List.getElem_map, List.getElem_range]
  rw [lp, mget_putBytes, State.length_asCells, if_pos (by omega), Nat.add_sub_cancel_left, State.getD_asCells _ _ _ h2, State.imageBase_congr images,
    BitVec.xor_assoc, BitVec.xor_self, BitVec.xor_zero, List.getD_eq_getElem _ _ h2]

theorem State.writeLine_other (s : State) (line off : Nat) (bs : List Byte) (ce ue : Bool) {a : Nat} (h : a < line * 64 + off ∨ line * 64 + off + bs.length ≤ a) :
    mget byte0 (s.writeLine line off bs ce ue).lpddr a = mget byte0 s.lpddr a := by
  rw [(s.writeLine_spec line off bs ce ue).1, mget_putBytes, State.length_asCells, if_neg (by omega)]

/-! ### The commands -/

section
variable {s : State} {line : Nat} {lce ce ue : Bool} (hc : line * 64 < s.capBytes) (hu : s.memUp = true)
include hc hu

theorem exec_lpddrRequest_read : exec (.lpddrRequest line none lce ce ue) s = .next ((s.linkCounted line lce).readLine line ce ue) :=
  (if_neg (Nat.not_le.mpr hc)).trans (if_pos hu)

theorem exec_lpddrRequest_write (off : Fin 64) (bs : List Byte) :
    exec (.lpddrRequest line (some (off, bs)) lce ce ue) s = .next ((s.linkCounted line lce).writeLine line off (bs.take (64 - off)) ce ue) :=
  (if_neg (Nat.not_le.mpr hc)).trans (if_pos hu)

end

theorem exec_lpddrRequest_waits {s : State} {line : Nat} (w : Option (Fin 64 × List Byte)) (lce ce ue : Bool) (hc : line * 64 < s.capBytes) (hu : s.memUp = false) :
    exec (.lpddrRequest line w lce ce ue) s =
      .next (if s.powered then { s with memWait := s.memWait ++ [⟨line, w.map (fun p => (p.1.val, p.2)), lce, ce, ue⟩] } else s) := by
  have waits : exec (.lpddrRequest line w lce ce ue) s =
      if s.powered then .next { s with memWait := s.memWait ++ [⟨line, w.map (fun p => (p.1.val, p.2)), lce, ce, ue⟩] } else .next s :=
    (if_neg (Nat.not_le.mpr hc)).trans (if_neg (by simp [hu]))
  rw [waits]
  split
  · rfl
  · rfl

theorem exec_patrolScrub {s : State} {line : Nat} (ce ue : Bool) (hu : s.memUp = true) (hp : s.patrolled line = true) :
    exec (.patrolScrub line ce ue) s = .next (s.readLine line ce ue) := if_pos (by rw [hu, hp]; rfl)

theorem exec_patrolScrub_still {s : State} {line : Nat} (ce ue : Bool) (h : s.memUp = false ∨ s.patrolled line = false) :
    exec (.patrolScrub line ce ue) s = .next s := if_neg (by rcases h with h | h <;> simp [h])

/-! ### The clauses of a request -/

/-- The frame of every request that is served. -/
theorem runs_lpddrRequest_frame {s : State} {line : Nat} (w : Option (Fin 64 × List Byte)) (lce ce ue : Bool) (hc : line * 64 < s.capBytes) (hu : s.memUp = true) :
    Runs (.lpddrRequest line w lce ce ue) s (RequestFrame line lce s) := by
  match w with
  | none => exact runs_of (exec_lpddrRequest_read hc hu) (TouchesLine.requestFrame (.readLine _ ce ue))
  | some (off, bs) =>
    have fits : off.val + (bs.take (64 - off)).length ≤ 64 := by
      have := off.isLt
      rw [List.length_take]
      omega
    exact runs_of (exec_lpddrRequest_write hc hu off bs) (TouchesLine.requestFrame (.writeLine _ ce ue fits))

section
variable {s : State} {line : Nat} (lce ce : Bool) {ue : Bool} (hc : line * 64 < s.capBytes) (hu : s.memUp = true)
include hc hu

theorem runs_lpddrRequest_readGood (h : s.lineBad line ue = false) (hue : ue = false) :
    Runs (.lpddrRequest line none lce ce ue) s (fun t =>
      t.lpddr = s.lpddr ∧ t.poison = s.poison ∧
      t.reg (ctrlReg line 0x14) =
        (if ce && s.inEcc line then satAdd (s.reg (ctrlReg line 0x14)) 1 else s.reg (ctrlReg line 0x14)) ∧
      SameRegs s t [ctrlReg line 0x10, ctrlReg line 0x14]) := by
  subst hue
  have clean := s.linkCounted_clean line lce
  have regs := (s.reg_linkCounted line lce).2
  obtain ⟨lp, po, counted, same⟩ := State.readLine_good ce ((clean.lineBad line false).trans h)
  rw [clean.inEcc, regs (ctrlReg line 0x14) (by simp)] at counted
  refine runs_of (exec_lpddrRequest_read hc hu) ⟨lp.trans clean.lpddr, po.trans clean.poison, counted, fun a ha => ?_⟩
  simp only [List.mem_cons, List.not_mem_nil, or_false, not_or] at ha
  exact (same a (by simpa using ha.2)).trans (regs a (by simpa using ha.1))

theorem runs_lpddrRequest_readHidden (he : s.inEcc line = false) (hue : ue = true) :
    Runs (.lpddrRequest line none lce ce ue) s (fun t => t.free = s.free + 1 ∧ t.poison = s.poison ∧ SameRegs s t [ctrlReg line 0x10]) := by
  subst hue
  have clean := s.linkCounted_clean line lce
  have cap : line * 64 < (s.linkCounted line lce).capBytes := by
    unfold State.capBytes State.capMib
    rwa [clean.l480]
  obtain ⟨free, po, same⟩ := State.readLine_hidden ce ((clean.inEcc line).trans he) cap
  refine runs_of (exec_lpddrRequest_read hc hu) ⟨free.trans ?_, po.trans clean.poison, fun a ha => (same a nofun).trans ((s.reg_linkCounted line lce).2 a ha)⟩
  rw [(s.linkCounted_die line lce).2.2]

theorem runs_lpddrRequest_readBad (h : s.lineBad line ue = true) :
    Runs (.lpddrRequest line none lce ce ue) s (fun t =>
      t.lpddr = s.lpddr ∧ line ∈ t.poison ∧
      t.reg (ctrlReg line 0x18) = satAdd (s.reg (ctrlReg line 0x18)) 1 ∧ t.reg 0x6000C = s.reg 0x6000C + 1) := by
  have clean := s.linkCounted_clean line lce
  have regs := (s.reg_linkCounted line lce).2
  obtain ⟨lp, marked, counted, logged⟩ := State.readLine_bad ce ((clean.lineBad line ue).trans h)
  rw [regs (ctrlReg line 0x18) (by simp)] at counted
  rw [regs 0x6000C (by simp [ctrlReg]; omega)] at logged
  exact runs_of (exec_lpddrRequest_read hc hu) ⟨lp.trans clean.lpddr, marked, counted, logged⟩

theorem runs_lpddrRequest_writeWhole (bs : List Byte) (hb : 64 ≤ bs.length) :
    Runs (.lpddrRequest line (some (0, bs)) lce ce ue) s (fun t =>
      t.rdBytesAt (line * 64) 64 = bs.take 64 ∧ line ∉ t.poison ∧ SameRegs s t [ctrlReg line 0x10]) := by
  have whole : (bs.take 64).length = 64 := by simp [hb]
  have reads := (s.linkCounted line lce).writeLine_reads line 0 (bs.take 64) ce ue
  rw [whole] at reads
  refine runs_of (exec_lpddrRequest_write hc hu 0 bs) ⟨reads, ?_⟩
  change line ∉ ((s.linkCounted line lce).writeLine line 0 (bs.take 64) ce ue).poison ∧ SameRegs s ((s.linkCounted line lce).writeLine line 0 (bs.take 64) ce ue) _
  rw [State.writeLine_whole _ line ce ue whole]
  exact ⟨by simp [State.setLine], fun a ha => (s.reg_linkCounted line lce).2 a ha⟩

theorem runs_lpddrRequest_writePart (off : Fin 64) (bs : List Byte) (hp : off.val ≠ 0 ∨ bs.length < 64) :
    Runs (.lpddrRequest line (some (off, bs)) lce ce ue) s (fun t =>
      t.rdBytesAt (line * 64 + off) (min bs.length (64 - off)) = bs.take (64 - off) ∧
      (∀ a, a < line * 64 + off ∨ line * 64 + off + bs.length ≤ a → mget byte0 t.lpddr a = mget byte0 s.lpddr a) ∧
      (s.inEcc line = false → t.poison = s.poison ∧ SameRegs s t [ctrlReg line 0x10]) ∧
      (s.inEcc line = true → s.lineBad line ue = false → t.poison = s.poison ∧
        t.reg (ctrlReg line 0x14) =
          (if ce then satAdd (s.reg (ctrlReg line 0x14)) 1 else s.reg (ctrlReg line 0x14)) ∧
        SameRegs s t [ctrlReg line 0x10, ctrlReg line 0x14]) ∧
      (s.lineBad line ue = true → line ∈ t.poison ∧
        t.reg (ctrlReg line 0x18) = satAdd (s.reg (ctrlReg line 0x18)) 1 ∧ t.reg 0x6000C = s.reg 0x6000C + 1)) := by
  have clean := s.linkCounted_clean line lce
  have woken := clean.trans ((s.linkCounted line lce).wakeChannel_clean line)
  have regs : SameRegs s ((s.linkCounted line lce).wakeChannel line) [ctrlReg line 0x10] := (s.reg_linkCounted line lce).2
  have size : (bs.take (64 - off)).length = min bs.length (64 - off) := by rw [List.length_take, Nat.min_comm]
  have part : ¬ (off.val = 0 ∧ (bs.take (64 - off)).length = 64) := by omega
  have reads := (s.linkCounted line lce).writeLine_reads line off (bs.take (64 - off)) ce ue
  rw [size] at reads
  obtain ⟨cells, e⟩ := State.writeLine_part (s := s.linkCounted line lce) (line := line) ce ue part
  refine runs_of (exec_lpddrRequest_write hc hu off bs) ⟨reads, fun a ha => ?_, ?_⟩
  · exact ((s.linkCounted line lce).writeLine_other _ _ _ ce ue (by omega)).trans (by rw [clean.lpddr])
  rw [e, clean.inEcc]
  refine ⟨fun he => ?_, fun he h => ?_, fun h => ?_⟩
  · rw [he]
    exact ⟨woken.poison, regs⟩
  · obtain rfl := State.ue_of_lineGood he h
    obtain ⟨-, po, counted, same⟩ := State.readLine_good ce ((woken.lineBad line false).trans h)
    rw [woken.inEcc, he, Bool.and_true, regs (ctrlReg line 0x14) (by simp)] at counted
    rw [he]
    refine ⟨po.trans woken.poison, counted, fun a ha => ?_⟩
    simp only [List.mem_cons, List.not_mem_nil, or_false, not_or] at ha
    exact (same a (by simpa using ha.2)).trans (regs a (by simpa using ha.1))
  · obtain ⟨-, marked, counted, logged⟩ := State.readLine_bad ce ((woken.lineBad line ue).trans h)
    rw [regs (ctrlReg line 0x18) (by simp)] at counted
    rw [regs 0x6000C (by simp [ctrlReg]; omega)] at logged
    rw [State.inEcc_of_lineBad h]
    exact ⟨marked, counted, logged⟩

end

end Sys2Proof.Machine

namespace Sys2Proof
open Machine

/-- Settles O34: the frame of every request through `TouchesLine`, and its effect by what the read of its line finds. -/
theorem controllersServeRequests : Obligations.ControllersServeRequests := by
  intro s line lce ce ue c
  refine ⟨fun w h => if_pos h, fun hc hu => ⟨fun w => ?_, fun h hue => ?_, fun he hue => ?_, fun h => ?_, fun bs hb => ?_, fun off bs hp => ?_⟩,
    fun w hc hu => exec_lpddrRequest_waits w lce ce ue hc hu, fun hu hp => ⟨fun h => ?_, fun h => ?_⟩, exec_patrolScrub_still ce ue⟩
  · exact runs_lpddrRequest_frame w lce ce ue hc hu
  · exact runs_lpddrRequest_readGood lce ce hc hu h hue
  · exact runs_lpddrRequest_readHidden lce ce hc hu he hue
  · exact runs_lpddrRequest_readBad lce ce hc hu h
  · exact runs_lpddrRequest_writeWhole lce ce hc hu bs hb
  · exact runs_lpddrRequest_writePart lce ce hc hu off bs hp
  · have ecc : s.inEcc line = true := (Bool.and_eq_true_iff.mp hp).1
    obtain rfl := State.ue_of_lineGood ecc h
    obtain ⟨lp, po, counted, same⟩ := State.readLine_good ce h
    rw [ecc, Bool.and_true] at counted
    exact runs_of (exec_patrolScrub ce false hu hp) ⟨lp, po, counted, same, fun j _ => (State.readLine_clean ce h).stns j⟩
  · obtain ⟨lp, marked, counted, logged⟩ := State.readLine_bad ce h
    exact runs_of (exec_patrolScrub ce ue hu hp) ⟨lp, marked, counted, logged, fun j _ => (s.readLine_spec line ce ue).1.stns j⟩

end Sys2Proof
end

section
/-! PROOFS. Line clear, step 5 and retirement (R343, R449, R460, R464): what they set, and what they leave. -/
namespace Sys2Proof.Machine

/-! ### The state outside the die -/

/-- Only the die, the always-on registers, the outgoing snapshot and the output differ. -/
def DieOnly (s t : State) : Prop := ∃ d r z o, t = { s with die := d, aoReg := r, snapOut := z, out := o }

namespace DieOnly

theorem refl (s : State) : DieOnly s s := ⟨s.die, s.aoReg, s.snapOut, s.out, rfl⟩

theorem trans {s t u : State} (h : DieOnly s t) (k : DieOnly t u) : DieOnly s u := by
  obtain ⟨_, _, _, _, rfl⟩ := h
  obtain ⟨d, r, z, o, rfl⟩ := k
  exact ⟨d, r, z, o, rfl⟩

theorem foldl {β : Type} {f : State → β → State} (h : ∀ t b, DieOnly t (f t b)) (l : List β) (s : State) : DieOnly s (l.foldl f s) := by
  induction l generalizing s with
  | nil => exact refl s
  | cons b l ih => exact (h s b).trans (ih _)

theorem setReg (s : State) (a : Nat) (v : Word) : DieOnly s (s.setReg a v) := by
  obtain ⟨r, q, e⟩ := s.setReg_eq a v
  exact ⟨_, q, s.snapOut, s.out, e⟩

theorem setFld (s : State) (a lo len v : Nat) : DieOnly s (s.setFld a lo len v) := setReg ..

theorem bump (s : State) (a n : Nat) : DieOnly s (s.bump a n) := setReg ..

theorem logFault (s : State) (code step unit : Nat) (d0 : Word) (d1 : BitVec 64) : DieOnly s (s.logFault code step unit d0 d1) := by
  obtain ⟨r, q, x, o, e⟩ := s.logFault_eq code step unit d0 d1
  exact ⟨_, q, s.snapOut, o, e⟩

theorem setNet (s : State) (n : Net) : DieOnly s (s.setNet n) := ⟨_, s.aoReg, s.snapOut, s.out, rfl⟩

theorem sends {s t : State} (h : Sends s t) : DieOnly s t := by
  obtain ⟨ps, o, rfl⟩ := h
  exact ⟨_, s.aoReg, s.snapOut, o, rfl⟩

theorem ownSteps {s t : State} (h : DieOnly s t) : t.ownSteps = s.ownSteps := by
  obtain ⟨_, _, _, _, rfl⟩ := h
  rfl

theorem memories {s t : State} (h : DieOnly s t) : t.lpddr = s.lpddr ∧ t.fuses = s.fuses := by
  obtain ⟨_, _, _, _, rfl⟩ := h
  exact ⟨rfl, rfl⟩

end DieOnly

theorem Sends.reg {s t : State} (h : Sends s t) (a : Nat) : t.reg a = s.reg a := by
  obtain ⟨_, _, rfl⟩ := h
  rfl

/-- A notice is sent at every port that is up (R332). -/
theorem Sends.flood (s : State) (from' : Option Nat) (b : FrameBody) : Sends s (s.flood from' b) := by
  refine .foldl (fun t p => ?_) _ s
  split
  · exact .toPort ..
  · exact .refl t

/-! ### Stations -/

/-- A station that a line clear has met: stopped, nothing in flight, its platform memory and slots kept (R343). -/
structure Station.ClearedFrom (x y : Station) : Prop where
  run : y.ctl.run = .stopped
  flight : y.iss.flight = []
  pm : y.pm = x.pm
  slots : y.slots = x.slots

theorem Station.clearedFrom_cleared (x : Station) : x.ClearedFrom x.cleared := ⟨rfl, rfl, rfl, rfl⟩

theorem Station.ClearedFrom.trans {x y z : Station} (h : x.ClearedFrom y) (k : y.ClearedFrom z) : x.ClearedFrom z :=
  ⟨k.run, k.flight, k.pm.trans h.pm, k.slots.trans h.slots⟩

theorem mget_of_not_mem {α : Type} {d : Nat → α} {m : SMap α} {k : Nat} (h : k ∉ m.map (·.1)) : mget d m k = d k := by
  induction m with
  | nil => rfl
  | cons p r ih =>
    simp only [List.map_cons, List.mem_cons, not_or] at h
    exact (if_neg (Ne.symm h.1)).trans (ih h.2)

/-- Clearing the stations of a list clears those that it names and leaves the others. -/
theorem State.stn_clearFold (l : SMap Station) (s : State) (j : Nat) :
    let t := l.foldl (fun (t : State) p => t.setStn p.1 (t.stn p.1).cleared) s
    (j ∉ l.map (·.1) ∧ t.stn j = s.stn j) ∨ (s.stn j).ClearedFrom (t.stn j) := by
  induction l generalizing s with
  | nil => exact .inl ⟨by simp, rfl⟩
  | cons p r ih =>
    have rest := ih (s.setStn p.1 (s.stn p.1).cleared)
    dsimp only [List.foldl_cons] at rest ⊢
    by_cases hj : j = p.1
    · rw [State.stn_setStn, if_pos hj, ← hj] at rest
      refine .inr ?_
      rcases rest with ⟨-, e⟩ | cleared
      · rw [← hj, e]
        exact Station.clearedFrom_cleared _
      · rw [← hj]
        exact (Station.clearedFrom_cleared _).trans cleared
    · rw [State.stn_setStn, if_neg hj] at rest
      simpa [hj] using rest

theorem State.stn_clearStations (s : State) (j : Nat) : (s.stn j).ClearedFrom (s.clearStations.stn j) := by
  rcases State.stn_clearFold s.die.stns s j with ⟨unlisted, e⟩ | cleared
  · have asReset : s.stn j = Station.reset := mget_of_not_mem unlisted
    unfold State.clearStations
    rw [e, asReset]
    exact ⟨rfl, rfl, rfl, rfl⟩
  · exact cleared

/-! ### The parts of a line clear -/

/-- The registers below the station, queue and session blocks, and the stations, are as before. -/
structure LowKept (s t : State) : Prop where
  regs : ∀ a, a < 0x200000 → t.reg a = s.reg a
  stns : ∀ j, t.stn j = s.stn j
  net : t.die.net = s.die.net

theorem LowKept.refl (s : State) : LowKept s s := ⟨fun _ _ => rfl, fun _ => rfl, rfl⟩

theorem LowKept.trans {s t u : State} (h : LowKept s t) (k : LowKept t u) : LowKept s u :=
  ⟨fun a ha => (k.regs a ha).trans (h.regs a ha), fun j => (k.stns j).trans (h.stns j), k.net.trans h.net⟩

theorem LowKept.foldl {β : Type} {f : State → β → State} (h : ∀ t b, LowKept t (f t b)) (l : List β) (s : State) : LowKept s (l.foldl f s) := by
  induction l generalizing s with
  | nil => exact refl s
  | cons b l ih => exact (h s b).trans (ih _)

theorem LowKept.setReg (s : State) {a : Nat} (v : Word) (h : 0x200000 ≤ a) : LowKept s (s.setReg a v) :=
  ⟨fun b hb => (State.reg_setReg ..).trans (if_neg (by omega)), fun _ => State.stn_setReg .., State.net_setReg ..⟩

theorem State.clearTickets_low (s : State) : LowKept s s.clearTickets :=
  .foldl (fun _ _ => (LowKept.setReg _ 0 (by omega)).trans (.setReg _ 0 (by omega))) _ s

theorem State.clearQueues_low (s : State) : LowKept s s.clearQueues := by
  unfold State.clearQueues
  refine .foldl (fun t p => ?_) _ s
  exact ⟨fun _ _ => rfl, fun _ => rfl, rfl⟩

theorem State.unberth_low (s : State) : LowKept s s.unberth := by
  refine .foldl (fun t p => ?_) _ s
  split
  · rename_i i _
    have moved : LowKept t (t.sessMove i 2 0) := (LowKept.setReg t _ (by unfold sessAddr; omega)).trans (.setReg _ _ (by unfold sessAddr; omega))
    exact moved.trans ⟨fun _ _ => rfl, fun _ => rfl, rfl⟩
  · exact .refl t

theorem State.clearStations_kept (s : State) : (∀ a, s.clearStations.reg a = s.reg a) ∧ s.clearStations.die.net = s.die.net := by
  have all (l : SMap Station) (u : State) : (∀ a, (l.foldl (fun (t : State) p => t.setStn p.1 (t.stn p.1).cleared) u).reg a = u.reg a) ∧
      (l.foldl (fun (t : State) p => t.setStn p.1 (t.stn p.1).cleared) u).die.net = u.die.net := by
    induction l generalizing u with
    | nil => exact ⟨fun _ => rfl, rfl⟩
    | cons p r ih => exact ih _
  exact all _ s

theorem State.reg_endCoast (s : State) (back : Bool) (a : Nat) (h : a ≠ 0x30000) : (s.endCoast back).reg a = s.reg a := by
  unfold State.endCoast
  dsimp only
  split
  · exact (State.reg_setFld ..).trans (if_neg h)
  · rfl

theorem State.stn_endCoast (s : State) (back : Bool) (j : Nat) : (s.endCoast back).stn j = s.stn j := by
  unfold State.endCoast
  dsimp only
  split
  · exact State.stn_setFld ..
  · rfl

theorem State.net_endCoast (s : State) (back : Bool) : (s.endCoast back).die.net = s.die.net := by
  unfold State.endCoast
  dsimp only
  split
  · exact State.net_setFld ..
  · rfl

theorem DieOnly.endCoast (s : State) (back : Bool) : DieOnly s (s.endCoast back) := by
  unfold State.endCoast
  dsimp only
  split
  · exact (DieOnly.setFld ..).trans ⟨_, _, _, _, rfl⟩
  · exact .refl s

/-- The stations, tickets, queues and berths cleared (R343). -/
def State.clearUnits (s : State) : State := s.clearStations.clearTickets.clearQueues.unberth

theorem State.clearUnits_spec (s : State) :
    (∀ a, a < 0x200000 → s.clearUnits.reg a = s.reg a) ∧ (∀ j, (s.stn j).ClearedFrom (s.clearUnits.stn j)) ∧ s.clearUnits.die.net = s.die.net := by
  obtain ⟨regs, net⟩ := s.clearStations_kept
  have low := ((State.clearTickets_low s.clearStations).trans (State.clearQueues_low _)).trans (State.unberth_low _)
  refine ⟨fun a ha => (low.regs a ha).trans (regs a), fun j => ?_, low.net.trans net⟩
  unfold State.clearUnits
  rw [low.stns j]
  exact s.stn_clearStations j

theorem DieOnly.clearUnits (s : State) : DieOnly s s.clearUnits := by
  have stations : DieOnly s s.clearStations := .foldl (fun t _ => ⟨_, t.aoReg, t.snapOut, t.out, rfl⟩) _ s
  have tickets (u : State) : DieOnly u u.clearTickets := .foldl (fun _ _ => (DieOnly.setReg ..).trans (.setReg ..)) _ u
  have queues (u : State) : DieOnly u u.clearQueues := .foldl (fun t _ => ⟨_, t.aoReg, t.snapOut, t.out, rfl⟩) _ u
  have berths (u : State) : DieOnly u u.unberth := by
    refine .foldl (fun t p => ?_) _ u
    split
    · exact ((DieOnly.setFld ..).trans (.setFld ..)).trans ⟨_, _, _, _, rfl⟩
    · exact .refl t
  exact ((stations.trans (tickets _)).trans (queues _)).trans (berths _)

/-! ### A line clear -/

/-- Interlocks, timer and collectives cleared, the mesh and the wake queue emptied, no snapshot on its way out (R343). -/
def State.drained (s : State) : State :=
  let s2 := { s.setNet s.die.net.cleared with snapOut := none }
  { s2 with die := { s2.die with mesh := [], wakeQ := [] } }

theorem State.reg_drained (s : State) (a : Nat) : s.drained.reg a = s.reg a := rfl
theorem State.stn_drained (s : State) (j : Nat) : s.drained.stn j = s.stn j := rfl

/-- The line clear in terms of its parts. -/
theorem State.lineClear_eq (s : State) (lce : Nat) :
    s.lineClear lce = ((s.clearUnits.drained.setReg 0x80830 0).setReg 0x80834 (BitVec.ofNat 32 (lce % 65536))).endCoast false := rfl

theorem State.reg_lineClear (s : State) (lce : Nat) {a : Nat} (h : a < 0x200000) (h1 : a ≠ 0x30000) (h2 : a ≠ 0x80830) (h3 : a ≠ 0x80834) :
    (s.lineClear lce).reg a = s.reg a := by
  rw [State.lineClear_eq, State.reg_endCoast _ _ _ h1, State.reg_setReg, if_neg h3, State.reg_setReg, if_neg h2, State.reg_drained]
  exact s.clearUnits_spec.1 a h

theorem State.epoch_lineClear (s : State) (lce : Nat) : (s.lineClear lce).reg 0x80834 = BitVec.ofNat 32 (lce % 65536) := by
  rw [State.lineClear_eq, State.reg_endCoast _ _ _ (by omega), State.reg_setReg, if_pos rfl]

theorem State.stn_lineClear (s : State) (lce j : Nat) : (s.stn j).ClearedFrom ((s.lineClear lce).stn j) := by
  rw [State.lineClear_eq, State.stn_endCoast, State.stn_setReg, State.stn_setReg, State.stn_drained]
  exact s.clearUnits_spec.2.1 j

theorem DieOnly.lineClear (s : State) (lce : Nat) : DieOnly s (s.lineClear lce) := by
  rw [State.lineClear_eq]
  have drained (u : State) : DieOnly u u.drained := ⟨_, u.aoReg, none, u.out, rfl⟩
  exact ((((DieOnly.clearUnits s).trans (drained _)).trans (.setReg ..)).trans (.setReg ..)).trans (.endCoast ..)

/-! ### What follows a line clear -/

/-- A field of a register replaced leaves every other register, and the bits of its own outside the field. -/
theorem State.bit_setFld (s : State) (a b lo len v : Nat) {i : Nat} (hi : i < 32) (h : b ≠ a ∨ i < lo ∨ lo + len ≤ i) :
    bitAt ((s.setFld a lo len v).reg b) i = bitAt (s.reg b) i := by
  rw [State.reg_setFld]
  split
  · rename_i e
    rw [bitAt_putFld _ _ _ _ _ hi, if_neg (by omega), e]
  · rfl

theorem State.beginRoll_spec (s : State) (w : FaultInfo) (unit : Nat) :
    let t := s.beginRoll w unit
    t.die.net.roll = some ⟨1, 0, false, w, unit⟩ ∧ SameRegs s t [0x60000] ∧ SameStns s t [] ∧ DieOnly s t ∧
    bitAt (t.reg 0x60000) 2 = true ∧ bitAt (t.reg 0x60000) 3 = false ∧ t.isRetired = s.isRetired := by
  unfold State.beginRoll State.isRetired
  dsimp only
  refine ⟨by simp [State.setNet], fun a ha => ?_, fun j _ => ?_, ((DieOnly.setNet ..).trans (.setFld ..)).trans (.setFld ..), ?_, ?_, ?_⟩
  · have : a ≠ 0x60000 := by simpa using ha
    rw [State.reg_setFld, if_neg this, State.reg_setFld, if_neg this]
    rfl
  · rw [State.stn_setFld, State.stn_setFld]
    rfl
  · rw [State.bit_setFld _ _ _ _ _ _ (by omega) (by omega), State.reg_setFld, if_pos rfl, bitAt_putFld _ _ _ _ _ (by omega)]
    rfl
  · rw [State.reg_setFld, if_pos rfl, bitAt_putFld _ _ _ _ _ (by omega)]
    rfl
  · rw [State.bit_setFld _ _ _ _ _ _ (by omega) (by omega), State.bit_setFld _ _ _ _ _ _ (by omega) (by omega)]
    rfl

/-- Step 5 taken from `s` to `t`, as its count, its epoch, the stations, the rollback and the memories show it (R343, R449, R460). -/
structure StepFive (s t : State) : Prop where
  counted : t.reg 0x60030 = satAdd (s.reg 0x60030) 1
  epoch : t.reg 0x80834 = BitVec.ofNat 32 ((s.lce + 1) % 65536)
  stns : ∀ j, (s.stn j).ClearedFrom (t.stn j)
  roll : bitAt (s.reg 0x60004) 0 = true → ∃ w u, t.die.net.roll = some ⟨1, 0, false, w, u⟩
  mem : ∀ a, 0x100000 ≤ a → a < 0x200000 → t.reg a = s.reg a
  lpddr : t.lpddr = s.lpddr
  fuses : t.fuses = s.fuses

/-- A module starts a line clear: the next epoch, then the rollback or WAITROLL (R343, R460). -/
theorem State.startClear_spec (s : State) (w : FaultInfo) (unit : Nat) :
    let t := s.startClear w unit
    t.reg 0x60030 = s.reg 0x60030 ∧ t.reg 0x80834 = BitVec.ofNat 32 ((s.lce + 1) % 65536) ∧ (∀ j, (s.stn j).ClearedFrom (t.stn j)) ∧
    (bitAt (s.reg 0x60004) 0 = true → ∃ w u, t.die.net.roll = some ⟨1, 0, false, w, u⟩) ∧
    (∀ a, 0x100000 ≤ a → a < 0x200000 → t.reg a = s.reg a) ∧ DieOnly s t ∧ t.isRetired = s.isRetired := by
  unfold State.startClear State.actClear
  dsimp only
  generalize hu : s.flood none _ = u
  have sent : Sends s u := hu ▸ .flood ..
  have only := (DieOnly.sends sent).trans (DieOnly.lineClear u ((s.lce + 1) % 65536))
  have stns (j : Nat) : (s.stn j).ClearedFrom ((u.lineClear ((s.lce + 1) % 65536)).stn j) := sent.stn j ▸ u.stn_lineClear _ j
  have regs {a : Nat} (h : a < 0x200000) (h1 : a ≠ 0x30000) (h2 : a ≠ 0x80830) (h3 : a ≠ 0x80834) :
      (u.lineClear ((s.lce + 1) % 65536)).reg a = s.reg a := (u.reg_lineClear _ h h1 h2 h3).trans (sent.reg a)
  have epoch : (u.lineClear ((s.lce + 1) % 65536)).reg 0x80834 = BitVec.ofNat 32 ((s.lce + 1) % 65536) := by
    rw [State.epoch_lineClear, Nat.mod_mod]
  rw [regs (a := 0x60004) (by omega) (by omega) (by omega) (by omega)]
  generalize u.lineClear ((s.lce + 1) % 65536) = v at *
  have retired : v.isRetired = s.isRetired := congrArg (bitAt · 0) (regs (by omega) (by omega) (by omega) (by omega))
  split
  · obtain ⟨roll, same, still, die, -, -, kept⟩ := v.beginRoll_spec w unit
    exact ⟨(same _ (by decide)).trans (regs (by omega) (by omega) (by omega) (by omega)), (same _ (by decide)).trans epoch,
      fun j => still j nofun ▸ stns j, fun _ => ⟨w, unit, roll⟩,
      fun a hl hu => (same a (by simp; omega)).trans (regs hu (by omega) (by omega) (by omega)), only.trans die, kept.trans retired⟩
  · rename_i hoff
    have flds {a : Nat} (h : a ≠ 0x60000) : ((v.setFld 0x60000 2 1 0).setFld 0x60000 3 1 1).reg a = v.reg a := by
      rw [State.reg_setFld, if_neg h, State.reg_setFld, if_neg h]
    refine ⟨(flds (by omega)).trans (regs (by omega) (by omega) (by omega) (by omega)), (flds (by omega)).trans epoch, fun j => ?_, fun h => absurd h hoff,
      fun a hl hu => (flds (by omega)).trans (regs hu (by omega) (by omega) (by omega)), (only.trans (.setFld ..)).trans (.setFld ..), ?_⟩
    · rw [State.stn_setFld, State.stn_setFld]
      exact stns j
    · unfold State.isRetired
      rw [State.bit_setFld _ _ _ _ _ _ (by omega) (by omega), State.bit_setFld _ _ _ _ _ _ (by omega) (by omega)]
      exact retired

theorem State.reg_recovery (s : State) (a : Nat) : s.recovery.reg a = s.reg a := rfl
theorem State.stn_recovery (s : State) (j : Nat) : s.recovery.stn j = s.stn j := rfl

theorem State.takeStep5_spec (s : State) (w : FaultInfo) (unit : Nat) :
    StepFive s (s.takeStep5 w unit) ∧ (s.takeStep5 w unit).isRetired = s.isRetired ∧ (s.takeStep5 w unit).ownSteps = s.ownSteps := by
  unfold State.takeStep5 State.ladder
  generalize hu : ((s.bump (0x60020 + 4 * (5 - 1)) 1).logFault w.code 5 unit w.d0 w.d1).recovery = u
  have logged : DieOnly s u := by
    rw [← hu]
    exact ((DieOnly.bump ..).trans (.logFault ..)).trans (.setNet ..)
  have counter : u.reg 0x60030 = satAdd (s.reg 0x60030) 1 := by
    rw [← hu, State.reg_recovery, State.reg_logFault _ _ _ _ _ _ _ (by omega) (by omega) (by omega), State.reg_bump, if_pos rfl]
  have regs {a : Nat} (h : a < 0x68000 ∨ 0x70000 ≤ a) (h1 : a ≠ 0x6000C) (h2 : a ≠ 0x60014) (h3 : a ≠ 0x60030) : u.reg a = s.reg a := by
    rw [← hu, State.reg_recovery, State.reg_logFault _ _ _ _ _ _ _ h h1 h2, State.reg_bump, if_neg h3]
  have stns (j : Nat) : u.stn j = s.stn j := by
    rw [← hu, State.stn_recovery, State.stn_logFault, State.stn_bump]
  clear hu
  obtain ⟨count, epoch, cleared, roll, mem, only, retired⟩ := u.startClear_spec w unit
  obtain ⟨lp, fuses⟩ := (logged.trans only).memories
  have lce : u.lce = s.lce := congrArg (fld · 0 16) (regs (by omega) (by omega) (by omega) (by omega))
  rw [lce] at epoch
  rw [regs (a := 0x60004) (by omega) (by omega) (by omega) (by omega)] at roll
  exact ⟨⟨count.trans counter, epoch, fun j => stns j ▸ cleared j, roll,
    fun a hl hu => (mem a hl hu).trans (regs (by omega) (by omega) (by omega) (by omega)), lp, fuses⟩,
    retired.trans (congrArg (bitAt · 0) (regs (by omega) (by omega) (by omega) (by omega))), (logged.trans only).ownSteps⟩

/-- Retirement is step 6 and then step 5 (R460, R464). -/
theorem State.retire_spec {s : State} (h : s.isRetired = false) (w : FaultInfo) (unit : Nat) : StepFive s (s.retire w unit) ∧
    (s.retire w unit).isRetired = true ∧ (s.retire w unit).ownSteps = s.ownSteps := by
  unfold State.retire
  rw [if_neg (by simp [h])]
  dsimp only
  generalize hu : ((s.setFld 0x60000 0 1 1).bump 0x60034 1).logFault w.code 6 unit w.d0 w.d1 = u
  have logged : DieOnly s u := by
    rw [← hu]
    exact ((DieOnly.setFld ..).trans (.bump ..)).trans (.logFault ..)
  have regs {a : Nat} (h : a < 0x68000 ∨ 0x70000 ≤ a) (h1 : a ≠ 0x6000C) (h2 : a ≠ 0x60014) (h3 : a ≠ 0x60034) (h4 : a ≠ 0x60000) : u.reg a = s.reg a := by
    rw [← hu, State.reg_logFault _ _ _ _ _ _ _ h h1 h2, State.reg_bump, if_neg h3, State.reg_setFld, if_neg h4]
  have stns (j : Nat) : u.stn j = s.stn j := by
    rw [← hu, State.stn_logFault, State.stn_bump, State.stn_setFld]
  have marked : u.isRetired = true := by
    unfold State.isRetired
    rw [← hu, State.reg_logFault _ _ _ _ _ _ _ (by omega) (by omega) (by omega), State.reg_bump, if_neg (by omega), State.reg_setFld, if_pos rfl,
      bitAt_putFld _ _ _ _ _ (by omega)]
    rfl
  clear hu
  obtain ⟨⟨count, epoch, cleared, roll, mem, lp, fuses⟩, retired, own⟩ := u.takeStep5_spec w unit
  obtain ⟨lp', fuses'⟩ := logged.memories
  have lce : u.lce = s.lce := congrArg (fld · 0 16) (regs (by omega) (by omega) (by omega) (by omega) (by omega))
  rw [lce] at epoch
  rw [regs (a := 0x60004) (by omega) (by omega) (by omega) (by omega) (by omega)] at roll
  rw [regs (a := 0x60030) (by omega) (by omega) (by omega) (by omega) (by omega)] at count
  exact ⟨⟨count, epoch, fun j => stns j ▸ cleared j, roll,
    fun a hl hu => (mem a hl hu).trans (regs (by omega) (by omega) (by omega) (by omega) (by omega)), lp.trans lp', fuses.trans fuses'⟩, retired.trans marked, own.trans logged.ownSteps⟩

/-- The module notes an own cause of step 5 (R464). -/
def State.noteOwn (s : State) : State := { s with ownSteps := s.ownSteps ++ [s.uptime] }

/-- The note is no part of what step 5 shows. -/
theorem StepFive.of_noteOwn {s t : State} (h : StepFive s.noteOwn t) : StepFive s t :=
  ⟨h.counted, h.epoch, h.stns, h.roll, h.mem, h.lpddr, h.fuses⟩

theorem State.isRetired_noteOwn (s : State) : s.noteOwn.isRetired = s.isRetired := rfl
theorem State.ownSteps_noteOwn (s : State) : s.noteOwn.ownSteps = s.ownSteps ++ [s.uptime] := rfl

theorem State.step5_own_eq (s : State) (w : FaultInfo) (unit : Nat) :
    s.step5 w unit true =
      if s.ownSteps.any (fun t => decide (s.uptime - t < day)) && !s.noteOwn.isRetired then s.noteOwn.retire w unit else s.noteOwn.takeStep5 w unit := if_pos rfl

/-- Step 5 for a fault of the module's own: noted, and the second within 24 h retires the module (R464). -/
theorem State.step5_own (s : State) (w : FaultInfo) (unit : Nat) :
    let t := s.step5 w unit true
    let second : Prop := ∃ n ∈ s.ownSteps, s.uptime - n < day
    StepFive s t ∧ t.ownSteps = s.ownSteps ++ [s.uptime] ∧ (second → t.isRetired = true) ∧ (¬ second → t.isRetired = s.isRetired) := by
  have recent : (s.ownSteps.any (fun t => decide (s.uptime - t < day))) = true ↔ ∃ n ∈ s.ownSteps, s.uptime - n < day := by simp
  dsimp only
  rw [State.step5_own_eq, State.isRetired_noteOwn]
  split
  · rename_i h
    simp only [Bool.and_eq_true, Bool.not_eq_true'] at h
    obtain ⟨five, retired, own⟩ := State.retire_spec (s.isRetired_noteOwn.trans h.2) w unit
    exact ⟨five.of_noteOwn, own, fun _ => retired, fun no => absurd (recent.mp h.1) no⟩
  · rename_i h
    obtain ⟨five, retired, own⟩ := s.noteOwn.takeStep5_spec w unit
    refine ⟨five.of_noteOwn, own, fun yes => ?_, fun _ => retired⟩
    rw [retired, State.isRetired_noteOwn]
    simpa [recent.mpr yes] using h

end Sys2Proof.Machine
end

section
/-! PROOFS. Channels of the LPDDR5X controllers (O35): training in service, the refresh rate, refresh management and power-down. -/
namespace Sys2Proof.Machine

/-! ### A counter of a controller -/

theorem State.mbump_eq (s : State) {c o a : Nat} (h : a = 0x100000 + 0x1000 * c + o) : s.mbump c o = s.bump a 1 := by
  rw [h]
  rfl

/-- A counter raised changes itself alone (R46). -/
theorem State.bump_only (s : State) (a : Nat) : (s.bump a 1).reg a = satAdd (s.reg a) 1 ∧ OnlyChanges s (s.bump a 1) [a] [] :=
  ⟨(State.reg_bump ..).trans (if_pos rfl), (OnlyChanges.refl s _ _).bump 1 (List.mem_singleton_self a)⟩

/-! ### Training in service -/

/-- The register of a controller that names its channels, present and slow (R282). -/
def chanReg (c : Nat) : Nat := 0x100000 + 0x1000 * c

/-- The counter of trainings in service of a controller (R282). -/
def trainReg (c : Nat) : Nat := 0x100020 + 0x1000 * c

/-- The fault record of a channel that came back slow or not at all (R282). -/
def State.channelFault (s : State) (c : Fin 20) (j : Fin 4) (code : Nat) : State :=
  s.logFault code 0 (0x100 + ctrlEdge c) (BitVec.ofNat 32 (4 * c.val + j.val)) 0

section
variable {s : State} (c : Fin 20) (j : Fin 4)

theorem State.reg_channelFault (code : Nat) {a : Nat} (h : 0x100000 ≤ a) : (s.channelFault c j code).reg a = s.reg a :=
  s.reg_logFault _ _ _ _ _ _ (by omega) (by omega) (by omega)

/-- A bit of the channels' register replaced after the training is counted, and the record of it. -/
theorem State.channelFault_setFld (code b v : Nat) (hb : b < 32) :
    let t := ((s.bump (trainReg c) 1).setFld (chanReg c) b 1 v).channelFault c j code
    bitAt (t.reg (chanReg c)) b = v.testBit 0 ∧ t.reg (trainReg c) = satAdd (s.reg (trainReg c)) 1 ∧ t.reg 0x6000C = s.reg 0x6000C + 1 ∧
    SameStns s t [] ∧ t.lpddr = s.lpddr ∧ t.fuses = s.fuses ∧ t.die.mesh = s.die.mesh ∧ t.isRetired = s.isRetired := by
  have apart : trainReg c ≠ chanReg c := by unfold trainReg chanReg; omega
  have low (a : Nat) (h : a < 0x100000) : a ≠ trainReg c ∧ a ≠ chanReg c := by unfold trainReg chanReg; omega
  refine ⟨?_, ?_, ?_, fun i _ => ?_, ?_, ?_, ?_, ?_⟩
  · rw [State.reg_channelFault c j code (by unfold chanReg; omega), State.reg_setFld, if_pos rfl, bitAt_putFld _ _ _ _ _ hb, if_pos (by omega), Nat.sub_self]
  · rw [State.reg_channelFault c j code (by unfold trainReg; omega), State.reg_setFld, if_neg apart, State.reg_bump, if_pos rfl]
  · unfold State.channelFault
    rw [State.wr_logFault, State.reg_setFld, if_neg (low _ (by omega)).2, State.reg_bump, if_neg (low _ (by omega)).1]
  · unfold State.channelFault
    rw [State.stn_logFault, State.stn_setFld, State.stn_bump]
  · simp [State.channelFault]
  · simp [State.channelFault]
  · simp [State.channelFault]
  · unfold State.isRetired State.channelFault
    rw [State.reg_logFault _ _ _ _ _ _ _ (by omega) (by omega) (by omega), State.reg_setFld, if_neg (low _ (by omega)).2, State.reg_bump, if_neg (low _ (by omega)).1]

/-- A channel that is lost retires a module that is not retired already (R464). -/
def State.channelLost (s : State) (c : Fin 20) (j : Fin 4) : State :=
  (((s.bump (trainReg c) 1).setFld (chanReg c) j 1 0).channelFault c j 0x0204).retire ⟨0x0204, BitVec.ofNat 32 (4 * c.val + j.val), 0⟩ (0x100 + ctrlEdge c)

theorem State.channelLost_spec :
    let t := s.channelLost c j
    bitAt (t.reg (chanReg c)) j = false ∧ t.isRetired = true ∧ t.lpddr = s.lpddr ∧ t.fuses = s.fuses ∧ t.reg (trainReg c) = satAdd (s.reg (trainReg c)) 1 ∧
    (s.isRetired = true → t.reg 0x6000C = s.reg 0x6000C + 1 ∧ SameStns s t [] ∧ t.die.mesh = s.die.mesh) := by
  obtain ⟨off, counted, logged, stns, lp, fuses, mesh, retired⟩ := State.channelFault_setFld (s := s) c j 0x0204 j 0 (by omega)
  unfold State.channelLost
  generalize ((s.bump (trainReg c) 1).setFld (chanReg c) j 1 0).channelFault c j 0x0204 = u at *
  by_cases h : s.isRetired = true
  · have still : u.retire ⟨0x0204, BitVec.ofNat 32 (4 * c.val + j.val), 0⟩ (0x100 + ctrlEdge c) = u := if_pos (retired.trans h)
    dsimp only
    rw [still]
    exact ⟨off, retired.trans h, lp, fuses, counted, fun _ => ⟨logged, stns, mesh⟩⟩
  · obtain ⟨five, now, -⟩ := State.retire_spec (retired.trans (Bool.not_eq_true _ ▸ h)) ⟨0x0204, BitVec.ofNat 32 (4 * c.val + j.val), 0⟩ (0x100 + ctrlEdge c)
    have hc := c.isLt
    refine ⟨?_, now, five.lpddr.trans lp, five.fuses.trans fuses, (five.mem _ ?_ ?_).trans counted, fun e => absurd e h⟩
    · rw [five.mem _ (by unfold chanReg; omega) (by unfold chanReg; omega)]
      exact off
    · unfold trainReg; omega
    · unfold trainReg; omega

end

/-! ### The commands -/

section
variable {s : State} (c : Fin 20) (j : Fin 4) (h : s.memUp = true)
include h

theorem exec_channelRetrain_full : exec (.channelRetrain c j 0) s = .next (s.bump (trainReg c) 1) := by
  rw [← State.mbump_eq (c := c) (o := 0x20) s (by unfold trainReg; omega)]
  exact if_pos h

theorem exec_channelRetrain_slow : exec (.channelRetrain c j 1) s =
    .next (if bitAt (s.reg (chanReg c)) (4 + j) then s.bump (trainReg c) 1
      else ((s.bump (trainReg c) 1).setFld (chanReg c) (4 + j) 1 1).channelFault c j 0x0203) := by
  rw [← State.mbump_eq (c := c) (o := 0x20) s (by unfold trainReg; omega)]
  refine (if_pos h).trans ?_
  unfold chanReg
  split
  · rfl
  · rfl

theorem exec_channelRetrain_lost : exec (.channelRetrain c j 2) s = .next (s.channelLost c j) := by
  unfold State.channelLost
  rw [← State.mbump_eq (c := c) (o := 0x20) s (by unfold trainReg; omega)]
  exact if_pos h

theorem exec_mr4Read (rate : Fin 32) : exec (.mr4Read c rate) s =
    .next { s with die := { s.die with refresh := mset (fun _ => (0 : Nat)) s.die.refresh c rate.val } } := if_pos h

theorem exec_rfm : exec (.rfm c) s = .next (s.bump (0x10001C + 0x1000 * c.val) 1) := by
  rw [← State.mbump_eq (c := c) (o := 0x1C) s (by omega)]
  exact if_pos h

theorem exec_powerDownEntry : exec (.powerDownEntry c j) s = .next { s with die := { s.die with pdown := putBit s.die.pdown (4 * c.val + j.val) true } } := if_pos h

end

theorem exec_channel_still {s : State} (c : Fin 20) (j : Fin 4) (o : Fin 3) (rate : Fin 32) (h : s.memUp = false) :
    exec (.channelRetrain c j o) s = .next s ∧ exec (.mr4Read c rate) s = .next s ∧ exec (.rfm c) s = .next s ∧ exec (.powerDownEntry c j) s = .next s := by
  have off : ¬ s.memUp = true := by simp [h]
  exact ⟨if_neg off, if_neg off, if_neg off, if_neg off⟩

end Sys2Proof.Machine

namespace Sys2Proof
open Machine

/-- Settles O35: each command by what it writes; a channel that is lost through `State.retire_spec`. -/
theorem controllersKeepChannels : Obligations.ControllersKeepChannels := by
  intro s c j
  refine ⟨fun h => ⟨?_, fun hb => ?_, fun hb => ?_, ?_, fun rate => ?_, ?_, ?_⟩, fun h o rate => exec_channel_still c j o rate h, rfl⟩
  · exact runs_of (exec_channelRetrain_full c j h) (s.bump_only (trainReg c))
  · obtain ⟨slow, counted, logged, stns, lp, -⟩ := State.channelFault_setFld (s := s) c j 0x0203 (4 + j) 1 (by omega)
    exact runs_of ((exec_channelRetrain_slow c j h).trans (congrArg _ (if_neg (Bool.eq_false_iff.mp hb)))) ⟨slow, logged, counted, stns, lp⟩
  · exact runs_of ((exec_channelRetrain_slow c j h).trans (congrArg _ (if_pos hb))) (s.bump_only (trainReg c))
  · exact runs_of (exec_channelRetrain_lost c j h) (State.channelLost_spec c j)
  · exact runs_of (exec_mr4Read c h rate) ⟨mget_mset_same .., fun k hk => mget_mset_other _ _ _ hk, fun _ _ => rfl, fun _ _ => rfl, rfl⟩
  · exact runs_of (exec_rfm c h) (s.bump_only _)
  · refine runs_of (exec_powerDownEntry c j h) ⟨?_, fun k hk => ?_, fun _ _ => rfl, fun _ _ => rfl, rfl⟩
    · exact (bitAt_putBit _ _ _ _ (by omega)).trans (if_pos rfl)
    · exact bitAt_putBit_other _ _ hk

end Sys2Proof
end

section
/-! PROOFS. The golden copy and the region registers (O36): lines rebuilt from the bank that holds them or from the timetable, LOAD, and the registers that are written once. -/
namespace Sys2Proof.Machine

/-! ### Slots of the golden copy -/

theorem length_padTo (n : Nat) (bs : List Byte) : (padTo n bs).length = n := by
  unfold padTo
  rw [List.length_take, List.length_append, List.length_replicate]
  omega

/-- A slot is 80 lines (R292). -/
theorem length_slotBytes (b : Bank) (desc : List Byte) : (slotBytes b desc).length = 64 * 80 := by
  unfold slotBytes
  rw [List.length_append, length_padTo, length_padTo]

/-- The bank whose slot is given by its number (R292). -/
def State.slotBank (s : State) (slot : Nat) : Bank := (s.stn (slot / 256)).bank (slot / 4 % 64) (slot % 4)

/-- The bytes of a slot as its bank and the timetable give them (R293). -/
def State.slotImage (s : State) (slot : Nat) : List Byte := slotBytes (s.slotBank slot) (s.planDesc slot)

theorem State.length_slotImage (s : State) (slot : Nat) : (s.slotImage slot).length = 64 * 80 := length_slotBytes ..

/-! ### Lines written -/

theorem State.mem_poison_setLines (n : Nat) (s : State) (l : Nat) (bs : List Byte) (k : Nat) :
    k ∈ (s.setLines l bs n).poison ↔ k ∈ s.poison ∧ ¬ (l ≤ k ∧ k < l + n) := by
  induction n generalizing s l bs with
  | zero => exact ⟨fun h => ⟨h, by omega⟩, And.left⟩
  | succ n ih =>
    have first : k ∈ (s.putLine l (bs.take 64)).poison ↔ k ∈ s.poison ∧ k ≠ l := by simp [State.putLine, State.setLine, State.wakeChannel]
    rw [State.setLines, ih, first]
    refine ⟨fun ⟨⟨marked, ne⟩, out⟩ => ⟨marked, by omega⟩, fun ⟨marked, out⟩ => ⟨⟨marked, by omega⟩, by omega⟩⟩

theorem State.reg_setLines (n : Nat) (s : State) (l : Nat) (bs : List Byte) (a : Nat) : (s.setLines l bs n).reg a = s.reg a := by
  induction n generalizing s l bs with
  | zero => rfl
  | succ n ih => exact ih ..

/-- A line of a service's own written reads as written and good, and nothing else changes (R289). -/
theorem State.putLine_spec (s : State) (l : Nat) {bs : List Byte} (h : bs.length = 64) :
    let t := s.putLine l bs
    t.line l = bs ∧ l ∉ t.poison ∧ (∀ a, a / 64 ≠ l → mget byte0 t.lpddr a = mget byte0 s.lpddr a) ∧ SameRegs s t [] ∧ SameStns s t [] := by
  refine ⟨((s.wakeChannel l).line_setLine l h l).trans (if_pos rfl), by simp [State.putLine, State.setLine], fun a ha => ?_, fun _ _ => rfl, fun _ _ => rfl⟩
  exact (s.mget_putLine l bs a).trans (if_neg (by omega))

/-- A slot of 80 lines written reads as written and good, and nothing else changes (R289, R293). -/
theorem State.setLines_spec (s : State) (ls : List Nat) (l : Nat) {bs : List Byte} (h : bs.length = 64 * 80) :
    let t := (s.useLines ls []).setLines l bs 80
    t.memBytes (l * 64) 5120 = bs ∧ (∀ k, l ≤ k → k < l + 80 → k ∉ t.poison) ∧
    (∀ a, a / 64 < l ∨ l + 80 ≤ a / 64 → mget byte0 t.lpddr a = mget byte0 s.lpddr a) ∧ SameRegs s t [] ∧ SameStns s t [] := by
  have byte := State.mget_setLines 80 (s.useLines ls []) l h
  refine ⟨State.memBytes_eq h (fun k hk => ?_), fun k hl hu => ?_, fun a ha => ?_, fun a _ => ?_, fun j _ => ?_⟩
  · rw [byte, if_pos (by omega), Nat.add_sub_cancel_left]
  · rw [State.mem_poison_setLines]
    exact fun hk => hk.2 ⟨hl, hu⟩
  · rw [byte, if_neg (by omega), State.lpddr_useLines]
  · rw [State.reg_setLines, State.reg_useLines_clean]
  · rw [State.stn_setLines, State.stn_useLines]

/-! ### A golden line rebuilt -/

/-- The three ways of GOLDEN_REBUILD (R293). -/
theorem exec_goldenRebuild {s : State} {line : Nat} (hl : s.live = true) (hg : s.region (line * 64) = .golden) (hp : line ∈ s.poison) :
    let slot := (line - s.goldenLine) / 80
    let j := (line - s.goldenLine) % 80
    exec (.goldenRebuild line) s =
      if s.itemEnd slot (s.slotBank slot) ≤ j then .next (s.putLine line (((s.slotImage slot).drop (64 * j)).take 64))
      else if !s.macrosLoaded || s.suspect (slot / 256) (slot / 4 % 64) then
        .next (s.step5 ⟨0x0202, BitVec.ofNat 32 (s.goldenId line), BitVec.ofNat 64 line⟩ (0x100 + ctrlEdge (ctrlOf line)) true)
      else .next ((s.useLines ((List.range 80).map (line - j + ·)) []).setLines (line - j) (s.slotImage slot) 80) :=
  if_pos (by simp [hl, hg, hp])

theorem exec_goldenRebuild_still {s : State} {line : Nat} (h : s.live = false ∨ s.region (line * 64) ≠ .golden ∨ line ∉ s.poison) :
    exec (.goldenRebuild line) s = .next s :=
  if_neg (by rcases h with h | h | h <;> simp [h])

section
variable {s : State} {line : Nat} (hl : s.live = true) (hg : s.region (line * 64) = .golden) (hp : line ∈ s.poison)
include hl hg hp

theorem runs_goldenRebuild_line :
    let slot := (line - s.goldenLine) / 80
    let j := (line - s.goldenLine) % 80
    s.itemEnd slot (s.slotBank slot) ≤ j → Runs (.goldenRebuild line) s (fun t =>
      t.line line = ((s.slotImage slot).drop (64 * j)).take 64 ∧ line ∉ t.poison ∧ (∀ a, a / 64 ≠ line → mget byte0 t.lpddr a = mget byte0 s.lpddr a) ∧
      SameRegs s t [] ∧ SameStns s t []) := by
  intro slot j behind
  have size : (((s.slotImage slot).drop (64 * j)).take 64).length = 64 := by
    rw [List.length_take, List.length_drop, State.length_slotImage]
    omega
  exact runs_of ((exec_goldenRebuild hl hg hp).trans (if_pos behind)) (s.putLine_spec line size)

theorem runs_goldenRebuild_slot :
    let slot := (line - s.goldenLine) / 80
    let j := (line - s.goldenLine) % 80
    j < s.itemEnd slot (s.slotBank slot) → s.macrosLoaded = true → s.suspect (slot / 256) (slot / 4 % 64) = false → Runs (.goldenRebuild line) s (fun t =>
      t.memBytes ((line - j) * 64) 5120 = s.slotImage slot ∧ line ∉ t.poison ∧
      (∀ a, a / 64 < line - j ∨ line - j + 80 ≤ a / 64 → mget byte0 t.lpddr a = mget byte0 s.lpddr a) ∧ SameRegs s t [] ∧ SameStns s t []) := by
  intro slot j within loaded sound
  obtain ⟨bytes, good, others, regs, stns⟩ := s.setLines_spec ((List.range 80).map (line - j + ·)) (line - j) (s.length_slotImage slot)
  have first : line - j ≤ line ∧ line < line - j + 80 := by omega
  refine runs_of ((exec_goldenRebuild hl hg hp).trans ((if_neg (Nat.not_le.mpr within)).trans (if_neg ?_))) ⟨bytes, good line first.1 first.2, others, regs, stns⟩
  change ¬ (!s.macrosLoaded || s.suspect (slot / 256) (slot / 4 % 64)) = true
  simp [loaded, sound]

theorem runs_goldenRebuild_lost :
    let slot := (line - s.goldenLine) / 80
    let j := (line - s.goldenLine) % 80
    j < s.itemEnd slot (s.slotBank slot) → s.macrosLoaded = false ∨ s.suspect (slot / 256) (slot / 4 % 64) = true → Runs (.goldenRebuild line) s (fun t =>
      t.reg 0x60030 = satAdd (s.reg 0x60030) 1 ∧ t.reg 0x80834 = BitVec.ofNat 32 ((s.lce + 1) % 65536) ∧
      (∀ i : Stn, (t.stn i).ctl.run = .stopped) ∧ t.lpddr = s.lpddr) := by
  intro slot j within lost
  obtain ⟨five, -⟩ := s.step5_own ⟨0x0202, BitVec.ofNat 32 (s.goldenId line), BitVec.ofNat 64 line⟩ (0x100 + ctrlEdge (ctrlOf line))
  refine runs_of ((exec_goldenRebuild hl hg hp).trans ((if_neg (Nat.not_le.mpr within)).trans (if_pos ?_))) ⟨five.counted, five.epoch, fun i => (five.stns i).run, five.lpddr⟩
  change (!s.macrosLoaded || s.suspect (slot / 256) (slot / 4 % 64)) = true
  rcases lost with h | h
  · simp [h]
  · simp [h]

end

/-! ### LOAD -/

theorem State.reg_setGolden (s : State) (b : Bool) (a : Nat) : (s.setGolden b).reg a = if a = 0x1001C then (if b then 1 else 0) else s.reg a := by
  unfold State.setGolden
  dsimp only
  generalize (if b then 1 else 0 : Word) = v
  split
  · exact State.reg_setReg ..
  · exact (State.reg_signal ..).trans (State.reg_setReg ..)

theorem Reports.setGolden (s : State) (b : Bool) : Reports s (s.setGolden b) := by
  unfold State.setGolden
  dsimp only
  generalize (if b then 1 else 0 : Word) = v
  split
  · exact .setReg ..
  · exact (Reports.setReg ..).trans (.signal ..)

theorem exec_goldenLoad {s : State} {v : Word} (hs : s.supState = 0) (h : s.writeServed 0x1001C = true) :
    exec (.goldenLoad v) s = .next (if bitAt v 1 && decide (s.mstate = 5) then s.leaveL1.setGolden true else s.leaveL1) := by
  have e : s.bar0Write 0x1001C 0xF v = s.leaveL1.goldenWrite v := State.bar0Write_eq h hs rfl rfl
  exact congrArg Host.Outcome.next e

/-! ### The region registers -/

/-- MEM_SNAPSZ and the region registers (R501). -/
def memConfigReg (k : Fin 9) : Nat := if k.val = 0 then 0x100804 else 0x10080C + 4 * k.val

/-- The fields that a write sets. -/
def memConfigMask (k : Fin 9) : Word := if k.val = 0 then 0x7F else 0x3FF

theorem rwMask_memConfigReg (k : Fin 9) : rwMask (memConfigReg k) = some (memConfigMask k) := by
  revert k
  decide

theorem memConfigReg_range (k : Fin 9) : memConfigReg k = 0x100804 ∨ (0x100810 ≤ memConfigReg k ∧ memConfigReg k ≤ 0x10082C) := by
  unfold memConfigReg
  split <;> omega

/-- A block that is served from READY on is served as every other. -/
theorem State.writeServed_of_ready {s : State} (h : s.writeServed 0x100804 = true) (a : Nat) : s.writeServed a = true := by
  simp only [State.writeServed, Bool.and_eq_true] at h ⊢
  refine ⟨h.1, ?_⟩
  have ready : decide (5 ≤ s.mstate) = true := by simpa using h.2
  simp [ready]

theorem State.regWrite_memConfig (s : State) (v : Word) {a : Nat} (h : a = 0x100804 ∨ (0x100810 ≤ a ∧ a ≤ 0x10082C)) : s.regWrite a v = s.memConfigWrite a v := by
  unfold State.regWrite
  repeat rw [if_neg (by omega)]
  exact if_pos h

theorem exec_memConfigWrite {s : State} (k : Fin 9) (v : Word) (hs : s.supState = 0) (h : s.writeServed 0x100804 = true) :
    exec (.memConfigWrite k v) s = .next (s.leaveL1.memConfigWrite (memConfigReg k) v) := by
  have range := memConfigReg_range k
  have e : s.bar0Write (memConfigReg k) 0xF v = s.leaveL1.memConfigWrite (memConfigReg k) v := by
    rw [State.bar0Write_eq (State.writeServed_of_ready h _) hs (by rw [rwMask_memConfigReg]; rfl) (byteWritable_eq_false (by omega)), State.regWrite_memConfig _ _ range]
  exact congrArg Host.Outcome.next e

/-- The first write that keeps the regions apart is taken (R501). -/
theorem State.memConfigWrite_taken {s : State} {k : Fin 9} {v : Word} (h : memConfigReg k ∉ s.die.rwo) (hr : s.memRefused (memConfigReg k) (v &&& memConfigMask k) = false) :
    let t := s.memConfigWrite (memConfigReg k) v
    t.reg (memConfigReg k) = v &&& memConfigMask k ∧ memConfigReg k ∈ t.die.rwo ∧ SameRegs s t [memConfigReg k] ∧ SameStns s t [] ∧ t.lpddr = s.lpddr := by
  unfold State.memConfigWrite
  rw [rwMask_memConfigReg, Option.getD_some]
  dsimp only
  rw [if_neg (by simpa using h), hr, if_neg Bool.false_ne_true]
  generalize hu : s.setReg (memConfigReg k) (v &&& memConfigMask k) = u
  have reg (a : Nat) : u.reg a = if a = memConfigReg k then v &&& memConfigMask k else s.reg a := hu ▸ State.reg_setReg ..
  refine ⟨(reg _).trans (if_pos rfl), by simp, fun a ha => (reg a).trans (if_neg (by simpa using ha)), fun j _ => ?_, ?_⟩
  · exact hu ▸ State.stn_setReg ..
  · exact hu ▸ State.lpddr_setReg ..

/-- A first write that does not is refused with a record (R501). -/
theorem State.memConfigWrite_refused {s : State} {k : Fin 9} {v : Word} (h : memConfigReg k ∉ s.die.rwo) (hr : s.memRefused (memConfigReg k) (v &&& memConfigMask k) = true) :
    let t := s.memConfigWrite (memConfigReg k) v
    t.reg (memConfigReg k) = s.reg (memConfigReg k) ∧ t.die.rwo = s.die.rwo ∧ t.reg 0x6000C = s.reg 0x6000C + 1 ∧ SameStns s t [] ∧ t.lpddr = s.lpddr := by
  have range := memConfigReg_range k
  unfold State.memConfigWrite
  rw [rwMask_memConfigReg, Option.getD_some]
  dsimp only
  rw [if_neg (by simpa using h), hr, if_pos rfl]
  exact ⟨State.reg_logFault _ _ _ _ _ _ _ (by omega) (by omega) (by omega), State.rwo_logFault .., State.wr_logFault .., fun j _ => State.stn_logFault .., State.lpddr_logFault ..⟩

end Sys2Proof.Machine

namespace Sys2Proof
open Machine

/-- Settles O36: a golden line by the three ways of its rebuilding, LOAD by what it does to VALID, the registers by whether they were written. -/
theorem goldenCopyAndRegions : Obligations.GoldenCopyAndRegions := by
  intro s
  refine ⟨fun line hl hg hp => ⟨?_, ?_, ?_⟩, fun line h => exec_goldenRebuild_still h, fun hs h v => ⟨fun hv hr => ?_, fun hn => ?_⟩,
    fun hs h k v => ⟨fun ha hr => ?_, fun ha hr => ?_, fun ha => ?_⟩⟩
  · exact runs_goldenRebuild_line hl hg hp
  · exact runs_goldenRebuild_slot hl hg hp
  · exact runs_goldenRebuild_lost hl hg hp
  · have reports := Reports.setGolden s.leaveL1 true
    refine runs_of ((exec_goldenLoad hs h).trans (congrArg _ (if_pos (by simp [hv, hr])))) ⟨?_, fun a ha => ?_, fun j _ => reports.stn j, reports.lpddr⟩
    · exact (State.reg_setGolden ..).trans (if_pos rfl)
    · exact (State.reg_setGolden ..).trans (if_neg (by simpa using ha))
  · exact runs_of ((exec_goldenLoad hs h).trans (congrArg _ (if_neg (by rcases hn with hn | hn <;> simp [hn])))) (OnlyChanges.refl ..)
  · exact runs_of (exec_memConfigWrite k v hs h) (State.memConfigWrite_taken (s := s.leaveL1) ha hr)
  · exact runs_of (exec_memConfigWrite k v hs h) (State.memConfigWrite_refused (s := s.leaveL1) ha hr)
  · have still : s.leaveL1.memConfigWrite (memConfigReg k) v = s.leaveL1 := if_pos (List.contains_iff_mem.mpr ha)
    exact runs_of ((exec_memConfigWrite k v hs h).trans (congrArg _ still)) (OnlyChanges.refl ..)

end Sys2Proof
end

section
/-! PROOFS. The rounds of a rollback (O59, first part): the arrival of this module at the rollback interlock, and the release of a round. -/
namespace Sys2Proof.Machine

/-! ### The tree -/

section
variable {s t : State} (h : ∀ a, t.reg a = s.reg a)
include h

theorem State.modid_congr : t.modid = s.modid := by rw [State.modid, State.modid, h]

theorem State.dim_congr (d : Nat) : t.dim d = s.dim d := by
  unfold State.dim State.solo
  rw [h, h]

theorem State.coordOf_congr (m d : Nat) : t.coordOf m d = s.coordOf m d := by
  unfold State.coordOf State.dbase
  simp only [h, State.modid_congr h, State.dim_congr h]

theorem State.modAt_congr (c : Nat → Nat) : t.modAt c = s.modAt c := by
  unfold State.modAt State.dbase
  simp only [h, State.dim_congr h]

theorem State.stepFrom_congr (m d : Nat) (plus : Bool) : t.stepFrom m d plus = s.stepFrom m d plus := by
  unfold State.stepFrom
  simp only [State.modAt_congr h, State.coordOf_congr h, State.dim_congr h]

theorem State.nextMod_congr (a b : Nat) : t.nextMod a b = s.nextMod a b := by
  unfold State.nextMod State.nextWay
  simp only [State.stepFrom_congr h, State.coordOf_congr h, State.dim_congr h]

theorem State.rootMod_congr : t.rootMod = s.rootMod := by
  unfold State.rootMod State.solo
  simp only [State.modAt_congr h, State.modid_congr h, h]

theorem State.isRoot_congr : t.isRoot = s.isRoot := by
  unfold State.isRoot
  rw [State.modid_congr h, State.rootMod_congr h]

/-- The tree depends on the registers alone (R328). -/
theorem State.children_congr : t.children = s.children := by
  unfold State.children
  simp only [State.modid_congr h, State.rootMod_congr h, State.stepFrom_congr h, State.nextMod_congr h]

theorem State.domainSize_congr : t.domainSize = s.domainSize := by
  unfold State.domainSize
  simp only [State.dim_congr h]

end

/-! ### The arrival at a rollback interlock -/

/-- The rollback interlock once this module has arrived and no child has (R328, R461). -/
def State.rollArrival (s : State) : Ilk := { s.die.net.rollIlk with ilk := 0xFF, own := true, last := some (s.modid, s.ownReason) }

/-- The state with the rollback interlock replaced. -/
def State.setRollIlk (s : State) (i : Ilk) : State := s.setNet { s.die.net with rollIlk := i }

/-- What an arrival leaves: registers, stations, LPDDR5X and the rollback. -/
structure ArrivalKeeps (s t : State) : Prop where
  regs : ∀ a, t.reg a = s.reg a
  stns : ∀ j, t.stn j = s.stn j
  lpddr : t.lpddr = s.lpddr
  roll : t.die.net.roll = s.die.net.roll

theorem ArrivalKeeps.setRollIlk (s : State) (i : Ilk) : ArrivalKeeps s (s.setRollIlk i) := ⟨fun _ => rfl, fun _ => rfl, rfl, rfl⟩

theorem ArrivalKeeps.trans {s t u : State} (h : ArrivalKeeps s t) (k : ArrivalKeeps t u) : ArrivalKeeps s u :=
  ⟨fun a => (k.regs a).trans (h.regs a), fun j => (k.stns j).trans (h.stns j), k.lpddr.trans h.lpddr, k.roll.trans h.roll⟩

theorem ArrivalKeeps.of_sends {s t : State} (h : Sends s t) : ArrivalKeeps s t := by
  obtain ⟨_, _, rfl⟩ := h
  exact ⟨fun _ => rfl, fun _ => rfl, rfl, rfl⟩

theorem Sends.rollIlk {s t : State} (h : Sends s t) : t.die.net.rollIlk = s.die.net.rollIlk := by
  obtain ⟨_, _, rfl⟩ := h
  rfl

/-- This module arrives where no child has: it says PRESENT to its parent, and goes on (R328). -/
theorem State.ownArrival_roll {s : State} (ha : s.die.net.rollIlk.arrived = []) :
    ∃ u, Sends (s.setRollIlk s.rollArrival) u ∧ s.ownArrival .roll 0xFF = u.ilkAdvance .roll := by
  have none_in : ({ s.die.net.rollIlk with ilk := 0xFF, own := true, arrived := [], last := some (s.modid, s.ownReason) } : Ilk) = s.rollArrival := by
    unfold State.rollArrival
    rw [← ha]
  refine ⟨if s.isRoot then s.setRollIlk s.rollArrival else (s.setRollIlk s.rollArrival).sendIlk s.parent 0 .roll 0xFF 0 s.modid s.ownReason, ?_, ?_⟩
  · split
    · exact .refl _
    · exact .sendTo ..
  · unfold State.ownArrival
    simp only [Net.ilkOf, ha, List.filter_nil, List.foldl_nil, Net.setIlk]
    rw [none_in]
    rfl

section
variable {s u : State} (sent : Sends (s.setRollIlk s.rollArrival) u)
include sent

theorem ArrivalKeeps.arrived : ArrivalKeeps s u := (ArrivalKeeps.setRollIlk s _).trans (.of_sends sent)

theorem State.rollIlk_arrived : u.die.net.rollIlk = s.rollArrival := sent.rollIlk

/-- A module with children waits for them. -/
theorem State.ilkAdvance_waits (ha : s.die.net.rollIlk.arrived = []) (hc : s.children ≠ []) : u.ilkAdvance .roll = u := by
  have children : u.children = s.children := State.children_congr (ArrivalKeeps.arrived sent).regs
  obtain ⟨c, r, e⟩ := List.exists_cons_of_ne_nil hc
  unfold State.ilkAdvance
  dsimp only [Net.ilkOf]
  rw [State.rollIlk_arrived sent, children, e]
  refine if_neg ?_
  simp [State.rollArrival, ha]

/-- A module without children goes on at once: the root with the release, any other with ARRIVE. -/
theorem State.ilkAdvance_ready (ha : s.die.net.rollIlk.arrived = []) (hc : s.children = []) (hs : s.die.net.rollIlk.sentUp = false) :
    u.ilkAdvance .roll =
      if u.isRoot then
        (if 1 = u.domainSize then (u.setRollIlk { s.rollArrival with sentUp := true }).doRelease .roll 0xFF (u.ilkSeq .roll) s.modid s.ownReason
          else u.setRollIlk { s.rollArrival with sentUp := true })
      else (u.setRollIlk { s.rollArrival with sentUp := true }).sendIlk u.parent 1 .roll 0xFF 1 s.modid s.ownReason := by
  have children : u.children = [] := (State.children_congr (ArrivalKeeps.arrived sent).regs).trans hc
  have none_in : s.rollArrival.arrived = [] := ha
  have due : s.rollArrival.sentUp = false := hs
  unfold State.ilkAdvance
  dsimp only [Net.ilkOf]
  rw [State.rollIlk_arrived sent, children, due, none_in]
  rfl

end

/-- A module with children waits for them. -/
theorem State.ownArrival_roll_waits {s : State} (ha : s.die.net.rollIlk.arrived = []) (hc : s.children ≠ []) :
    (s.ownArrival .roll 0xFF).die.net.rollIlk = s.rollArrival ∧ ArrivalKeeps s (s.ownArrival .roll 0xFF) := by
  obtain ⟨u, sent, e⟩ := State.ownArrival_roll ha
  rw [e, State.ilkAdvance_waits sent ha hc]
  exact ⟨State.rollIlk_arrived sent, .arrived sent⟩

/-- A leaf sends ARRIVE to its parent. -/
theorem State.ownArrival_roll_leaf {s : State} (ha : s.die.net.rollIlk.arrived = []) (hc : s.children = []) (hr : s.isRoot = false)
    (hs : s.die.net.rollIlk.sentUp = false) :
    (s.ownArrival .roll 0xFF).die.net.rollIlk = { s.rollArrival with sentUp := true } ∧ ArrivalKeeps s (s.ownArrival .roll 0xFF) := by
  obtain ⟨u, sent, e⟩ := State.ownArrival_roll ha
  have kept := ArrivalKeeps.arrived sent
  have up : Sends (u.setRollIlk { s.rollArrival with sentUp := true }) (u.ilkAdvance .roll) := by
    rw [State.ilkAdvance_ready sent ha hc hs, State.isRoot_congr kept.regs, hr]
    exact .sendTo ..
  rw [e]
  exact ⟨up.rollIlk, (kept.trans (.setRollIlk u _)).trans (.of_sends up)⟩

/-- The root of a domain of one module releases at once. -/
theorem State.ownArrival_roll_root {s : State} (ha : s.die.net.rollIlk.arrived = []) (hc : s.children = []) (hr : s.isRoot = true) (hd : s.domainSize = 1)
    (hs : s.die.net.rollIlk.sentUp = false) :
    ∃ u, ArrivalKeeps s u ∧ s.ownArrival .roll 0xFF = u.onRollRelease (s.ilkSeq .roll) := by
  obtain ⟨u, sent, e⟩ := State.ownArrival_roll ha
  have kept := ArrivalKeeps.arrived sent
  have released := kept.trans (.setRollIlk u { s.rollArrival with sentUp := true })
  have no_child : (u.setRollIlk { s.rollArrival with sentUp := true }).children = [] := (State.children_congr released.regs).trans hc
  have same_seq : u.ilkSeq .roll = s.ilkSeq .roll := by
    unfold State.ilkSeq
    dsimp only
    rw [kept.roll, State.rollIlk_arrived sent, kept.regs]
    rfl
  refine ⟨_, released, ?_⟩
  rw [e, State.ilkAdvance_ready sent ha hc hs, State.isRoot_congr kept.regs, hr, if_pos rfl, State.domainSize_congr kept.regs, hd, if_pos rfl, same_seq]
  unfold State.doRelease
  rw [no_child]
  rfl

/-! ### A round that is released -/

/-- Round 1 gives the generation (R461). -/
theorem State.onRollRelease_first {s : State} {r : Roll} (iseq : Word) (h : s.die.net.roll = some r) (h1 : r.round = 1) :
    s.onRollRelease iseq = s.setNet { s.die.net with roll := some { r with round := 2, g := iseq.toNat, restored := false }, rollIlk := Ilk.reset } := by
  unfold State.onRollRelease
  rw [h]
  exact if_pos h1

theorem State.net_release (s : State) (domain : Bool) (ilk : Nat) : (s.release domain ilk).die.net = s.die.net := by
  rw [State.release_eq]
  generalize List.range 128 = l
  induction l generalizing s with
  | nil => rfl
  | cons b l ih =>
    refine (ih _).trans ?_
    unfold State.releaseAt
    split
    · split
      · split
        · exact State.net_setStn ..
        · exact State.net_setStn ..
      · rfl
    · rfl

/-- The domain interlock and its timer after a release (R328, R331). -/
def Net.released (n : Net) : Net :=
  { n with
    ilk := Ilk.reset
    arrivedAt := none
    timer := ⟨0, true, []⟩
    lateMods := []
    noNotice := []
    paused := 0
    allowOver := false
    boundary := false }

theorem State.releaseDomain_eq (s : State) (ilk : Nat) : s.releaseDomain ilk = ((s.setNet s.die.net.released).endCoast true).release true ilk := rfl

/-- The stations go on from the domain interlock, and the deadline timer starts (R328, R331). -/
theorem State.releaseDomain_spec (s : State) (ilk : Nat) :
    let t := s.releaseDomain ilk
    (∀ a, a ≠ 0x30000 → t.reg a = s.reg a) ∧ t.die.net = s.die.net.released ∧ t.lpddr = s.lpddr ∧
    ∀ j, (t.stn j).pm = (s.stn j).pm ∧ (t.stn j).slots = (s.stn j).slots ∧ (t.stn j).tokens = (s.stn j).tokens := by
  have set_regs (a : Nat) : (s.setNet s.die.net.released).reg a = s.reg a := rfl
  have set_stns (j : Nat) : (s.setNet s.die.net.released).stn j = s.stn j := rfl
  have set_mem : (s.setNet s.die.net.released).lpddr = s.lpddr := rfl
  have set_net : (s.setNet s.die.net.released).die.net = s.die.net.released := rfl
  rw [State.releaseDomain_eq]
  generalize s.setNet s.die.net.released = u at *
  obtain ⟨stns, regs, lp, -⟩ := (u.endCoast true).release_keeps true ilk
  refine ⟨fun a ha => ?_, ?_, ?_, fun j => ?_⟩
  · rw [regs a nofun, State.reg_endCoast _ _ _ ha, set_regs]
  · rw [State.net_release, State.net_endCoast, set_net]
  · rw [lp, (DieOnly.endCoast u true).memories.1, set_mem]
  · obtain ⟨tokens, pm, slots, -⟩ := stns j
    rw [State.stn_endCoast, set_stns] at tokens pm slots
    exact ⟨pm, slots, tokens⟩

/-- After round 2 the module runs on from the generation's interlock (R461). -/
theorem State.onRollRelease_second {s : State} {r : Roll} (iseq : Word) (h : s.die.net.roll = some r) (h1 : r.round ≠ 1) :
    let t := s.onRollRelease iseq
    t.die.net.roll = none ∧ t.reg 0x6003C = BitVec.ofNat 32 r.g ∧ bitAt (t.reg 0x60000) 2 = false ∧ t.mstate = 6 ∧
    t.die.net.timer = ⟨0, true, []⟩ ∧ t.lpddr = s.lpddr ∧
    ∀ j, (t.stn j).pm = (s.stn j).pm ∧ (t.stn j).slots = (s.stn j).slots ∧ (t.stn j).tokens = (s.stn j).tokens := by
  unfold State.onRollRelease
  rw [h]
  dsimp only
  rw [if_neg h1]
  generalize hu : ((s.setNet { s.die.net with roll := none, rollIlk := Ilk.reset }).setReg 0x6003C (BitVec.ofNat 32 r.g)).setFld 0x60000 2 1 0 = u
  have entered := Reports.enter u 6
  have roll : u.die.net.roll = none := by
    rw [← hu, State.net_setFld, State.net_setReg]
    rfl
  have numbered : u.reg 0x6003C = BitVec.ofNat 32 r.g := by rw [← hu, State.reg_setFld, if_neg (by omega), State.reg_setReg, if_pos rfl]
  have ended : bitAt (u.reg 0x60000) 2 = false := by
    rw [← hu, State.reg_setFld, if_pos rfl, bitAt_putFld _ _ _ _ _ (by omega)]
    rfl
  have lp : u.lpddr = s.lpddr := by
    rw [← hu, State.lpddr_setFld, State.lpddr_setReg]
    rfl
  have stns (j : Nat) : u.stn j = s.stn j := by
    rw [← hu, State.stn_setFld, State.stn_setReg]
    rfl
  clear hu
  obtain ⟨regs, net, lp', stns'⟩ := (u.enter 6).releaseDomain_spec (u.enter 6).die.net.ilk.ilk
  refine ⟨?_, ?_, ?_, ?_, congrArg Net.timer net, lp'.trans (entered.lpddr.trans lp), fun j => ?_⟩
  · exact (congrArg Net.roll net).trans ((congrArg Net.roll entered.net.1).trans roll)
  · rw [regs _ (by omega), State.reg_enter, if_neg (by omega), numbered]
  · rw [regs _ (by omega), State.reg_enter, if_neg (by omega), ended]
  · unfold State.mstate
    rw [regs _ (by omega)]
    exact u.mstate_enter 6
  · rw [← stns j, ← entered.stn j]
    exact stns' j

end Sys2Proof.Machine
end

section
/-! PROOFS. The rollback (O59, second part): step 5, what round 2 does to this module, the restored image, and ROLL. -/
namespace Sys2Proof.Machine

/-! ### Cells of an image -/

section
variable {α : Type} {d : Nat → α}

theorem le_of_risingFrom {m : SMap α} {lo : Nat} (h : risingFrom lo m = true) : ∀ c ∈ m, lo ≤ c.1 := by
  induction m generalizing lo with
  | nil => nofun
  | cons p r ih =>
    simp only [risingFrom, Bool.and_eq_true, decide_eq_true_eq] at h
    intro c hc
    rcases List.mem_cons.mp hc with rfl | hc
    · exact h.1
    · have := ih h.2 c hc
      omega

theorem mget_filter_key (m : SMap α) (q : Nat → Bool) (k : Nat) : mget d (m.filter (fun c => q c.1)) k = if q k then mget d m k else d k := by
  induction m with
  | nil => simp [mget]
  | cons p r ih =>
    obtain ⟨a, x⟩ := p
    by_cases ha : a = k
    · subst ha
      cases hq : q a <;> simp_all [mget]
    · cases hq : q a <;> simp_all [mget]

theorem mget_foldl_mset_other [DecidableEq α] {l : SMap α} {a : Nat} (h : ∀ c ∈ l, c.1 ≠ a) (m : SMap α) :
    mget d (l.foldl (fun m c => mset d m c.1 c.2) m) a = mget d m a := by
  induction l generalizing m with
  | nil => rfl
  | cons c l ih =>
    rw [List.foldl_cons, ih (fun c hc => h c (List.mem_cons_of_mem _ hc)), mget_mset_other _ _ _ (Ne.symm (h c List.mem_cons_self))]

/-- Cells with rising keys laid over an empty place read as they read by themselves. -/
theorem mget_foldl_mset [DecidableEq α] {l m : SMap α} {lo a : Nat} (hl : risingFrom lo l = true) (hm : mget d m a = d a) :
    mget d (l.foldl (fun m c => mset d m c.1 c.2) m) a = mget d l a := by
  induction l generalizing lo m with
  | nil => exact hm
  | cons c l ih =>
    obtain ⟨k, x⟩ := c
    simp only [risingFrom, Bool.and_eq_true, decide_eq_true_eq] at hl
    rw [List.foldl_cons]
    by_cases hk : k = a
    · have later : ∀ c ∈ l, c.1 ≠ a := fun c hc => by
        have := le_of_risingFrom hl.2 c hc
        omega
      rw [mget_foldl_mset_other later, hk, mget_mset_same]
      exact (if_pos rfl).symm
    · rw [ih hl.2 ((mget_mset_other _ _ _ (Ne.symm hk)).trans hm)]
      exact (if_neg hk).symm

end

/-- A byte lies in one of the ranges. -/
def inRanges (rs : List (Nat × Nat)) (a : Nat) : Bool := rs.any (fun r => decide (r.1 ≤ a) && decide (a < r.1 + r.2))

/-- The bytes outside the ranges that the image does not list are as they were (R340, R461). -/
theorem mget_mergeCells_outside (now image : SMap Byte) {rs : List (Nat × Nat)} {a : Nat} (h : inRanges rs a = false) (hi : ∀ c ∈ image, c.1 ≠ a) :
    mget byte0 (mergeCells now image rs) a = mget byte0 now a := by
  refine (mget_foldl_mset_other hi _).trans ((mget_filter_key now (fun k => !inRanges rs k) a).trans ?_)
  rw [h]
  rfl

/-- A byte of a range is the image's (R340, R461). -/
theorem mget_mergeCells_inside (now golden user : SMap Byte) {rs : List (Nat × Nat)} {a : Nat} (h : inRanges rs a = true) (hg : mwf byte0 golden = true)
    (hu : ∀ c ∈ user, c.1 ≠ a) : mget byte0 (mergeCells now (golden ++ user) rs) a = mget byte0 golden a := by
  simp only [mwf, Bool.and_eq_true] at hg
  have emptied : mget byte0 (now.filter (fun c => !inRanges rs c.1)) a = byte0 a := by
    rw [mget_filter_key now (fun k => !inRanges rs k) a, h]
    rfl
  unfold mergeCells
  rw [List.foldl_append, mget_foldl_mset_other hu]
  exact mget_foldl_mset hg.1 emptied

/-! ### The image restored -/

/-- Correction sums recomputed leave platform memory, slots and tokens (R72). -/
theorem mget_resum (l : SMap Station) (j : Nat) :
    let y := mget (fun _ => Station.reset) (l.map (fun p => (p.1, p.2.resum))) j
    let x := mget (fun _ => Station.reset) l j
    y.pm = x.pm ∧ y.slots = x.slots ∧ y.tokens = x.tokens := by
  induction l with
  | nil => exact ⟨rfl, rfl, rfl⟩
  | cons p l ih =>
    simp only [List.map_cons, mget]
    by_cases h : p.1 = j
    · rw [if_pos h, if_pos h]
      exact ⟨rfl, rfl, rfl⟩
    · rw [if_neg h, if_neg h]
      exact ih

/-- The state with the image in place, before its generation is noted (R461). -/
def State.imaged (s : State) (i : Snapshot) (r : Roll) : State :=
  let rs := s.goldenRange :: s.userRanges
  let net := { s.die.net with
    ilk := i.die.net.ilk
    instNext := i.die.net.instNext
    insts := i.die.net.insts
    roll := some { r with restored := true } }
  let die := { i.die with
    reg := mergeRegs i.die.reg s.die.reg
    stns := i.die.stns.map (fun p => (p.1, p.2.resum))
    net := net
    pcie := s.die.pcie
    links := s.die.links
    eids := s.die.eids }
  { s with
    die := die
    lpddr := mergeCells s.lpddr (i.golden ++ i.user) rs
    poison := s.poison.filter (fun l => !rs.any (fun q => decide (q.1 ≤ l * 64) && decide (l * 64 < q.1 + q.2))) }

theorem State.restoreImage_eq (s : State) (i : Snapshot) (r : Roll) :
    s.restoreImage i r = ((s.imaged i r).setReg 0x80830 (BitVec.ofNat 32 r.g)).setGolden true := rfl

theorem State.restoreImage_reports (s : State) (i : Snapshot) (r : Roll) : Reports (s.imaged i r) (s.restoreImage i r) :=
  (Reports.setReg ..).trans (.setGolden ..)

theorem Reports.snaps {s t : State} (h : Reports s t) : t.snaps = s.snaps ∧ t.fuses = s.fuses := by
  obtain ⟨_, _, _, _, _, _, rfl⟩ := h
  exact ⟨rfl, rfl⟩

theorem State.restoreImage_spec (s : State) (i : Snapshot) (r : Roll) :
    let t := s.restoreImage i r
    t.reg 0x80830 = BitVec.ofNat 32 r.g ∧ t.reg 0x1001C = 1 ∧ t.die.net.roll = some { r with restored := true } ∧ t.die.jobStarted = i.die.jobStarted ∧
    (∀ j, t.stn j = mget (fun _ => Station.reset) (i.die.stns.map (fun p => (p.1, p.2.resum))) j) ∧
    t.lpddr = mergeCells s.lpddr (i.golden ++ i.user) (s.goldenRange :: s.userRanges) ∧ t.snaps = s.snaps ∧ t.fuses = s.fuses := by
  have reports := s.restoreImage_reports i r
  refine ⟨?_, ?_, congrArg Net.roll reports.net.1, reports.job.2.1, reports.stn, reports.lpddr, reports.snaps⟩
  · rw [State.restoreImage_eq, State.reg_setGolden, if_neg (by omega), State.reg_setReg, if_pos rfl]
  · rw [State.restoreImage_eq, State.reg_setGolden, if_pos rfl]
    rfl

/-! ### A job that starts again -/

/-- The record of a job restart leaves the registers outside the ring and the stations (R461). -/
theorem State.logRestart_spec (s : State) (r : Roll) :
    let t := s.logRestart r
    (∀ a, a < 0x68000 ∨ 0x70000 ≤ a → a ≠ 0x6000C → a ≠ 0x60014 → t.reg a = s.reg a) ∧ (∀ j, t.stn j = s.stn j) ∧ t.die.net = s.die.net ∧ t.lpddr = s.lpddr := by
  unfold State.logRestart
  dsimp only
  split
  · exact ⟨fun a h h1 h2 => State.reg_logFault _ _ _ _ _ _ a h h1 h2, fun j => State.stn_logFault .., State.net_logFault .., State.lpddr_logFault ..⟩
  · exact ⟨fun a h h1 h2 => State.reg_logFault _ _ _ _ _ _ a h h1 h2, fun j => State.stn_logFault .., State.net_logFault .., State.lpddr_logFault ..⟩

/-- The job runner at rest, before it starts the job again (R461). -/
def State.jobCleared (s : State) : State := { s with die := { s.die with job := ⟨0, 0, false⟩, jobStarted := false } }

theorem State.restartJob_eq (s : State) (r : Roll) :
    s.restartJob r =
      let u := ((((((s.setNet { s.die.net with roll := none, rollIlk := Ilk.reset }).setReg 0x6003C 0).setFld 0x60000 2 1 0).bump 0x60038 1).logRestart r).jobCleared)
      if bitAt (u.reg 0x1001C) 0 && decide (u.mstate = 6) then u else u.enter 5 := rfl

theorem State.restartJob_spec (s : State) (r : Roll) :
    let t := s.restartJob r
    t.die.job = ⟨0, 0, false⟩ ∧ t.die.jobStarted = false ∧ t.die.net.roll = none ∧ t.reg 0x60038 = satAdd (s.reg 0x60038) 1 ∧ t.reg 0x6003C = 0 ∧
    SameStns s t [] ∧ t.lpddr = s.lpddr := by
  rw [State.restartJob_eq]
  generalize hv : (((s.setNet { s.die.net with roll := none, rollIlk := Ilk.reset }).setReg 0x6003C 0).setFld 0x60000 2 1 0).bump 0x60038 1 = v
  have counted : v.reg 0x60038 = satAdd (s.reg 0x60038) 1 := by
    rw [← hv, State.reg_bump, if_pos rfl, State.reg_setFld, if_neg (by omega), State.reg_setReg, if_neg (by omega)]
    rfl
  have zero : v.reg 0x6003C = 0 := by rw [← hv, State.reg_bump, if_neg (by omega), State.reg_setFld, if_neg (by omega), State.reg_setReg, if_pos rfl]
  have roll : v.die.net.roll = none := by
    rw [← hv, State.net_bump, State.net_setFld, State.net_setReg]
    rfl
  have stns (j : Nat) : v.stn j = s.stn j := by
    rw [← hv, State.stn_bump, State.stn_setFld, State.stn_setReg]
    rfl
  have lp : v.lpddr = s.lpddr := by
    rw [← hv, State.lpddr_bump, State.lpddr_setFld, State.lpddr_setReg]
    rfl
  clear hv
  obtain ⟨regs, stns', net, lp'⟩ := v.logRestart_spec r
  have cleared_reg (a : Nat) : (v.logRestart r).jobCleared.reg a = (v.logRestart r).reg a := rfl
  have cleared_stn (j : Nat) : (v.logRestart r).jobCleared.stn j = (v.logRestart r).stn j := rfl
  have settled (t : State) (h : Reports (v.logRestart r).jobCleared t) (hr : ∀ a, a ≠ 0x10000 → t.reg a = (v.logRestart r).jobCleared.reg a) :
      t.die.job = ⟨0, 0, false⟩ ∧ t.die.jobStarted = false ∧ t.die.net.roll = none ∧ t.reg 0x60038 = satAdd (s.reg 0x60038) 1 ∧ t.reg 0x6003C = 0 ∧
      SameStns s t [] ∧ t.lpddr = s.lpddr := by
    refine ⟨h.job.1, h.job.2.1, (congrArg Net.roll (h.net.1.trans net)).trans roll, ?_, ?_, fun j _ => ?_, h.lpddr.trans (lp'.trans lp)⟩
    · rw [hr _ (by omega), cleared_reg, regs _ (by omega) (by omega) (by omega), counted]
    · rw [hr _ (by omega), cleared_reg, regs _ (by omega) (by omega) (by omega), zero]
    · rw [h.stn, cleared_stn, stns', stns]
  dsimp only
  split
  · exact settled _ (.refl _) (fun _ _ => rfl)
  · exact settled _ (.enter ..) (fun a ha => (State.reg_enter ..).trans (if_neg ha))

/-! ### The command ROLLBACK -/

/-- What step 5 shows, as the statements of it put it. -/
theorem StepFive.shows {s t : State} (h : StepFive s t) :
    t.reg 0x60030 = satAdd (s.reg 0x60030) 1 ∧ t.reg 0x80834 = BitVec.ofNat 32 ((s.lce + 1) % 65536) ∧
    (∀ j : Stn, (t.stn j).ctl.run = .stopped ∧ (t.stn j).iss.flight = [] ∧ (t.stn j).pm = (s.stn j).pm ∧ (t.stn j).slots = (s.stn j).slots) ∧
    (bitAt (s.reg 0x60004) 0 = true → ∃ w u, t.die.net.roll = some ⟨1, 0, false, w, u⟩) ∧ t.lpddr = s.lpddr ∧ t.fuses = s.fuses := by
  refine ⟨h.counted, h.epoch, fun j => ?_, h.roll, h.lpddr, h.fuses⟩
  obtain ⟨run, flight, pm, slots⟩ := h.stns j
  exact ⟨run, flight, pm, slots⟩

section
variable {s : State} (hl : s.linked = true)
include hl

theorem exec_rollback_climbing {i : Nat} {f : Flight} (h : s.climbing = some (i, f)) : exec .rollback s = .next (s.step5 f.why i true) := by
  refine (if_pos hl).trans ?_
  rw [h]

variable (hc : s.climbing = none)
include hc

theorem exec_rollback_lost (h : s.cameUpLost = true) :
    exec .rollback s = .next (s.step5 ⟨if bitAt (s.reg 0x10000) 8 then 0x0407 else 0x040D, 0, 0⟩ 0x300 true) := by
  refine (if_pos hl).trans ?_
  rw [hc]
  exact if_pos h

variable (hn : s.cameUpLost = false)
include hn

theorem exec_rollback_idle (h : s.die.net.roll = none) : exec .rollback s = .next s := by
  refine (if_pos hl).trans ?_
  rw [hc, hn, h]
  rfl

/-- What a rollback in progress asks of this module (R461). -/
theorem exec_rollback_runs {r : Roll} (h : s.die.net.roll = some r) :
    exec .rollback s =
      if s.die.net.rollIlk.own then .next s
      else if r.round = 1 then .next (s.ownArrival .roll 0xFF)
      else if r.restored then .next (s.ownArrival .roll 0xFF)
      else .next (s.roundTwo r) := by
  refine (if_pos hl).trans ?_
  rw [hc, hn, h]
  rfl

end

theorem exec_rollback_unlinked {s : State} (h : s.linked = false) : exec .rollback s = .next s := if_neg (by simp [h])

/-! ### Round 2 at this module -/

section
variable {s : State} {r : Roll}

theorem State.roundTwo_retired (h : s.isRetired = true) : s.roundTwo r = s.setFld 0x60000 1 1 1 := if_pos h

theorem State.roundTwo_restart (h : s.isRetired = false) (hg : r.g = 0) : s.roundTwo r = s.restartJob r := (if_neg (by simp [h])).trans (if_pos hg)

theorem State.roundTwo_restores {im : Snapshot} (h : s.isRetired = false) (hg : r.g ≠ 0) (hi : s.snaps.find? (fun z => decide (z.gen = r.g)) = some im) :
    s.roundTwo r = s.restoreImage im r := by
  unfold State.roundTwo
  rw [if_neg (by simp [h]), if_neg hg, hi]

theorem State.roundTwo_lacks (h : s.isRetired = false) (hg : r.g ≠ 0) (hi : s.snaps.find? (fun z => decide (z.gen = r.g)) = none) : s.roundTwo r = s := by
  unfold State.roundTwo
  rw [if_neg (by simp [h]), if_neg hg, hi]

end

/-! ### ROLL -/

theorem exec_roll (v : Word) (s : State) : exec (.roll v) s = .next (s.bar0Write 0x60004 0xF (v ||| 4)) := rfl

theorem State.regWrite_faultCtrl (s : State) (v : Word) : s.regWrite 0x60004 v = s.faultCtrl v := rfl

/-- A write with ROLL set (R460): the other two fields are taken, and a rollback that waits begins. -/
theorem exec_roll_served {s : State} {v : Word} (hs : s.supState = 0) (h : s.writeServed 0x60004 = true) :
    exec (.roll v) s = .next (if bitAt (s.reg 0x60000) 3 then (s.leaveL1.setReg 0x60004 (v &&& 3)).beginRoll ⟨0, 0, 0⟩ 0x300
      else s.leaveL1.setReg 0x60004 (v &&& 3)) := by
  have fields : (v ||| 4) &&& 3 = v &&& 3 := by
    rw [BitVec.and_or_distrib_right]
    exact BitVec.or_zero
  have asked : bitAt (v ||| 4) 2 = true := by
    rw [bitAt, BitVec.getLsbD_or]
    exact Bool.or_true _
  have waits : (s.leaveL1.setReg 0x60004 (v &&& 3)).reg 0x60000 = s.reg 0x60000 := (State.reg_setReg ..).trans (if_neg (by omega))
  rw [exec_roll, State.bar0Write_eq h hs rfl (byteWritable_eq_false (by omega)), State.regWrite_faultCtrl]
  unfold State.faultCtrl
  dsimp only
  rw [fields, asked, waits, Bool.true_and]

/-! ### A child that stays silent -/

theorem StepFive.of_free {s t : State} {n : Nat} (h : StepFive { s with free := n } t) : StepFive s t :=
  ⟨h.counted, h.epoch, h.stns, h.roll, h.mem, h.lpddr, h.fuses⟩

theorem State.nextIlk_free (s : State) : ∃ n, s.nextIlk.2 = { s with free := n } := by
  unfold State.nextIlk
  split
  · exact ⟨s.free, rfl⟩
  · exact ⟨_, rfl⟩

/-- Step 5 that another module's silence calls for (R460). -/
theorem State.step5_silent (s : State) (w : FaultInfo) (unit : Nat) :
    let t := s.nextIlk.2.step5 w unit false
    StepFive s t ∧ t.ownSteps = s.ownSteps ∧ t.isRetired = s.isRetired := by
  obtain ⟨n, e⟩ := s.nextIlk_free
  have other : s.nextIlk.2.step5 w unit false = s.nextIlk.2.takeStep5 w unit := if_neg Bool.false_ne_true
  dsimp only
  rw [other, e]
  obtain ⟨five, retired, own⟩ := ({ s with free := n } : State).takeStep5_spec w unit
  exact ⟨five.of_free, own, retired⟩

section
variable {s : State}

theorem exec_noNoticeRollbackExpiry {c : Nat} (hc : s.die.net.noNotice.find? (fun c => !s.die.net.ilk.present.contains c) = some c) (hl : s.live = true)
    (hr : s.die.net.timer.running = true) (hd : s.deadline ≠ 0) (ht : 2 * s.deadline ≤ s.die.net.timer.ticks) :
    exec .noNoticeRollbackExpiry s = .next (s.nextIlk.2.step5 ⟨0x0602, BitVec.ofNat 32 s.nextIlk.1, BitVec.ofNat 64 c⟩ 0x300 false) := by
  change execNoNoticeRollbackExpiry s = _
  unfold execNoNoticeRollbackExpiry
  dsimp only
  rw [hc]
  exact if_pos (by simp [hl, hr, hd, ht])

theorem exec_noNoticeRollbackExpiry_still (h : s.die.net.noNotice.find? (fun c => !s.die.net.ilk.present.contains c) = none ∨ s.live = false ∨
      s.die.net.timer.running = false ∨ s.deadline = 0 ∨ s.die.net.timer.ticks < 2 * s.deadline) : exec .noNoticeRollbackExpiry s = .next s := by
  change execNoNoticeRollbackExpiry s = _
  unfold execNoNoticeRollbackExpiry
  dsimp only
  split
  · rename_i c hc
    rw [hc] at h
    refine if_neg ?_
    rcases h with h | h | h | h | h
    · cases h
    · simp [h]
    · simp [h]
    · simp [h]
    · simp [Nat.not_le.mpr h]
  · rfl

end

/-! ### Each round, as it shows -/

section
variable {s : State} {r : Roll}

/-- An arrival that waits leaves the rollback where it was. -/
theorem ArrivalKeeps.shows {t : State} (h : ArrivalKeeps s t) (hr : s.die.net.roll = some r) :
    t.die.net.roll = some r ∧ SameRegs s t [] ∧ SameStns s t [] ∧ t.lpddr = s.lpddr :=
  ⟨h.roll.trans hr, fun a _ => h.regs a, fun j _ => h.stns j, h.lpddr⟩

variable (hr : s.die.net.roll = some r) (ha : s.die.net.rollIlk.arrived = []) (hc : s.children = []) (ht : s.isRoot = true) (hd : s.domainSize = 1)
  (hs : s.die.net.rollIlk.sentUp = false)
include hr ha hc ht hd hs

/-- Round 1 of a domain of one module ends as this module arrives: LINK_SNAPGEN gives the generation (R461). -/
theorem State.ownArrival_roll_first (h1 : r.round = 1) :
    let t := s.ownArrival .roll 0xFF
    t.die.net.roll = some { r with round := 2, g := (s.reg 0x80824).toNat, restored := false } ∧ t.die.net.rollIlk = Ilk.reset ∧
    SameRegs s t [] ∧ SameStns s t [] ∧ t.lpddr = s.lpddr := by
  obtain ⟨u, kept, e⟩ := State.ownArrival_roll_root ha hc ht hd hs
  have least : s.ilkSeq .roll = s.reg 0x80824 := by
    unfold State.ilkSeq
    dsimp only
    rw [hr]
    dsimp only
    rw [if_pos h1, ha]
    rfl
  dsimp only
  rw [e, State.onRollRelease_first _ (kept.roll.trans hr) h1, least]
  exact ⟨rfl, rfl, fun a _ => kept.regs a, fun j _ => kept.stns j, kept.lpddr⟩

/-- Round 2 of a domain of one module ends as this module arrives, and it runs on (R461). -/
theorem State.ownArrival_roll_second (h1 : r.round ≠ 1) :
    let t := s.ownArrival .roll 0xFF
    t.die.net.roll = none ∧ t.reg 0x6003C = BitVec.ofNat 32 r.g ∧ bitAt (t.reg 0x60000) 2 = false ∧ t.mstate = 6 ∧
    t.die.net.timer = ⟨0, true, []⟩ ∧ t.lpddr = s.lpddr ∧
    ∀ j : Stn, (t.stn j).pm = (s.stn j).pm ∧ (t.stn j).slots = (s.stn j).slots ∧ (t.stn j).tokens = (s.stn j).tokens := by
  obtain ⟨u, kept, e⟩ := State.ownArrival_roll_root ha hc ht hd hs
  obtain ⟨roll, numbered, ended, running, timer, lp, stns⟩ := State.onRollRelease_second (s.ilkSeq .roll) (kept.roll.trans hr) h1
  dsimp only
  rw [e]
  refine ⟨roll, numbered, ended, running, timer, lp.trans kept.lpddr, fun j => ?_⟩
  rw [← kept.stns j]
  exact stns j

end

/-- The image restored, as its registers, stations and bytes show it (R294, R461). -/
theorem State.restoreImage_shows (s : State) (im : Snapshot) (r : Roll) :
    let t := s.restoreImage im r
    t.reg 0x80830 = BitVec.ofNat 32 r.g ∧ t.reg 0x1001C = 1 ∧ t.die.net.roll = some { r with restored := true } ∧ t.die.jobStarted = im.die.jobStarted ∧
    (∀ j : Stn, let x := mget (fun _ => Station.reset) im.die.stns j
      (t.stn j).pm = x.pm ∧ (t.stn j).slots = x.slots ∧ (t.stn j).tokens = x.tokens) ∧
    (∀ a, (∀ q ∈ s.goldenRange :: s.userRanges, a < q.1 ∨ q.1 + q.2 ≤ a) → (∀ c ∈ im.golden ++ im.user, c.1 ≠ a) → mget byte0 t.lpddr a = mget byte0 s.lpddr a) ∧
    (∀ a, mwf byte0 im.golden = true → mwf byte0 s.lpddr = true → s.goldenRange.1 ≤ a → a < s.goldenRange.1 + s.goldenRange.2 → (∀ c ∈ im.user, c.1 ≠ a) →
      mget byte0 t.lpddr a = mget byte0 im.golden a) ∧
    t.snaps = s.snaps ∧ t.fuses = s.fuses := by
  obtain ⟨numbered, valid, roll, started, stns, lp, snaps, fuses⟩ := s.restoreImage_spec im r
  refine ⟨numbered, valid, roll, started, fun j => ?_, fun a out unlisted => ?_, fun a wf _ low high unlisted => ?_, snaps, fuses⟩
  · rw [stns]
    exact mget_resum im.die.stns j
  · rw [lp]
    refine mget_mergeCells_outside _ _ ?_ unlisted
    rw [inRanges, List.any_eq_false]
    intro q hq
    have := out q hq
    simp only [Bool.and_eq_true, decide_eq_true_eq]
    omega
  · rw [lp]
    refine mget_mergeCells_inside _ _ _ ?_ wf unlisted
    simp [inRanges, low, high]

end Sys2Proof.Machine

namespace Sys2Proof
open Machine

/-- Settles O59: step 5 through `StepFive`, the rounds through the arrival of this module and its release, the image through `mergeCells`. -/
theorem domainsRollBack : Obligations.DomainsRollBack := by
  intro s cleared second
  refine ⟨fun i f hl hc => ?_, fun hl hc hu => ?_, fun hl hc hu hr => exec_rollback_idle hl hc hu hr, exec_rollback_unlinked, fun r hl hc hu hr => ?_, fun v hs h => ?_,
    fun v h => ?_, fun c hc hl hr hd ht => ?_, exec_noNoticeRollbackExpiry_still⟩
  · obtain ⟨five, own, twice, once⟩ := s.step5_own f.why i
    exact runs_of (exec_rollback_climbing hl hc) ⟨five.shows, own, twice, once⟩
  · obtain ⟨five, own, twice, once⟩ := s.step5_own ⟨if bitAt (s.reg 0x10000) 8 then 0x0407 else 0x040D, 0, 0⟩ 0x300
    exact runs_of (exec_rollback_lost hl hc hu) ⟨five.shows, own, twice, once⟩
  · have e := exec_rollback_runs hl hc hu hr
    refine ⟨fun own => e.trans (if_pos own), fun own => ?_⟩
    rw [if_neg (by simp [own])] at e
    refine ⟨fun due ha => ?_, fun h2 unrestored => ?_⟩
    · have arrives : exec .rollback s = .next (s.ownArrival .roll 0xFF) := by
        rw [e]
        by_cases h1 : r.round = 1
        · exact if_pos h1
        · exact (if_neg h1).trans (if_pos (due.resolve_left h1))
      refine ⟨fun hch => ?_, fun hch hroot hsent => ?_, fun hch hroot hdom hsent => ⟨fun h1 => ?_, fun h1 => ?_⟩⟩
      · obtain ⟨ilk, kept⟩ := State.ownArrival_roll_waits ha hch
        exact runs_of arrives ⟨ilk, kept.shows hr⟩
      · obtain ⟨ilk, kept⟩ := State.ownArrival_roll_leaf ha hch hroot hsent
        exact runs_of arrives ⟨ilk, kept.shows hr⟩
      · exact runs_of arrives (State.ownArrival_roll_first hr ha hch hroot hdom hsent h1)
      · exact runs_of arrives (State.ownArrival_roll_second hr ha hch hroot hdom hsent h1)
    · rw [if_neg h2, if_neg (by simp [unrestored])] at e
      refine ⟨fun hret => ?_, fun hret hg => ?_, fun im hret hg him => ?_, fun hret hg hnone => ?_⟩
      · refine runs_of (e.trans (congrArg _ (State.roundTwo_retired hret))) ⟨?_, OnlyChanges.setReg ..⟩
        rw [State.reg_setFld, if_pos rfl, bitAt_putFld _ _ _ _ _ (by omega)]
        rfl
      · exact runs_of (e.trans (congrArg _ (State.roundTwo_restart hret hg))) (s.restartJob_spec r)
      · exact runs_of (e.trans (congrArg _ (State.roundTwo_restores hret hg him))) (s.restoreImage_shows im r)
      · rw [e, State.roundTwo_lacks hret hg hnone]
  · have written : (s.leaveL1.setReg 0x60004 (v &&& 3)).reg 0x60004 = v &&& 3 := (State.reg_setReg ..).trans (if_pos rfl)
    refine ⟨fun waits => ?_, fun still => ?_⟩
    · obtain ⟨roll, regs, stns, only, going, begun, -⟩ := (s.leaveL1.setReg 0x60004 (v &&& 3)).beginRoll_spec ⟨0, 0, 0⟩ 0x300
      refine runs_of ((exec_roll_served hs h).trans (congrArg _ (if_pos waits))) ⟨going, begun, roll, (regs _ (by simp)).trans written, fun a ha => ?_, fun j hj => ?_, ?_⟩
      · simp only [List.mem_cons, List.not_mem_nil, or_false, not_or] at ha
        exact (regs a (by simpa using ha.1)).trans ((State.reg_setReg ..).trans (if_neg ha.2))
      · exact (stns j hj).trans (State.stn_setReg ..)
      · exact only.memories.1.trans (State.lpddr_setReg ..)
    · exact runs_of ((exec_roll_served hs h).trans (congrArg _ (if_neg (by simp [still])))) ⟨written, OnlyChanges.setReg ..⟩
  · rw [exec_roll, State.bar0Write_unserved _ (.inl h)]
  · obtain ⟨five, own, retired⟩ := s.step5_silent ⟨0x0602, BitVec.ofNat 32 s.nextIlk.1, BitVec.ofNat 64 c⟩ 0x300
    exact runs_of (exec_noNoticeRollbackExpiry hc hl hr hd ht) ⟨five.shows, own, retired⟩

end Sys2Proof
end

section
/-! PROOFS. Mesh links (O33): the record of a link after it is replaced, the routes that a stopped link closes, and what stopping and retraining it leave. -/
namespace Sys2Proof.Machine

/-! ### The record of a link -/

theorem State.meshLink_key (s : State) (r d : Nat) : (s.meshLink r d).router = r ∧ (s.meshLink r d).dir = d := by
  unfold State.meshLink
  cases h : s.die.links.find? (fun (l : MeshLink) => decide (l.router = r) && decide (l.dir = d)) with
  | none => exact ⟨rfl, rfl⟩
  | some l => simpa using List.find?_some h

theorem State.meshLink_of_links {s t : State} (h : t.die.links = s.die.links) (r d : Nat) : t.meshLink r d = s.meshLink r d := by
  unfold State.meshLink
  rw [h]

/-- A record that is put is the record of its link. -/
theorem State.meshLink_setMeshLink (s : State) (l : MeshLink) : (s.setMeshLink l).meshLink l.router l.dir = l := by
  unfold State.meshLink State.setMeshLink
  dsimp only
  have gone : (s.die.links.filter (fun (k : MeshLink) => !(decide (k.router = l.router) && decide (k.dir = l.dir)))).find?
      (fun k => decide (k.router = l.router) && decide (k.dir = l.dir)) = none :=
    List.find?_eq_none.mpr (fun k hk => by simpa only [Bool.not_eq_true', Bool.not_eq_true] using (List.mem_filter.mp hk).2)
  rw [List.find?_append, gone]
  simp

/-- The record of a link replaced by one of the same link. -/
theorem State.meshLink_replaced (s : State) {r d : Nat} {l : MeshLink} (hr : l.router = r) (hd : l.dir = d) : (s.setMeshLink l).meshLink r d = l := by
  subst hr hd
  exact s.meshLink_setMeshLink l

/-- A stopped link closes every route that crosses it (R299, R301). -/
theorem State.pathOpen_of_stopped {s : State} {r d a b : Nat} (h : (s.meshLink r d).stopped = true) (hc : (r, d) ∈ route a b) : s.pathOpen a b = false := by
  unfold State.meshLink at h
  cases hf : s.die.links.find? (fun (l : MeshLink) => decide (l.router = r) && decide (l.dir = d)) with
  | none => simp [hf] at h
  | some l =>
    have key : l.router = r ∧ l.dir = d := by simpa using List.find?_some hf
    have stopped : l.stopped = true := by simpa [hf] using h
    have crossed : s.die.links.any (fun l => l.stopped && decide (l.router = r) && decide (l.dir = d)) = true :=
      List.any_eq_true.mpr ⟨l, List.mem_of_find?_eq_some hf, by simp [key, stopped]⟩
    exact List.all_eq_false.mpr ⟨(r, d), hc, by rw [crossed]; decide⟩

/-! ### Links through a line clear -/

/-- The records of the mesh links are as before. -/
def LinksKept (s t : State) : Prop := t.die.links = s.die.links

namespace LinksKept

theorem refl (s : State) : LinksKept s s := rfl

theorem trans {s t u : State} (h : LinksKept s t) (k : LinksKept t u) : LinksKept s u := Eq.trans k h

theorem foldl {β : Type} {f : State → β → State} (h : ∀ t b, LinksKept t (f t b)) (l : List β) (s : State) : LinksKept s (l.foldl f s) := by
  induction l generalizing s with
  | nil => exact refl s
  | cons b l ih => exact (h s b).trans (ih _)

theorem setReg (s : State) (a : Nat) (v : Word) : LinksKept s (s.setReg a v) := State.links_setReg ..

theorem setFld (s : State) (a lo len v : Nat) : LinksKept s (s.setFld a lo len v) := State.links_setFld ..

theorem bump (s : State) (a n : Nat) : LinksKept s (s.bump a n) := State.links_bump ..

theorem logFault (s : State) (code step unit : Nat) (d0 : Word) (d1 : BitVec 64) : LinksKept s (s.logFault code step unit d0 d1) := State.links_logFault ..

theorem setNet (s : State) (n : Net) : LinksKept s (s.setNet n) := rfl

theorem sends {s t : State} (h : Sends s t) : LinksKept s t := by
  obtain ⟨_, _, rfl⟩ := h
  rfl

theorem clearUnits (s : State) : LinksKept s s.clearUnits := by
  have stations : LinksKept s s.clearStations := .foldl (fun _ _ => by rfl) _ s
  have tickets (u : State) : LinksKept u u.clearTickets := .foldl (fun _ _ => (setReg ..).trans (setReg ..)) _ u
  have queues (u : State) : LinksKept u u.clearQueues := .foldl (fun _ _ => by rfl) _ u
  have berths (u : State) : LinksKept u u.unberth := by
    refine .foldl (fun t p => ?_) _ u
    split
    · exact (setFld ..).trans (setFld ..)
    · exact refl t
  exact ((stations.trans (tickets _)).trans (queues _)).trans (berths _)

theorem endCoast (s : State) (back : Bool) : LinksKept s (s.endCoast back) := by
  unfold State.endCoast
  dsimp only
  split
  · exact setFld ..
  · exact refl s

theorem lineClear (s : State) (lce : Nat) : LinksKept s (s.lineClear lce) := by
  rw [State.lineClear_eq]
  have drained (u : State) : LinksKept u u.drained := refl u
  exact ((((clearUnits s).trans (drained _)).trans (setReg ..)).trans (setReg ..)).trans (endCoast ..)

theorem startClear (s : State) (w : FaultInfo) (unit : Nat) : LinksKept s (s.startClear w unit) := by
  unfold State.startClear State.actClear
  have cleared (b : FrameBody) (e : Nat) : LinksKept s ((s.flood none b).lineClear e) := (sends (.flood ..)).trans (lineClear ..)
  have rolls (u : State) : LinksKept u (u.beginRoll w unit) := ((setNet u _).trans (setFld ..)).trans (setFld ..)
  dsimp only
  split
  · exact (cleared _ _).trans (rolls _)
  · exact ((cleared _ _).trans (setFld ..)).trans (setFld ..)

theorem retire (s : State) (w : FaultInfo) (unit : Nat) : LinksKept s (s.retire w unit) := by
  unfold State.retire State.takeStep5 State.ladder
  split
  · exact refl s
  · refine LinksKept.trans ?_ (startClear ..)
    exact ((((setFld ..).trans (bump ..)).trans (logFault ..)).trans ((bump ..).trans (logFault ..))).trans (setNet ..)

end LinksKept

/-- Retirement retires a module, one retired already as well, and leaves LPDDR5X (R464). -/
theorem State.retire_retires (s : State) (w : FaultInfo) (unit : Nat) : (s.retire w unit).isRetired = true ∧ (s.retire w unit).lpddr = s.lpddr := by
  cases h : s.isRetired with
  | true =>
    have still : s.retire w unit = s := if_pos h
    rw [still]
    exact ⟨h, rfl⟩
  | false =>
    obtain ⟨five, retired, -⟩ := State.retire_spec h w unit
    exact ⟨retired, five.lpddr⟩

/-! ### A link that stops -/

/-- The record of a stopped link, and the fault that is logged with it (R299). -/
def State.linkStopped (s : State) (l : MeshLink) : State :=
  (s.setMeshLink { l with stopped := true, fails := 0 }).logFault 0x0301 0 l.router (BitVec.ofNat 32 (l.router + l.dir * 256)) 0

theorem State.stopLink_cases (s : State) (l : MeshLink) :
    (s.stopLink l = s.linkStopped l ∧ ∀ n, l.retrained = some n → day ≤ s.uptime - n) ∨
    (∃ w u, s.stopLink l = (s.linkStopped l).retire w u) ∧ ∃ n, l.retrained = some n ∧ s.uptime - n < day := by
  unfold State.stopLink
  dsimp only
  split
  · rename_i n h
    by_cases recent : s.uptime - n < day
    · exact .inr ⟨⟨_, _, if_pos recent⟩, n, h, recent⟩
    · exact .inl ⟨if_neg recent, fun _ e => Option.some.inj (h.symm.trans e) ▸ Nat.le_of_not_lt recent⟩
  · rename_i h
    exact .inl ⟨rfl, fun _ e => nomatch h.symm.trans e⟩

theorem State.linkStopped_spec (s : State) (l : MeshLink) :
    ((s.linkStopped l).meshLink l.router l.dir).stopped = true ∧ (s.linkStopped l).reg 0x6000C = s.reg 0x6000C + 1 ∧
    (s.linkStopped l).reg 0x200010 = s.reg 0x200010 ∧ (s.linkStopped l).die.mesh = s.die.mesh ∧ SameStns s (s.linkStopped l) [] ∧
    (s.linkStopped l).lpddr = s.lpddr := by
  unfold State.linkStopped
  refine ⟨?_, State.wr_logFault .., State.reg_logFault _ _ _ _ _ _ _ (by omega) (by omega) (by omega), State.mesh_logFault .., fun j _ => State.stn_logFault ..,
    State.lpddr_logFault ..⟩
  rw [State.meshLink_of_links (State.links_logFault ..), State.meshLink_replaced s rfl rfl]

/-- What stopping a link shows: the link is stopped, and soon after its last retraining the module retires (R299, R464). -/
theorem State.stopLink_spec (s : State) (l : MeshLink) :
    ((s.stopLink l).meshLink l.router l.dir).stopped = true ∧ (∀ n, l.retrained = some n → s.uptime - n < day → (s.stopLink l).isRetired = true) ∧
    ((∀ n, l.retrained = some n → day ≤ s.uptime - n) → s.stopLink l = s.linkStopped l) ∧ (s.stopLink l).lpddr = s.lpddr := by
  obtain ⟨stopped, -, -, -, -, lp⟩ := s.linkStopped_spec l
  rcases s.stopLink_cases l with ⟨e, old⟩ | ⟨⟨w, u, e⟩, n, hn, recent⟩
  · exact ⟨e ▸ stopped, fun n hn recent => absurd recent (Nat.not_lt.mpr (old n hn)), fun _ => e, e ▸ lp⟩
  · obtain ⟨retired, same⟩ := (s.linkStopped l).retire_retires w u
    rw [e]
    refine ⟨?_, fun _ _ _ => retired, fun old => absurd recent (Nat.not_lt.mpr (old n hn)), same.trans lp⟩
    rw [State.meshLink_of_links (LinksKept.retire ..)]
    exact stopped

/-! ### The commands -/

/-- Mesh links work: the link exists, the die has power and no halt is in progress (R298). -/
def State.linkWorks (s : State) (r d : Nat) : Bool := linkExists r d && s.powered && decide (s.supState = 0)

/-- The successive failures of a link with one more (R299). -/
def MeshLink.failsNow (l : MeshLink) (again : Bool) : Nat := if again then l.fails + 1 else 1

section
variable {s : State} (r : Fin 176) (d : Fin 4)

theorem exec_flitCrcRetransmit (again : Bool) (h : s.linkWorks r d = true) (hs : (s.meshLink r d).stopped = false) :
    exec (.flitCrcRetransmit r d again) s =
      if 8 ≤ (s.meshLink r d).failsNow again then .next (s.stopLink (s.meshLink r d))
      else .next ((s.setMeshLink { s.meshLink r d with fails := (s.meshLink r d).failsNow again }).bump 0x200010 1) := by
  change execFlitCrcRetransmit r d again s = _
  refine (if_pos ?_).trans rfl
  rw [hs, Bool.not_false, Bool.and_true]
  exact h

theorem exec_flitCrcRetransmit_still (again : Bool) (h : s.linkWorks r d = false ∨ (s.meshLink r d).stopped = true) :
    exec (.flitCrcRetransmit r d again) s = .next s := by
  change execFlitCrcRetransmit r d again s = _
  refine if_neg ?_
  change ¬ (s.linkWorks r d && !(s.meshLink r d).stopped) = true
  rcases h with h | h
  · simp [h]
  · simp [h]

theorem exec_meshLinkRetrain (h : s.linkWorks r d = true) (hs : (s.meshLink r d).stopped = true) (hr : s.isRetired = false) :
    exec (.meshLinkRetrain r d) s = .next (s.setMeshLink { s.meshLink r d with stopped := false, fails := 0, retrained := some s.uptime }) := by
  change execMeshLinkRetrain r d s = _
  refine if_pos ?_
  rw [hs, hr, Bool.not_false, Bool.and_true, Bool.and_true]
  exact h

theorem exec_meshLinkRetrain_still (h : s.linkWorks r d = false ∨ (s.meshLink r d).stopped = false ∨ s.isRetired = true) :
    exec (.meshLinkRetrain r d) s = .next s := by
  change execMeshLinkRetrain r d s = _
  refine if_neg ?_
  change ¬ (s.linkWorks r d && (s.meshLink r d).stopped && !s.isRetired) = true
  rcases h with h | h | h
  · simp [h]
  · simp [h]
  · simp [h]

theorem State.linkWorks_eq_false : s.linkWorks r d = false ↔ linkExists r d = false ∨ s.powered = false ∨ s.supState ≠ 0 := by
  simp only [State.linkWorks, Bool.and_eq_false_iff, decide_eq_false_iff_not, or_assoc]

end

end Sys2Proof.Machine

namespace Sys2Proof
open Machine

/-- Settles O33: a failure that is counted, the eighth through `State.stopLink_spec`, and the retraining by the record that it puts. -/
theorem meshLinksRetryAndStop : Obligations.MeshLinksRetryAndStop := by
  intro s r d
  obtain ⟨router, dir⟩ := s.meshLink_key r d
  refine ⟨fun hp hu he => ?_, fun again h => exec_flitCrcRetransmit_still r d again ?_, fun h => exec_meshLinkRetrain_still r d ?_⟩
  · have works : s.linkWorks r d = true := by simp [State.linkWorks, hp, hu, he]
    refine ⟨fun again hs => ⟨fun few => ?_, fun ha hn => ?_⟩, fun hs hr => ?_⟩
    · refine runs_of ((exec_flitCrcRetransmit r d again works hs).trans (if_neg (Nat.not_le.mpr few))) ?_
      obtain ⟨counted, regs, stns, -⟩ := (s.setMeshLink { s.meshLink r d with fails := (s.meshLink r d).failsNow again }).bump_only 0x200010
      refine ⟨?_, counted, State.mesh_bump .., regs, stns, State.lpddr_bump ..⟩
      rw [State.meshLink_of_links (State.links_bump ..)]
      exact s.meshLink_replaced router dir
    · obtain ⟨stopped, retires, old, lp⟩ := s.stopLink_spec (s.meshLink r d)
      rw [router, dir] at stopped
      refine runs_of ((exec_flitCrcRetransmit r d again works hs).trans (if_pos ?_)) ⟨stopped, fun a b => State.pathOpen_of_stopped stopped, retires, fun h => ?_, lp⟩
      · rw [ha]
        exact Nat.succ_le_succ hn
      · obtain ⟨-, logged, errors, mesh, stns, -⟩ := s.linkStopped_spec (s.meshLink r d)
        rw [old h]
        exact ⟨logged, errors, mesh, stns⟩
    · have record := s.meshLink_replaced (l := { s.meshLink r d with stopped := false, fails := 0, retrained := some s.uptime }) router dir
      exact runs_of (exec_meshLinkRetrain r d works hs hr) ⟨congrArg MeshLink.stopped record, congrArg MeshLink.retrained record, rfl, fun _ _ => rfl, fun _ _ => rfl, rfl⟩
  · rw [State.linkWorks_eq_false]
    tauto
  · rw [State.linkWorks_eq_false]
    tauto

end Sys2Proof
end

section
/-! PROOFS. The mesh port of a station (O23): WR flits that are written, slip or wait, and reads of a station's own sends that meet its writes. -/
namespace Sys2Proof.Machine

/-! ### Lines counted at a destination -/

/-- The lines of a transaction read as they were put. -/
theorem Station.gotOf_setGot (x : Station) (f : Flit) (ls : List Nat) : (x.setGot f ls).gotOf f.req f.mod f.txn = ls := by
  have gone : (x.got.filter (fun a => !(decide (a.req = f.req) && decide (a.mod = f.mod) && decide (a.txn = f.txn)))).find?
      (fun a => decide (a.req = f.req) && decide (a.mod = f.mod) && decide (a.txn = f.txn)) = none :=
    List.find?_eq_none.mpr (fun a ha => by simpa only [Bool.not_eq_true', Bool.not_eq_true] using (List.mem_filter.mp ha).2)
  unfold Station.gotOf Station.setGot
  dsimp only
  cases ls with
  | nil =>
    rw [if_pos List.isEmpty_nil, gone]
  | cons l r =>
    rw [if_neg (by simp), List.find?_append, gone]
    simp

/-! ### Acknowledgements -/

theorem State.reg_respond (s : State) (node : Nat) (f : Flit) (b : FlitBody) (a : Nat) : (s.respond node f b).reg a = s.reg a := by
  unfold State.respond
  dsimp only
  split
  · rfl
  · rename_i m _
    obtain ⟨n, sent⟩ := Sends.sendOut s node m (stnIdx node + stnIdx f.req) [⟨node, f.req, f.req, f.txn, none, b⟩]
    exact sent.reg a

theorem State.reg_acknowledged (s : State) (i : Nat) (f : Flit) (a : Nat) : (s.acknowledge i f).reg a = s.reg a := by
  unfold State.acknowledge
  split
  · rfl
  · split
    · exact s.reg_respond i f .ack a
    · rfl

/-- A requester that is the destination counts for itself (R307). -/
theorem State.acknowledge_self (s : State) {i : Nat} {f : Flit} (h : f.req = i) (hm : f.mod = none) :
    s.acknowledge i f = s.setStn i ((s.stn i).acked f.txn) := if_pos (by simp [h, hm])

/-- Another station of this module is told (R307). -/
theorem State.mesh_acknowledge (s : State) {i : Nat} {f : Flit} (hr : f.req < 128) (h : f.req ≠ i) (hm : f.mod = none) :
    (s.acknowledge i f).die.mesh = s.die.mesh ++ [⟨i, f.req, f.req, f.txn, none, .ack⟩] := by
  unfold State.acknowledge
  rw [if_neg (by simp [h]), if_pos hr, State.respond_here s i .ack hm]
  rfl

/-! ### Lines that arrive -/

/-- A line that shows no TAG shows no slip (R146). -/
theorem arrivalSlip_none (st : Option Stream) (old new : List Nat) : arrivalSlip st old new none = none := by
  cases st with
  | none => rfl
  | some _ => rfl

section
variable {s : State} {i : Nat} {f : Flit} {bs : List MaskedByte} {ls : List Nat} {total : Nat} {st : Option Stream} {sl : Option Slip}

/-- A line that shows no slip is served as one without a TAG (R146, R309). -/
theorem State.serveWr_noSlip (h : arrivalSlip st ((s.stn i).gotOf f.req f.mod f.txn) ((s.stn i).gotOf f.req f.mod f.txn ++ ls).dedup sl = none) :
    s.serveWr i f bs ls total st sl = s.serveWr i f bs ls total st none := by
  unfold State.serveWr
  dsimp only
  rw [h, arrivalSlip_none]

/-- A line written, and the lines of its transaction counted so far (R308). -/
def State.wrLanded (s : State) (i : Nat) (f : Flit) (bs : List MaskedByte) (ls : List Nat) : State :=
  (s.pmMask i bs).setStn i (((s.pmMask i bs).stn i).setGot f ls)

theorem State.serveWr_eq (s : State) (i : Nat) (f : Flit) (bs : List MaskedByte) (ls : List Nat) (total : Nat) (st : Option Stream) :
    s.serveWr i f bs ls total st none =
      if total ≤ ((s.stn i).gotOf f.req f.mod f.txn ++ ls).dedup.length then (s.wrLanded i f bs []).acknowledge i f
      else s.wrLanded i f bs ((s.stn i).gotOf f.req f.mod f.txn ++ ls).dedup := by
  unfold State.serveWr State.wrLanded
  dsimp only
  rw [arrivalSlip_none]

theorem State.stn_wrLanded (s : State) (i : Nat) (f : Flit) (bs : List MaskedByte) (ls : List Nat) :
    (s.wrLanded i f bs ls).stn i = ({ s.stn i with pm := pmApply (s.stn i).pm bs } : Station).setGot f ls := by
  unfold State.wrLanded State.pmMask
  rw [State.stn_setStn, if_pos rfl, State.stn_setStn, if_pos rfl]

/-- A line whose transaction is not complete is counted (R307). -/
theorem State.serveWr_part (h : ((s.stn i).gotOf f.req f.mod f.txn ++ ls).dedup.length < total) :
    let t := s.serveWr i f bs ls total st none
    (t.stn i).gotOf f.req f.mod f.txn = ((s.stn i).gotOf f.req f.mod f.txn ++ ls).dedup ∧ t.die.mesh = s.die.mesh := by
  dsimp only
  rw [State.serveWr_eq, if_neg (Nat.not_le.mpr h), State.stn_wrLanded]
  exact ⟨Station.gotOf_setGot .., rfl⟩

/-- A line that completes a block with a wrong TAG sends its instruction to the replay, and is not written (R146, R147). -/
theorem State.serveWr_slips {q : Slip} {g : Flight}
    (h : arrivalSlip st ((s.stn i).gotOf f.req f.mod f.txn) ((s.stn i).gotOf f.req f.mod f.txn ++ ls).dedup sl = some q) (hm : f.mod = none)
    (hg : (s.stn f.req).flightOf f.txn = some g) :
    let t := s.serveWr i f bs ls total st sl
    (∃ r, (t.stn f.req).flightOf f.txn = some r ∧ r.stage = .recover (if g.attempts = 0 then 1 else 4) ∧ r.why.code = 0x0102) ∧
    t.reg 0x6000C = s.reg 0x6000C + 1 ∧ (∀ j, (t.stn j).pm = (s.stn j).pm ∧ (t.stn j).slots = (s.stn j).slots ∧ (t.stn j).tokens = (s.stn j).tokens) ∧ t.lpddr = s.lpddr := by
  generalize hu : s.setStn i ((s.stn i).setGot f []) = u
  have ustn (j : Nat) : ∃ l, u.stn j = { s.stn j with got := l } := by
    rw [← hu, State.stn_setStn]
    split
    · rename_i e
      rw [e]
      exact ⟨_, rfl⟩
    · exact ⟨_, rfl⟩
  have ureg : u.reg 0x6000C = s.reg 0x6000C := hu ▸ rfl
  have ulp : u.lpddr = s.lpddr := hu ▸ rfl
  have found : (u.stn f.req).flightOf f.txn = some g := by
    obtain ⟨l, e⟩ := ustn f.req
    rw [e]
    exact hg
  obtain ⟨member, seq⟩ := Station.mem_flightOf found
  obtain ⟨replay, wr, kept, lp⟩ := State.slip_dropFlits_spec q member
  have served : s.serveWr i f bs ls total st sl = (u.slip f.req g q).dropFlits f.req := by
    unfold State.serveWr State.slipArrival
    dsimp only
    rw [h, hu]
    dsimp only
    split
    · rename_i m e
      exact nomatch hm.symm.trans e
    · rw [found]
  rw [seq] at replay
  dsimp only
  rw [served]
  refine ⟨replay, wr.trans (congrArg (· + 1) ureg), fun j => ?_, lp.trans ulp⟩
  obtain ⟨pm, slots, tokens⟩ := kept j
  obtain ⟨l, e⟩ := ustn j
  rw [e] at pm slots tokens
  exact ⟨pm, slots, tokens⟩

variable (h : total ≤ ((s.stn i).gotOf f.req f.mod f.txn ++ ls).dedup.length)
include h

/-- The last line of a transaction of another station of this module is acknowledged (R307). -/
theorem State.serveWr_acknowledges (hr : f.req < 128) (hi : f.req ≠ i) (hm : f.mod = none) :
    (s.serveWr i f bs ls total st none).die.mesh = s.die.mesh ++ [⟨i, f.req, f.req, f.txn, none, .ack⟩] := by
  rw [State.serveWr_eq, if_pos h]
  exact State.mesh_acknowledge _ hr hi hm

/-- The last line of a transaction of the station itself counts an acknowledgement off (R307). -/
theorem State.serveWr_counts (hi : f.req = i) (hm : f.mod = none) :
    let t := s.serveWr i f bs ls total st none
    t.die.mesh = s.die.mesh ∧
    ∀ g, (s.stn i).flightOf f.txn = some g → g.acks ≤ 1 → g.stage = .sent → opc g.word ≠ 0x20 → (t.stn i).flightOf f.txn = none := by
  dsimp only
  rw [State.serveWr_eq, if_pos h, State.acknowledge_self _ hi hm, State.stn_setStn, if_pos rfl, State.stn_wrLanded]
  refine ⟨rfl, fun g hg ha hs ho => ?_⟩
  have flying : (({ s.stn i with pm := pmApply (s.stn i).pm bs } : Station).setGot f []).flightOf f.txn = some g := hg
  exact (Station.flightOf_acked flying).trans (if_pos ⟨ha, hs, ho⟩)

end

theorem State.reg_serveWr (s : State) (i : Nat) (f : Flit) (bs : List MaskedByte) (ls : List Nat) (total : Nat) (st : Option Stream) (a : Nat) :
    (s.serveWr i f bs ls total st none).reg a = s.reg a := by
  rw [State.serveWr_eq]
  split
  · exact State.reg_acknowledged ..
  · rfl

/-! ### The arrival -/

theorem exec_meshWrArrival {s : State} {i : Stn} {src : Nat} {f : Flit} {rest : List Flit} {bs : List MaskedByte} {ls : List Nat} {total : Nat} {st : Option Stream}
    (met : Contended) (sl : Option Slip) (hw : s.works = true) (h : s.nextRequest src i = some (f, rest)) (hb : f.body = .wr bs ls total st) :
    exec (.meshWrArrival i src met sl) s =
      if (s.stn i).sleeps then .next (s.holdAtRouter i f rest)
      else .next (((s.setMesh rest).portMet i 0 met.busy.val met.refused).serveWr i f bs ls total st sl) := by
  change execMeshWrArrival i src met sl s = _
  unfold execMeshWrArrival
  rw [h]
  dsimp only
  rw [hb]
  exact if_pos hw

/-- A counter of the mesh port rises with what an access to platform memory met (R93, R95). -/
theorem portCount_eq (v : Word) (n : Nat) : (if 0 < 0x100000 ∧ 0 < n then satAdd v n else v) = if n = 0 then v else satAdd v n := by
  cases n with
  | zero => rfl
  | succ n => rw [if_pos (by omega), if_neg (by omega)]

/-- The counters of an access that meets collisions and refusals are the station's own (R93, R95). -/
theorem State.portMet_observed (s : State) (i off busy refused : Nat) (hi : i < 128) : OnlyChanges s (s.portMet i off busy refused) (obsRegs i) [] := by
  refine (s.portMet_spec i off busy refused hi).2.mono (fun a ha => ?_) (fun _ h => h)
  simp only [List.mem_cons, List.not_mem_nil, or_false] at ha
  rcases ha with rfl | rfl
  · exact List.mem_cons_self
  · exact List.mem_cons_of_mem _ (List.mem_map.mpr ⟨4, by decide, rfl⟩)

/-! ### Reads that meet a write -/

theorem length_mixMesh {pm : SMap Byte} {i addr r : Nat} {fs : List Flight} {l m : List Flit} (h : mixMesh pm i addr r fs l = some m) : m.length = l.length := by
  induction l generalizing m with
  | nil => exact nomatch h
  | cons g rest ih =>
    unfold mixMesh at h
    split at h
    · cases h
      rfl
    · cases hr : mixMesh pm i addr r fs rest with
      | none => simp [hr] at h
      | some k =>
        rw [hr] at h
        cases h
        exact congrArg (· + 1) (ih hr)

/-- Bytes written inside one line leave every other line (R289). -/
theorem State.line_setPart_other (s : State) {l k off : Nat} {bs : List Byte} (h : off + bs.length ≤ 64) (hk : k ≠ l) : (s.setPart (l * 64 + off) bs).line k = s.line k := by
  unfold State.line
  refine List.map_congr_left (fun n hn => (TouchesLine.setPart (line := l) s h).bytes _ ?_)
  have := List.mem_range.mp hn
  omega

/-- What a send changes whose read and its retry met a write: one flit, or part of one LPDDR5X line to which the station has stored, or nothing (R94, R95). -/
theorem State.mixSend_cases (s : State) (i addr : Nat) :
    s.mixSend i addr = s ∨ (∃ m, s.mixSend i addr = s.fresh.2.setMesh m ∧ m.length = s.die.mesh.length) ∨
    ∃ l off bs, s.mixSend i addr = s.fresh.2.setPart (l * 64 + off) bs ∧ off + bs.length ≤ 64 ∧ ∃ f ∈ (s.stn i).iss.flight, movedFar addr f = some l := by
  unfold State.mixSend
  dsimp only [State.fresh]
  split
  · rename_i m mixed
    exact .inr (.inl ⟨m, rfl, length_mixMesh mixed⟩)
  · split
    · rename_i l moved
      obtain ⟨f, hf, far⟩ := List.exists_of_findSome?_eq_some moved
      refine .inr (.inr ⟨l, _, _, rfl, ?_, f, List.mem_of_mem_filter hf, far⟩)
      simp only [mixRun, State.memBytes, List.length_map, List.length_zip, List.length_range]
      omega
    · exact .inl rfl

theorem State.mixSend_spec (s : State) (i addr : Nat) :
    let t := s.mixSend i addr
    (∀ a, t.reg a = s.reg a) ∧ (∀ j, t.stn j = s.stn j) ∧ t.die.mesh.length = s.die.mesh.length ∧
    (∀ l, (∀ f ∈ (s.stn i).iss.flight, movedFar addr f ≠ some l) → t.line l = s.line l) := by
  rcases s.mixSend_cases i addr with e | ⟨m, e, same⟩ | ⟨l, off, bs, e, fits, f, hf, far⟩
  · rw [e]
    exact ⟨fun _ => rfl, fun _ => rfl, rfl, fun _ _ => rfl⟩
  · rw [e]
    exact ⟨fun _ => rfl, fun _ => rfl, same, fun _ _ => rfl⟩
  · rw [e]
    refine ⟨fun _ => rfl, fun _ => rfl, rfl, fun k hk => ?_⟩
    have other : k ≠ l := fun h => hk f hf (h ▸ far)
    exact s.fresh.2.line_setPart_other fits other

theorem exec_meshReadRetry_once {s : State} (i : Stn) (addr : Nat) (h : s.works = true) :
    exec (.meshReadRetry i addr false) s = .next (s.bump (0x204000 + 4 * i.val) 1) := if_pos h

theorem exec_meshReadRetry_twice {s : State} (i : Stn) (addr : Nat) (h : s.works = true) :
    exec (.meshReadRetry i addr true) s = .next ((s.bump (0x204000 + 4 * i.val) 2).mixSend i addr) := if_pos h

end Sys2Proof.Machine

namespace Sys2Proof
open Machine

/-- Settles O23: the counters through `State.portMet_spec`, the line through `State.serveWr_spec`, a slip through the replay, and the word sent through `State.mixSend_spec`. -/
theorem meshPortAccesses : Obligations.MeshPortAccesses := by
  intro s i hw
  refine ⟨fun src busy refused sl f rest bs ls total st h hb => ?_, fun addr => ⟨?_, ?_⟩⟩
  · have arrives := exec_meshWrArrival ⟨busy, refused⟩ sl hw h hb
    obtain ⟨⟨busyReg, refusedReg⟩, -⟩ := (s.setMesh rest).portMet_spec i 0 busy.val refused i.isLt
    have met := (s.setMesh rest).portMet_observed i 0 busy.val refused i.isLt
    generalize hu : (s.setMesh rest).portMet i 0 busy.val refused = u at arrives met busyReg refusedReg
    have ustn (j : Nat) : u.stn j = s.stn j := met.2.1 j List.not_mem_nil
    refine ⟨fun awake good => ?_, fun q g awake slips hm hg => ?_, fun sleeps room => ?_⟩
    · rw [← ustn i] at good
      refine runs_of (arrives.trans (if_neg (by simp [awake]))) ?_
      rw [State.serveWr_noSlip good]
      obtain ⟨⟨banks, -, -, -, -, slots⟩, pm, tokens, -, stns⟩ := u.serveWr_spec i f bs ls total st
      have regs := u.reg_serveWr i f bs ls total st
      rw [ustn i] at banks slots pm tokens
      refine ⟨pm, fun j hj => ?_, (regs _).trans (busyReg.trans (portCount_eq _ _)), (regs _).trans (refusedReg.trans (portCount_eq _ _)), fun few => ?_,
        fun all hr hi hm => ?_, fun all hi hm => ?_, slots id, banks, tokens, fun a ha => (regs a).trans (met.1 a ha), fun j hj => (stns j hj).trans (ustn j), ?_⟩
      · rw [pm]
        exact mget_pmApply_other _ _ hj
      · rw [← ustn i] at few ⊢
        obtain ⟨got, mesh⟩ := State.serveWr_part (bs := bs) (st := st) few
        exact ⟨got, mesh.trans met.mesh⟩
      · rw [← ustn i] at all
        exact (State.serveWr_acknowledges all hr hi hm).trans (congrArg (· ++ _) met.mesh)
      · rw [← ustn i] at all ⊢
        obtain ⟨mesh, off⟩ := State.serveWr_counts (bs := bs) (st := st) all hi hm
        exact ⟨mesh.trans met.mesh, off⟩
      · exact (congrArg (·.2.2.1) (u.serveWr_outside i f bs ls total st none)).trans met.lpddr
    · rw [← ustn i] at slips
      rw [← ustn f.req] at hg
      obtain ⟨replay, wr, kept, lp⟩ := State.serveWr_slips (bs := bs) (total := total) slips hm hg
      refine runs_of (arrives.trans (if_neg (by simp [awake]))) ⟨replay, ?_, fun j => ?_, lp.trans met.lpddr⟩
      · rw [wr, met.1 _ (not_mem_obsRegs i (by omega))]
        rfl
      · rw [← ustn j]
        exact kept j
    · obtain ⟨⟨w, own⟩, mesh, regs, stns, lp⟩ := State.holdAtRouter_room f rest room
      refine runs_of (arrives.trans (if_pos sleeps)) ?_
      rw [own]
      exact ⟨rfl, mesh, rfl, regs, stns, lp⟩
  · exact runs_of (exec_meshReadRetry_once i addr hw) (s.bump_only _)
  · obtain ⟨regs, stns, mesh, lines⟩ := (s.bump (0x204000 + 4 * i.val) 2).mixSend_spec i addr
    refine runs_of (exec_meshReadRetry_twice i addr hw) ⟨?_, mesh.trans (congrArg _ (State.mesh_bump ..)), fun l hl => ?_, fun a ha => ?_, fun j _ => ?_⟩
    · rw [regs, State.reg_bump, if_pos rfl]
    · rw [lines l (by simpa using hl)]
      unfold State.line
      rw [State.lpddr_bump]
    · rw [regs, State.reg_bump, if_neg (by simpa using ha)]
    · rw [stns, State.stn_bump]

end Sys2Proof
end

section
/-! PROOFS. Line clears (O42): every station cleared, the tickets at 0, the mesh and the collectives empty, and the rollback or the wait for ROLL that follows. -/
namespace Sys2Proof.Machine

/-! ### Stations and tickets -/

theorem Station.cleared_cleared (x : Station) : x.cleared.cleared = x.cleared := by simp [Station.cleared]

/-- Clearing the stations of a list clears each that it names, once or more often. -/
theorem State.stn_foldl_cleared (l : SMap Station) (s : State) (j : Nat) :
    (l.foldl (fun (t : State) p => t.setStn p.1 (t.stn p.1).cleared) s).stn j = if j ∈ l.map (·.1) then (s.stn j).cleared else s.stn j := by
  induction l generalizing s with
  | nil => rfl
  | cons p r ih =>
    rw [List.foldl_cons, ih, State.stn_setStn]
    by_cases hj : j = p.1
    · subst hj
      simp [Station.cleared_cleared]
    · rw [if_neg hj]
      exact if_congr (by rw [List.map_cons, List.mem_cons, or_iff_right hj]) rfl rfl

/-- A line clear meets every station (R343): an unlisted one is as a reset leaves it, which clearing does not change. -/
theorem State.stn_clearStations_eq (s : State) (j : Nat) : s.clearStations.stn j = (s.stn j).cleared := by
  unfold State.clearStations
  rw [State.stn_foldl_cleared]
  split
  · rfl
  · rename_i unlisted
    rw [show s.stn j = Station.reset from mget_of_not_mem unlisted]
    rfl

/-- VAL and LIMIT of every ticket counter read 0 after a line clear has met the counters (R343). -/
theorem State.reg_clearTickets (s : State) {c a : Nat} (hc : c < 64) (ha : a = tktBase c ∨ a = tktBase c + 4) : s.clearTickets.reg a = 0 := by
  have all (l : List Nat) (t : State) : (l.foldl (fun (t : State) c => (t.setReg (0x208000 + 0x10 * c) 0).setReg (0x208004 + 0x10 * c) 0) t).reg a =
      if c ∈ l then 0 else t.reg a := by
    induction l generalizing t with
    | nil => rfl
    | cons d r ih =>
      rw [List.foldl_cons, ih, State.reg_setReg, State.reg_setReg]
      by_cases hd : d = c
      · subst hd
        have own : a = 0x208004 + 0x10 * d ∨ a = 0x208000 + 0x10 * d := by
          unfold tktBase at ha
          omega
        rcases own with rfl | rfl <;> simp
      · have other : a ≠ 0x208004 + 0x10 * d ∧ a ≠ 0x208000 + 0x10 * d := by
          unfold tktBase at ha
          omega
        simp [other, Ne.symm hd]
  exact (all _ s).trans (if_pos (List.mem_range.mpr hc))

theorem State.reg_foldl {β : Type} {f : State → β → State} {a : Nat} (h : ∀ t b, (f t b).reg a = t.reg a) (l : List β) (s : State) :
    (l.foldl f s).reg a = s.reg a := by
  induction l generalizing s with
  | nil => rfl
  | cons b r ih => exact (ih _).trans (h s b)

theorem State.reg_clearQueues (s : State) (a : Nat) : s.clearQueues.reg a = s.reg a := by
  refine State.reg_foldl (fun t p => ?_) _ s
  rfl

theorem State.reg_unberth (s : State) {a : Nat} (h : a < 0x400000) : s.unberth.reg a = s.reg a := by
  refine State.reg_foldl (fun t p => ?_) _ s
  split
  · rename_i i _
    have session : a ≠ sessAddr i 0 := by
      unfold sessAddr
      omega
    exact ((State.reg_setFld ..).trans (if_neg session)).trans ((State.reg_setFld ..).trans (if_neg session))
  · rfl

/-! ### A line clear -/

theorem State.coasting_endCoast (s : State) (back : Bool) : (s.endCoast back).coasting = false := by
  unfold State.endCoast
  dsimp only
  split
  · change bitAt ((s.setFld 0x30000 7 1 0).reg 0x30000) 7 = false
    rw [State.reg_setFld, if_pos rfl, bitAt_putFld _ _ _ _ _ (by omega)]
    rfl
  · simpa using ‹¬ s.coasting = true›

theorem State.mesh_endCoast (s : State) (back : Bool) : (s.endCoast back).die.mesh = s.die.mesh := by
  unfold State.endCoast
  dsimp only
  split
  · exact State.mesh_setFld ..
  · rfl

theorem State.stn_lineClear_eq (s : State) (lce j : Nat) : (s.lineClear lce).stn j = (s.stn j).cleared := by
  have low := ((State.clearTickets_low s.clearStations).trans (State.clearQueues_low _)).trans (State.unberth_low _)
  rw [State.lineClear_eq, State.stn_endCoast, State.stn_setReg, State.stn_setReg, State.stn_drained, ← State.stn_clearStations_eq]
  exact low.stns j

theorem State.mesh_lineClear (s : State) (lce : Nat) : (s.lineClear lce).die.mesh = [] := by
  rw [State.lineClear_eq, State.mesh_endCoast, State.mesh_setReg, State.mesh_setReg]
  rfl

theorem State.net_lineClear (s : State) (lce : Nat) : (s.lineClear lce).die.net = s.die.net.cleared := by
  rw [State.lineClear_eq, State.net_endCoast, State.net_setReg, State.net_setReg]
  exact congrArg Net.cleared s.clearUnits_spec.2.2

theorem State.iseq_lineClear (s : State) (lce : Nat) : (s.lineClear lce).reg 0x80830 = 0 := by
  rw [State.lineClear_eq, State.reg_endCoast _ _ _ (by omega), State.reg_setReg, if_neg (by omega), State.reg_setReg, if_pos rfl]

theorem State.tickets_lineClear (s : State) (lce : Nat) {c a : Nat} (hc : c < 64) (ha : a = tktBase c ∨ a = tktBase c + 4) : (s.lineClear lce).reg a = 0 := by
  have range : 0x208000 ≤ a ∧ a < 0x400000 := by
    unfold tktBase at ha
    omega
  rw [State.lineClear_eq, State.reg_endCoast _ _ _ (by omega), State.reg_setReg, if_neg (by omega), State.reg_setReg, if_neg (by omega), State.reg_drained]
  exact (State.reg_unberth _ range.2).trans ((State.reg_clearQueues ..).trans (State.reg_clearTickets _ hc ha))

theorem DieOnly.snaps {s t : State} (h : DieOnly s t) : t.snaps = s.snaps := by
  obtain ⟨_, _, _, _, rfl⟩ := h
  rfl

/-! ### What follows a line clear -/

/-- ROLLBACK and WAITROLL of FAULT_STATUS set to two values (R460). -/
def State.markRoll (s : State) (going waits : Bool) : State := (s.setFld 0x60000 2 1 going.toNat).setFld 0x60000 3 1 waits.toNat

theorem State.reg_markRoll (s : State) (going waits : Bool) {a : Nat} (h : a ≠ 0x60000) : (s.markRoll going waits).reg a = s.reg a := by
  unfold State.markRoll
  rw [State.reg_setFld, if_neg h, State.reg_setFld, if_neg h]

theorem State.bits_markRoll (s : State) (going waits : Bool) :
    bitAt ((s.markRoll going waits).reg 0x60000) 2 = going ∧ bitAt ((s.markRoll going waits).reg 0x60000) 3 = waits := by
  have bit (b : Bool) : b.toNat.testBit 0 = b := by cases b <;> rfl
  unfold State.markRoll
  constructor
  · rw [State.bit_setFld _ _ _ _ _ _ (by omega) (by omega), State.reg_setFld, if_pos rfl, bitAt_putFld _ _ _ _ _ (by omega)]
    exact bit going
  · rw [State.reg_setFld, if_pos rfl, bitAt_putFld _ _ _ _ _ (by omega)]
    exact bit waits

/-- What a line clear with the epoch `lce` makes of a module (R343, R375, R460). -/
structure LineCleared (s : State) (lce : Nat) (t : State) : Prop where
  stns : ∀ j, t.stn j = (s.stn j).cleared
  mesh : t.die.mesh = []
  insts : t.die.net.insts = []
  snap : t.die.net.snap = none
  snaps : t.snaps = s.snaps
  coast : t.coasting = false
  tickets : ∀ c < 64, t.reg (tktBase c) = 0 ∧ t.reg (tktBase c + 4) = 0
  iseq : t.reg 0x80830 = 0
  epoch : t.reg 0x80834 = BitVec.ofNat 32 lce
  auto : bitAt (s.reg 0x60004) 0 = true → (∃ w u, t.die.net.roll = some ⟨1, 0, false, w, u⟩) ∧ bitAt (t.reg 0x60000) 2 = true ∧ bitAt (t.reg 0x60000) 3 = false
  waits : bitAt (s.reg 0x60004) 0 = false → t.die.net.roll = none ∧ bitAt (t.reg 0x60000) 2 = false ∧ bitAt (t.reg 0x60000) 3 = true
  lpddr : t.lpddr = s.lpddr
  fuses : t.fuses = s.fuses

/-- With AUTO set the rollback begins, without it the module waits for ROLL (R460, R461). -/
theorem State.actClear_eq (s : State) (lce : Nat) (w : FaultInfo) (unit : Nat) :
    s.actClear lce w unit =
      if bitAt (s.reg 0x60004) 0 then
        ((s.lineClear lce).setNet { (s.lineClear lce).die.net with roll := some ⟨1, 0, false, w, unit⟩, rollIlk := Ilk.reset }).markRoll true false
      else (s.lineClear lce).markRoll false true := by
  unfold State.actClear
  dsimp only
  rw [State.reg_lineClear _ _ (by omega) (by omega) (by omega) (by omega)]
  rfl

/-- The cleared module, whatever rollback its collectives service then notes. -/
theorem State.markRoll_lineCleared (s : State) {lce : Nat} (he : lce < 65536) {u : State} (hn : u.die.net.insts = [] ∧ u.die.net.snap = none)
    (hr : ∀ a, u.reg a = (s.lineClear lce).reg a) (hs : ∀ j, u.stn j = (s.lineClear lce).stn j) (hm : u.die.mesh = []) (ho : DieOnly s u) (going waits : Bool)
    (auto : bitAt (s.reg 0x60004) 0 = true → (∃ w n, u.die.net.roll = some ⟨1, 0, false, w, n⟩) ∧ going = true ∧ waits = false)
    (still : bitAt (s.reg 0x60004) 0 = false → u.die.net.roll = none ∧ going = false ∧ waits = true) :
    LineCleared s lce (u.markRoll going waits) := by
  have net : (u.markRoll going waits).die.net = u.die.net := (State.net_setFld ..).trans (State.net_setFld ..)
  have only := (ho.trans (.setFld u 0x60000 2 1 going.toNat)).trans (.setFld _ 0x60000 3 1 waits.toNat)
  have regs {a : Nat} (h : a ≠ 0x60000) : (u.markRoll going waits).reg a = (s.lineClear lce).reg a := (u.reg_markRoll going waits h).trans (hr a)
  have bits := u.bits_markRoll going waits
  exact {
    stns := fun j => (State.stn_setFld ..).trans ((State.stn_setFld ..).trans ((hs j).trans (s.stn_lineClear_eq lce j)))
    mesh := (State.mesh_setFld ..).trans ((State.mesh_setFld ..).trans hm)
    insts := net ▸ hn.1
    snap := net ▸ hn.2
    snaps := only.snaps
    coast := (congrArg (bitAt · 7) (regs (by omega))).trans (State.coasting_endCoast _ _)
    tickets := fun c hc => by
      have range : tktBase c ≠ 0x60000 ∧ tktBase c + 4 ≠ 0x60000 := by
        unfold tktBase
        omega
      exact ⟨(regs range.1).trans (s.tickets_lineClear lce hc (.inl rfl)), (regs range.2).trans (s.tickets_lineClear lce hc (.inr rfl))⟩
    iseq := (regs (by omega)).trans (s.iseq_lineClear lce)
    epoch := (regs (by omega)).trans ((s.epoch_lineClear lce).trans (by rw [Nat.mod_eq_of_lt he]))
    auto := fun h => by
      obtain ⟨roll, rfl, rfl⟩ := auto h
      exact ⟨net ▸ roll, bits⟩
    waits := fun h => by
      obtain ⟨roll, rfl, rfl⟩ := still h
      exact ⟨net ▸ roll, bits⟩
    lpddr := only.memories.1
    fuses := only.memories.2 }

theorem State.actClear_lineCleared (s : State) {lce : Nat} (he : lce < 65536) (w : FaultInfo) (unit : Nat) : LineCleared s lce (s.actClear lce w unit) := by
  have net := s.net_lineClear lce
  have mesh := s.mesh_lineClear lce
  rw [State.actClear_eq]
  split
  · rename_i h
    exact s.markRoll_lineCleared he (u := (s.lineClear lce).setNet { (s.lineClear lce).die.net with roll := some ⟨1, 0, false, w, unit⟩, rollIlk := Ilk.reset })
      ⟨congrArg Net.insts net, congrArg Net.snap net⟩ (fun _ => rfl) (fun _ => rfl) mesh
      ((DieOnly.lineClear s lce).trans (.setNet ..)) true false (fun _ => ⟨⟨w, unit, rfl⟩, rfl, rfl⟩) (fun off => absurd (h.symm.trans off) (by decide))
  · rename_i h
    exact s.markRoll_lineCleared he ⟨congrArg Net.insts net, congrArg Net.snap net⟩ (fun _ => rfl) (fun _ => rfl) mesh
      (DieOnly.lineClear s lce) false true (fun on => absurd on h) (fun _ => ⟨congrArg Net.roll net, rfl, rfl⟩)

/-- Flooding the CLEAR notice first changes nothing of it. -/
theorem LineCleared.of_sends {s u t : State} {lce : Nat} (sent : Sends s u) (h : LineCleared u lce t) : LineCleared s lce t := by
  obtain ⟨_, _, rfl⟩ := sent
  exact ⟨h.stns, h.mesh, h.insts, h.snap, h.snaps, h.coast, h.tickets, h.iseq, h.epoch, h.auto, h.waits, h.lpddr, h.fuses⟩

/-- Nor does the end of L1 at a write of the host. -/
theorem LineCleared.of_leaveL1 {s t : State} {lce : Nat} (h : LineCleared s.leaveL1 lce t) : LineCleared s lce t :=
  ⟨h.stns, h.mesh, h.insts, h.snap, h.snaps, h.coast, h.tickets, h.iseq, h.epoch, h.auto, h.waits, h.lpddr, h.fuses⟩

theorem State.startClear_lineCleared (s : State) (w : FaultInfo) (unit : Nat) : LineCleared s ((s.lce + 1) % 65536) (s.startClear w unit) :=
  .of_sends (.flood ..) (State.actClear_lineCleared _ (Nat.mod_lt _ (by omega)) w unit)

/-! ### GO and the CLEAR notice -/

theorem State.supState_of_live {s : State} (h : s.live = true) : s.supState = 0 := by
  unfold State.live at h
  exact of_decide_eq_true (Bool.and_eq_true .. ▸ h).2

/-- A served write to LINK_CLEAR (R343). -/
theorem exec_lineClearGo {s : State} {v : Word} (hs : s.supState = 0) (h : s.writeServed 0x80838 = true) :
    exec (.lineClearGo v) s = .next (if bitAt v 0 && s.live then s.leaveL1.startClear ⟨0, 0, 0⟩ 0x300 else s.leaveL1) :=
  congrArg Host.Outcome.next (State.bar0Write_eq h hs rfl (byteWritable_eq_false (by omega)))

/-- A CLEAR notice with a newer epoch is passed on and acted on (R343). -/
theorem exec_clearNotice {s : State} {p : Fin 12} {m e : Nat} (hl : s.linked = true) (h1 : 1 ≤ (e + 65536 - s.lce) % 65536)
    (h2 : (e + 65536 - s.lce) % 65536 < 32768) :
    exec (.clearNotice p m e) s = .next ((s.flood (some p.val) (.notice 3 m e 0 0 0 0 0)).actClear (e % 65536) ⟨0, 0, 0⟩ 0x300) := by
  refine (if_pos hl).trans (congrArg _ ?_)
  exact if_pos (by simp [h1, h2])

theorem exec_clearNotice_still {s : State} {p : Fin 12} {m e : Nat}
    (h : s.linked = false ∨ 32768 ≤ (e + 65536 - s.lce) % 65536 ∨ (e + 65536 - s.lce) % 65536 = 0) : exec (.clearNotice p m e) s = .next s := by
  change (if s.linked then .next (s.onClear (some p) m e) else .next s : Result) = .next s
  split
  · rename_i hl
    refine congrArg _ (if_neg ?_)
    rcases h with h | h | h
    · exact absurd (hl.symm.trans h) (by decide)
    · simp [h]
    · simp [h]
  · rfl

end Sys2Proof.Machine

namespace Sys2Proof
open Machine

/-- Settles O42: both causes come to `State.actClear`, whose effects `LineCleared` lists. -/
theorem lineClears : Obligations.LineClears := by
  intro s
  refine ⟨fun v p m e c lce cause => ?_, fun p m e => exec_clearNotice_still, fun v h hs hv => ?_⟩
  · suffices run : Runs c s (LineCleared s lce) by
      obtain ⟨t, run, h⟩ := run
      refine runs_of run ⟨fun i => ?_, h.mesh, h.insts, h.snap, h.snaps, h.coast, fun k => h.tickets k k.isLt, h.iseq, h.epoch, h.auto, h.waits, h.lpddr, h.fuses⟩
      rw [h.stns i]
      exact ⟨rfl, rfl, rfl, rfl, rfl, rfl, rfl, rfl, rfl, rfl, rfl⟩
    rcases cause with ⟨rfl, hv, hl, hw, rfl⟩ | ⟨rfl, hl, h1, h2, rfl⟩
    · exact runs_of ((exec_lineClearGo (State.supState_of_live hl) hw).trans (congrArg _ (if_pos (by simp [hv, hl])))) (.of_leaveL1 (State.startClear_lineCleared ..))
    · exact runs_of (exec_clearNotice hl h1 h2) (.of_sends (.flood ..) (State.actClear_lineCleared _ (Nat.mod_lt _ (by omega)) _ _))
  · exact runs_of ((exec_lineClearGo hs h).trans (congrArg _ (if_neg (by simp [hv])))) (OnlyChanges.refl _ _ _)

end Sys2Proof
end

section
/-! PROOFS. Deadlines and notices (O40): what LATE_ARRIVAL raised leaves, what each notice notes, and the copy that a partner's RESUME begins again. -/
namespace Sys2Proof.Machine

/-! ### What sending leaves of the collectives service -/

/-- Sending changes the ports of the service and nothing else of it. -/
theorem Sends.net {s t : State} (h : Sends s t) : ∃ ps, t.die.net = { s.die.net with ports := ps } := by
  obtain ⟨ps, _, rfl⟩ := h
  exact ⟨ps, rfl⟩

theorem Sends.lpddr {s t : State} (h : Sends s t) : t.lpddr = s.lpddr := (DieOnly.sends h).memories.1

theorem Sends.flushAll (s : State) : Sends s s.flushAll := .foldl (fun t p => .flushPort p _ t) _ s

/-! ### LATE_ARRIVAL -/

/-- LATE_ARRIVAL raised: the module is named, counted and recorded (R331, R332). -/
theorem State.raiseLate_spec (s : State) (mod cause : Nat) :
    let t := s.raiseLate mod cause
    t.die.net.timer = { s.die.net.timer with named := s.die.net.timer.named ++ [mod] } ∧ t.die.net.noNotice = s.die.net.noNotice ∧
    t.reg 0x8083C = satAdd (s.reg 0x8083C) 1 ∧ t.reg 0x6000C = s.reg 0x6000C + 1 ∧ SameStns s t [] ∧ t.lpddr = s.lpddr := by
  unfold State.raiseLate
  obtain ⟨n, e⟩ := s.nextIlk_free
  generalize s.nextIlk = next at e
  obtain ⟨ilk, u⟩ := next
  dsimp only at e ⊢
  subst e
  generalize hu : State.logFault { s with free := n } (if cause = 0 then 0x0601 else 0x0602) _ _ _ _ = u
  have net : u.die.net = s.die.net := hu ▸ State.net_logFault ..
  have late : u.reg 0x8083C = s.reg 0x8083C := hu ▸ State.reg_logFault _ _ _ _ _ _ _ (by omega) (by omega) (by omega)
  have record : u.reg 0x6000C = s.reg 0x6000C + 1 := hu ▸ State.wr_logFault ..
  have stns (j : Nat) : u.stn j = s.stn j := hu ▸ State.stn_logFault ..
  have lp : u.lpddr = s.lpddr := hu ▸ State.lpddr_logFault ..
  clear hu
  generalize hv : (u.bump 0x8083C 1).setNet _ = v
  have sent := Sends.flood v none (.notice 2 mod 0 (v.iseq + 1) ilk cause ({ s with free := n } : State).ownReason v.modid)
  obtain ⟨ps, e⟩ := sent.net
  refine ⟨(congrArg Net.timer e).trans ?_, (congrArg Net.noNotice e).trans ?_, (sent.reg _).trans ?_, (sent.reg _).trans ?_, fun j _ => (sent.stn j).trans ?_, sent.lpddr.trans ?_⟩
  · rw [← hv, ← net]
    rfl
  · rw [← hv, ← net]
    rfl
  · rw [← hv, State.reg_setNet, State.reg_bump, if_pos rfl, late]
  · rw [← hv, State.reg_setNet, State.reg_bump, if_neg (by omega), record]
  · rw [← hv, State.stn_setNet, State.stn_bump, stns]
  · rw [← hv]
    exact (State.lpddr_bump ..).trans lp

section
variable {s : State}

theorem exec_deadlineExpiry (hl : s.live = true) (hr : s.die.net.timer.running = true) (hd : s.deadline ≠ 0) (ht : s.deadline ≤ s.die.net.timer.ticks)
    (ho : s.die.net.ilk.own = false) (hn : s.modid ∉ s.die.net.timer.named) : exec .deadlineExpiry s = .next (s.raiseLate s.modid 0) :=
  if_pos (by simp [hl, hr, hd, ht, ho, hn])

theorem exec_deadlineExpiry_still (h : (s.live = false ∨ s.die.net.timer.running = false ∨ s.deadline = 0 ∨ s.die.net.timer.ticks < s.deadline) ∨
    s.die.net.ilk.own = true ∨ s.modid ∈ s.die.net.timer.named) : exec .deadlineExpiry s = .next s := by
  refine if_neg ?_
  rcases h with (h | h | h | h) | h | h
  · simp [h]
  · simp [h]
  · simp [h]
  · simp [Nat.not_le.mpr h]
  · simp [h]
  · simp [h]

theorem exec_noNoticeExpiry {c : Nat} (hc : s.silentChild = some c) (hl : s.live = true) (hr : s.die.net.timer.running = true) (hd : s.deadline ≠ 0)
    (ht : s.deadline + s.deadline / 16 ≤ s.die.net.timer.ticks) :
    exec .noNoticeExpiry s = .next ((s.raiseLate c 1).setNet { (s.raiseLate c 1).die.net with noNotice := (s.raiseLate c 1).die.net.noNotice ++ [c] }) := by
  change execNoNoticeExpiry s = _
  unfold execNoNoticeExpiry
  rw [hc]
  exact if_pos (by simp [hl, hr, hd, ht])

theorem exec_noNoticeExpiry_still (h : (s.live = false ∨ s.die.net.timer.running = false ∨ s.deadline = 0 ∨ s.die.net.timer.ticks < s.deadline) ∨
    s.silentChild = none ∨ s.die.net.timer.ticks < s.deadline + s.deadline / 16) : exec .noNoticeExpiry s = .next s := by
  change execNoNoticeExpiry s = _
  unfold execNoNoticeExpiry
  cases hc : s.silentChild with
  | none => rfl
  | some c =>
    refine if_neg ?_
    rcases h with (h | h | h | h) | h | h
    · simp [h]
    · simp [h]
    · simp [h]
    · have early : s.die.net.timer.ticks < s.deadline + s.deadline / 16 := by omega
      simp [Nat.not_le.mpr early]
    · cases hc.symm.trans h
    · simp [Nat.not_le.mpr h]

/-! ### A snapshot that is late -/

theorem exec_snapLate {r : SnapRun} (hs : s.die.net.snap = some r) (hl : s.live = true) (hd : (s.reg 0x8081C).toNat ≠ 0) (ht : (s.reg 0x8081C).toNat ≤ r.ticks)
    (hr : r.late = false) :
    exec .snapLate s = .next ((s.setNet { s.die.net with snap := some { r with late := true } }).logFault 0x0603 0 0x300 (BitVec.ofNat 32 r.gen) 0) := by
  change execSnapLate s = _
  unfold execSnapLate
  rw [hs]
  exact if_pos (by simp [hl, hd, ht, hr])

theorem exec_snapLate_still {r : SnapRun} (hs : s.die.net.snap = some r)
    (h : s.live = false ∨ (s.reg 0x8081C).toNat = 0 ∨ r.ticks < (s.reg 0x8081C).toNat ∨ r.late = true) : exec .snapLate s = .next s := by
  change execSnapLate s = _
  unfold execSnapLate
  rw [hs]
  refine if_neg ?_
  rcases h with h | h | h | h
  · simp [h]
  · simp [h]
  · simp [Nat.not_le.mpr h]
  · simp [h]

theorem exec_snapLate_none (hs : s.die.net.snap = none) : exec .snapLate s = .next s := by
  change execSnapLate s = _
  unfold execSnapLate
  rw [hs]

/-! ### Notices -/

variable {p : Fin 12} {m n : Nat}

/-- A LATE notice that is new is counted, and noted before it is passed on (R332). -/
theorem exec_lateNotice {ilk cause reason rep : Nat} {iseq : Word} (hl : s.linked = true) (hn : (2, m, iseq.toNat, cause) ∉ s.die.net.seen) :
    ∃ t, exec (.lateNotice p m ilk cause reason rep iseq) s = .next t ∧
      Sends ((s.bump 0x8083C 1).setNet { s.die.net with seen := s.die.net.seen ++ [(2, m, iseq.toNat, cause)], lateMods := s.die.net.lateMods ++ [m] }) t :=
  ⟨_, (if_pos hl).trans (congrArg _ (if_neg (by simpa using hn))), .flood ..⟩

theorem exec_lateNotice_still {ilk cause reason rep : Nat} {iseq : Word} (h : s.linked = false ∨ (2, m, iseq.toNat, cause) ∈ s.die.net.seen) :
    exec (.lateNotice p m ilk cause reason rep iseq) s = .next s := by
  by_cases hl : s.linked = true
  · have seen := h.resolve_left (by simp [hl])
    exact (if_pos hl).trans (congrArg _ (if_pos (by simpa using seen)))
  · exact if_neg hl

/-- A HALT notice that is new is passed on and noted, and ends a coast (R333, R375). -/
theorem exec_haltNotice (hl : s.linked = true) (hn : (0, m, n, 0) ∉ s.die.net.seen) :
    ∃ u, Sends s u ∧ exec (.haltNotice p m n) s =
      .next ((u.setNet { u.die.net with seen := u.die.net.seen ++ [(0, m, n, 0)], halts := u.die.net.halts ++ [(m, n)] }).endCoast true) :=
  ⟨_, .flood .., (if_pos hl).trans (congrArg _ (if_neg (by simpa using hn)))⟩

theorem exec_haltNotice_still (h : s.linked = false ∨ (0, m, n, 0) ∈ s.die.net.seen) : exec (.haltNotice p m n) s = .next s := by
  by_cases hl : s.linked = true
  · have seen := h.resolve_left (by simp [hl])
    exact (if_pos hl).trans (congrArg _ (if_pos (by simpa using seen)))
  · exact if_neg hl

/-- A RESUME notice that is new ends the halt that it names, and what the ports held goes on (R333). -/
theorem exec_resumeNotice (hl : s.linked = true) (hn : (1, m, n, 0) ∉ s.die.net.seen) :
    ∃ u, Sends (s.setNet { s.die.net with seen := s.die.net.seen ++ [(1, m, n, 0)], halts := s.die.net.halts.filter (fun h => decide (h ≠ (m, n))) }) u ∧
      exec (.resumeNotice p m n) s = .next (u.snapResume m) :=
  ⟨_, (Sends.flood ..).trans (.flushAll _), (if_pos hl).trans (congrArg _ (if_neg (by simpa using hn)))⟩

theorem exec_resumeNotice_still (h : s.linked = false ∨ (1, m, n, 0) ∈ s.die.net.seen) : exec (.resumeNotice p m n) s = .next s := by
  by_cases hl : s.linked = true
  · have seen := h.resolve_left (by simp [hl])
    exact (if_pos hl).trans (congrArg _ (if_pos (by simpa using seen)))
  · exact if_neg hl

theorem exec_haltAllowanceExpiry (hl : s.linked = true) (hh : s.die.net.halts ≠ []) (ht : fld (s.reg 0x80814) 0 24 * 4000 ≤ s.die.net.paused) :
    exec .haltAllowanceExpiry s = .next (s.setNet { s.die.net with allowOver := true }) :=
  if_pos (by simp [hl, hh, ht])

theorem exec_haltAllowanceExpiry_still (h : s.linked = false ∨ s.die.net.halts = [] ∨ s.die.net.paused < fld (s.reg 0x80814) 0 24 * 4000) :
    exec .haltAllowanceExpiry s = .next s := by
  refine if_neg ?_
  rcases h with h | h | h
  · simp [h]
  · simp [h]
  · simp [Nat.not_le.mpr h]

end

/-! ### The copy to a partner that comes back -/

theorem State.partner_congr {s t : State} (h : ∀ a, t.reg a = s.reg a) : t.partner = s.partner := by
  unfold State.partner State.solo
  simp only [h, State.modid_congr h, State.stepFrom_congr h]

/-- A copy to a partner goes by the ports alone (R324). -/
theorem Sends.sendSnap {s : State} {m : Nat} (h : s.partner = some m) (gen : Nat) : Sends s (s.sendSnap gen) := by
  unfold State.sendSnap
  dsimp only
  rw [h]
  exact .foldl (fun t sib => .sendTo t m sib _) _ s

theorem State.setNet_setNet (s : State) (n n' : Net) : (s.setNet n).setNet n' = s.setNet n' := rfl

/-- The parts that came from a module forgotten, and the snapshot's own copy at `r` (R342). -/
def State.copyAgain (s : State) (m : Nat) (r : SnapRun) : State :=
  s.setNet { s.die.net with snapGot := s.die.net.snapGot.filter (fun g => decide (g.1 ≠ m)), snap := some r }

/-- The partner's RESUME makes the copy to it unacknowledged and sends it again; that of another module forgets what came from it (R342). -/
theorem State.snapResume_sends {s : State} {r : SnapRun} (hr : s.die.net.snap = some r) (m : Nat) :
    Sends (s.copyAgain m (if s.partner = some m then { r with acked := false } else r)) (s.snapResume m) := by
  unfold State.snapResume
  rw [hr]
  dsimp only
  rw [State.setNet_setNet]
  split
  · rename_i hp
    have again (n : Net) (gen : Nat) : Sends (s.setNet n) ((s.setNet n).sendSnap gen) := .sendSnap ((State.partner_congr (s := s) (t := s.setNet n) (fun _ => rfl)).trans hp) gen
    exact again ..
  · have kept : s.copyAgain m r = s.setNet { s.die.net with snapGot := s.die.net.snapGot.filter (fun g => decide (g.1 ≠ m)) } := by
      unfold State.copyAgain
      rw [← hr]
    rw [kept]
    exact .refl _

theorem State.snapResume_spec (s : State) (m : Nat) :
    let t := s.snapResume m
    t.die.net.halts = s.die.net.halts ∧ t.die.net.seen = s.die.net.seen ∧
    (∀ r, s.die.net.snap = some r → t.die.net.snap = some (if s.partner = some m then { r with acked := false } else r)) ∧
    SameRegs s t [] ∧ SameStns s t [] ∧ t.lpddr = s.lpddr := by
  cases hr : s.die.net.snap with
  | none =>
    have still : s.snapResume m = s := by
      unfold State.snapResume
      rw [hr]
    rw [still]
    exact ⟨rfl, rfl, nofun, fun _ _ => rfl, fun _ _ => rfl, rfl⟩
  | some r =>
    have sent := State.snapResume_sends hr m
    obtain ⟨ps, e⟩ := sent.net
    exact ⟨(congrArg Net.halts e :), (congrArg Net.seen e :), fun q hq => Option.some.inj hq ▸ (congrArg Net.snap e :), fun a _ => sent.reg a, fun j _ => sent.stn j, sent.lpddr⟩

end Sys2Proof.Machine

namespace Sys2Proof
open Machine

/-- Settles O40: each expiry and notice by its own command lemma, LATE_ARRIVAL through `State.raiseLate_spec` and the partner's RESUME through `State.snapResume_spec`. -/
theorem deadlinesAndNotices : Obligations.DeadlinesAndNotices := by
  intro s
  refine ⟨fun hl hr hd => ⟨fun ht ho hn => ?_, fun c hc ht => ?_⟩, fun h => ⟨exec_deadlineExpiry_still (.inl h), exec_noNoticeExpiry_still (.inl h)⟩,
    fun h => exec_deadlineExpiry_still (.inr h), fun h => exec_noNoticeExpiry_still (.inr h),
    fun r hs => ⟨fun hl hd ht hr => ?_, exec_snapLate_still hs⟩, exec_snapLate_none,
    fun p m n => ⟨fun ilk cause reason rep iseq => ⟨fun hl hn => ?_, exec_lateNotice_still⟩, fun hl hn => ?_, exec_haltNotice_still, fun hl hn => ?_, exec_resumeNotice_still⟩,
    fun hl hh ht => runs_of (exec_haltAllowanceExpiry hl hh ht) ⟨rfl, fun _ _ => rfl, fun _ _ => rfl, rfl⟩, exec_haltAllowanceExpiry_still⟩
  · obtain ⟨timer, -, late, record, stns, lp⟩ := s.raiseLate_spec s.modid 0
    exact runs_of (exec_deadlineExpiry hl hr hd ht ho hn) ⟨timer, late, record, stns, lp⟩
  · obtain ⟨timer, named, late, record, stns, lp⟩ := s.raiseLate_spec c 1
    refine runs_of (exec_noNoticeExpiry hc hl hr hd ht) ?_
    generalize s.raiseLate c 1 = u at *
    exact ⟨congrArg (· ++ [c]) named, timer, late, record, stns, lp⟩
  · exact runs_of (exec_snapLate hs hl hd ht hr) ⟨State.net_logFault .., State.wr_logFault .., fun j _ => State.stn_logFault .., State.lpddr_logFault ..⟩
  · obtain ⟨t, run, sent⟩ := exec_lateNotice (p := p) (ilk := ilk) (reason := reason) (rep := rep) hl hn
    obtain ⟨ps, e⟩ := sent.net
    refine runs_of run ⟨(sent.reg _).trans ((State.reg_bump ..).trans (if_pos rfl)), congrArg Net.lateMods e, ?_, fun a ha => ?_, fun j _ => ?_, ?_⟩
    · rw [e]
      exact List.mem_append_right _ (List.mem_singleton_self _)
    · exact (sent.reg a).trans ((State.reg_bump ..).trans (if_neg (by simpa using ha)))
    · exact (sent.stn j).trans (State.stn_bump ..)
    · exact sent.lpddr.trans (State.lpddr_bump ..)
  · obtain ⟨u, sent, run⟩ := exec_haltNotice (p := p) hl hn
    obtain ⟨ps, e⟩ := sent.net
    refine runs_of run ⟨?_, ?_, State.coasting_endCoast .., fun a ha => ?_, fun j _ => ?_, ?_⟩
    · rw [State.net_endCoast]
      exact congrArg (· ++ [(m, n)]) (congrArg Net.halts e :)
    · rw [State.net_endCoast]
      exact List.mem_append_right _ (List.mem_singleton_self _)
    · exact (State.reg_endCoast _ _ _ (by simpa using ha)).trans (sent.reg a)
    · exact (State.stn_endCoast ..).trans (sent.stn j)
    · exact (DieOnly.endCoast _ true).memories.1.trans sent.lpddr
  · obtain ⟨u, sent, run⟩ := exec_resumeNotice (p := p) hl hn
    obtain ⟨ps, e⟩ := sent.net
    obtain ⟨halts, seen, snap, regs, stns, lp⟩ := u.snapResume_spec m
    refine runs_of run ⟨halts.trans (congrArg Net.halts e), ?_, fun r hr => ?_, fun a ha => (regs a ha).trans (sent.reg a), fun j hj => (stns j hj).trans (sent.stn j), lp.trans sent.lpddr⟩
    · rw [seen, e]
      exact List.mem_append_right _ (List.mem_singleton_self _)
    · rw [snap r ((congrArg Net.snap e).trans hr), State.partner_congr (s := s) sent.reg]

end Sys2Proof
end

section
/-! PROOFS. The torus and its tree (O37 to O39): they rest on five registers, LINK_COORD to LINK_ROOT and the module mode, and what leaves these leaves routes, neighbours, children and root. -/
namespace Sys2Proof.Machine

/-- The registers that the torus and its tree rest on hold what they held (R15, R323, R328). -/
structure SameTorus (s t : State) : Prop where
  mode : t.reg 0x10000 = s.reg 0x10000
  coord : t.reg 0x80800 = s.reg 0x80800
  sizes : t.reg 0x80804 = s.reg 0x80804
  ident : t.reg 0x80808 = s.reg 0x80808
  root : t.reg 0x8080C = s.reg 0x8080C

theorem SameTorus.of_regs {s t : State} (h : ∀ a, a = 0x10000 ∨ 0x80800 ≤ a ∧ a ≤ 0x8080C → t.reg a = s.reg a) : SameTorus s t :=
  ⟨h _ (by omega), h _ (by omega), h _ (by omega), h _ (by omega), h _ (by omega)⟩

namespace SameTorus

variable {s t : State} (h : SameTorus s t)
include h

theorem solo : t.solo = s.solo := by rw [State.solo, State.solo, h.mode]

theorem modid : t.modid = s.modid := by rw [State.modid, State.modid, h.ident]

theorem dbase : t.dbase = s.dbase := by rw [State.dbase, State.dbase, h.ident]

theorem dim (d : Nat) : t.dim d = s.dim d := by rw [State.dim, State.dim, h.solo, h.sizes]

theorem coordOf (m d : Nat) : t.coordOf m d = s.coordOf m d := by
  unfold State.coordOf
  simp only [h.dbase, h.modid, h.dim, h.coord]

theorem modAt (c : Nat → Nat) : t.modAt c = s.modAt c := by rw [State.modAt, State.modAt, h.dbase, h.dim, h.dim]

theorem stepFrom (m d : Nat) (plus : Bool) : t.stepFrom m d plus = s.stepFrom m d plus := by
  unfold State.stepFrom
  simp only [h.modAt, h.coordOf, h.dim]

theorem nextWay (a b : Nat) : t.nextWay a b = s.nextWay a b := by
  unfold State.nextWay
  simp only [h.coordOf, h.dim]

theorem nextMod (a b : Nat) : t.nextMod a b = s.nextMod a b := by
  unfold State.nextMod
  simp only [h.nextWay, h.stepFrom]

theorem rootMod : t.rootMod = s.rootMod := by
  unfold State.rootMod
  simp only [h.solo, h.modid, h.modAt, h.root]

theorem isRoot : t.isRoot = s.isRoot := by rw [State.isRoot, State.isRoot, h.modid, h.rootMod]

theorem children : t.children = s.children := by
  unfold State.children
  simp only [h.modid, h.rootMod, h.stepFrom, h.nextMod]

theorem domainSize : t.domainSize = s.domainSize := by rw [State.domainSize, State.domainSize, h.dim, h.dim, h.dim]

theorem portUsed (p : Nat) : t.portUsed p = s.portUsed p := by rw [State.portUsed, State.portUsed, h.solo, h.dim]

theorem wantedPeer (p : Nat) : t.wantedPeer p = s.wantedPeer p := by
  unfold State.wantedPeer
  simp only [h.modid, h.stepFrom]

end SameTorus

end Sys2Proof.Machine
end

section
/-! PROOFS. Interlocks on the tree (O39, first part): the interlock of a kind, the steps of an arrival, and when a module goes on from it. -/
namespace Sys2Proof.Machine

/-! ### The interlock of a kind -/

/-- The state with the interlock of a kind replaced. -/
def State.setIlk (s : State) (k : IlkKind) (i : Ilk) : State := s.setNet (s.die.net.setIlk k i)

theorem State.ilkOf_setIlk (s : State) (k : IlkKind) (i : Ilk) : (s.setIlk k i).die.net.ilkOf k = i := by
  cases k with
  | domain => rfl
  | commit => rfl
  | roll => rfl

theorem Sends.ilkOf {s t : State} (h : Sends s t) (k : IlkKind) : t.die.net.ilkOf k = s.die.net.ilkOf k := by
  obtain ⟨_, _, rfl⟩ := h
  cases k with
  | domain => rfl
  | commit => rfl
  | roll => rfl

/-- What the steps of an interlock leave before any release: stations, LPDDR5X, the images kept and on their way, and every register but GOV_STATUS. -/
structure TreeStep (s t : State) : Prop where
  regs : ∀ a, a ≠ 0x30000 → t.reg a = s.reg a
  stns : ∀ j, t.stn j = s.stn j
  lpddr : t.lpddr = s.lpddr
  images : t.snaps = s.snaps ∧ t.snapOut = s.snapOut ∧ t.snapHalf = s.snapHalf
  snap : t.die.net.snap = s.die.net.snap ∧ t.die.net.snapForce = s.die.net.snapForce

theorem TreeStep.refl (s : State) : TreeStep s s := ⟨fun _ _ => rfl, fun _ => rfl, rfl, ⟨rfl, rfl, rfl⟩, ⟨rfl, rfl⟩⟩

theorem TreeStep.trans {s t u : State} (h : TreeStep s t) (k : TreeStep t u) : TreeStep s u := by
  obtain ⟨a1, a2, a3⟩ := h.images
  obtain ⟨b1, b2, b3⟩ := k.images
  exact ⟨fun a ha => (k.regs a ha).trans (h.regs a ha), fun j => (k.stns j).trans (h.stns j), k.lpddr.trans h.lpddr,
    ⟨b1.trans a1, b2.trans a2, b3.trans a3⟩, ⟨k.snap.1.trans h.snap.1, k.snap.2.trans h.snap.2⟩⟩

theorem TreeStep.of_sends {s t : State} (h : Sends s t) : TreeStep s t := by
  obtain ⟨_, _, rfl⟩ := h
  exact ⟨fun _ _ => rfl, fun _ => rfl, rfl, ⟨rfl, rfl, rfl⟩, ⟨rfl, rfl⟩⟩

theorem TreeStep.setIlk (s : State) (k : IlkKind) (i : Ilk) : TreeStep s (s.setIlk k i) :=
  ⟨fun _ _ => rfl, fun _ => rfl, rfl, ⟨rfl, rfl, rfl⟩, by cases k <;> exact ⟨rfl, rfl⟩⟩

/-! ### A module goes on -/

/-- Every child of the module has arrived. -/
def State.allIn (s : State) (i : Ilk) : Prop := ∀ c ∈ s.children, ∃ a ∈ i.arrived, a.child = c

theorem State.all_children_iff (s : State) (i : Ilk) : s.children.all (fun c => i.arrived.any (fun a => decide (a.child = c))) = true ↔ s.allIn i := by
  simp [State.allIn]

theorem State.allIn_of_leaf {s : State} (h : s.children = []) (i : Ilk) : s.allIn i := by
  unfold State.allIn
  rw [h]
  exact nofun

section
variable {s : State} {k : IlkKind}

/-- A module that has not arrived, that is done, or that misses a child waits. -/
theorem State.ilkAdvance_still (h : (s.die.net.ilkOf k).own = false ∨ (s.die.net.ilkOf k).sentUp = true ∨ ¬ s.allIn (s.die.net.ilkOf k)) : s.ilkAdvance k = s := by
  refine if_neg ?_
  rw [Bool.and_eq_true, Bool.and_eq_true, State.all_children_iff]
  rintro ⟨⟨own, due⟩, all⟩
  rcases h with h | h | h
  · simp [h] at own
  · simp [h] at due
  · exact h all

variable (own : (s.die.net.ilkOf k).own = true) (due : (s.die.net.ilkOf k).sentUp = false) (all : s.allIn (s.die.net.ilkOf k))
include own due all

/-- With its own arrival and every child's a module goes on (R328). -/
theorem State.ilkAdvance_goes {slow reason : Nat} (hl : (s.die.net.ilkOf k).last = some (slow, reason)) :
    s.ilkAdvance k =
      if s.isRoot then
        (if 1 + ((s.die.net.ilkOf k).arrived.map (·.count)).sum = s.domainSize then
          (s.setIlk k { s.die.net.ilkOf k with sentUp := true }).doRelease k (s.die.net.ilkOf k).ilk (s.ilkSeq k) slow reason
          else s.setIlk k { s.die.net.ilkOf k with sentUp := true })
      else (s.setIlk k { s.die.net.ilkOf k with sentUp := true }).sendIlk s.parent 1 k (s.die.net.ilkOf k).ilk
        (1 + ((s.die.net.ilkOf k).arrived.map (·.count)).sum) slow reason := by
  unfold State.ilkAdvance
  dsimp only
  rw [if_pos (by rw [Bool.and_eq_true, Bool.and_eq_true, State.all_children_iff]; exact ⟨⟨own, by simp [due]⟩, all⟩), hl]
  rfl

/-- One that is not the root sends ARRIVE to its parent. -/
theorem State.ilkAdvance_up {slow reason : Nat} (hl : (s.die.net.ilkOf k).last = some (slow, reason)) (hr : s.isRoot = false) :
    Sends (s.setIlk k { s.die.net.ilkOf k with sentUp := true }) (s.ilkAdvance k) := by
  rw [State.ilkAdvance_goes own due all hl, hr]
  exact .sendTo ..

/-- The root releases once its COUNT is the size of the domain. -/
theorem State.ilkAdvance_releases {slow reason : Nat} (hl : (s.die.net.ilkOf k).last = some (slow, reason)) (hr : s.isRoot = true)
    (hc : 1 + ((s.die.net.ilkOf k).arrived.map (·.count)).sum = s.domainSize) :
    s.ilkAdvance k = (s.setIlk k { s.die.net.ilkOf k with sentUp := true }).doRelease k (s.die.net.ilkOf k).ilk (s.ilkSeq k) slow reason := by
  rw [State.ilkAdvance_goes own due all hl, if_pos hr, if_pos hc]

end

/-- RELEASE sent to the children (R328). -/
def State.tellRelease (s : State) (ilk : Nat) (iseq : Word) (slow reason : Nat) : State :=
  s.children.foldl (fun (t : State) m => t.sendTo m 0 (.ilk 2 ilk iseq t.lce 0 slow reason)) s

theorem Sends.tellRelease (s : State) (ilk : Nat) (iseq : Word) (slow reason : Nat) : Sends s (s.tellRelease ilk iseq slow reason) :=
  .foldl (fun t m => .sendTo t m 0 _) _ s

theorem State.doRelease_domain (s : State) (ilk : Nat) (iseq : Word) (slow reason : Nat) :
    s.doRelease .domain ilk iseq slow reason = (s.tellRelease ilk iseq slow reason).onRelease ilk slow reason := rfl

theorem State.doRelease_commit (s : State) (ilk : Nat) (iseq : Word) (slow reason : Nat) :
    s.doRelease .commit ilk iseq slow reason = (s.tellRelease ilk iseq slow reason).onCommit := rfl

/-! ### The module's own arrival -/

/-- The interlock with this module's arrival in it (R328, R329). -/
def State.arrivedAs (s : State) (k : IlkKind) (ilk : Nat) : Ilk := { s.die.net.ilkOf k with ilk := ilk, own := true, last := some (s.modid, s.ownReason) }

/-- The module arrives where every ARRIVE that is in bears the same ILK: PRESENT to its parent, and on. -/
theorem State.ownArrival_sends {s : State} {k : IlkKind} {ilk : Nat} (h : ∀ a ∈ (s.die.net.ilkOf k).arrived, a.ilk = ilk) :
    ∃ u, Sends (s.setIlk k (s.arrivedAs k ilk)) u ∧ s.ownArrival k ilk = u.ilkAdvance k := by
  have bad : (s.die.net.ilkOf k).arrived.filter (fun a => decide (a.ilk ≠ ilk)) = [] := List.filter_eq_nil_iff.mpr (fun a ha => by simp [h a ha])
  have good : (s.die.net.ilkOf k).arrived.filter (fun a => decide (a.ilk = ilk)) = (s.die.net.ilkOf k).arrived :=
    List.filter_eq_self.mpr (fun a ha => by simp [h a ha])
  refine ⟨if s.isRoot then s.setIlk k (s.arrivedAs k ilk) else (s.setIlk k (s.arrivedAs k ilk)).sendIlk s.parent 0 k ilk 0 s.modid s.ownReason, ?_, ?_⟩
  · split
    · exact .refl _
    · exact .sendTo ..
  · unfold State.ownArrival
    dsimp only
    rw [bad, good]
    rfl

section
variable {s : State} {k : IlkKind} {ilk : Nat} (h : ∀ a ∈ (s.die.net.ilkOf k).arrived, a.ilk = ilk)
include h

/-- With a child still out the module waits for it. -/
theorem State.ownArrival_waits (hc : ¬ s.allIn (s.die.net.ilkOf k)) : Sends (s.setIlk k (s.arrivedAs k ilk)) (s.ownArrival k ilk) := by
  obtain ⟨u, sent, e⟩ := State.ownArrival_sends h
  have here : u.die.net.ilkOf k = s.arrivedAs k ilk := (sent.ilkOf k).trans (s.ilkOf_setIlk k _)
  rw [e, State.ilkAdvance_still]
  · exact sent
  · refine .inr (.inr fun all => hc ?_)
    unfold State.allIn at all
    rw [here, State.children_congr (s := s) sent.reg] at all
    exact all

variable (hc : s.allIn (s.die.net.ilkOf k)) (hs : (s.die.net.ilkOf k).sentUp = false)
include hc hs

/-- With every child in, one that is not the root sends ARRIVE up. -/
theorem State.ownArrival_up (hr : s.isRoot = false) :
    ∃ u, Sends (s.setIlk k (s.arrivedAs k ilk)) u ∧ Sends (u.setIlk k { s.arrivedAs k ilk with sentUp := true }) (s.ownArrival k ilk) := by
  obtain ⟨u, sent, e⟩ := State.ownArrival_sends h
  have here : u.die.net.ilkOf k = s.arrivedAs k ilk := (sent.ilkOf k).trans (s.ilkOf_setIlk k _)
  refine ⟨u, sent, ?_⟩
  have up := State.ilkAdvance_up (s := u) (k := k) (slow := s.modid) (reason := s.ownReason) (by rw [here]; rfl) (by rw [here]; exact hs)
    (by unfold State.allIn; rw [here, State.children_congr (s := s) sent.reg]; exact hc) (by rw [here]; rfl) ((State.isRoot_congr (s := s) sent.reg).trans hr)
  rw [here] at up
  rw [e]
  exact up

/-- With every child in, the root releases. -/
theorem State.ownArrival_releases (hr : s.isRoot = true) (hd : 1 + ((s.die.net.ilkOf k).arrived.map (·.count)).sum = s.domainSize) :
    ∃ u iseq, Sends (s.setIlk k (s.arrivedAs k ilk)) u ∧
      s.ownArrival k ilk = (u.setIlk k { s.arrivedAs k ilk with sentUp := true }).doRelease k ilk iseq s.modid s.ownReason := by
  obtain ⟨u, sent, e⟩ := State.ownArrival_sends h
  have here : u.die.net.ilkOf k = s.arrivedAs k ilk := (sent.ilkOf k).trans (s.ilkOf_setIlk k _)
  refine ⟨u, u.ilkSeq k, sent, ?_⟩
  have go := State.ilkAdvance_releases (s := u) (k := k) (slow := s.modid) (reason := s.ownReason) (by rw [here]; rfl) (by rw [here]; exact hs)
    (by unfold State.allIn; rw [here, State.children_congr (s := s) sent.reg]; exact hc) (by rw [here]; rfl) ((State.isRoot_congr (s := s) sent.reg).trans hr)
    (by rw [here, State.domainSize_congr (s := s) sent.reg]; exact hd)
  rw [here] at go
  rw [e]
  exact go

end

end Sys2Proof.Machine
end

section
/-! PROOFS. Releases (O39, second part): the stations that go on, the snapshot that a release may begin, and the commit of a generation. -/
namespace Sys2Proof.Machine

/-! ### Stations that go on -/

/-- A release changes stations alone. -/
theorem State.release_stations (s : State) (domain : Bool) (ilk : Nat) : ∃ l, s.release domain ilk = { s with die := { s.die with stns := l } } := by
  rw [State.release_eq]
  generalize List.range 128 = l
  induction l generalizing s with
  | nil => exact ⟨s.die.stns, rfl⟩
  | cons b l ih =>
    have one : ∃ q, s.releaseAt domain ilk b = { s with die := { s.die with stns := q } } := by
      unfold State.releaseAt
      split
      · split
        · split
          · exact ⟨_, rfl⟩
          · exact ⟨_, rfl⟩
        · exact ⟨s.die.stns, rfl⟩
      · exact ⟨s.die.stns, rfl⟩
    obtain ⟨q, e⟩ := one
    obtain ⟨q', e'⟩ := ih (s.releaseAt domain ilk b)
    exact ⟨q', by rw [List.foldl_cons, e', e]⟩

/-- A release leaves what is queued. -/
theorem State.queue_release (s : State) (domain : Bool) (ilk j : Nat) : ((s.release domain ilk).stn j).iss.queue = (s.stn j).iss.queue := by
  rw [State.release_eq]
  generalize List.range 128 = l
  induction l generalizing s with
  | nil => rfl
  | cons b l ih =>
    refine (ih _).trans ?_
    by_cases hj : j = b
    · subst hj
      unfold State.releaseAt
      split
      · split
        · split
          · exact (s.releaseStn_spec j).2.2.2.2.1
          · rw [State.stn_setStn, if_pos rfl]
        · rfl
      · rfl
    · rw [(s.releaseAt_spec domain ilk b).2 j hj]

/-- After the release of domain interlock `ilk` no interlock is open, the deadline timer runs from 0, and what waited there goes on (R328, R331). -/
def GoesOn (s : State) (ilk : Nat) (t : State) : Prop :=
  t.die.net.ilk = Ilk.reset ∧ t.die.net.timer = ⟨0, true, []⟩ ∧
  ∀ i : Stn, (t.stn i).pm = (s.stn i).pm ∧ (t.stn i).slots = (s.stn i).slots ∧ (t.stn i).tokens = (s.stn i).tokens ∧ (t.stn i).iss.queue = (s.stn i).iss.queue ∧
    ∀ p, (s.stn i).iss.posted = some p → p.domain = true → p.ilk = ilk → p.waits = true → (t.stn i).iss.posted = none

theorem GoesOn.of_stns {s u t : State} {ilk : Nat} (h : ∀ j, u.stn j = s.stn j) (k : GoesOn u ilk t) : GoesOn s ilk t := by
  obtain ⟨net, timer, stns⟩ := k
  exact ⟨net, timer, fun i => h i ▸ stns i⟩

theorem State.releaseDomain_goesOn (s : State) (ilk : Nat) : GoesOn s ilk (s.releaseDomain ilk) := by
  obtain ⟨-, net, -, kept⟩ := s.releaseDomain_spec ilk
  refine ⟨congrArg Net.ilk net, congrArg Net.timer net, fun i => ?_⟩
  obtain ⟨pm, slots, tokens⟩ := kept i
  have before : ((s.setNet s.die.net.released).endCoast true).stn i = s.stn i := State.stn_endCoast ..
  refine ⟨pm, slots, tokens, ?_, fun p hp hd hi hw => ?_⟩
  · rw [State.releaseDomain_eq, State.queue_release, before]
  · have waits : (((s.setNet s.die.net.released).endCoast true).stn i).iss.posted = some p := by rw [before, hp]
    have released := State.release_releases waits hw
    rw [hd, hi] at released
    rw [State.releaseDomain_eq]
    exact released.1

/-- The end of a coast changes registers and the governor only. -/
theorem State.endCoast_eq (s : State) (b : Bool) : ∃ g r q, s.endCoast b = { s with die := { s.die with gov := g, reg := r }, aoReg := q } := by
  unfold State.endCoast
  dsimp only
  split
  · obtain ⟨r, q, e⟩ := s.setReg_eq 0x30000 (putFld (s.reg 0x30000) 7 1 0)
    unfold State.setFld
    rw [e]
    exact ⟨_, r, q, rfl⟩
  · exact ⟨_, _, _, rfl⟩

/-- What the release leaves beside the stations and the interlock. -/
theorem State.releaseDomain_frame (s : State) (ilk : Nat) :
    let t := s.releaseDomain ilk
    (∀ a, a ≠ 0x30000 → t.reg a = s.reg a) ∧ t.lpddr = s.lpddr ∧ t.snaps = s.snaps ∧ t.snapOut = s.snapOut ∧ t.snapHalf = s.snapHalf ∧ t.die.net.snap = s.die.net.snap := by
  obtain ⟨regs, net, lp, -⟩ := s.releaseDomain_spec ilk
  obtain ⟨l, e⟩ := ((s.setNet s.die.net.released).endCoast true).release_stations true ilk
  obtain ⟨g, r, q, coast⟩ := (s.setNet s.die.net.released).endCoast_eq true
  rw [coast] at e
  dsimp only
  have released := s.releaseDomain_eq ilk
  rw [coast, e] at released
  exact ⟨regs, lp, (congrArg State.snaps released :), (congrArg State.snapOut released :), (congrArg State.snapHalf released :), (congrArg Net.snap net :)⟩

/-! ### A snapshot begins -/

theorem State.sendSnap_spec (s : State) (gen : Nat) :
    let t := s.sendSnap gen
    (∀ a, t.reg a = s.reg a) ∧ (∀ j, t.stn j = s.stn j) ∧ t.die.net.snap = s.die.net.snap ∧ t.snaps = s.snaps ∧ t.snapOut = s.snapOut := by
  cases h : s.partner with
  | some m =>
    obtain ⟨ps, o, e⟩ := Sends.sendSnap h gen
    dsimp only
    rw [e]
    exact ⟨fun _ => rfl, fun _ => rfl, rfl, rfl, rfl⟩
  | none =>
    have own : s.sendSnap gen = s.storeSnap s.spillKey (fun _ => true) s.snapCells := by
      unfold State.sendSnap
      dsimp only
      rw [h]
    dsimp only
    rw [own]
    exact ⟨fun _ => rfl, fun _ => rfl, rfl, rfl, rfl⟩

/-- The image is captured and its copy starts; the stations stay where they are (R340). -/
theorem State.startSnap_spec (s : State) (gen : Nat) :
    let t := s.startSnap gen
    (∀ a, t.reg a = s.reg a) ∧ (∀ j, t.stn j = s.stn j) ∧ t.die.net.snap = some ⟨gen, 0, false, false⟩ ∧ t.snaps = s.snaps.take 1 ∧ t.snapOut.isSome = true := by
  unfold State.startSnap
  dsimp only
  generalize hu : ({ s.writeSpill.setNet _ with snapOut := _, snaps := _ } : State) = u
  obtain ⟨regs, stns, snap, snaps, out⟩ := u.sendSnap_spec gen
  refine ⟨fun a => (regs a).trans ?_, fun j => (stns j).trans ?_, snap.trans ?_, snaps.trans ?_, ?_⟩
  · rw [← hu]; rfl
  · rw [← hu]; rfl
  · rw [← hu]; rfl
  · rw [← hu]
  · rw [out, ← hu]; rfl

/-! ### The release of a domain interlock -/

/-- The ticks that the module has waited since its own arrival (R329). -/
def State.waited (s : State) : Nat := match s.die.net.arrivedAt with | some n => s.uptime - n | none => 0

/-- LINK_ISEQ, LINK_SLOW and LINK_SLOWW written, the interval's reasons forgotten and the timer stopped (R329). -/
def State.noteRelease (s : State) (slow reason : Nat) : State :=
  let s3 := ((s.setReg 0x80830 (s.iseq + 1)).setReg 0x80828 (BitVec.ofNat 32 (slow % 2 ^ 14 + reason * 2 ^ 16 + 2 ^ 31))).setReg 0x8082C (BitVec.ofNat 32 s.waited)
  let s4 := if fld (s.reg 0x80828) 0 14 = slow % 2 ^ 14 then s3 else s3.signal 5
  let s5 := { s4 with die := { s4.die with gov := { s4.die.gov with interval := List.replicate 9 0 }, net := { s4.die.net with recovered := false, haltedIn := false } } }
  s5.setNet { s5.die.net with timer := { s5.die.net.timer with running := false } }

theorem State.onRelease_eq (s : State) (ilk slow reason : Nat) :
    s.onRelease ilk slow reason =
      let v := s.noteRelease slow reason
      if v.snapDue ilk v.iseq.toNat then v.startSnap v.iseq.toNat else v.releaseDomain ilk := rfl

theorem State.noteRelease_spec (s : State) (slow reason : Nat) :
    let v := s.noteRelease slow reason
    v.reg 0x80830 = s.reg 0x80830 + 1 ∧ v.reg 0x80828 = BitVec.ofNat 32 (slow % 2 ^ 14 + reason * 2 ^ 16 + 2 ^ 31) ∧ v.reg 0x8082C = BitVec.ofNat 32 s.waited ∧
    (∀ a, a ≠ 0x80830 → a ≠ 0x80828 → a ≠ 0x8082C → v.reg a = s.reg a) ∧ (∀ j, v.stn j = s.stn j) ∧ v.lpddr = s.lpddr ∧ v.snaps = s.snaps ∧
    v.die.net.snapForce = s.die.net.snapForce := by
  unfold State.noteRelease
  dsimp only
  generalize hw : ((s.setReg 0x80830 (s.iseq + 1)).setReg 0x80828 _).setReg 0x8082C _ = w
  have told : Reports w (if fld (s.reg 0x80828) 0 14 = slow % 2 ^ 14 then w else w.signal 5) ∧
      ∀ a, (if fld (s.reg 0x80828) 0 14 = slow % 2 ^ 14 then w else w.signal 5).reg a = w.reg a := by
    split
    · exact ⟨.refl w, fun _ => rfl⟩
    · exact ⟨.signal w 5, fun _ => State.reg_signal ..⟩
  generalize (if fld (s.reg 0x80828) 0 14 = slow % 2 ^ 14 then w else w.signal 5) = x at told
  obtain ⟨reports, regs⟩ := told
  have reg (a : Nat) : w.reg a = if a = 0x8082C then BitVec.ofNat 32 s.waited else if a = 0x80828 then BitVec.ofNat 32 (slow % 2 ^ 14 + reason * 2 ^ 16 + 2 ^ 31)
      else if a = 0x80830 then s.reg 0x80830 + 1 else s.reg a := by
    rw [← hw, State.reg_setReg, State.reg_setReg, State.reg_setReg]
    rfl
  refine ⟨(regs _).trans ((reg _).trans rfl), (regs _).trans ((reg _).trans rfl), (regs _).trans ((reg _).trans rfl), fun a h1 h2 h3 => (regs a).trans ?_,
    fun j => (reports.stn j).trans ?_, reports.lpddr.trans ?_, ?_, (congrArg Net.snapForce reports.net.1).trans ?_⟩
  · rw [reg, if_neg h3, if_neg h2, if_neg h1]
  · rw [← hw, State.stn_setReg, State.stn_setReg, State.stn_setReg]
  · rw [← hw, State.lpddr_setReg, State.lpddr_setReg, State.lpddr_setReg]
  · refine reports.snaps.1.trans ?_
    rw [← hw, State.snaps_setReg, State.snaps_setReg, State.snaps_setReg]
  · rw [← hw, State.net_setReg, State.net_setReg, State.net_setReg]

/-- The release of domain interlock `ilk` from `s` to `t`: the registers, and then the stations or, where it is due, a snapshot (R328, R329, R340). -/
def Releases (s : State) (ilk slow reason wait : Nat) (t : State) : Prop :=
  t.reg 0x80830 = s.reg 0x80830 + 1 ∧ t.reg 0x80828 = BitVec.ofNat 32 (slow % 2 ^ 14 + reason * 2 ^ 16 + 2 ^ 31) ∧ t.reg 0x8082C = BitVec.ofNat 32 wait ∧
  (s.snapDue ilk (s.iseq + 1).toNat = false → t.lpddr = s.lpddr ∧ GoesOn s ilk t) ∧
  (s.snapDue ilk (s.iseq + 1).toNat = true → t.die.net.snap = some ⟨(s.iseq + 1).toNat, 0, false, false⟩ ∧ t.snapOut.isSome = true ∧ t.snaps = s.snaps.take 1 ∧ SameStns s t [])

theorem State.snapDue_congr {s t : State} (h1 : t.reg 0x80818 = s.reg 0x80818) (h2 : t.reg 0x80820 = s.reg 0x80820) (h3 : t.reg 0x10000 = s.reg 0x10000)
    (hf : t.die.net.snapForce = s.die.net.snapForce) (ilk n : Nat) : t.snapDue ilk n = s.snapDue ilk n := by
  unfold State.snapDue State.solo
  rw [h1, h2, h3, hf]

theorem State.onRelease_releases (s : State) (ilk slow reason : Nat) : Releases s ilk slow reason s.waited (s.onRelease ilk slow reason) := by
  obtain ⟨numbered, slowest, waited, regs, stns, lp, snaps, force⟩ := s.noteRelease_spec slow reason
  rw [State.onRelease_eq]
  dsimp only
  generalize s.noteRelease slow reason = v at *
  have next : v.iseq = s.iseq + 1 := numbered
  have due := State.snapDue_congr (regs 0x80818 (by omega) (by omega) (by omega)) (regs 0x80820 (by omega) (by omega) (by omega))
    (regs 0x10000 (by omega) (by omega) (by omega)) force ilk (s.iseq + 1).toNat
  rw [next, due]
  cases hd : s.snapDue ilk (s.iseq + 1).toNat with
  | false =>
    rw [if_neg Bool.false_ne_true]
    obtain ⟨regs', lp', -⟩ := v.releaseDomain_frame ilk
    exact ⟨(regs' _ (by omega)).trans numbered, (regs' _ (by omega)).trans slowest, (regs' _ (by omega)).trans waited,
      fun _ => ⟨lp'.trans lp, .of_stns stns (v.releaseDomain_goesOn ilk)⟩, fun h => absurd (hd.symm.trans h) Bool.false_ne_true⟩
  | true =>
    rw [if_pos rfl]
    obtain ⟨regs', stns', snap, snaps', out⟩ := v.startSnap_spec (s.iseq + 1).toNat
    exact ⟨(regs' _).trans numbered, (regs' _).trans slowest, (regs' _).trans waited, fun h => absurd (h.symm.trans hd) Bool.false_ne_true,
      fun _ => ⟨snap, out, snaps'.trans (congrArg _ snaps), fun j _ => (stns' j).trans (stns j)⟩⟩

/-- The steps before it change nothing that a release shows. -/
theorem Releases.of_step {s u t : State} {ilk slow reason wait : Nat} (h : TreeStep s u) (k : Releases u ilk slow reason wait t) : Releases s ilk slow reason wait t := by
  obtain ⟨numbered, slowest, waited, goes, snaps⟩ := k
  have next : u.reg 0x80830 = s.reg 0x80830 := h.regs _ (by omega)
  have due := State.snapDue_congr (h.regs 0x80818 (by omega)) (h.regs 0x80820 (by omega)) (h.regs 0x10000 (by omega)) h.snap.2 ilk (s.iseq + 1).toNat
  have same : u.iseq = s.iseq := next
  rw [same, due] at goes snaps
  refine ⟨numbered.trans (by rw [next]), slowest, waited, fun hd => ?_, fun hd => ?_⟩
  · obtain ⟨lp, on⟩ := goes hd
    exact ⟨lp.trans h.lpddr, .of_stns h.stns on⟩
  · obtain ⟨snap, out, kept, stns⟩ := snaps hd
    exact ⟨snap, out, kept.trans (congrArg _ h.images.1), fun j hj => (stns j hj).trans (h.stns j)⟩

theorem Sends.waited {s t : State} (h : Sends s t) : t.waited = s.waited := by
  obtain ⟨_, _, rfl⟩ := h
  rfl

theorem State.doRelease_releases (s : State) (ilk : Nat) (iseq : Word) (slow reason : Nat) :
    Releases s ilk slow reason s.waited (s.doRelease .domain ilk iseq slow reason) := by
  have told := Sends.tellRelease s ilk iseq slow reason
  rw [State.doRelease_domain, ← told.waited]
  exact (State.onRelease_releases _ ilk slow reason).of_step (.of_sends told)

/-! ### The commit of a generation -/

/-- The commit of the generation of `r` (R340): its image is the newest, and the stations go on. -/
def Commits (s : State) (r : SnapRun) (t : State) : Prop :=
  t.reg 0x80824 = BitVec.ofNat 32 r.gen ∧ t.die.net.snap = none ∧ t.snapOut = none ∧ t.snapHalf = 1 - s.snapHalf ∧
  (∀ i, s.snapOut = some i → t.snaps = i :: s.snaps.take 1) ∧ t.lpddr = s.lpddr ∧ GoesOn s s.die.net.ilk.ilk t

/-- The state with a generation committed, its stations still waiting. -/
def State.committed (s : State) (r : SnapRun) : State :=
  let kept := match s.snapOut with | some i => i :: s.snaps.take 1 | none => s.snaps
  let s1 : State := { s.setNet { s.die.net with snap := none, snapIlk := Ilk.reset, snapGot := [] } with snaps := kept, snapOut := none, snapHalf := 1 - s.snapHalf }
  s1.setReg 0x80824 (BitVec.ofNat 32 r.gen)

theorem State.onCommit_eq {s : State} {r : SnapRun} (h : s.die.net.snap = some r) : s.onCommit = (s.committed r).releaseDomain s.die.net.ilk.ilk := by
  unfold State.onCommit
  rw [h]
  rfl

theorem State.onCommit_commits {s : State} {r : SnapRun} (h : s.die.net.snap = some r) : Commits s r s.onCommit := by
  rw [State.onCommit_eq h]
  have gen : (s.committed r).reg 0x80824 = BitVec.ofNat 32 r.gen := (State.reg_setReg ..).trans (if_pos rfl)
  have snap : (s.committed r).die.net.snap = none := congrArg Net.snap (State.net_setReg ..)
  have out : (s.committed r).snapOut = none := State.snapOut_setReg ..
  have half : (s.committed r).snapHalf = 1 - s.snapHalf := State.snapHalf_setReg ..
  have snaps (i : Snapshot) (hi : s.snapOut = some i) : (s.committed r).snaps = i :: s.snaps.take 1 := by
    refine (State.snaps_setReg ..).trans ?_
    simp only [hi]
  have lp : (s.committed r).lpddr = s.lpddr := State.lpddr_setReg ..
  have stns (j : Nat) : (s.committed r).stn j = s.stn j := State.stn_setReg ..
  generalize s.committed r = v at *
  obtain ⟨regs', lp', snaps', out', half', snap'⟩ := v.releaseDomain_frame s.die.net.ilk.ilk
  exact ⟨(regs' _ (by omega)).trans gen, snap'.trans snap, out'.trans out, half'.trans half, fun i hi => snaps'.trans (snaps i hi), lp'.trans lp,
    .of_stns stns (v.releaseDomain_goesOn _)⟩

theorem Commits.of_step {s u t : State} {r : SnapRun} (h : TreeStep s u) (hi : u.die.net.ilk.ilk = s.die.net.ilk.ilk) (k : Commits u r t) : Commits s r t := by
  obtain ⟨snaps, out, half⟩ := h.images
  obtain ⟨gen, snap, none, half', kept, lp, on⟩ := k
  rw [hi] at on
  rw [out, snaps] at kept
  exact ⟨gen, snap, none, half'.trans (by rw [half]), kept, lp.trans h.lpddr, .of_stns h.stns on⟩

theorem State.doRelease_commits {s : State} {r : SnapRun} (h : s.die.net.snap = some r) (ilk : Nat) (iseq : Word) (slow reason : Nat) :
    Commits s r (s.doRelease .commit ilk iseq slow reason) := by
  have told := TreeStep.of_sends (Sends.tellRelease s ilk iseq slow reason)
  have same : (s.tellRelease ilk iseq slow reason).die.net.ilk = s.die.net.ilk := (Sends.tellRelease s ilk iseq slow reason).ilkOf .domain
  rw [State.doRelease_commit]
  exact (State.onCommit_commits (told.snap.1.trans h)).of_step told (congrArg _ same)

end Sys2Proof.Machine
end

section
/-! PROOFS. Interlocks on the tree (O39, third part): the commands that arrive, note a message and release, and the settlement. -/
namespace Sys2Proof.Machine

/-! ### MODULE_ARRIVAL -/

/-- A coast may begin at the interlock (R375), which GOV_STATUS alone shows. -/
theorem State.beginCoast_cases (s : State) : s.beginCoast = s ∨ s.beginCoast = s.setFld 0x30000 7 1 1 := by
  unfold State.beginCoast
  dsimp only
  split
  · exact .inr rfl
  · exact .inl rfl

theorem State.net_beginCoast (s : State) : s.beginCoast.die.net = s.die.net := by
  rcases s.beginCoast_cases with e | e
  · rw [e]
  · rw [e, State.net_setFld]

theorem TreeStep.setFld (s : State) (lo len v : Nat) : TreeStep s (s.setFld 0x30000 lo len v) :=
  ⟨fun _ ha => (State.reg_setFld ..).trans (if_neg ha), fun _ => State.stn_setFld .., State.lpddr_setFld ..,
    ⟨State.snaps_setFld .., State.snapOut_setFld .., State.snapHalf_setFld ..⟩, by rw [State.net_setFld]; exact ⟨rfl, rfl⟩⟩

theorem TreeStep.beginCoast (s : State) : TreeStep s s.beginCoast := by
  rcases s.beginCoast_cases with e | e
  · rw [e]
    exact .refl s
  · rw [e]
    exact .setFld ..

theorem GoesOn.step {s t u : State} {ilk : Nat} (h : GoesOn s ilk t) (hn : u.die.net = t.die.net) (hs : ∀ j, u.stn j = t.stn j) : GoesOn s ilk u := by
  obtain ⟨net, timer, stns⟩ := h
  refine ⟨hn ▸ net, hn ▸ timer, fun i => ?_⟩
  rw [hs]
  exact stns i

theorem Releases.beginCoast {s t : State} {ilk slow reason wait : Nat} (h : Releases s ilk slow reason wait t) : Releases s ilk slow reason wait t.beginCoast := by
  obtain ⟨numbered, slowest, waited, goes, snaps⟩ := h
  have step := TreeStep.beginCoast t
  obtain ⟨same, out, -⟩ := step.images
  refine ⟨(step.regs _ (by omega)).trans numbered, (step.regs _ (by omega)).trans slowest, (step.regs _ (by omega)).trans waited, fun hd => ?_, fun hd => ?_⟩
  · obtain ⟨lp, on⟩ := goes hd
    exact ⟨step.lpddr.trans lp, on.step t.net_beginCoast step.stns⟩
  · obtain ⟨snap, begun, kept, stns⟩ := snaps hd
    exact ⟨step.snap.1.trans snap, out ▸ begun, same.trans kept, fun j hj => (step.stns j).trans (stns j hj)⟩

/-- The tick of the module's arrival noted, and its reason shown in GOV_STATUS (R327, R329). -/
def State.noteArrival (s : State) : State :=
  let s0 := { s with die := { s.die with net := { s.die.net with arrivedAt := some s.uptime } } }
  s0.setFld 0x30000 24 4 s0.ownReason

theorem TreeStep.noteArrival (s : State) : TreeStep s s.noteArrival := by
  have noted : TreeStep s { s with die := { s.die with net := { s.die.net with arrivedAt := some s.uptime } } } :=
    ⟨fun _ _ => rfl, fun _ => rfl, rfl, ⟨rfl, rfl, rfl⟩, ⟨rfl, rfl⟩⟩
  exact noted.trans (.setFld ..)

theorem State.net_noteArrival (s : State) : s.noteArrival.die.net = { s.die.net with arrivedAt := some s.uptime } := State.net_setFld ..

theorem State.waited_setIlk (s : State) (k : IlkKind) (i : Ilk) : (s.setIlk k i).waited = s.waited := by
  cases k with
  | domain => rfl
  | commit => rfl
  | roll => rfl

theorem State.waited_noteArrival (s : State) : s.noteArrival.waited = 0 := by
  unfold State.waited
  rw [State.net_noteArrival]
  exact (congrArg (· - s.uptime) (State.uptime_setFld ..)).trans (Nat.sub_self _)

theorem SameTorus.noteArrival (s : State) : SameTorus s s.noteArrival := .of_regs fun a _ => (TreeStep.noteArrival s).regs a (by omega)

theorem State.ownReason_noteArrival (s : State) : s.noteArrival.ownReason = s.ownReason := by
  unfold State.ownReason
  rw [State.net_noteArrival, show s.noteArrival.die.gov = s.die.gov from State.gov_setFld ..]

theorem State.ilkOf_noteArrival (s : State) : s.noteArrival.die.net.ilkOf .domain = s.die.net.ilk := (congrArg Net.ilk s.net_noteArrival :)

theorem State.arrivedAs_noteArrival (s : State) (ilk : Nat) : s.noteArrival.arrivedAs .domain ilk = s.arrivedAs .domain ilk := by
  unfold State.arrivedAs
  rw [s.ilkOf_noteArrival, (SameTorus.noteArrival s).modid, s.ownReason_noteArrival]
  rfl

section
variable {s : State}

theorem exec_moduleArrival {ilk : Nat} (hp : s.postedIlk = some ilk) (hl : s.live = true) (ho : s.die.net.ilk.own = false) (hs : s.die.net.snap = none)
    (hr : s.die.net.roll = none) (hb : s.die.net.boundary = true ∨ s.die.jobStarted = false) :
    exec .moduleArrival s = .next (s.noteArrival.ownArrival .domain ilk).beginCoast := by
  change execModuleArrival s = _
  unfold execModuleArrival
  rw [hp]
  refine if_pos ?_
  rcases hb with hb | hb
  · simp [hl, ho, hs, hr, hb]
  · simp [hl, ho, hs, hr, hb]

theorem exec_moduleArrival_still (h : s.postedIlk = none ∨ s.live = false ∨ s.die.net.ilk.own = true ∨ s.die.net.snap ≠ none ∨ s.die.net.roll ≠ none ∨
    s.die.net.boundary = false ∧ s.die.jobStarted = true) : exec .moduleArrival s = .next s := by
  change execModuleArrival s = _
  unfold execModuleArrival
  cases hp : s.postedIlk with
  | none => rfl
  | some ilk =>
    refine if_neg ?_
    rcases h with h | h | h | h | h | ⟨h, h'⟩
    · cases hp.symm.trans h
    · simp [h]
    · simp [h]
    · simp [h]
    · simp [h]
    · simp [h, h']

/-- The module's arrival noted and a step of its interlock done, as the statement shows it. -/
theorem State.arrival_shows {u v : State} {i : Ilk} (hu : TreeStep s.noteArrival u) (hn : u.die.net.arrivedAt = some s.uptime) (hv : Sends (u.setIlk .domain i) v) :
    v.beginCoast.die.net.ilk = i ∧ v.beginCoast.die.net.arrivedAt = some s.uptime ∧ SameRegs s v.beginCoast [0x30000] ∧ SameStns s v.beginCoast [] ∧
    v.beginCoast.lpddr = s.lpddr := by
  have step := (((TreeStep.noteArrival s).trans hu).trans (.setIlk u .domain i)).trans ((TreeStep.of_sends hv).trans (.beginCoast v))
  obtain ⟨ps, e⟩ := hv.net
  refine ⟨?_, ?_, fun a ha => step.regs a (by simpa using ha), fun j _ => step.stns j, step.lpddr⟩
  · rw [State.net_beginCoast, e]
    rfl
  · rw [State.net_beginCoast, e]
    exact hn

section
variable {ilk : Nat} (ha : ∀ a ∈ s.die.net.ilk.arrived, a.ilk = ilk)
include ha

/-- With a child still out the module waits for it (R328). -/
theorem State.moduleArrival_waits (hc : ∃ c ∈ s.children, ∀ a ∈ s.die.net.ilk.arrived, a.child ≠ c) :
    Sends (s.noteArrival.setIlk .domain (s.arrivedAs .domain ilk)) (s.noteArrival.ownArrival .domain ilk) := by
  rw [← s.arrivedAs_noteArrival]
  have here := s.ilkOf_noteArrival
  refine State.ownArrival_waits (by rw [here]; exact ha) fun all => ?_
  rw [here] at all
  obtain ⟨c, hm, out⟩ := hc
  obtain ⟨a, hin, e⟩ := all c (by rw [(SameTorus.noteArrival s).children]; exact hm)
  exact out a hin e

variable (hc : s.children = []) (hs : s.die.net.ilk.sentUp = false)
include hc hs

/-- A leaf sends ARRIVE to its parent (R328). -/
theorem State.moduleArrival_leaf (hr : s.isRoot = false) :
    ∃ u, Sends (s.noteArrival.setIlk .domain (s.arrivedAs .domain ilk)) u ∧
      Sends (u.setIlk .domain { s.arrivedAs .domain ilk with sentUp := true }) (s.noteArrival.ownArrival .domain ilk) := by
  have here := s.ilkOf_noteArrival
  have torus := SameTorus.noteArrival s
  rw [← s.arrivedAs_noteArrival]
  exact State.ownArrival_up (by rw [here]; exact ha) (State.allIn_of_leaf (torus.children.trans hc) _) (by rw [here]; exact hs) (torus.isRoot.trans hr)

/-- The root of a domain of one module releases at once, without a wait (R328, R329). -/
theorem State.moduleArrival_root (hn : s.die.net.ilk.arrived = []) (hr : s.isRoot = true) (hd : s.domainSize = 1) :
    Releases s ilk s.modid s.ownReason 0 (s.noteArrival.ownArrival .domain ilk) := by
  have torus := SameTorus.noteArrival s
  have here := s.ilkOf_noteArrival
  obtain ⟨u, iseq, sent, e⟩ := State.ownArrival_releases (s := s.noteArrival) (k := .domain) (by rw [here]; exact ha)
    (State.allIn_of_leaf (torus.children.trans hc) _) (by rw [here]; exact hs) (torus.isRoot.trans hr) (by rw [here, hn, torus.domainSize, hd]; rfl)
  have released := State.doRelease_releases (u.setIlk .domain { s.noteArrival.arrivedAs .domain ilk with sentUp := true }) ilk iseq s.noteArrival.modid s.noteArrival.ownReason
  rw [State.waited_setIlk, sent.waited, State.waited_setIlk, State.waited_noteArrival, torus.modid, s.ownReason_noteArrival] at released
  have step := (((TreeStep.noteArrival s).trans (.setIlk s.noteArrival .domain (s.noteArrival.arrivedAs .domain ilk))).trans (.of_sends sent)).trans
    (.setIlk u .domain { s.noteArrival.arrivedAs .domain ilk with sentUp := true })
  rw [e, torus.modid, s.ownReason_noteArrival]
  exact released.of_step step

end

/-! ### PRESENT and ARRIVE -/

theorem exec_present {child ilk lce : Nat} (hl : s.linked = true) (ht : s.staleLce lce = false) (hc : child ∈ s.children)
    (hp : child ∉ (s.die.net.ilkOf (s.kindOf ilk)).present) :
    exec (.present child ilk lce) s = .next (s.setIlk (s.kindOf ilk)
      { s.die.net.ilkOf (s.kindOf ilk) with present := (s.die.net.ilkOf (s.kindOf ilk)).present ++ [child] }) :=
  (if_pos hl).trans (congrArg _ (if_neg (by simp [ht, hc, hp])))

theorem exec_present_still {child ilk lce : Nat} (h : s.linked = false ∨ s.staleLce lce = true ∨ child ∉ s.children ∨
    child ∈ (s.die.net.ilkOf (s.kindOf ilk)).present) : exec (.present child ilk lce) s = .next s := by
  by_cases hl : s.linked = true
  · refine (if_pos hl).trans (congrArg _ (if_pos ?_))
    rcases h with h | h | h | h
    · cases hl.symm.trans h
    · simp [h]
    · simp [h]
    · simp [h]
  · exact if_neg hl

/-- An interlock with the arrival of a child in it (R328, R329). -/
def Ilk.with (i : Ilk) (a : ChildArrival) : Ilk :=
  { i with
    present := if i.present.contains a.child then i.present else i.present ++ [a.child]
    arrived := i.arrived ++ [a]
    last := some (a.slow, a.reason) }

theorem Ilk.mem_present_with (i : Ilk) (a : ChildArrival) : a.child ∈ (i.with a).present := by
  unfold Ilk.with
  dsimp only
  split
  · rename_i h
    exact List.contains_iff_mem.mp h
  · exact List.mem_append_right _ (List.mem_singleton_self _)

theorem exec_arrive {child ilk lce count slow reason : Nat} {iseq : Word} (hl : s.linked = true) (ht : s.staleLce lce = false) (hc : child ∈ s.children)
    (ha : ∀ a ∈ (s.die.net.ilkOf (s.kindOf ilk)).arrived, a.child ≠ child) :
    exec (.arrive child ilk lce count slow reason iseq) s = .next (
      if s.arriveFits (s.kindOf ilk) ilk lce iseq then
        (s.setIlk (s.kindOf ilk) ((s.die.net.ilkOf (s.kindOf ilk)).with ⟨child, ilk, count, slow, reason, iseq⟩)).ilkAdvance (s.kindOf ilk)
      else s.logFault 0x0507 0 0x300 (BitVec.ofNat 32 (ilk + lce * 256)) (BitVec.ofNat 64 iseq.toNat)) :=
  (if_pos hl).trans (congrArg _ (if_neg (by simpa [ht, hc] using ha)))

theorem exec_arrive_still {child ilk lce count slow reason : Nat} {iseq : Word} (h : s.linked = false ∨ s.staleLce lce = true ∨ child ∉ s.children ∨
    ∃ a ∈ (s.die.net.ilkOf (s.kindOf ilk)).arrived, a.child = child) : exec (.arrive child ilk lce count slow reason iseq) s = .next s := by
  by_cases hl : s.linked = true
  · refine (if_pos hl).trans (congrArg _ (if_pos ?_))
    rcases h with h | h | h | h
    · cases hl.symm.trans h
    · simp [h]
    · simp [h]
    · have twice : (s.die.net.ilkOf (s.kindOf ilk)).arrived.any (fun a => decide (a.child = child)) = true := by simpa using h
      simp only [twice, Bool.or_true]
  · exact if_neg hl

/-- An arrival that is noted and waits for another, or for this module's own. -/
theorem State.ilkAdvance_noted {k : IlkKind} {a : ChildArrival} (h : (s.die.net.ilkOf k).own = false ∨ (s.die.net.ilkOf k).sentUp = true ∨
    ∃ c ∈ s.children, c ≠ a.child ∧ ∀ b ∈ (s.die.net.ilkOf k).arrived, b.child ≠ c) :
    (s.setIlk k ((s.die.net.ilkOf k).with a)).ilkAdvance k = s.setIlk k ((s.die.net.ilkOf k).with a) := by
  refine State.ilkAdvance_still ?_
  rw [State.ilkOf_setIlk]
  rcases h with h | h | ⟨c, hc, hne, hout⟩
  · exact .inl h
  · exact .inr (.inl h)
  · refine .inr (.inr fun all => ?_)
    obtain ⟨b, hb, e⟩ := all c ((State.children_congr (s := s) (t := s.setIlk k _) (fun _ => rfl)).symm ▸ hc)
    rcases List.mem_append.mp hb with hb | hb
    · exact hout b hb e
    · exact hne (e.symm.trans (congrArg _ (List.mem_singleton.mp hb)))

/-- The last arrival of a child releases the interlock at the root (R328). -/
theorem State.ilkAdvance_last {a : ChildArrival} (ho : s.die.net.ilk.own = true) (hs : s.die.net.ilk.sentUp = false) (hr : s.isRoot = true)
    (hc : ∀ c ∈ s.children, c = a.child ∨ ∃ b ∈ s.die.net.ilk.arrived, b.child = c)
    (hd : 1 + ((s.die.net.ilk.arrived.map (·.count)).sum + a.count) = s.domainSize) :
    Releases s s.die.net.ilk.ilk a.slow a.reason s.waited ((s.setIlk .domain (s.die.net.ilk.with a)).ilkAdvance .domain) := by
  have regs (r : Nat) : (s.setIlk .domain (s.die.net.ilk.with a)).reg r = s.reg r := rfl
  have all : (s.setIlk .domain (s.die.net.ilk.with a)).allIn (s.die.net.ilk.with a) := by
    intro c hm
    rcases hc c (State.children_congr regs ▸ hm) with e | ⟨b, hb, e⟩
    · exact ⟨a, List.mem_append_right _ (List.mem_singleton_self _), e.symm⟩
    · exact ⟨b, List.mem_append_left _ hb, e⟩
  have count : 1 + ((s.die.net.ilk.with a).arrived.map (·.count)).sum = (s.setIlk .domain (s.die.net.ilk.with a)).domainSize := by
    rw [State.domainSize_congr regs, ← hd]
    simp [Ilk.with]
  rw [State.ilkAdvance_releases (s := s.setIlk .domain (s.die.net.ilk.with a)) (k := .domain) ho hs all rfl ((State.isRoot_congr regs).trans hr) count]
  have released := State.doRelease_releases ((s.setIlk .domain (s.die.net.ilk.with a)).setIlk .domain { s.die.net.ilk.with a with sentUp := true }) s.die.net.ilk.ilk
    ((s.setIlk .domain (s.die.net.ilk.with a)).ilkSeq .domain) a.slow a.reason
  rw [State.waited_setIlk, State.waited_setIlk] at released
  exact released.of_step ((TreeStep.setIlk s .domain (s.die.net.ilk.with a)).trans (.setIlk _ .domain { s.die.net.ilk.with a with sentUp := true }))

/-! ### RELEASE -/

/-- The release of round 1 of a rollback lets a module in LINKS take part in round 2 (R465). -/
theorem exec_release_rejoins {lce slow reason : Nat} {iseq : Word} (hl : s.linked = true) (hm : s.mstate = 4) (hr : s.die.net.roll = none) :
    exec (.release 0xFF lce slow reason iseq) s =
      .next ((s.setNet { s.die.net with roll := some ⟨2, iseq.toNat, false, ⟨0, 0, 0⟩, 0x300⟩, rollIlk := Ilk.reset }).setReg 0x80834 (BitVec.ofNat 32 (lce % 65536))) :=
  (if_pos hl).trans (congrArg _ (if_pos (by simp [hm, hr])))

section
variable {ilk lce slow reason : Nat} {iseq : Word} (hl : s.linked = true) (hj : s.mstate ≠ 4 ∨ s.die.net.roll ≠ none ∨ ilk ≠ 0xFF)
include hl hj

theorem exec_release :
    exec (.release ilk lce slow reason iseq) s = .next (
      if s.staleLce lce || !(s.die.net.ilkOf (s.kindOf ilk)).own || decide ((s.die.net.ilkOf (s.kindOf ilk)).ilk ≠ ilk) then s
      else s.doRelease (s.kindOf ilk) ilk iseq slow reason) := by
  refine (if_pos hl).trans (congrArg _ (if_neg ?_))
  rcases hj with h | h | h
  · simp [h]
  · simp [h]
  · simp [h]

theorem exec_release_acts (ht : s.staleLce lce = false) (ho : (s.die.net.ilkOf (s.kindOf ilk)).own = true) (hi : (s.die.net.ilkOf (s.kindOf ilk)).ilk = ilk) :
    exec (.release ilk lce slow reason iseq) s = .next (s.doRelease (s.kindOf ilk) ilk iseq slow reason) :=
  (exec_release hl hj).trans (congrArg _ (if_neg (by simp [ht, ho, hi])))

theorem exec_release_still (h : s.staleLce lce = true ∨ (s.die.net.ilkOf (s.kindOf ilk)).own = false ∨ (s.die.net.ilkOf (s.kindOf ilk)).ilk ≠ ilk) :
    exec (.release ilk lce slow reason iseq) s = .next s := by
  refine (exec_release hl hj).trans (congrArg _ (if_pos ?_))
  rcases h with h | h | h
  · simp [h]
  · simp [h]
  · simp [h]

end

/-! ### SNAPSHOT_COPY_DONE -/

section
variable {r : SnapRun} (hr : s.die.net.snap = some r)
include hr

theorem exec_snapshotCopyDone (hl : s.live = true) (ho : s.die.net.snapIlk.own = false) (hd : s.copiesDone r = true) :
    exec .snapshotCopyDone s = .next (s.ownArrival .commit s.die.net.ilk.ilk) := by
  change execSnapshotCopyDone s = _
  unfold execSnapshotCopyDone
  rw [hr]
  exact if_pos (by simp [hl, ho, hd])

theorem exec_snapshotCopyDone_still (h : s.live = false ∨ s.die.net.snapIlk.own = true ∨ s.copiesDone r = false) : exec .snapshotCopyDone s = .next s := by
  change execSnapshotCopyDone s = _
  unfold execSnapshotCopyDone
  rw [hr]
  refine if_neg ?_
  rcases h with h | h | h
  · simp [h]
  · simp [h]
  · simp [h]

end

section
variable {ilk : Nat} (ha : s.die.net.snapIlk.arrived = [])
include ha

/-- Before the commit too the module waits for a child that is still out (R328, R340). -/
theorem State.commitArrival_waits (hc : s.children ≠ []) : Sends (s.setIlk .commit (s.arrivedAs .commit ilk)) (s.ownArrival .commit ilk) := by
  obtain ⟨c, r, e⟩ := List.exists_cons_of_ne_nil hc
  refine State.ownArrival_waits (k := .commit) (by simp [Net.ilkOf, ha]) fun all => ?_
  obtain ⟨a, hin, -⟩ := all c (e ▸ List.mem_cons_self)
  rw [show (s.die.net.ilkOf .commit).arrived = [] from ha] at hin
  cases hin

/-- The root of a domain of one module commits at once (R328, R340). -/
theorem State.commitArrival_root {r : SnapRun} (hr : s.die.net.snap = some r) (hc : s.children = []) (hs : s.die.net.snapIlk.sentUp = false) (ht : s.isRoot = true)
    (hd : s.domainSize = 1) : Commits s r (s.ownArrival .commit ilk) := by
  obtain ⟨u, iseq, sent, e⟩ := State.ownArrival_releases (k := .commit) (ilk := ilk) (by simp [Net.ilkOf, ha]) (State.allIn_of_leaf hc _) hs ht
    (by rw [show (s.die.net.ilkOf .commit).arrived = [] from ha, hd]; rfl)
  have step := ((TreeStep.setIlk s .commit (s.arrivedAs .commit ilk)).trans (.of_sends sent)).trans (.setIlk u .commit { s.arrivedAs .commit ilk with sentUp := true })
  have same : u.die.net.ilk = s.die.net.ilk := sent.ilkOf .domain
  rw [e]
  exact (State.doRelease_commits (step.snap.1.trans hr) ..).of_step step (congrArg _ same)

end

end

end Sys2Proof.Machine

namespace Sys2Proof
open Machine

/-- Settles O39: arrivals through `State.ownArrival_sends` and `State.ilkAdvance_goes`, releases through `Releases` and `Commits`. -/
theorem interlocksAndCommitsRunOnTheTree : Obligations.InterlocksAndCommitsRunOnTheTree := by
  intro s goOn released committed since
  refine ⟨fun ilk hp hl ho hs hr hb => ?_, exec_moduleArrival_still, fun child ilk lce => ⟨fun hl ht hc hp => ?_, exec_present_still, fun count slow reason iseq => ?_⟩,
    fun ilk lce slow reason iseq hl => ⟨fun hm hr hi => ?_, fun hj => ⟨fun ht hk ho hi => ?_, fun r ht hk hr ho hi => ?_, exec_release_still hl hj⟩⟩,
    fun r hr => ⟨fun hl ho hd ha => ?_, exec_snapshotCopyDone_still hr⟩⟩
  · have run := exec_moduleArrival hp hl ho hs hr hb
    have noted := s.net_noteArrival
    refine ⟨fun out same => ?_, fun hc hroot ha hup => ?_, fun hc hroot hd ha hup => ?_⟩
    · exact runs_of run (State.arrival_shows (.refl _) (congrArg Net.arrivedAt noted) (State.moduleArrival_waits same out))
    · obtain ⟨u, sent, up⟩ := State.moduleArrival_leaf (ilk := ilk) (by simp [ha]) hc hup hroot
      obtain ⟨ps, e⟩ := sent.net
      exact runs_of run (State.arrival_shows ((TreeStep.setIlk _ .domain _).trans (.of_sends sent)) ((congrArg Net.arrivedAt e :).trans (congrArg Net.arrivedAt noted)) up)
    · exact runs_of run (State.moduleArrival_root (by simp [ha]) hc hup ha hroot hd).beginCoast
  · refine runs_of (exec_present hl ht hc hp) ⟨?_, fun _ _ => rfl, fun _ _ => rfl, rfl⟩
    rw [State.ilkOf_setIlk]
  · refine ⟨fun hl ht hc ha => ⟨fun fits wait => ?_, fun fits hk ho hs hroot hin hd => ?_, fun misfit => ?_⟩, exec_arrive_still⟩
    · refine runs_of ((exec_arrive hl ht hc ha).trans (congrArg _ ((if_pos fits).trans (State.ilkAdvance_noted wait)))) ⟨?_, ?_, ?_, fun _ _ => rfl, fun _ _ => rfl, rfl⟩
      · rw [State.ilkOf_setIlk]
        rfl
      · rw [State.ilkOf_setIlk]
        rfl
      · rw [State.ilkOf_setIlk]
        exact Ilk.mem_present_with ..
    · have run := (exec_arrive (count := count) (slow := slow) (reason := reason) hl ht hc ha).trans (congrArg _ (if_pos fits))
      rw [hk] at run ho hs hin hd
      refine runs_of run ?_
      change Releases s (s.die.net.ilkOf (s.kindOf ilk)).ilk slow reason s.waited _
      rw [hk]
      exact State.ilkAdvance_last (a := ⟨child, ilk, count, slow, reason, iseq⟩) ho hs hroot hin hd
    · exact runs_of ((exec_arrive hl ht hc ha).trans (congrArg _ (if_neg (by simp [misfit])))) ⟨State.wr_logFault .., State.net_logFault .., fun _ _ => State.stn_logFault .., State.lpddr_logFault ..⟩
  · subst hi
    refine runs_of (exec_release_rejoins hl hm hr) ⟨⟨⟨0, 0, 0⟩, ?_⟩, (State.reg_setReg ..).trans (if_pos rfl), fun a ha => ?_, fun j _ => State.stn_setReg .., State.lpddr_setReg ..⟩
    · rw [State.net_setReg]
      rfl
    · exact (State.reg_setReg ..).trans (if_neg (by simpa using ha))
  · have run := exec_release_acts (slow := slow) (reason := reason) (iseq := iseq) hl hj ht (by rw [hk]; exact ho) (by rw [hk]; exact hi)
    rw [hk] at run
    exact runs_of run (s.doRelease_releases ..)
  · have run := exec_release_acts (slow := slow) (reason := reason) (iseq := iseq) hl hj ht (by rw [hk]; exact ho) (by rw [hk]; exact hi)
    rw [hk] at run
    exact runs_of run (State.doRelease_commits hr ..)
  · have run := exec_snapshotCopyDone hr hl ho hd
    refine ⟨fun hc => ?_, fun hc hroot hsize hup => ?_⟩
    · obtain ⟨ps, o, e⟩ := State.commitArrival_waits ha hc
      rw [e] at run
      exact runs_of run ⟨rfl, hr, rfl, rfl, fun _ _ => rfl, fun _ _ => rfl, rfl⟩
    · exact runs_of run (State.commitArrival_root ha hr hc hup hroot hsize)

end Sys2Proof
end

section
/-! PROOFS. Ports (O37 and O38, first part): what a port holds, the frames that leave it, and the registers of the port pages. -/
namespace Sys2Proof.Machine

/-! ### What a port holds -/

theorem State.port_setPort (s : State) (p : Nat) (q : Port) (r : Nat) : (s.setPort p q).port r = if r = p then q else s.port r := mget_mset ..

theorem State.port_of_net {s t : State} (h : t.die.net = s.die.net) (p : Nat) : t.port p = s.port p := by rw [State.port, State.port, h]

theorem State.port_freeBuffer (s : State) (o : Option (Nat × Nat × Nat)) (p : Nat) : (s.freeBuffer o).port p = s.port p := by
  unfold State.freeBuffer
  split
  · rfl
  · rfl

/-- The number of frames that a port keeps or has waiting. -/
def Port.load (q : Port) : Nat := q.sent.length + q.wait.length

/-- A frame is kept at the port or waits there. -/
def Port.Holds (q : Port) (f : Frame) : Prop := f ∈ q.sent ∨ ∃ w ∈ q.wait, w.frame = f

/-- The same message to the same module: what sending a frame leaves of it. -/
def Frame.Same (f g : Frame) : Prop := g.body = f.body ∧ g.dmod = f.dmod ∧ g.smod = f.smod ∧ g.cls = f.cls

/-- What sending frames that wait leaves of a port: all but numbers and credits, no frame lost. -/
structure Port.Flushed (q r : Port) : Prop where
  rxLast : r.rxLast = q.rxLast
  fails : r.fails = q.fails
  naks : r.naks = q.naks
  dropping : r.dropping = q.dropping
  load : r.load = q.load
  holds : ∀ f, q.Holds f → ∃ g, r.Holds g ∧ f.Same g

theorem Port.Flushed.refl (q : Port) : q.Flushed q := ⟨rfl, rfl, rfl, rfl, rfl, fun f h => ⟨f, h, rfl, rfl, rfl, rfl⟩⟩

theorem Port.Flushed.trans {q r x : Port} (h : q.Flushed r) (k : r.Flushed x) : q.Flushed x := by
  refine ⟨k.rxLast.trans h.rxLast, k.fails.trans h.fails, k.naks.trans h.naks, k.dropping.trans h.dropping, k.load.trans h.load, fun f hf => ?_⟩
  obtain ⟨g, hg, b1, d1, s1, c1⟩ := h.holds f hf
  obtain ⟨x, hx, b2, d2, s2, c2⟩ := k.holds g hg
  exact ⟨x, hx, b2.trans b1, d2.trans d1, s2.trans s1, c2.trans c1⟩

theorem Port.mem_wait_of_nextFrame {q : Port} {w : Waiting} (h : q.nextFrame = some w) : w ∈ q.wait := by
  have of_pick {c : Nat} {v : Waiting} (hv : q.pick c = some v) : v ∈ q.wait := List.mem_of_find?_eq_some hv
  unfold Port.nextFrame at h
  split at h
  · cases h
  · split at h
    · cases h
      exact of_pick ‹_›
    · split at h
      · cases h
        exact of_pick ‹_›
      · exact of_pick h

/-! ### Sending -/

/-- A port after it has sent a frame that waited (R316, R317). -/
def Port.sending (q : Port) (w : Waiting) : Port :=
  { q with
    txNext := (q.txNext + 1) % 4096
    sent := q.sent ++ [{ w.frame with seq := q.txNext, ackseq := q.rxLast }]
    wait := q.wait.erase w
    credit := q.credit.set (3 * w.frame.vc + w.frame.cls) (q.credit.getD (3 * w.frame.vc + w.frame.cls) 0 - 1) }

theorem Port.Flushed.sending {q : Port} {w : Waiting} (h : w ∈ q.wait) : q.Flushed (q.sending w) := by
  refine ⟨rfl, rfl, rfl, rfl, ?_, fun f hf => ?_⟩
  · have some_wait := List.length_pos_of_mem h
    simp only [Port.load, Port.sending, List.length_append, List.length_singleton, List.length_erase_of_mem h]
    omega
  · have sent {g : Frame} (hg : g ∈ q.sent) : (q.sending w).Holds g := .inl (List.mem_append_left _ hg)
    rcases hf with hf | ⟨v, hv, rfl⟩
    · exact ⟨f, sent hf, rfl, rfl, rfl, rfl⟩
    · by_cases e : v = w
      · subst e
        exact ⟨_, .inl (List.mem_append_right _ (List.mem_singleton_self _)), rfl, rfl, rfl, rfl⟩
      · exact ⟨_, .inr ⟨v, (List.mem_erase_of_ne e).mpr hv, rfl⟩, rfl, rfl, rfl, rfl⟩

theorem State.port_sendNext (s : State) (p : Nat) (w : Waiting) (r : Nat) : (s.sendNext p w).port r = if r = p then (s.port p).sending w else s.port r :=
  (State.port_freeBuffer ..).trans (State.port_setPort ..)

/-- Flushing a port sends what may go there and leaves every other port. -/
theorem State.port_flushPort (p n : Nat) (s : State) :
    (s.port p).Flushed ((State.flushPort p n s).port p) ∧ ∀ r, r ≠ p → (State.flushPort p n s).port r = s.port r := by
  induction n generalizing s with
  | zero => exact ⟨.refl _, fun _ _ => rfl⟩
  | succ n ih =>
    unfold State.flushPort
    dsimp only
    split
    · exact ⟨.refl _, fun _ _ => rfl⟩
    · split
      · exact ⟨.refl _, fun _ _ => rfl⟩
      · rename_i w hw
        obtain ⟨here, others⟩ := ih (s.sendNext p w)
        rw [State.port_sendNext, if_pos rfl] at here
        refine ⟨(Port.Flushed.sending (Port.mem_wait_of_nextFrame hw)).trans here, fun r hr => ?_⟩
        rw [others r hr, State.port_sendNext, if_neg hr]

/-- A frame given to a port waits there or goes (R317). -/
theorem State.port_toPort (s : State) (p : Nat) (w : Waiting) :
    ({ s.port p with wait := (s.port p).wait ++ [w] } : Port).Flushed ((s.toPort p w).port p) ∧ ∀ r, r ≠ p → (s.toPort p w).port r = s.port r := by
  obtain ⟨here, others⟩ := State.port_flushPort p ((s.port p).wait.length + 1) (s.setPort p { s.port p with wait := (s.port p).wait ++ [w] })
  rw [State.port_setPort, if_pos rfl] at here
  exact ⟨here, fun r hr => (others r hr).trans ((State.port_setPort ..).trans (if_neg hr))⟩

theorem State.load_toPort (s : State) (p : Nat) (w : Waiting) : ((s.toPort p w).port p).load = (s.port p).load + 1 := by
  refine (s.port_toPort p w).1.load.trans ?_
  simp only [Port.load, List.length_append, List.length_singleton]
  omega

/-- Frames given to a port one after the other. -/
theorem State.load_foldl_toPort (p : Nat) (ws : List Waiting) (s : State) :
    ((ws.foldl (fun (t : State) w => t.toPort p w) s).port p).load = (s.port p).load + ws.length ∧
    ∀ r, r ≠ p → (ws.foldl (fun (t : State) w => t.toPort p w) s).port r = s.port r := by
  induction ws generalizing s with
  | nil => exact ⟨rfl, fun _ _ => rfl⟩
  | cons w ws ih =>
    obtain ⟨load, others⟩ := ih (s.toPort p w)
    refine ⟨?_, fun r hr => (others r hr).trans ((s.port_toPort p w).2 r hr)⟩
    rw [List.foldl_cons, load, State.load_toPort, List.length_cons]
    omega

/-! ### The registers of the port pages -/

/-- A register of a port's page, below the registers that the LINK block shares (R344). -/
def portReg (a : Nat) : Prop := 0x80000 ≤ a ∧ a < 0x8C000 ∧ a % 0x1000 < 0x800

theorem portReg_page {p o : Nat} (hp : p < 12) (ho : o < 0x800) : portReg (portBase p + o) := by
  unfold portReg portBase
  omega

/-- The port pages hold what they held. -/
def PagesKept (s t : State) : Prop := ∀ a, portReg a → t.reg a = s.reg a

theorem PagesKept.refl (s : State) : PagesKept s s := fun _ _ => rfl

theorem PagesKept.trans {s t u : State} (h : PagesKept s t) (k : PagesKept t u) : PagesKept s u := fun a ha => (k a ha).trans (h a ha)

theorem PagesKept.of_regs {s t : State} (h : ∀ a, t.reg a = s.reg a) : PagesKept s t := fun a _ => h a

theorem PagesKept.sends {s t : State} (h : Sends s t) : PagesKept s t := .of_regs h.reg

theorem PagesKept.foldl {β : Type} {f : State → β → State} (h : ∀ t b, PagesKept t (f t b)) (l : List β) (s : State) : PagesKept s (l.foldl f s) := by
  induction l generalizing s with
  | nil => exact refl s
  | cons b l ih => exact (h s b).trans (ih _)

theorem PagesKept.setReg (s : State) {a : Nat} (v : Word) (h : a < 0x80000 ∨ 0x8C000 ≤ a ∨ 0x800 ≤ a % 0x1000) : PagesKept s (s.setReg a v) := fun b hb =>
  (State.reg_setReg ..).trans (if_neg (by unfold portReg at hb; omega))

theorem PagesKept.logFault (s : State) (code step unit : Nat) (d0 : Word) (d1 : BitVec 64) : PagesKept s (s.logFault code step unit d0 d1) := fun b hb =>
  State.reg_logFault _ _ _ _ _ _ _ (by unfold portReg at hb; omega) (by unfold portReg at hb; omega) (by unfold portReg at hb; omega)

theorem PagesKept.actClear (s : State) (lce : Nat) (w : FaultInfo) (unit : Nat) : PagesKept s (s.actClear lce w unit) := by
  have cleared : PagesKept s (s.lineClear lce) := fun b hb => by
    unfold portReg at hb
    exact State.reg_lineClear _ _ (by omega) (by omega) (by omega) (by omega)
  have marked (t : State) (going waits : Bool) : PagesKept t (t.markRoll going waits) := fun b hb => State.reg_markRoll _ _ _ (by unfold portReg at hb; omega)
  rw [State.actClear_eq]
  split
  · exact cleared.trans (PagesKept.trans (.of_regs fun _ => rfl) (marked _ true false))
  · exact cleared.trans (marked _ false true)

theorem PagesKept.takeStep5 (s : State) (w : FaultInfo) (unit : Nat) : PagesKept s (s.takeStep5 w unit) := by
  have counted : PagesKept s (s.ladder w.code 5 unit w.d0 w.d1) := (PagesKept.setReg s _ (.inl (by omega))).trans (.logFault _ _ _ _ _ _)
  have noted (t : State) : PagesKept t t.recovery := .of_regs fun _ => rfl
  have cleared (t : State) : PagesKept t (t.startClear w unit) := (PagesKept.sends (.flood t none _)).trans (.actClear _ _ w unit)
  exact counted.trans ((noted _).trans (cleared _))

theorem PagesKept.enter (s : State) (n : Nat) : PagesKept s (s.enter n) := fun b hb =>
  (State.reg_enter ..).trans (if_neg (by unfold portReg at hb; omega))

/-- LINKS may be left for READY (R402). -/
theorem State.settleLinks_cases (s : State) : s.settleLinks = s ∨ s.settleLinks = s.enter 5 := by
  unfold State.settleLinks
  split
  · exact .inr rfl
  · exact .inl rfl

theorem Reports.settleLinks (s : State) : Reports s s.settleLinks := by
  rcases s.settleLinks_cases with e | e
  · rw [e]
    exact .refl s
  · rw [e]
    exact .enter s 5

theorem State.reg_settleLinks (s : State) {a : Nat} (h : a ≠ 0x10000) : s.settleLinks.reg a = s.reg a := by
  rcases s.settleLinks_cases with e | e
  · rw [e]
  · rw [e, State.reg_enter, if_neg h]

theorem PagesKept.settleLinks (s : State) : PagesKept s s.settleLinks := fun b hb => State.reg_settleLinks _ (by unfold portReg at hb; omega)

/-! ### STATE of a port -/

theorem State.reg_setPortState (s : State) (p st a : Nat) :
    (s.setPortState p st).reg a = if a = portBase p then putFld (s.reg (portBase p)) 0 2 st else s.reg a := by
  unfold State.setPortState
  dsimp only
  split
  · exact State.reg_setFld ..
  · exact (State.reg_signal ..).trans (State.reg_setFld ..)

theorem Reports.setPortState (s : State) (p st : Nat) : Reports s (s.setPortState p st) := by
  unfold State.setPortState
  dsimp only
  split
  · exact .setReg ..
  · exact (Reports.setReg ..).trans (.signal ..)

theorem Reports.setFld (s : State) (a lo len v : Nat) : Reports s (s.setFld a lo len v) := .setReg ..

theorem Reports.bump (s : State) (a n : Nat) : Reports s (s.bump a n) := .setReg ..

theorem portBase_ne {p q : Nat} (h : p ≠ q) {a b : Nat} (ha : a < 0x1000) (hb : b < 0x1000) : portBase p + a ≠ portBase q + b := by
  unfold portBase
  omega

theorem sibling_ne (p : Nat) : sibling p ≠ p := by
  unfold sibling
  split <;> omega

theorem sibling_sibling (p : Nat) : sibling (sibling p) = p := by
  unfold sibling
  split <;> split <;> omega

theorem sibling_lt {p : Nat} (h : p < 12) : sibling p < 12 := by
  unfold sibling
  split <;> omega

end Sys2Proof.Machine
end

section
/-! PROOFS. Ports (O38, second part): failover, failure, half the lanes and a port that comes up, by what each leaves in the port's registers. -/
namespace Sys2Proof.Machine

variable {s t u : State} {p : Nat}

/-! ### What a port event leaves of the rest -/

/-- Stations, mesh, memory and the power of the die hold what they held. -/
structure Beside (s t : State) : Prop where
  stn : ∀ j, t.stn j = s.stn j
  mesh : t.die.mesh = s.die.mesh
  lpddr : t.lpddr = s.lpddr
  power : t.powered = s.powered

namespace Beside

theorem refl (s : State) : Beside s s := ⟨fun _ => rfl, rfl, rfl, rfl⟩

theorem trans (h : Beside s t) (k : Beside t u) : Beside s u :=
  ⟨fun j => (k.stn j).trans (h.stn j), k.mesh.trans h.mesh, k.lpddr.trans h.lpddr, k.power.trans h.power⟩

theorem reports (h : Reports s t) : Beside s t := by
  obtain ⟨_, _, _, _, _, _, rfl⟩ := h
  exact ⟨fun _ => rfl, rfl, rfl, rfl⟩

theorem sends (h : Sends s t) : Beside s t := by
  obtain ⟨_, _, rfl⟩ := h
  exact ⟨fun _ => rfl, rfl, rfl, rfl⟩

theorem sameStns (h : Beside s t) : SameStns s t [] := fun j _ => h.stn j

end Beside

/-! ### STATE, EN and the sibling -/

theorem State.portState_congr (h : t.reg (portBase p) = s.reg (portBase p)) : t.portState p = s.portState p := by rw [State.portState, h, State.portState]

theorem State.portUp_congr (h : t.reg (portBase p) = s.reg (portBase p)) : t.portUp p = s.portUp p := by
  rw [State.portUp, State.portUp, State.portState_congr h]

theorem State.portEn_congr (h : t.reg (portBase p + 4) = s.reg (portBase p + 4)) : t.portEn p = s.portEn p := by rw [State.portEn, h, State.portEn]

theorem portBase_sibling_ne (p : Nat) {a b : Nat} (ha : a < 0x1000) (hb : b < 0x1000) : portBase p + a ≠ portBase (sibling p) + b :=
  portBase_ne (sibling_ne p).symm ha hb

theorem portStatus_page (h : p < 12) : portReg (portBase p) := portReg_page h (o := 0) (by omega)

/-! ### Failover -/

theorem PagesKept.loseDirection (s : State) (d : Nat) : PagesKept s (s.loseDirection d) := by
  have emptied (t : State) (p : Nat) : PagesKept t (t.setPort p (t.port p).emptied) := .sends (.setPort t p _)
  have aborted (w : FaultInfo) (t : State) (k : Nat × Nat) : PagesKept t (t.abortFlight w k) := by
    unfold State.abortFlight
    split
    · exact .of_regs fun _ => rfl
    · exact .refl t
  have sent (t : State) (k : Waiting) : PagesKept t (t.routeWaiting { k with frame := { k.frame with orig := none } }) := .sends (.routeWaiting ..)
  unfold State.loseDirection
  extract_lets ws owners w s1 s2 stay s3 v
  have lost : PagesKept s s3 := (((PagesKept.foldl emptied _ s).trans (PagesKept.logFault _ _ _ _ _ _)).trans (PagesKept.foldl (aborted w) _ _)).trans (PagesKept.foldl sent _ _)
  split
  · exact (lost.trans (PagesKept.logFault _ _ _ _ _ _)).trans (PagesKept.takeStep5 _ _ _)
  · exact lost

/-- A port out of service with its sibling up gives it its frames (R322). -/
theorem State.failOver_eq (h : s.portUp (sibling p) = true) :
    s.failOver p = (s.port p).leftover.foldl (fun (t : State) w => t.toPort (sibling p) w) ((s.setPort p (s.port p).emptied).setFld (portBase p) 6 1 1) := if_pos h

theorem Sends.leftover (p : Nat) (ws : List Waiting) (s : State) : Sends s (ws.foldl (fun (t : State) w => t.toPort p w) s) := .foldl (fun t w => .toPort t p w) ws s

theorem State.reg_failOver_eq (h : s.portUp (sibling p) = true) (a : Nat) :
    (s.failOver p).reg a = if a = portBase p then putFld (s.reg (portBase p)) 6 1 1 else s.reg a := by
  rw [State.failOver_eq h, (Sends.leftover _ _ _).reg, State.reg_setFld, (Sends.setPort s p _).reg, (Sends.setPort s p _).reg]

theorem Beside.failOver (h : s.portUp (sibling p) = true) : Beside s (s.failOver p) := by
  rw [State.failOver_eq h]
  exact ((Beside.sends (.setPort ..)).trans (.reports (.setFld ..))).trans (.sends (.leftover ..))

/-- Of the port pages failover sets bit FAILOVER of the port at most. -/
theorem State.reg_failOver (s : State) (p : Nat) {a : Nat} (ha : portReg a) :
    (s.failOver p).reg a = s.reg a ∨ a = portBase p ∧ (s.failOver p).reg a = putFld (s.reg a) 6 1 1 := by
  by_cases up : s.portUp (sibling p) = true
  · rw [State.reg_failOver_eq up]
    split
    · rename_i here
      exact .inr ⟨here, here ▸ rfl⟩
    · exact .inl rfl
  · left
    unfold State.failOver
    rw [if_neg up]
    split
    · exact PagesKept.loseDirection s _ a ha
    · rfl

theorem State.portState_failOver (s : State) (p : Nat) {q : Nat} (hq : q < 12) : (s.failOver p).portState q = s.portState q := by
  unfold State.portState
  rcases s.reg_failOver p (portStatus_page hq) with e | ⟨-, e⟩
  · rw [e]
  · rw [e, fld_putFld_other _ _ _ _ _ _ (by omega) (.inl (by omega))]

/-- Failover leaves the frames of the port with its sibling, each of them once (R322). -/
theorem State.port_failOver (h : s.portUp (sibling p) = true) :
    ((s.failOver p).port p).sent = [] ∧ ((s.failOver p).port p).wait = [] ∧
    ((s.failOver p).port (sibling p)).load = (s.port (sibling p)).load + (s.port p).load := by
  have emptied (r : Nat) : ((s.setPort p (s.port p).emptied).setFld (portBase p) 6 1 1).port r = if r = p then (s.port p).emptied else s.port r :=
    (State.port_of_net (Reports.setFld ..).net.1 r).trans (State.port_setPort ..)
  obtain ⟨load, others⟩ := State.load_foldl_toPort (sibling p) (s.port p).leftover ((s.setPort p (s.port p).emptied).setFld (portBase p) 6 1 1)
  rw [State.failOver_eq h, others p (sibling_ne p).symm, emptied, if_pos rfl, load, emptied, if_neg (sibling_ne p)]
  exact ⟨rfl, rfl, by simp [Port.leftover, Port.load]⟩

/-! ### Failure -/

/-- A port failed, counted and recorded, before its traffic moves (R321). -/
def State.failing (s : State) (p : Nat) : State :=
  ((((s.setFld (portBase p) 2 4 0).setPortState p 3).bump (portBase p + 0x1C) 1).logFault 0x0303 0 (0x100 + portEdge p) (BitVec.ofNat 32 p) 0)

theorem State.portFail_eq (s : State) (p : Nat) : s.portFail p = ((s.failing p).failOver p).settleLinks := rfl

theorem Reports.failing (s : State) (p : Nat) : Reports s (s.failing p) :=
  (((Reports.setFld ..).trans (.setPortState ..)).trans (.bump ..)).trans (.logFault ..)

theorem State.reg_failing (s : State) (p : Nat) {a : Nat} (ha : portReg a) :
    (s.failing p).reg a =
      if a = portBase p then putFld (putFld (s.reg (portBase p)) 2 4 0) 0 2 3
      else if a = portBase p + 0x1C then satAdd (s.reg (portBase p + 0x1C)) 1 else s.reg a := by
  have apart : portBase p ≠ portBase p + 0x1C := by omega
  refine (PagesKept.logFault _ _ _ _ _ _ a ha).trans ?_
  simp only [State.reg_bump, State.reg_setPortState, State.reg_setFld]
  split <;> simp_all

theorem State.wr_failing (s : State) (p : Nat) : (s.failing p).reg 0x6000C = s.reg 0x6000C + 1 := by
  have off : 0x6000C ≠ portBase p ∧ 0x6000C ≠ portBase p + 0x1C := by
    unfold portBase
    omega
  refine (State.wr_logFault ..).trans (congrArg (· + 1) ?_)
  rw [State.reg_bump, if_neg off.2, State.reg_setPortState, if_neg off.1, State.reg_setFld, if_neg off.1]

theorem State.portState_failing (s : State) (hp : p < 12) : (s.failing p).portState p = 3 := by
  rw [State.portState, s.reg_failing p (portStatus_page hp), if_pos rfl]
  exact fld_putFld_same _ _ _ _ (by omega)

theorem State.portUp_failing_sibling (s : State) (hp : p < 12) : (s.failing p).portUp (sibling p) = s.portUp (sibling p) :=
  State.portUp_congr ((s.reg_failing p (portStatus_page (sibling_lt hp))).trans
    ((if_neg (portBase_sibling_ne p (a := 0) (b := 0) (by omega) (by omega)).symm).trans (if_neg (portBase_sibling_ne p (a := 0x1C) (b := 0) (by omega) (by omega)).symm)))

theorem State.portState_portFail (s : State) (hp : p < 12) : (s.portFail p).portState p = 3 := by
  rw [State.portFail_eq, State.portState_congr (PagesKept.settleLinks _ _ (portStatus_page hp)), State.portState_failOver _ _ hp, s.portState_failing hp]

theorem State.lpddr_portFail (s : State) (p : Nat) : (s.portFail p).lpddr = s.lpddr := congrArg (·.2.2.1) (s.portFail_outside p)

theorem State.fuses_portFail (s : State) (p : Nat) : (s.portFail p).fuses = s.fuses := congrArg (·.2.1) (s.portFail_outside p)

/-- A port that fails with its sibling up (R321, R322). -/
structure HandsOver (s : State) (p : Nat) (t : State) : Prop where
  sent : (t.port p).sent = []
  wait : (t.port p).wait = []
  failover : bitAt (t.reg (portBase p)) 6 = true
  counted : t.reg (portBase p + 0x1C) = satAdd (s.reg (portBase p + 0x1C)) 1
  recorded : t.reg 0x6000C = s.reg 0x6000C + 1
  beside : Beside s t
  load : (t.port (sibling p)).load = (s.port (sibling p)).load + (s.port p).load

theorem State.portFail_handsOver (hp : p < 12) (h : s.portUp (sibling p) = true) : HandsOver s p (s.portFail p) := by
  have up : (s.failing p).portUp (sibling p) = true := (s.portUp_failing_sibling hp).trans h
  have settled (r : Nat) : (s.portFail p).port r = ((s.failing p).failOver p).port r := State.port_of_net (Reports.settleLinks _).net.1 r
  have before (r : Nat) : (s.failing p).port r = s.port r := State.port_of_net (Reports.failing s p).net.1 r
  have reg {a : Nat} (ha : portReg a) : (s.portFail p).reg a = ((s.failing p).failOver p).reg a := PagesKept.settleLinks _ a ha
  have status := portStatus_page hp
  have counter : portReg (portBase p + 0x1C) := portReg_page hp (by omega)
  obtain ⟨sent, wait, load⟩ := State.port_failOver up
  refine ⟨by rw [settled, sent], by rw [settled, wait], ?_, ?_, ?_, ?_, by rw [settled, load, before, before]⟩
  · rw [reg status, State.reg_failOver_eq up, if_pos rfl, bitAt_putFld _ _ _ _ _ (by omega)]
    rfl
  · rw [reg counter, State.reg_failOver_eq up, if_neg (by omega), s.reg_failing p counter, if_neg (by omega), if_pos rfl]
  · rw [State.portFail_eq, State.reg_settleLinks _ (by omega), State.reg_failOver_eq up, if_neg (by unfold portBase; omega), s.wr_failing p]
  · exact ((Beside.reports (.failing s p)).trans (.failOver up)).trans (.reports (.settleLinks _))

/-! ### Half the lanes -/

theorem Reports.downshift (s : State) (p : Nat) (lanes : BitVec 4) : Reports s (s.downshift p lanes) :=
  ((Reports.setFld ..).trans (.bump ..)).trans (.logFault ..)

theorem State.reg_downshift (s : State) (lanes : BitVec 4) {a : Nat} (ha : portReg a) :
    (s.downshift p lanes).reg a =
      if a = portBase p + 0x1C then satAdd (s.reg (portBase p + 0x1C)) 1
      else if a = portBase p then putFld (s.reg (portBase p)) 2 4 lanes.toNat else s.reg a := by
  refine (PagesKept.logFault _ _ _ _ _ _ a ha).trans ?_
  simp only [State.reg_bump, State.reg_setFld]
  rw [if_neg (Nat.ne_of_gt (Nat.lt_add_of_pos_right (by omega)))]

theorem State.wr_downshift (s : State) (p : Nat) (lanes : BitVec 4) : (s.downshift p lanes).reg 0x6000C = s.reg 0x6000C + 1 := by
  have off : 0x6000C ≠ portBase p ∧ 0x6000C ≠ portBase p + 0x1C := by
    unfold portBase
    omega
  refine (State.wr_logFault ..).trans (congrArg (· + 1) ?_)
  rw [State.reg_bump, if_neg off.2, State.reg_setFld, if_neg off.1]

/-! ### A port comes up -/

/-- LINK_p_STATUS of a port that is up on these lanes, without an identity mismatch. -/
def upStatus (lanes : Nat) (w : Word) : Prop := fld w 0 2 = 2 ∧ fld w 2 4 = lanes ∧ bitAt w 7 = false

theorem upStatus_putLanes {l lanes : Nat} (hl : lanes < 16) {w : Word} (h : upStatus l w) : upStatus lanes (putFld w 2 4 lanes) := by
  obtain ⟨state, -, mismatch⟩ := h
  refine ⟨(fld_putFld_other _ _ _ _ _ _ (by omega) (.inl (by omega))).trans state, (fld_putFld_same _ _ _ _ (by omega)).trans (Nat.mod_eq_of_lt hl), ?_⟩
  rw [bitAt_putFld _ _ _ _ _ (by omega), if_neg (by omega), mismatch]

theorem upStatus_comesUp (w : Word) {lanes : Nat} (hl : lanes < 16) : upStatus lanes (putFld (putFld (putFld (putFld w 2 4 lanes) 6 1 0) 7 1 0) 0 2 2) := by
  refine ⟨fld_putFld_same _ _ _ _ (by omega), ?_, ?_⟩
  · rw [fld_putFld_other _ _ _ _ _ _ (by omega) (.inr (by omega)), fld_putFld_other _ _ _ _ _ _ (by omega) (.inl (by omega)),
      fld_putFld_other _ _ _ _ _ _ (by omega) (.inl (by omega)), fld_putFld_same _ _ _ _ (by omega)]
    exact Nat.mod_eq_of_lt hl
  · rw [bitAt_putFld _ _ _ _ _ (by omega), if_neg (by omega), bitAt_putFld _ _ _ _ _ (by omega), if_pos (by omega)]
    exact Nat.zero_testBit _

/-- LINK_p_PEER of a port that is up (R344): the neighbour's module and port, and VALID. -/
def identWord (pm pp : Nat) : Word := BitVec.ofNat 32 (pm % 2 ^ 14 + pp % 16 * 2 ^ 14 + 2 ^ 18)

/-- What a port that comes up leaves: its status, its identity register, and everything beside the ports. -/
structure CameUp (s : State) (p lanes : Nat) (ident : Word) (t : State) : Prop where
  status : upStatus lanes (t.reg (portBase p))
  ident : t.reg (portBase p + 8) = ident
  beside : Beside s t

variable {lanes : Nat} {ident : Word}

theorem CameUp.portUp (h : CameUp s p lanes ident t) : t.portUp p = true := decide_eq_true h.status.1

/-- A step that keeps the registers of the port keeps it up. -/
theorem CameUp.after (h : CameUp s p lanes ident t) (kept : u.reg (portBase p) = t.reg (portBase p)) (kept8 : u.reg (portBase p + 8) = t.reg (portBase p + 8))
    (k : Beside t u) : CameUp s p lanes ident u := ⟨by rw [kept]; exact h.status, by rw [kept8, h.ident], h.beside.trans k⟩

theorem CameUp.sends (h : CameUp s p lanes ident t) (k : Sends t u) : CameUp s p lanes ident u := h.after (k.reg _) (k.reg _) (.sends k)

theorem State.portComesUp_cameUp (s : State) (hp : p < 12) (pm pp : Nat) (bad : BitVec 4) :
    CameUp s p (lanesFor bad).toNat (identWord pm pp) (s.portComesUp p pm pp bad) := by
  have status := portStatus_page hp
  have idreg : portReg (portBase p + 8) := portReg_page hp (by omega)
  have half : (lanesFor bad).toNat < 16 := (lanesFor bad).isLt
  unfold State.portComesUp
  extract_lets lanes q s1 s2 s3 s4 s5 s6 net s7
  have up3 : CameUp s p lanes.toNat (identWord pm pp) s3 := by
    refine ⟨?_, ?_, (Beside.sends (.setPort ..)).trans (.reports (((((Reports.setReg ..).trans (.setFld ..)).trans (.setFld ..)).trans (.setFld ..)).trans (.setPortState ..)))⟩
    · simp only [s3, State.reg_setPortState, State.reg_setFld, if_true]
      exact upStatus_comesUp _ half
    · simp only [s3, State.reg_setPortState, State.reg_setFld, if_neg (Nat.ne_of_gt (Nat.lt_add_of_pos_right (k := 8) (n := portBase p) (by omega)))]
      exact (State.reg_setReg ..).trans (if_pos rfl)
  have up4 : CameUp s p lanes.toNat (identWord pm pp) s4 := by
    simp only [s4]
    split
    · exact up3
    · refine ⟨?_, ?_, up3.beside.trans (.reports (.downshift ..))⟩
      · rw [State.reg_downshift _ _ status, if_neg (by omega), if_pos rfl]
        exact upStatus_putLanes half up3.status
      · rw [State.reg_downshift _ _ idreg, if_neg (by omega), if_neg (by omega), up3.ident]
  have up5 : CameUp s p lanes.toNat (identWord pm pp) s5 := up4.sends (.flushPort ..)
  have up6 : CameUp s p lanes.toNat (identWord pm pp) s6 := by
    simp only [s6]
    split
    · have up : s5.portUp (sibling (sibling p)) = true := by rw [sibling_sibling]; exact up5.portUp
      refine up5.after ?_ ?_ (.failOver up)
      · exact (State.reg_failOver_eq up _).trans (if_neg (portBase_sibling_ne p (a := 0) (b := 0) (by omega) (by omega)))
      · exact (State.reg_failOver_eq up _).trans (if_neg (portBase_sibling_ne p (a := 8) (b := 0) (by omega) (by omega)))
    · exact up5
  have up7 : CameUp s p lanes.toNat (identWord pm pp) s7 := by
    have forced : CameUp s p lanes.toNat (identWord pm pp) (s6.setNet { net with snapForce := true }) := up6.after rfl rfl ⟨fun _ => rfl, rfl, rfl, rfl⟩
    simp only [s7]
    split
    · split
      · exact forced.sends (.toPort ..)
      · exact up6
    · exact up6
  exact up7.after (PagesKept.settleLinks _ _ status) (PagesKept.settleLinks _ _ idreg) (.reports (.settleLinks _))

end Sys2Proof.Machine
end

section
/-! PROOFS. Ports (O38, third part): the writes to LINK_p_CTRL, and each event of a port settled. -/
namespace Sys2Proof.Machine

variable {s t : State} {p : Nat}

/-! ### Writes to LINK_p_CTRL -/

theorem linkCtrl_offset (p : Nat) : (portBase p + 4 - 0x80000) / 0x1000 = p := by
  unfold portBase
  omega

theorem rwMask_linkCtrl (p : Fin 12) : (rwMask (portBase p + 4)).isSome = true := by
  revert p
  decide

theorem State.regWrite_linkCtrl (s : State) (p : Fin 12) (v : Word) : s.regWrite (portBase p + 4) v = s.linkCtrlWrite p v := by
  have page : 0x80000 ≤ portBase p + 4 ∧ portBase p + 4 < 0x8C000 ∧ (portBase p + 4) % 0x1000 = 4 := by
    unfold portBase
    omega
  unfold State.regWrite
  iterate 10 rw [if_neg (by omega)]
  rw [if_pos page, linkCtrl_offset]

/-- A served write to LINK_p_CTRL (R344). -/
theorem State.bar0Write_linkCtrl {p : Fin 12} (hs : s.supState = 0) (h : s.writeServed (portBase p + 4) = true) (v : Word) :
    s.bar0Write (portBase p + 4) 0xF v = s.leaveL1.linkCtrlWrite p v := by
  have plain : byteWritable (portBase p + 4) = false := byteWritable_eq_false (by unfold portBase; omega)
  rw [State.bar0Write_eq h hs (rwMask_linkCtrl p) plain, State.regWrite_linkCtrl]

theorem exec_linkEnWrite {p : Fin 12} (hs : s.supState = 0) (h : s.writeServed (portBase p + 4) = true) (v : Word) :
    exec (.linkEnWrite p v) s = .next (s.leaveL1.linkCtrlWrite p v) := congrArg _ (State.bar0Write_linkCtrl hs h v)

theorem exec_retrain {p : Fin 12} (hs : s.supState = 0) (h : s.writeServed (portBase p + 4) = true) (v : Word) :
    exec (.retrain p v) s = .next (s.leaveL1.linkCtrlWrite p (v ||| 2)) := congrArg _ (State.bar0Write_linkCtrl hs h _)

/-- The LINK block is written from READY on (R405). -/
theorem State.linked_of_writeServed (hs : s.supState = 0) (h : s.writeServed (portBase p + 4) = true) : s.linked = true := by
  unfold State.writeServed State.pcieUp at h
  unfold State.linked portBase at *
  simp only [Bool.and_eq_true, Bool.or_eq_true, decide_eq_true_eq] at h ⊢
  obtain ⟨⟨⟨⟨⟨power, -⟩, -⟩, -⟩, -⟩, state⟩ := h
  exact ⟨⟨power, by omega⟩, hs⟩

/-- Training begun: STATE and EN read 1 with nothing else changed but the port's own registers (R319). -/
structure Trains (s : State) (p : Nat) (t : State) : Prop where
  state : t.portState p = 1
  en : t.portEn p = true
  regs : ∀ a, a ≠ portBase p → a ≠ portBase p + 4 → t.reg a = s.reg a
  beside : Beside s t

theorem State.trainPort_eq (h : (s.linked && s.portUsed p && s.portEn p) = true) :
    s.trainPort p = (((s.setPort p ((s.port p).toTrain (s.portUp p))).setFld (portBase p) 2 4 0).setFld (portBase p) 7 1 0).setPortState p 1 := if_pos h

theorem State.trainPort_still (h : s.portUsed p = false ∨ s.portEn p = false) : s.trainPort p = s := by
  refine if_neg ?_
  rcases h with h | h
  · simp [h]
  · simp [h]

theorem State.trainPort_trains (hl : s.linked = true) (hu : s.portUsed p = true) (he : s.portEn p = true) : Trains s p (s.trainPort p) := by
  have regs (a : Nat) (ha : a ≠ portBase p) : (s.trainPort p).reg a = s.reg a := by
    rw [State.trainPort_eq (by simp [hl, hu, he]), State.reg_setPortState, if_neg ha, State.reg_setFld, if_neg ha, State.reg_setFld, if_neg ha, (Sends.setPort ..).reg]
  refine ⟨?_, (State.portEn_congr (regs _ (by omega))).trans he, fun a ha _ => regs a ha, ?_⟩
  · rw [State.trainPort_eq (by simp [hl, hu, he]), State.portState, State.reg_setPortState, if_pos rfl]
    exact fld_putFld_same _ _ _ _ (by omega)
  · rw [State.trainPort_eq (by simp [hl, hu, he])]
    exact (Beside.sends (.setPort ..)).trans (.reports (((Reports.setFld ..).trans (.setFld ..)).trans (.setPortState ..)))

theorem Beside.linked (h : Beside s t) (mode : t.reg 0x10000 = s.reg 0x10000) (supply : t.reg 0x40000 = s.reg 0x40000) : t.linked = s.linked := by
  rw [State.linked, State.linked, State.mstate, State.mstate, State.supState, State.supState, h.power, mode, supply]

/-- A port that trains begins again when it is told to (R321). -/
theorem Trains.again (h : Trains s p t) (hl : s.linked = true) (hu : s.portUsed p = true) : Trains s p (t.trainPort p) := by
  have kept (a : Nat) (ha : a < 0x80000 ∨ 0x80800 ≤ a ∧ a ≤ 0x8080C) : t.reg a = s.reg a := h.regs a (by unfold portBase; omega) (by unfold portBase; omega)
  have more := State.trainPort_trains ((h.beside.linked (kept _ (by omega)) (kept _ (by omega))).trans hl) (((SameTorus.of_regs fun a ha => kept a (by omega)).portUsed p).trans hu) h.en
  exact ⟨more.state, more.en, fun a ha hb => (more.regs a ha hb).trans (h.regs a ha hb), h.beside.trans more.beside⟩

/-! ### The cases of a write -/

/-- EN as written (R344). -/
def State.writeEn (s : State) (p : Nat) (v : Word) : State := s.setReg (portBase p + 4) (v &&& 1)

theorem State.reg_writeEn (s : State) (p : Nat) (v : Word) (a : Nat) : (s.writeEn p v).reg a = if a = portBase p + 4 then v &&& 1 else s.reg a := State.reg_setReg ..

theorem State.portEn_writeEn (s : State) (p : Nat) (v : Word) : (s.writeEn p v).portEn p = bitAt v 0 := by
  rw [State.portEn, State.reg_writeEn, if_pos rfl]
  simp [bitAt]

theorem State.portUsed_writeEn (s : State) (p : Nat) (v : Word) : (s.writeEn p v).portUsed p = s.portUsed p :=
  (SameTorus.of_regs fun a ha => (s.reg_writeEn p v a).trans (if_neg (by unfold portBase; omega))).portUsed p

/-- EN begins the training of a used port, whether it was set or RETRAIN is written with it (R319, R321). -/
theorem State.writeEn_trains (hl : s.linked = true) (hu : s.portUsed p = true) {v : Word} (hv : bitAt v 0 = true) : Trains s p ((s.writeEn p v).trainPort p) := by
  have beside : Beside s (s.writeEn p v) := .reports (.setReg ..)
  have below {a : Nat} (ha : a < 0x80000) : (s.writeEn p v).reg a = s.reg a := (s.reg_writeEn p v _).trans (if_neg (by unfold portBase; omega))
  have more := State.trainPort_trains ((beside.linked (below (by omega)) (below (by omega))).trans hl) ((s.portUsed_writeEn p v).trans hu) ((s.portEn_writeEn p v).trans hv)
  exact ⟨more.state, more.en, fun a ha hb => (more.regs a ha hb).trans ((s.reg_writeEn p v a).trans (if_neg hb)), beside.trans more.beside⟩

/-- EN 1 at a port held down (R321). -/
theorem State.linkCtrlWrite_enable (hl : s.linked = true) (hu : s.portUsed p = true) (he : s.portEn p = false) {v : Word} (hv : bitAt v 0 = true) :
    Trains s p (s.linkCtrlWrite p v) := by
  have first : Trains s p ((s.writeEn p v).trainPort p) := State.writeEn_trains hl hu hv
  unfold State.linkCtrlWrite
  rw [he, hv]
  simp only [Bool.false_and, Bool.not_false, Bool.true_and, Bool.false_eq_true, if_false, if_true]
  split
  · exact first.again hl hu
  · exact first

/-- A write that leaves EN begins the training when RETRAIN is written (R321). -/
theorem State.linkCtrlWrite_same {v : Word} (he : s.portEn p = bitAt v 0) :
    s.linkCtrlWrite p v = if bitAt v 1 then (s.writeEn p v).trainPort p else s.writeEn p v := by
  unfold State.linkCtrlWrite
  rw [he]
  simp only [Bool.and_not_self, Bool.not_and_self, Bool.false_eq_true, if_false]
  rfl

theorem State.linkCtrlWrite_still {v : Word} (he : s.portEn p = bitAt v 0) (h : bitAt v 1 = false ∨ bitAt v 0 = false ∨ s.portUsed p = false) :
    s.linkCtrlWrite p v = s.writeEn p v := by
  rw [State.linkCtrlWrite_same he]
  split
  · rename_i retrain
    refine State.trainPort_still ?_
    rw [State.portUsed_writeEn, State.portEn_writeEn]
    exact (h.resolve_left (by simp [retrain])).symm
  · rfl

/-- EN 0 holds the port down (R319, R344). -/
theorem State.linkCtrlWrite_disable (hp : p < 12) (he : s.portEn p = true) {v : Word} (hv : bitAt v 0 = false) :
    (s.linkCtrlWrite p v).portState p = 0 ∧ (s.linkCtrlWrite p v).portEn p = false := by
  have status := portStatus_page hp
  have ctrl : portReg (portBase p + 4) := portReg_page hp (by omega)
  generalize hd : ((s.writeEn p v).setFld (portBase p) 2 4 0).setPortState p 0 = d
  have state : d.portState p = 0 := by
    rw [← hd, State.portState, State.reg_setPortState, if_pos rfl]
    exact fld_putFld_same _ _ _ _ (by omega)
  have en : d.portEn p = false := by
    rw [← hv, ← s.portEn_writeEn p v]
    refine State.portEn_congr ?_
    rw [← hd, State.reg_setPortState, if_neg (by omega), State.reg_setFld, if_neg (by omega)]
  have held : (d.failOver p).settleLinks.portState p = 0 ∧ (d.failOver p).settleLinks.portEn p = false := by
    refine ⟨?_, ?_⟩
    · rw [State.portState_congr (PagesKept.settleLinks _ _ status), State.portState_failOver _ _ hp, state]
    · rw [State.portEn_congr (PagesKept.settleLinks _ _ ctrl), ← en]
      exact State.portEn_congr ((d.reg_failOver p ctrl).resolve_right fun h => by omega)
  have wrote : s.linkCtrlWrite p v = (d.failOver p).settleLinks := by
    unfold State.linkCtrlWrite
    rw [he, hv]
    rw [State.writeEn] at hd
    simp only [Bool.not_false, Bool.true_and, if_true, hd]
    split
    · exact State.trainPort_still (.inr held.2)
    · rfl
  rw [wrote]
  exact held

/-! ### The port's own events -/

theorem exec_portTraining {p : Fin 12} (hl : s.linked = true) (hu : s.portUsed p = true) (hs : s.portState p = 1) (bad : BitVec 4) (pm pp : Nat) :
    exec (.portTraining p bad pm pp) s =
      if lanesFor bad = 0 then .next ((s.setPort p { s.port p with badLanes := bad }).portFail p)
      else if s.wantedPeer p = (pm, pp) then .next ((s.sendIdent p).portComesUp p pm pp bad)
      else .next (((((s.sendIdent p).setFld (portBase p) 7 1 1).setPortState p 0).logFault 0x0304 0 (0x100 + portEdge p) (BitVec.ofNat 32 p) (BitVec.ofNat 64 (pm + pp * 2 ^ 14)))) :=
  if_pos (by simp [hl, hu, hs])

theorem exec_portTraining_still {p : Fin 12} (h : s.linked = false ∨ s.portUsed p = false ∨ s.portState p ≠ 1) (bad : BitVec 4) (pm pp : Nat) :
    exec (.portTraining p bad pm pp) s = .next s := by
  refine if_neg ?_
  rcases h with h | h | h
  · simp [h]
  · simp [h]
  · simp [h]

theorem exec_trainingTimeout {p : Fin 12} (hl : s.linked = true) (hu : s.portUsed p = true) (ht : s.inTraining p = true) :
    exec (.trainingTimeout p) s = .next (s.portFail p) := if_pos (by simp [hl, hu, ht])

theorem exec_trainingTimeout_still {p : Fin 12} (h : s.linked = false ∨ s.portUsed p = false ∨ s.inTraining p = false) : exec (.trainingTimeout p) s = .next s := by
  refine if_neg ?_
  rcases h with h | h | h
  · simp [h]
  · simp [h]
  · simp [h]

/-- The port with one more lane bad. -/
def State.loseLane (s : State) (p : Nat) (lane : Nat) : State := s.setPort p { s.port p with badLanes := putBit (s.port p).badLanes lane true }

theorem exec_laneFail {p : Fin 12} {lane : Fin 4} (hl : s.linked = true) (hu : s.portUp p = true) (hb : bitAt (s.reg (portBase p)) (2 + lane) = true) :
    exec (.laneFail p lane) s = .next (if lanesFor (putBit (s.port p).badLanes lane true) = 0 then (s.loseLane p lane).portFail p
      else (s.loseLane p lane).downshift p (lanesFor (putBit (s.port p).badLanes lane true))) := if_pos (by simp [hl, hu, hb])

theorem exec_laneFail_still {p : Fin 12} {lane : Fin 4} (h : s.linked = false ∨ s.portUp p = false ∨ bitAt (s.reg (portBase p)) (2 + lane) = false) :
    exec (.laneFail p lane) s = .next s := by
  refine if_neg ?_
  rcases h with h | h | h
  · simp [h]
  · simp [h]
  · simp [h]

/-- Half the lanes go on (R321). -/
theorem State.downshift_goesOn (hp : p < 12) (hu : s.portUp p = true) (lanes : BitVec 4) :
    (s.downshift p lanes).portState p = 2 ∧ fld ((s.downshift p lanes).reg (portBase p)) 2 4 = lanes.toNat ∧
    (s.downshift p lanes).reg (portBase p + 0x1C) = satAdd (s.reg (portBase p + 0x1C)) 1 := by
  have status : (s.downshift p lanes).reg (portBase p) = putFld (s.reg (portBase p)) 2 4 lanes.toNat := by
    rw [State.reg_downshift _ _ (portStatus_page hp), if_neg (by omega), if_pos rfl]
  rw [State.portState, status, State.reg_downshift _ _ (portReg_page hp (by omega)), if_pos rfl]
  exact ⟨(fld_putFld_other _ _ _ _ _ _ (by omega) (.inl (by omega))).trans (of_decide_eq_true hu), (fld_putFld_same _ _ _ _ (by omega)).trans (Nat.mod_eq_of_lt lanes.isLt), rfl⟩

/-- A port whose neighbour is not the one that the torus requires goes down with a record (R319). -/
theorem State.mismatched_refused (s : State) (hp : p < 12) (pm pp : Nat) :
    let t := (((s.sendIdent p).setFld (portBase p) 7 1 1).setPortState p 0).logFault 0x0304 0 (0x100 + portEdge p) (BitVec.ofNat 32 p) (BitVec.ofNat 64 (pm + pp * 2 ^ 14))
    t.portState p = 0 ∧ bitAt (t.reg (portBase p)) 7 = true ∧ t.reg 0x6000C = s.reg 0x6000C + 1 ∧ Beside s t := by
  intro t
  have status : t.reg (portBase p) = putFld (putFld (s.reg (portBase p)) 7 1 1) 0 2 0 := by
    refine (PagesKept.logFault _ _ _ _ _ _ _ (portStatus_page hp)).trans ?_
    rw [State.reg_setPortState, if_pos rfl, State.reg_setFld, if_pos rfl]
    rfl
  refine ⟨?_, ?_, ?_, (Beside.sends (.emit ..)).trans (.reports (((Reports.setFld ..).trans (.setPortState ..)).trans (.logFault ..)))⟩
  · rw [State.portState, status]
    exact fld_putFld_same _ _ _ _ (by omega)
  · rw [status, bitAt_putFld _ _ _ _ _ (by omega), if_neg (by omega), bitAt_putFld _ _ _ _ _ (by omega), if_pos (by omega)]
    rfl
  · have off : 0x6000C ≠ portBase p := by
      unfold portBase
      omega
    refine (State.wr_logFault ..).trans (congrArg (· + 1) ?_)
    rw [State.reg_setPortState, if_neg off, State.reg_setFld, if_neg off]
    rfl

/-- A write of RETRAIN leaves EN as the write has it (R344). -/
theorem ctrl_retrain (v : Word) : (v ||| 2) &&& 1 = v &&& 1 ∧ bitAt (v ||| 2) 0 = bitAt v 0 ∧ bitAt (v ||| 2) 1 = true := by
  refine ⟨?_, by simp [bitAt], by simp [bitAt]⟩
  rw [BitVec.and_or_distrib_right]
  exact BitVec.or_zero

end Sys2Proof.Machine

namespace Sys2Proof
open Machine

theorem portFails_run (s : State) (p : Fin 12) (u : State) (hf : u.fuses = s.fuses) (hl : u.lpddr = s.lpddr) :
    (u.portFail p).portState p = 3 ∧ (u.portFail p).fuses = s.fuses ∧ (u.portFail p).lpddr = s.lpddr :=
  ⟨u.portState_portFail p.isLt, (u.fuses_portFail p).trans hf, (u.lpddr_portFail p).trans hl⟩

/-- Settles O38: each event of a port by the state that it leaves (`portFail_handsOver`, `portComesUp_cameUp`, `linkCtrlWrite_enable`, `linkCtrlWrite_disable`). -/
theorem portsTrainAndFail : Obligations.PortsTrainAndFail := by
  intro s p
  have hp := p.isLt
  refine ⟨fun hl hu hs => ⟨fun bad pm pp bad0 => ?_, fun bad pm pp bad0 peer => ?_, fun bad pm pp bad0 peer => ?_⟩, fun hl hu ht => ?_,
    exec_portTraining_still, exec_trainingTimeout_still, fun lane => ⟨fun hl hu hb => ⟨fun half => ?_, fun none => ?_⟩, exec_laneFail_still⟩, fun v hs hw => ?_⟩
  · exact runs_of ((exec_portTraining hl hu hs bad pm pp).trans (if_pos bad0)) (portFails_run s p _ rfl rfl)
  · have up := (s.sendIdent p).portComesUp_cameUp hp pm pp bad
    obtain ⟨state, lanes, mismatch⟩ := up.status
    exact runs_of ((exec_portTraining hl hu hs bad pm pp).trans ((if_neg bad0).trans (if_pos peer))) ⟨state, up.ident, lanes, mismatch, up.beside.sameStns, up.beside.lpddr⟩
  · refine runs_of ((exec_portTraining hl hu hs bad pm pp).trans ((if_neg bad0).trans (if_neg peer))) ?_
    obtain ⟨state, mismatch, recorded, beside⟩ := s.mismatched_refused hp pm pp
    exact ⟨state, mismatch, recorded, beside.sameStns, beside.lpddr⟩
  · exact runs_of (exec_trainingTimeout hl hu ht) (portFails_run s p s rfl rfl)
  · obtain ⟨state, lanes, counted⟩ := (s.loseLane p lane).downshift_goesOn hp hu (lanesFor (putBit (s.port p).badLanes lane true))
    have beside : Beside s ((s.loseLane p lane).downshift p (lanesFor (putBit (s.port p).badLanes lane true))) := (Beside.sends (.setPort ..)).trans (.reports (.downshift ..))
    exact runs_of ((exec_laneFail hl hu hb).trans (congrArg _ (if_neg half)))
      ⟨state, lanes, counted, (s.loseLane p lane).wr_downshift _ _, beside.mesh, beside.sameStns, beside.lpddr⟩
  · have lost (r : Nat) : ((s.loseLane p lane).port r).load = (s.port r).load := by
      rw [State.loseLane, State.port_setPort]
      split
      · subst r
        rfl
      · rfl
    refine runs_of ((exec_laneFail hl hu hb).trans (congrArg _ (if_pos none))) ⟨State.portState_portFail _ hp, State.lpddr_portFail _ _, fun up => ?_⟩
    have handed : HandsOver (s.loseLane p lane) p ((s.loseLane p lane).portFail p) := State.portFail_handsOver hp up
    refine ⟨handed.sent, handed.wait, handed.failover, handed.counted, handed.recorded, handed.beside.sameStns, handed.load.trans ?_⟩
    rw [lost, lost, Port.load, Port.load]
    omega
  · have linked : s.leaveL1.linked = true := State.linked_of_writeServed hs hw
    have regs {t : State} (h : Trains s.leaveL1 p t) : SameRegs s t [portBase p, portBase p + 4] := fun a ha => by
      simp only [List.mem_cons, List.not_mem_nil, or_false, not_or] at ha
      exact h.regs a ha.1 ha.2
    have still {w : Word} (same : s.portEn p = bitAt w 0) (h : bitAt w 1 = false ∨ bitAt w 0 = false ∨ s.portUsed p = false) :
        (s.leaveL1.linkCtrlWrite p w).reg (portBase p + 4) = w &&& 1 ∧ OnlyChanges s.leaveL1 (s.leaveL1.linkCtrlWrite p w) [portBase p + 4] [] := by
      rw [State.linkCtrlWrite_still (s := s.leaveL1) same h]
      exact ⟨(State.reg_writeEn ..).trans (if_pos rfl), .setReg ..⟩
    obtain ⟨en, bit0, bit1⟩ := ctrl_retrain v
    refine ⟨fun on off => ?_, fun off on used => ?_, fun same h => runs_of (exec_linkEnWrite hs hw v) (still same h), fun was on used => ?_, fun same h => ?_⟩
    · obtain ⟨state, held⟩ := State.linkCtrlWrite_disable (s := s.leaveL1) hp on off
      exact runs_of (exec_linkEnWrite hs hw v) ⟨state, held, congrArg (·.2.2.1) (s.leaveL1.linkCtrlWrite_outside p v)⟩
    · have trains : Trains s.leaveL1 p (s.leaveL1.linkCtrlWrite p v) := State.linkCtrlWrite_enable linked used off on
      exact runs_of (exec_linkEnWrite hs hw v) ⟨trains.state, trains.en, regs trains, trains.beside.sameStns, trains.beside.lpddr⟩
    · have trains : Trains s.leaveL1 p (s.leaveL1.linkCtrlWrite p (v ||| 2)) := by
        rw [State.linkCtrlWrite_same (s := s.leaveL1) (was.trans (bit0.trans on).symm), if_pos bit1]
        exact State.writeEn_trains linked used (bit0.trans on)
      exact runs_of (exec_retrain hs hw v) ⟨trains.state, trains.en, regs trains, trains.beside.sameStns, trains.beside.lpddr⟩
    · have done := still (w := v ||| 2) (same.trans bit0.symm) (.inr (h.imp_left bit0.trans))
      exact runs_of (exec_retrain hs hw v) ⟨done.1.trans en, done.2⟩

end Sys2Proof
end

section
/-! PROOFS. Frames received (O37, first part): codewords counted, acknowledgements taken, flits delivered, and the route of a frame that goes on. -/
namespace Sys2Proof.Machine

variable {s t u : State} {p ce ue : Nat} {f : Frame}

/-! ### Codewords -/

theorem satAdd_zero (v : Word) : satAdd v 0 = v := by
  unfold satAdd
  bv_omega

theorem satAdd_satAdd (v : Word) (m n : Nat) : satAdd (satAdd v m) n = satAdd v (m + n) := by
  unfold satAdd
  rw [BitVec.toNat_ofNat, Nat.mod_eq_of_lt (by omega)]
  congr 1
  omega

/-- The codewords of a frame counted (R316). -/
def State.countCodewords (s : State) (p ce ue : Nat) : State :=
  let s1 := if ce = 0 then s else s.bump (portBase p + 0x10) ce
  if ue = 0 then s1 else s1.bump (portBase p + 0x14) ue

/-- A counter that nothing is added to is left alone. -/
theorem State.reg_bump_unless_zero (s : State) (a n b : Nat) : (if n = 0 then s else s.bump a n).reg b = if b = a then satAdd (s.reg a) n else s.reg b := by
  split
  · subst n
    rw [satAdd_zero]
    split
    · subst b
      rfl
    · rfl
  · exact State.reg_bump ..

theorem Reports.countCodewords (s : State) (p ce ue : Nat) : Reports s (s.countCodewords p ce ue) := by
  have unless_zero (s : State) (a n : Nat) : Reports s (if n = 0 then s else s.bump a n) := by
    split
    · exact .refl s
    · exact .bump ..
  exact (unless_zero ..).trans (unless_zero ..)

theorem State.reg_countCodewords (s : State) (p ce ue a : Nat) :
    (s.countCodewords p ce ue).reg a =
      if a = portBase p + 0x14 then satAdd (s.reg (portBase p + 0x14)) ue
      else if a = portBase p + 0x10 then satAdd (s.reg (portBase p + 0x10)) ce else s.reg a := by
  refine (State.reg_bump_unless_zero ..).trans ?_
  simp only [State.reg_bump_unless_zero]
  rw [if_neg (show portBase p + 0x14 ≠ portBase p + 0x10 by omega)]

/-- The registers at which receiving a frame looks: all but counters of the port pages. -/
theorem State.reg_countCodewords_other (s : State) (p ce ue : Nat) {a : Nat} (h : a % 0x1000 ≠ 0x10) (k : a % 0x1000 ≠ 0x14) : (s.countCodewords p ce ue).reg a = s.reg a := by
  rw [State.reg_countCodewords, if_neg (by unfold portBase; omega), if_neg (by unfold portBase; omega)]

theorem State.out_countCodewords (s : State) (p ce ue : Nat) : (s.countCodewords p ce ue).out = s.out := by
  have unless_zero (s : State) (a n : Nat) : (if n = 0 then s else s.bump a n).out = s.out := by
    split
    · rfl
    · exact State.out_bump ..
  exact (unless_zero ..).trans (unless_zero ..)

/-- Codewords counted, nothing else of registers, stations and memory changed. -/
structure Counted (s : State) (p ce ue : Nat) (t : State) : Prop where
  corrected : t.reg (portBase p + 0x10) = satAdd (s.reg (portBase p + 0x10)) ce
  failed : t.reg (portBase p + 0x14) = satAdd (s.reg (portBase p + 0x14)) ue
  regs : SameRegs s t [portBase p + 0x10, portBase p + 0x14]
  stns : SameStns s t []
  lpddr : t.lpddr = s.lpddr

theorem Counted.of_regs (hr : ∀ a, t.reg a = (s.countCodewords p ce ue).reg a) (hs : ∀ j, t.stn j = s.stn j) (hl : t.lpddr = s.lpddr) : Counted s p ce ue t := by
  refine ⟨?_, ?_, fun a ha => ?_, fun j _ => hs j, hl⟩
  · rw [hr, State.reg_countCodewords, if_neg (by omega), if_pos rfl]
  · rw [hr, State.reg_countCodewords, if_pos rfl]
  · simp only [List.mem_cons, List.not_mem_nil, or_false, not_or] at ha
    rw [hr, State.reg_countCodewords, if_neg ha.2, if_neg ha.1]

theorem Counted.sends (h : Sends (s.countCodewords p ce ue) t) : Counted s p ce ue t :=
  .of_regs h.reg (((Beside.reports (.countCodewords s p ce ue)).trans (.sends h)).stn) (((Beside.reports (.countCodewords s p ce ue)).trans (.sends h)).lpddr)

/-! ### What a frame that arrives meets -/

section Seen

variable (h : Sends (s.countCodewords p ce ue) t)
include h

theorem Sends.reg_counted {a : Nat} (h1 : a % 0x1000 ≠ 0x10) (h2 : a % 0x1000 ≠ 0x14) : t.reg a = s.reg a :=
  (h.reg a).trans (s.reg_countCodewords_other p ce ue h1 h2)

theorem Sends.portState_counted (q : Nat) : t.portState q = s.portState q := State.portState_congr (h.reg_counted (by unfold portBase; omega) (by unfold portBase; omega))

theorem Sends.torus_counted : SameTorus s t := .of_regs fun _ ha => h.reg_counted (by omega) (by omega)

theorem Sends.linked_counted : t.linked = s.linked :=
  ((Beside.reports (.countCodewords s p ce ue)).trans (.sends h)).linked (h.reg_counted (by omega) (by omega)) (h.reg_counted (by omega) (by omega))

theorem Sends.mesh_counted : t.die.mesh = s.die.mesh := ((Beside.reports (.countCodewords s p ce ue)).trans (.sends h)).mesh

theorem Sends.exitPort_counted (dmod pick : Nat) : t.exitPort dmod pick = s.exitPort dmod pick := by
  have state (q : Nat) : t.portState q = s.portState q := h.portState_counted q
  have en (q : Nat) : t.portEn q = s.portEn q := State.portEn_congr (h.reg_counted (by unfold portBase; omega) (by unfold portBase; omega))
  have up : t.portUp = s.portUp := funext fun q => by rw [State.portUp, State.portUp, state]
  have failed : t.portFailed = s.portFailed := funext fun q => by rw [State.portFailed, State.portFailed, state, en]
  unfold State.exitPort State.portFor
  simp only [h.torus_counted.nextWay, h.torus_counted.modid, up, failed]

end Seen

theorem State.port_countCodewords (s : State) (p ce ue r : Nat) : (s.countCodewords p ce ue).port r = s.port r := State.port_of_net (Reports.countCodewords s p ce ue).net.1 r

/-! ### Acknowledgements -/

theorem ackedAway_length (ack : Nat) (l : List Frame) : (ackedAway ack l).length ≤ l.length := by
  induction l with
  | nil => exact Nat.le_refl _
  | cons f r ih =>
    unfold ackedAway
    split
    · exact Nat.le_succ_of_le ih
    · exact Nat.le_refl _

/-- The port after an acknowledgement with `naks` refusals in succession (R317). -/
def Port.acked (q : Port) (f : Frame) (naks : Nat) : Port :=
  { q with
    sent := ackedAway f.ackseq q.sent
    naks := naks
    credit := match f.cr with
      | some (c, v, n) => q.credit.set (3 * v + c) (min 32 (q.credit.getD (3 * v + c) 0 + n))
      | none => q.credit }

/-- What taking an acknowledgement that refuses nothing leaves (R317). -/
structure Acked (s : State) (p : Nat) (t : State) : Prop where
  sends : Sends s t
  rxLast : (t.port p).rxLast = (s.port p).rxLast
  fails : (t.port p).fails = (s.port p).fails
  dropping : (t.port p).dropping = (s.port p).dropping
  sent : (t.port p).sent.length ≤ (s.port p).load
  others : ∀ r, r ≠ p → t.port r = s.port r

theorem State.takeAck_acked (s : State) (p : Nat) (h : f.nak = false) : Acked s p (s.takeAck p f) := by
  obtain ⟨n, taken⟩ : ∃ n, s.takeAck p f = State.flushPort p (s.port p).wait.length (s.setPort p ((s.port p).acked f n)) := by
    unfold State.takeAck
    rw [h]
    exact ⟨_, rfl⟩
  rw [taken]
  obtain ⟨here, others⟩ := State.port_flushPort p (s.port p).wait.length (s.setPort p ((s.port p).acked f n))
  rw [State.port_setPort, if_pos rfl] at here
  refine ⟨(Sends.setPort ..).trans (.flushPort ..), here.rxLast, here.fails, here.dropping, ?_, fun r hr => (others r hr).trans ((State.port_setPort ..).trans (if_neg hr))⟩
  have fewer := ackedAway_length f.ackseq (s.port p).sent
  have load := here.load
  simp only [Port.load, Port.acked] at load ⊢
  omega

/-- The frames that a NAK has sent again, each counted (R317). -/
def State.resend (s : State) (p ack : Nat) (l : List Frame) : State :=
  l.foldl (fun (t : State) g => (t.bump (portBase p + 0x18) 1).emit (.frame p { g with ackseq := ack })) s

theorem State.takeAck_nak (s : State) (p : Nat) (h : f.nak = true) :
    let left := ackedAway f.ackseq (s.port p).sent
    let n := if left.length = (s.port p).sent.length then (s.port p).naks + 1 else 1
    s.takeAck p f = if 8 ≤ n then (s.setPort p ((s.port p).acked f n)).portFail p else (s.setPort p ((s.port p).acked f n)).resend p (s.port p).rxLast left := by
  unfold State.takeAck
  rw [h]
  rfl

theorem State.resend_spec (p ack : Nat) (l : List Frame) (s : State) :
    Reports s (s.resend p ack l) ∧ (s.resend p ack l).out = s.out ++ l.map (fun g => Out.frame p { g with ackseq := ack }) ∧
    ∀ a, (s.resend p ack l).reg a = if a = portBase p + 0x18 then satAdd (s.reg (portBase p + 0x18)) l.length else s.reg a := by
  induction l generalizing s with
  | nil =>
    refine ⟨.refl s, (List.append_nil _).symm, fun a => ?_⟩
    split
    · subst a
      exact (satAdd_zero _).symm
    · rfl
  | cons g l ih =>
    have one : Reports s ((s.bump (portBase p + 0x18) 1).emit (.frame p { g with ackseq := ack })) :=
      (Reports.bump ..).trans ⟨_, _, _, _, _, _, rfl⟩
    obtain ⟨reports, out, regs⟩ := ih ((s.bump (portBase p + 0x18) 1).emit (.frame p { g with ackseq := ack }))
    refine ⟨one.trans reports, ?_, fun a => ?_⟩
    · refine out.trans ?_
      rw [State.out_emit, State.out_bump, List.append_assoc]
      rfl
    · refine (regs a).trans ?_
      have bumped (b : Nat) : ((s.bump (portBase p + 0x18) 1).emit (.frame p { g with ackseq := ack })).reg b = _ := State.reg_bump s (portBase p + 0x18) b 1
      rw [bumped, bumped, if_pos rfl, satAdd_satAdd, List.length_cons, Nat.add_comm l.length]
      split
      · rfl
      · rfl

/-! ### Flits delivered -/

/-- A flit that the mesh carries on: none of a dispatch, whose messages the stations' own registers take. -/
def Flit.travels (g : Flit) : Prop := (∀ q r sh vo, g.body ≠ .xqOpen q r sh vo) ∧ (∀ q r, g.body ≠ .xqWant q r) ∧ ∀ q, g.body ≠ .xqRefuse q

theorem State.deliverFlit_eq (s : State) (p smod : Nat) {g : Flit} (h : g.travels) :
    s.deliverFlit p smod g = s.sendFlit { g with src := 128 + portEdge p, mod := some smod } := by
  obtain ⟨opens, wants, refuses⟩ := h
  unfold State.deliverFlit
  dsimp only
  split
  · exact absurd ‹_› (opens _ _ _ _)
  · exact absurd ‹_› (wants _ _)
  · exact absurd ‹_› (refuses _)
  · rfl

/-- The mesh alone has more flits. -/
structure Delivered (s : State) (fs : List Flit) (t : State) : Prop where
  mesh : t.die.mesh = s.die.mesh ++ fs
  net : t.die.net = s.die.net
  regs : ∀ a, t.reg a = s.reg a
  stns : ∀ j, t.stn j = s.stn j
  lpddr : t.lpddr = s.lpddr

theorem State.deliverFlits (p smod : Nat) (fs : List Flit) (s : State) (h : ∀ g ∈ fs, g.travels) :
    Delivered s (fs.map (fun g => { g with src := 128 + portEdge p, mod := some smod })) (fs.foldl (fun (t : State) g => t.deliverFlit p smod g) s) := by
  induction fs generalizing s with
  | nil => exact ⟨(List.append_nil _).symm, rfl, fun _ => rfl, fun _ => rfl, rfl⟩
  | cons g fs ih =>
    obtain ⟨mesh, net, regs, stns, lpddr⟩ := ih (s.deliverFlit p smod g) fun k hk => h k (List.mem_cons_of_mem _ hk)
    rw [State.deliverFlit_eq s p smod (h g List.mem_cons_self)] at mesh net regs stns lpddr
    rw [List.foldl_cons, State.deliverFlit_eq s p smod (h g List.mem_cons_self)]
    exact ⟨mesh.trans (List.append_assoc ..), net, regs, stns, lpddr⟩

end Sys2Proof.Machine
end

section
/-! PROOFS. Frames received (O37, second part): frames discarded, taken, forwarded and left, and the obligation settled. -/
namespace Sys2Proof.Machine

variable {s t : State} {p ce ue : Nat} {f : Frame}

/-! ### A frame discarded -/

theorem State.isAwaited_congr (h : (t.port p).rxLast = (s.port p).rxLast) : t.isAwaited p f = s.isAwaited p f := by rw [State.isAwaited, State.isAwaited, h]

/-- Failures in succession after a frame is discarded (R317). -/
def State.failsWith (s : State) (p : Nat) (f : Frame) : Nat := if s.isAwaited p f then (s.port p).fails + 1 else (s.port p).fails

/-- The port that discards frames until the awaited one arrives intact. -/
def State.discards (s : State) (p : Nat) (f : Frame) : State := s.setPort p { s.port p with fails := s.failsWith p f, dropping := true }

theorem State.badFrame_eq (s : State) (p : Nat) (f : Frame) :
    s.badFrame p f = if 8 ≤ s.failsWith p f then (s.discards p f).portFail p else (s.discards p f).sendCtl p true none := rfl

theorem State.port_discards (s : State) (p : Nat) (f : Frame) : (s.discards p f).port p = { s.port p with fails := s.failsWith p f, dropping := true } :=
  (State.port_setPort ..).trans (if_pos rfl)

theorem Sends.discards (s : State) (p : Nat) (f : Frame) : Sends s ((s.discards p f).sendCtl p true none) := (Sends.setPort ..).trans (.emit ..)

/-- The NAK that a discarded frame is answered with (R316, R317). -/
theorem State.out_discards (s : State) (p ce ue : Nat) (f : Frame) :
    (((s.countCodewords p ce ue).discards p f).sendCtl p true none).out =
      s.out ++ [.frame p ⟨4, 2, 0, 0, (s.port p).rxLast, true, fld (s.reg (portBase p + 8)) 0 14, s.modid, 0, 0, none, none, .linkctl none⟩] := by
  have sent : Sends (s.countCodewords p ce ue) ((s.countCodewords p ce ue).discards p f) := .setPort ..
  have ident : ((s.countCodewords p ce ue).discards p f).reg (portBase p + 8) = s.reg (portBase p + 8) :=
    sent.reg_counted (by unfold portBase; omega) (by unfold portBase; omega)
  have out : ((s.countCodewords p ce ue).discards p f).out = s.out := State.out_countCodewords ..
  unfold State.sendCtl
  rw [State.out_emit, out, ident, sent.torus_counted.modid, State.port_discards, State.port_countCodewords]

theorem State.failsWith_counted (s : State) (p ce ue : Nat) (f : Frame) : (s.countCodewords p ce ue).failsWith p f = s.failsWith p f := by
  unfold State.failsWith State.isAwaited
  rw [State.port_countCodewords]

/-! ### A frame that passes -/

/-- LINKCTL frames, and frames in a halt, bring nothing but their acknowledgement (R326). -/
theorem State.goodFrame_still (h : s.linked = false ∨ ∃ m, f.body = .linkctl m) : s.goodFrame p f = s := by
  refine if_pos ?_
  rcases h with h | ⟨m, h⟩
  · simp [h]
  · simp [h]

theorem State.goodFrame_eq (hl : s.linked = true) (hb : ∀ m, f.body ≠ .linkctl m) :
    s.goodFrame p f = if s.isAwaited p f then s.takeFrame p f
      else if notAfter (s.port p).rxLast f.seq then s.sendCtl p false none
      else if (s.port p).dropping then s else s.badFrame p f := by
  refine if_neg ?_
  rw [hl]
  split
  · exact absurd ‹_› (hb _)
  · decide

/-- A port that moves its sequence on (R317). -/
def State.accepts (s : State) (p : Nat) (f : Frame) : State := s.setPort p { s.port p with rxLast := f.seq, fails := 0, dropping := false }

theorem State.port_accepts (s : State) (p : Nat) (f : Frame) (r : Nat) :
    (s.accepts p f).port r = if r = p then { s.port p with rxLast := f.seq, fails := 0, dropping := false } else s.port r := State.port_setPort ..

theorem Sends.accepts (s : State) (p : Nat) (f : Frame) : Sends s (s.accepts p f) := .setPort ..

theorem State.modid_accepts (s : State) (p : Nat) (f : Frame) : (s.accepts p f).modid = s.modid := rfl

theorem State.takeFrame_duplicate {r : Nat} (ho : f.orig = some r) (h : notAfter (s.port (sibling p)).rxLast r = true) :
    s.takeFrame p f = (s.accepts p f).sendCtl p false (some (f.cls, f.vc, 1)) := if_pos (by simp [ho, h])

theorem State.takeFrame_own (ho : f.orig = none) (h : f.dmod = s.modid) :
    s.takeFrame p f = ((s.accepts p f).deliverFrame p f).sendCtl p false (some (f.cls, f.vc, 1)) :=
  (if_neg (by simp [ho])).trans (if_pos h)

theorem State.takeFrame_other (ho : f.orig = none) (h : f.dmod ≠ s.modid) :
    s.takeFrame p f = ((s.accepts p f).sendCtl p false none).routeWaiting ⟨{ f with vc := s.nextVc p f, cr := none, orig := none }, some (p, f.cls, f.vc)⟩ :=
  (if_neg (by simp [ho])).trans (if_neg h)

/-! ### A frame served -/

/-- The port receives (R316, R326): the die has power, links are trained or in training, the supply holds or the halt is in its first part, and the port is up. -/
def State.receives (s : State) (p : Nat) : Bool := s.powered && decide (4 ≤ s.mstate) && decide (s.supState ≤ 1) && s.portUp p

theorem exec_frameReceive_bad {p : Fin 12} {good : Bool} (h : s.receives p = true) (hb : (good && f.legal) = false) :
    exec (.frameReceive p good ce ue f) s = .next ((s.countCodewords p ce ue).badFrame p f) := (if_pos h).trans (if_pos (by simp [hb]))

theorem exec_frameReceive_good {p : Fin 12} (h : s.receives p = true) (hb : f.legal = true) :
    exec (.frameReceive p true ce ue f) s =
      .next (if ((s.countCodewords p ce ue).takeAck p f).portUp p then ((s.countCodewords p ce ue).takeAck p f).goodFrame p f
        else (s.countCodewords p ce ue).takeAck p f) := (if_pos h).trans (if_neg (by simp [hb]))

theorem exec_frameReceive_still {p : Fin 12} {good : Bool} (h : s.powered = false ∨ s.mstate < 4 ∨ 1 < s.supState ∨ s.portUp p = false) :
    exec (.frameReceive p good ce ue f) s = .next s := by
  refine if_neg ?_
  simp only [Bool.and_eq_true, decide_eq_true_eq]
  rintro ⟨⟨⟨power, state⟩, supply⟩, up⟩
  rcases h with h | h | h | h
  · exact absurd (power.symm.trans h) (by decide)
  · omega
  · omega
  · exact absurd (up.symm.trans h) (by decide)

/-- Codewords counted and the acknowledgement taken: what the frame's own effect begins from. -/
structure Ready (s : State) (p ce ue : Nat) (t : State) : Prop where
  sends : Sends (s.countCodewords p ce ue) t
  acked : (t.port p).rxLast = (s.port p).rxLast ∧ (t.port p).fails = (s.port p).fails ∧ (t.port p).dropping = (s.port p).dropping ∧
    (t.port p).sent.length ≤ (s.port p).load
  others : ∀ r, r ≠ p → t.port r = s.port r

theorem State.ready (s : State) (p ce ue : Nat) (h : f.nak = false) : Ready s p ce ue ((s.countCodewords p ce ue).takeAck p f) := by
  obtain ⟨sends, rxLast, fails, dropping, sent, others⟩ := State.takeAck_acked (s.countCodewords p ce ue) p h
  simp only [State.port_countCodewords] at rxLast fails dropping sent others
  exact ⟨sends, ⟨rxLast, fails, dropping, sent⟩, others⟩

/-- A good frame that refuses nothing has its effect once the acknowledgement is taken. -/
theorem runs_goodFrame {p : Fin 12} {P : State → Prop} (h : s.receives p = true) (hb : f.legal = true) (hn : f.nak = false)
    (run : ∀ t, Ready s p ce ue t → P (t.goodFrame p f)) : Runs (.frameReceive p true ce ue f) s P := by
  have ready := s.ready p ce ue hn
  have up : ((s.countCodewords p ce ue).takeAck p f).portUp p = true := by
    rw [State.portUp, ready.sends.portState_counted]
    exact (Bool.and_eq_true .. ▸ h).2
  refine runs_of (exec_frameReceive_good h hb) ?_
  rw [if_pos up]
  exact run _ ready

section Served

variable (h : Ready s p ce ue t)
include h

theorem Ready.isAwaited : t.isAwaited p f = s.isAwaited p f := State.isAwaited_congr h.acked.1

/-- Flits of a frame that ends here go on over the mesh (R326). -/
theorem Ready.delivers {fs : List Flit} (hl : s.linked = true) (ha : s.isAwaited p f = true) (hd : f.dmod = s.modid) (ho : f.orig = none) (hb : f.body = .data fs)
    (hf : ∀ g ∈ fs, g.travels) :
    (t.goodFrame p f).die.mesh = s.die.mesh ++ fs.map (fun g => { g with src := 128 + portEdge p, mod := some f.smod }) ∧
    ((t.goodFrame p f).port p).rxLast = f.seq ∧ ((t.goodFrame p f).port p).fails = 0 ∧ ((t.goodFrame p f).port p).dropping = false ∧
    Counted s p ce ue (t.goodFrame p f) := by
  have accepted := h.sends.trans (.accepts t p f)
  obtain ⟨mesh, net, regs, stns, lpddr⟩ := State.deliverFlits p f.smod fs (t.accepts p f) hf
  have taken : t.goodFrame p f = (fs.foldl (fun (t : State) g => t.deliverFlit p f.smod g) (t.accepts p f)).sendCtl p false (some (f.cls, f.vc, 1)) := by
    rw [State.goodFrame_eq (h.sends.linked_counted.trans hl) (fun m e => by simp [hb] at e), if_pos (h.isAwaited.trans ha),
      State.takeFrame_own ho (hd.trans h.sends.torus_counted.modid.symm), State.deliverFrame, hb]
  have port : (t.goodFrame p f).port p = { t.port p with rxLast := f.seq, fails := 0, dropping := false } := by
    rw [taken]
    exact (State.port_of_net net p).trans ((t.port_accepts p f p).trans (if_pos rfl))
  rw [port, taken]
  have beside := (Beside.reports (.countCodewords s p ce ue)).trans (.sends accepted)
  exact ⟨mesh.trans (congrArg (· ++ _) beside.mesh), rfl, rfl, rfl,
    .of_regs (fun a => (regs a).trans (accepted.reg a)) (fun j => (stns j).trans (beside.stn j)) (lpddr.trans beside.lpddr)⟩

/-- A frame for another module goes to the port of its route (R318, R324). -/
theorem Ready.forwards {k : Nat} (hl : s.linked = true) (ha : s.isAwaited p f = true) (hd : f.dmod ≠ s.modid) (ho : f.orig = none) (hb : ∀ m, f.body ≠ .linkctl m)
    (hk : s.exitPort f.dmod f.pick = some k) :
    (∃ g, ((t.goodFrame p f).port k).Holds g ∧ f.Same g) ∧ ((t.goodFrame p f).port p).rxLast = f.seq ∧ ((t.goodFrame p f).port p).fails = 0 ∧
    Sends (s.countCodewords p ce ue) (t.goodFrame p f) := by
  have accepted : Sends (s.countCodewords p ce ue) ((t.accepts p f).sendCtl p false none) := (h.sends.trans (.accepts t p f)).trans (.emit ..)
  generalize hu : (t.accepts p f).sendCtl p false none = u at accepted
  let w : Waiting := ⟨{ f with vc := t.nextVc p f, cr := none, orig := none }, some (p, f.cls, f.vc)⟩
  have port : u.port p = { t.port p with rxLast := f.seq, fails := 0, dropping := false } := by
    rw [← hu]
    exact (t.port_accepts p f p).trans (if_pos rfl)
  have taken : t.goodFrame p f = u.toPort k w := by
    rw [State.goodFrame_eq (h.sends.linked_counted.trans hl) hb, if_pos (h.isAwaited.trans ha),
      State.takeFrame_other ho (fun e => hd (e.trans h.sends.torus_counted.modid)), hu]
    unfold State.routeWaiting
    rw [show u.exitPort f.dmod f.pick = some k from (accepted.exitPort_counted ..).trans hk]
  obtain ⟨here, others⟩ := State.port_toPort u k w
  obtain ⟨g, held, same⟩ := here.holds w.frame (.inr ⟨w, List.mem_append_right _ (List.mem_singleton_self w), rfl⟩)
  have received : ((u.toPort k w).port p).rxLast = f.seq ∧ ((u.toPort k w).port p).fails = 0 := by
    by_cases e : p = k
    · subst e
      refine ⟨here.rxLast.trans ?_, here.fails.trans ?_⟩
      · rw [port]
      · rw [port]
    · rw [others p e, port]
      exact ⟨rfl, rfl⟩
  rw [taken]
  exact ⟨⟨g, held, same⟩, received.1, received.2, accepted.trans (.toPort ..)⟩

/-- A frame that came by the sibling before is acknowledged and dropped (R322). -/
theorem Ready.drops {r : Nat} (hl : s.linked = true) (ha : s.isAwaited p f = true) (ho : f.orig = some r) (hr : notAfter (s.port (sibling p)).rxLast r = true)
    (hb : ∀ m, f.body ≠ .linkctl m) : ((t.goodFrame p f).port p).rxLast = f.seq ∧ Sends (s.countCodewords p ce ue) (t.goodFrame p f) := by
  rw [State.goodFrame_eq (h.sends.linked_counted.trans hl) hb, if_pos (h.isAwaited.trans ha), State.takeFrame_duplicate ho (by rw [h.others _ (sibling_ne p), hr])]
  refine ⟨?_, (h.sends.trans (.accepts t p f)).trans (.emit ..)⟩
  exact congrArg Port.rxLast ((t.port_accepts p f p).trans (if_pos rfl))

/-- A frame that is not the awaited one moves nothing (R317). -/
theorem Ready.leaves (hx : s.linked = false ∨ (∃ m, f.body = .linkctl m) ∨ s.isAwaited p f = false ∧ (s.port p).fails < 8) :
    Sends (s.countCodewords p ce ue) (t.goodFrame p f) ∧ ((t.goodFrame p f).port p).rxLast = (s.port p).rxLast ∧
    ((t.goodFrame p f).port p).fails = (s.port p).fails ∧ ((t.goodFrame p f).port p).sent.length ≤ (s.port p).load ∧
    (s.linked = true → (∀ m, f.body ≠ .linkctl m) → notAfter (s.port p).rxLast f.seq = false → ((t.goodFrame p f).port p).dropping = true) := by
  obtain ⟨rxLast, fails, dropping, sent⟩ := h.acked
  by_cases still : s.linked = false ∨ ∃ m, f.body = .linkctl m
  · rw [State.goodFrame_still (still.imp_left h.sends.linked_counted.trans)]
    refine ⟨h.sends, rxLast, fails, sent, fun hl hb _ => ?_⟩
    rcases still with off | ⟨m, hm⟩
    · exact absurd (hl.symm.trans off) (by decide)
    · exact absurd hm (hb m)
  · obtain ⟨notAwaited, few⟩ := (or_assoc.mpr hx).resolve_left still
    obtain ⟨linked, plain⟩ := not_or.mp still
    rw [State.goodFrame_eq (h.sends.linked_counted.trans (by simpa using linked)) (fun m e => plain ⟨m, e⟩), if_neg (by simp [h.isAwaited, notAwaited])]
    split
    · rename_i before
      rw [rxLast] at before
      refine ⟨h.sends.trans (.emit ..), rxLast, fails, sent, fun _ _ late => ?_⟩
      exact absurd (before.symm.trans late) (by decide)
    · split
      · exact ⟨h.sends, rxLast, fails, sent, fun _ _ _ => ‹_›⟩
      · have same : t.failsWith p f = (s.port p).fails := (if_neg (by simp [h.isAwaited, notAwaited])).trans fails
        rw [State.badFrame_eq, if_neg (by omega)]
        have port : ((t.discards p f).sendCtl p true none).port p = _ := t.port_discards p f
        rw [port]
        exact ⟨h.sends.trans (.discards ..), rxLast, same, sent, fun _ _ _ => rfl⟩

end Served

end Sys2Proof.Machine

namespace Sys2Proof
open Machine

/-- Settles O37: codewords are counted, the acknowledgement is taken, and then the frame is delivered, forwarded, dropped or left (the lemmas of `Ready`), or discarded, or its NAK served. -/
theorem portsReceiveFrames : Obligations.PortsReceiveFrames := by
  intro s p good f ce ue counted kept
  have hp := p.isLt
  have brief {t : State} (h : Counted s p ce ue t) : counted t := ⟨h.corrected, h.failed⟩
  have still {t : State} (h : Sends (s.countCodewords p ce ue) t) (rx : (t.port p).rxLast = (s.port p).rxLast) : kept t :=
    have c := Counted.sends h
    ⟨h.mesh_counted, rx, c.regs, c.stns, c.lpddr⟩
  refine ⟨fun power state supply up => ?_, exec_frameReceive_still⟩
  have receives : s.receives p = true := by simp [State.receives, power, state, supply, up]
  refine ⟨fun bad => ⟨fun (few : s.failsWith p f < 8) => ?_, fun (many : 8 ≤ s.failsWith p f) => ?_⟩, ?_, ?_⟩
  · refine runs_of (exec_frameReceive_bad receives bad) ?_
    have sends := Sends.discards (s.countCodewords p ce ue) p f
    rw [State.badFrame_eq, State.failsWith_counted, if_neg (Nat.not_le.mpr few)]
    have port : (((s.countCodewords p ce ue).discards p f).sendCtl p true none).port p = _ := (s.countCodewords p ce ue).port_discards p f
    rw [State.port_countCodewords, State.failsWith_counted] at port
    refine ⟨port, ?_, brief (.sends sends), still sends (by rw [port])⟩
    exact State.out_discards s p ce ue f
  · refine runs_of (exec_frameReceive_bad receives bad) ?_
    rw [State.badFrame_eq, State.failsWith_counted, if_pos many]
    exact ⟨State.portState_portFail _ hp, (State.lpddr_portFail ..).trans (Reports.countCodewords s p ce ue).lpddr⟩
  · rintro rfl legal noNak
    refine ⟨fun fs hl ha hd ho hb hf => runs_goodFrame receives legal noNak fun t h => ?_, fun k hl ha hd ho hb hk => runs_goodFrame receives legal noNak fun t h => ?_,
      fun r hl ha ho hr hb => runs_goodFrame receives legal noNak fun t h => ?_, fun hx => runs_goodFrame receives legal noNak fun t h => ?_⟩
    · obtain ⟨mesh, rxLast, fails, dropping, c⟩ := h.delivers hl ha hd ho hb hf
      exact ⟨mesh, rxLast, fails, dropping, brief c, c.regs, c.stns, c.lpddr⟩
    · obtain ⟨⟨g, held, same⟩, rxLast, fails, sends⟩ := h.forwards hl ha hd ho hb hk
      have c := Counted.sends sends
      exact ⟨⟨g, held, same⟩, rxLast, fails, sends.mesh_counted, brief c, c.regs, c.stns, c.lpddr⟩
    · obtain ⟨rxLast, sends⟩ := h.drops hl ha ho hr hb
      have c := Counted.sends sends
      exact ⟨rxLast, sends.mesh_counted, brief c, c.regs, c.stns, c.lpddr⟩
    · obtain ⟨sends, rxLast, fails, sent, dropping⟩ := h.leaves hx
      exact ⟨brief (.sends sends), still sends rxLast, fails, sent, dropping⟩
  · rintro m rfl legal nak body
    intro left n
    have taken := (s.countCodewords p ce ue).takeAck_nak p nak
    rw [State.port_countCodewords] at taken
    have run {P : State → Prop} (hP : P ((s.countCodewords p ce ue).takeAck p f)) : Runs (.frameReceive p true ce ue f) s P := by
      refine runs_of (exec_frameReceive_good receives legal) ?_
      split
      · rw [State.goodFrame_still (.inr ⟨m, body⟩)]
        exact hP
      · exact hP
    refine ⟨fun few => run ?_, fun many => run ?_⟩
    · rw [taken.trans (if_neg (Nat.not_le.mpr few))]
      obtain ⟨reports, out, regs⟩ := State.resend_spec p (s.port p).rxLast left ((s.countCodewords p ce ue).setPort p ((s.port p).acked f n))
      have sends : Sends (s.countCodewords p ce ue) ((s.countCodewords p ce ue).setPort p ((s.port p).acked f n)) := .setPort ..
      have c := Counted.sends sends
      have beside := (Beside.reports (.countCodewords s p ce ue)).trans ((Beside.sends sends).trans (.reports reports))
      have port : ((((s.countCodewords p ce ue).setPort p ((s.port p).acked f n)).resend p (s.port p).rxLast left).port p) = (s.port p).acked f n :=
        (State.port_of_net reports.net.1 p).trans ((State.port_setPort ..).trans (if_pos rfl))
      have apart {a : Nat} (ha : a ≠ portBase p + 0x18) := (regs a).trans (if_neg ha)
      refine ⟨by rw [port]; rfl, by rw [port]; rfl, ?_, ?_, beside.mesh, ⟨(apart (by omega)).trans c.corrected, (apart (by omega)).trans c.failed⟩, fun a ha => ?_,
        beside.sameStns, beside.lpddr⟩
      · rw [regs, if_pos rfl, sends.reg_counted (by unfold portBase; omega) (by unfold portBase; omega)]
      · exact out.trans (congrArg (· ++ _) (State.out_countCodewords ..))
      · simp only [List.mem_cons, List.not_mem_nil, or_false, not_or] at ha
        obtain ⟨h10, h14, h18⟩ := ha
        exact (apart h18).trans (c.regs a (by simp [h10, h14]))
    · rw [taken.trans (if_pos many)]
      exact ⟨State.portState_portFail _ hp, (State.lpddr_portFail ..).trans (Reports.countCodewords s p ce ue).lpddr⟩

end Sys2Proof
end

section
/-! PROOFS. Writes to the governor (O46): the ceiling, GOV_CAP and GOV_PEAK, and CLRTHR. -/
namespace Sys2Proof.Machine

/-! ### The write -/

section
variable {s : State} (h : s.writeServed 0x30028 = true) (hs : s.supState = 0)
include h hs

/-- A host write to the governor from READY on is the governor's own (R405, R469). -/
theorem State.bar0Write_gov {a : Nat} (v : Word) (hl : 0x30000 ≤ a) (hu : a < 0x40000) (hm : (rwMask a).isSome = true) :
    s.bar0Write a 0xF v = s.leaveL1.govWrite a v := by
  have ready : s.writeServed 0x100804 = s.writeServed 0x30028 := rfl
  rw [State.bar0Write_eq (State.writeServed_of_ready (ready.trans h) a) hs hm (byteWritable_eq_false (by omega)), State.regWrite_gov _ v hl hu]

theorem exec_govCeilingWrite (v : Word) : exec (.govCeilingWrite v) s = .next (s.leaveL1.ceilingWrite v []) :=
  congrArg Host.Outcome.next (State.bar0Write_gov h hs v (by omega) (by omega) (by decide))

theorem exec_clrthr (v : Word) : exec (.clrthr v) s = .next (s.leaveL1.govWrite 0x30004 (v ||| 8)) :=
  congrArg Host.Outcome.next (State.bar0Write_gov h hs _ (by omega) (by omega) (by decide))

theorem exec_govLimitWrite (peak : Bool) (v : Word) :
    exec (.govLimitWrite peak v) s = .next (s.leaveL1.govWrite (if peak then 0x3000C else 0x30008) v) := by
  cases peak
  · exact congrArg Host.Outcome.next (State.bar0Write_gov (a := 0x30008) h hs v (by omega) (by omega) (by decide))
  · exact congrArg Host.Outcome.next (State.bar0Write_gov (a := 0x3000C) h hs v (by omega) (by omega) (by decide))

end

/-! ### The ceiling -/

/-- A fuse-backed setting that is committed: the setting, the count of audit records, the record in the flash and the measurements (R419). -/
theorem State.commitFuse_made {s : State} (kind old new : Nat) (detail : List Byte) (f : Fuses → Fuses) (h : s.fuses.audit < 256) :
    ∃ flash meas, s.commitFuse kind old new detail f =
      ({ s with flash := flash, meas := meas, fuses := { f s.fuses with audit := s.fuses.audit + 1 } }, true) :=
  ⟨_, _, if_neg (by omega)⟩

/-- A lower ceiling is taken, counted and audited (R379). -/
theorem State.ceilingWrite_taken {s : State} {v : Word} (detail : List Byte) (lower : fld v 0 3 < s.fuses.opmax) (changes : s.fuses.ceilUsed < 16)
    (room : s.fuses.audit < 256) : ∃ flash meas, s.ceilingWrite v detail =
      { s with flash := flash, meas := meas, fuses := { s.fuses with opmax := fld v 0 3, ceilUsed := s.fuses.ceilUsed + 1, audit := s.fuses.audit + 1 } } := by
  obtain ⟨flash, meas, e⟩ := State.commitFuse_made 4 s.fuses.opmax (fld v 0 3) detail (fun f => { f with opmax := fld v 0 3, ceilUsed := f.ceilUsed + 1 }) room
  exact ⟨flash, meas, (if_neg (Nat.not_le.mpr lower)).trans ((if_neg (Nat.not_le.mpr changes)).trans (congrArg Prod.fst e))⟩

theorem State.ceilingWrite_ignored {s : State} {v : Word} (detail : List Byte) (h : s.fuses.opmax ≤ fld v 0 3) :
    s.ceilingWrite v detail = s.logFault 0x0506 0 0x300 (BitVec.ofNat 32 v.toNat) 0 := if_pos h

/-- A ceiling that is not below the one in the fuses, or one change too many, is a record and nothing else (R379). -/
theorem Reports.ceilingWrite_refused {s : State} {v : Word} (detail : List Byte) (h : s.fuses.opmax ≤ fld v 0 3 ∨ 16 ≤ s.fuses.ceilUsed) :
    Reports s (s.ceilingWrite v detail) := by
  unfold State.ceilingWrite
  dsimp only
  by_cases low : s.fuses.opmax ≤ fld v 0 3
  · rw [if_pos low]
    exact .logFault ..
  · rw [if_neg low, if_pos (h.resolve_left low)]
    exact .logFault ..

theorem Reports.fuses {s t : State} (h : Reports s t) : t.fuses = s.fuses := by
  obtain ⟨_, _, _, _, _, _, rfl⟩ := h
  rfl

/-! ### The limits -/

theorem State.setReg_frame (s : State) (a : Nat) (v : Word) :
    (s.setReg a v).reg a = v ∧ SameRegs s (s.setReg a v) [a] ∧ SameStns s (s.setReg a v) [] ∧ (s.setReg a v).lpddr = s.lpddr :=
  ⟨(State.reg_setReg ..).trans (if_pos rfl), fun b hb => (State.reg_setReg ..).trans (if_neg (by simpa using hb)), fun _ _ => State.stn_setReg .., State.lpddr_setReg ..⟩

theorem clamp_eq (lo hi v : Nat) (h : lo ≤ hi) : clamp lo hi v = max lo (min hi v) := by
  unfold clamp
  split_ifs <;> omega

/-- GOV_CAP takes the nearest value of 100 to 440 W, and its window starts again at it (R358, R359). -/
theorem State.govWrite_cap (s : State) (v : Word) : s.govWrite 0x30008 v = (s.setReg 0x30008 (BitVec.ofNat 32 (max 100 (min 440 (fld v 0 9))))).setGov
    { s.die.gov with capHist := [(99999, ((max 100 (min 440 (fld v 0 9)) : Nat) : Rat))] } := by
  rw [← clamp_eq 100 440 _ (by omega)]
  rfl

/-- GOV_PEAK takes the nearest value of 200 to 460 W, and its window starts again at it (R358, R359). -/
theorem State.govWrite_peak (s : State) (v : Word) : s.govWrite 0x3000C v = (s.setReg 0x3000C (BitVec.ofNat 32 (max 200 (min 460 (fld v 0 9))))).setGov
    { s.die.gov with peakHist := [(999, ((max 200 (min 460 (fld v 0 9)) : Nat) : Rat))] } := by
  rw [← clamp_eq 200 460 _ (by omega)]
  rfl

/-! ### CLRTHR -/

/-- The first `n` duration registers cleared (R376, R381). -/
def State.clearDurations (s : State) (n : Nat) : State :=
  (List.range n).foldl (fun (t : State) r => (t.setReg (0x30088 + 8 * r) 0).setReg (0x3008C + 8 * r) 0) s

theorem State.clearDurations_succ (s : State) (n : Nat) :
    s.clearDurations (n + 1) = ((s.clearDurations n).setReg (0x30088 + 8 * n) 0).setReg (0x3008C + 8 * n) 0 := by
  simp [State.clearDurations, List.range_succ]

theorem State.govWrite_clrthr (s : State) (v : Word) : s.govWrite 0x30004 (v ||| 8) = (s.setReg 0x30004 (v &&& 7)).clearDurations 9 := by
  have bit : bitAt (v ||| 8) 3 = true := by simp [bitAt]
  have kept : (v ||| 8) &&& 7 = v &&& 7 := by
    rw [BitVec.and_or_distrib_right]
    exact BitVec.or_zero
  unfold State.govWrite
  dsimp only
  rw [if_pos bit, kept]
  rfl

theorem State.clearDurations_spec (s : State) (n : Nat) :
    (∀ r, r < n → (s.clearDurations n).reg (0x30088 + 8 * r) = 0 ∧ (s.clearDurations n).reg (0x3008C + 8 * r) = 0) ∧
    (∀ a, a < 0x30088 ∨ 0x30088 + 8 * n ≤ a → (s.clearDurations n).reg a = s.reg a) ∧
    (∀ j, (s.clearDurations n).stn j = s.stn j) ∧ (s.clearDurations n).lpddr = s.lpddr := by
  induction n with
  | zero => exact ⟨fun r hr => absurd hr (by omega), fun _ _ => rfl, fun _ => rfl, rfl⟩
  | succ n ih =>
    obtain ⟨cleared, others, stns, lpddr⟩ := ih
    rw [State.clearDurations_succ]
    have before {a : Nat} (ha : a ≠ 0x30088 + 8 * n ∧ a ≠ 0x3008C + 8 * n) :
        (((s.clearDurations n).setReg (0x30088 + 8 * n) 0).setReg (0x3008C + 8 * n) 0).reg a = (s.clearDurations n).reg a := by
      rw [State.reg_setReg, if_neg ha.2, State.reg_setReg, if_neg ha.1]
    refine ⟨fun r hr => ?_, fun a ha => ?_, fun j => by rw [State.stn_setReg, State.stn_setReg, stns],
      by rw [State.lpddr_setReg, State.lpddr_setReg, lpddr]⟩
    · rcases Nat.lt_succ_iff_lt_or_eq.mp hr with lt | rfl
      · exact ⟨(before (by omega)).trans (cleared r lt).1, (before (by omega)).trans (cleared r lt).2⟩
      · simp
    · exact (before (by omega)).trans (others a (by omega))

end Sys2Proof.Machine

namespace Sys2Proof
open Machine

/-- Settles O46: a ceiling by whether it is committed or refused, the limits by the value nearest to them in their range, CLRTHR by what is left after the durations are cleared. -/
theorem governorWrites : Obligations.GovernorWrites := by
  intro s v hs h
  refine ⟨fun lower changes room => ?_, fun high => ?_, fun spent => ?_, ?_, ?_, ?_⟩
  · obtain ⟨flash, meas, e⟩ := State.ceilingWrite_taken (s := s.leaveL1) [] lower changes room
    exact runs_of ((exec_govCeilingWrite h hs v).trans (congrArg _ e)) ⟨rfl, fun _ _ => rfl, fun _ _ => rfl, rfl⟩
  · have refused := Reports.ceilingWrite_refused (s := s.leaveL1) [] (.inl high)
    refine runs_of (exec_govCeilingWrite h hs v) ⟨refused.fuses, ?_, fun j _ => refused.stn j, refused.lpddr⟩
    exact (congrArg (·.reg 0x6000C) (State.ceilingWrite_ignored (s := s.leaveL1) [] high)).trans (State.wr_logFault ..)
  · have refused := Reports.ceilingWrite_refused (s := s.leaveL1) (v := v) [] (.inr spent)
    exact runs_of (exec_govCeilingWrite h hs v) ⟨refused.fuses, fun j _ => refused.stn j, refused.lpddr⟩
  · obtain ⟨cleared, others, stns, lpddr⟩ := (s.leaveL1.setReg 0x30004 (v &&& 7)).clearDurations_spec 9
    refine runs_of ((exec_clrthr h hs v).trans (congrArg _ (State.govWrite_clrthr ..)))
      ⟨?_, cleared, fun a ha hd => ?_, fun j _ => (stns j).trans (State.stn_setReg ..), lpddr.trans (State.lpddr_setReg ..)⟩
    · exact (others _ (by omega)).trans ((State.reg_setReg ..).trans (if_pos rfl))
    · exact (others a hd).trans ((State.reg_setReg ..).trans (if_neg ha))
  · obtain ⟨taken, others, stns, lpddr⟩ := State.setReg_frame s.leaveL1 0x30008 (BitVec.ofNat 32 (max 100 (min 440 (fld v 0 9))))
    exact runs_of ((exec_govLimitWrite h hs false v).trans (congrArg _ (State.govWrite_cap ..))) ⟨taken, rfl, rfl, others, stns, lpddr⟩
  · obtain ⟨taken, others, stns, lpddr⟩ := State.setReg_frame s.leaveL1 0x3000C (BitVec.ofNat 32 (max 200 (min 460 (fld v 0 9))))
    exact runs_of ((exec_govLimitWrite h hs true v).trans (congrArg _ (State.govWrite_peak ..))) ⟨taken, rfl, rfl, others, stns, lpddr⟩

end Sys2Proof
end

section
/-! PROOFS. Alerts (O44): what the governor's events change beside the registers, the records of the regulators, an alert asserted, held and ended, and the end of SUPPLY_LOW. -/
namespace Sys2Proof.Machine

/-! ### What the governor's events change -/

/-- Only registers, the governor, the stations, the endpoint's pending bits and the output differ. -/
def Governs (s t : State) : Prop :=
  ∃ r g m p q o, t = { s with aoReg := q, out := o, die := { s.die with reg := r, gov := g, stns := m, pcie := p } }

namespace Governs

theorem refl (s : State) : Governs s s := ⟨s.die.reg, s.die.gov, s.die.stns, s.die.pcie, s.aoReg, s.out, rfl⟩

theorem trans {s t u : State} (h : Governs s t) (k : Governs t u) : Governs s u := by
  obtain ⟨_, _, _, _, _, _, rfl⟩ := h
  obtain ⟨r, g, m, p, q, o, rfl⟩ := k
  exact ⟨r, g, m, p, q, o, rfl⟩

theorem foldl {β : Type} {f : State → β → State} (h : ∀ t b, Governs t (f t b)) (l : List β) (s : State) : Governs s (l.foldl f s) := by
  induction l generalizing s with
  | nil => exact refl s
  | cons b l ih => exact (h s b).trans (ih _)

theorem setReg (s : State) (a : Nat) (v : Word) : Governs s (s.setReg a v) := by
  obtain ⟨r, q, e⟩ := s.setReg_eq a v
  exact ⟨r, s.die.gov, s.die.stns, s.die.pcie, q, s.out, e⟩

theorem setFld (s : State) (a lo len v : Nat) : Governs s (s.setFld a lo len v) := setReg ..

theorem setGov (s : State) (g : Gov) : Governs s (s.setGov g) := ⟨s.die.reg, g, s.die.stns, s.die.pcie, s.aoReg, s.out, rfl⟩

theorem setStn (s : State) (i : Nat) (x : Station) : Governs s (s.setStn i x) := ⟨s.die.reg, s.die.gov, _, s.die.pcie, s.aoReg, s.out, rfl⟩

theorem signal (s : State) (v : Nat) : Governs s (s.signal v) := by
  obtain ⟨p, o, e⟩ := s.signal_eq v
  exact ⟨s.die.reg, s.die.gov, s.die.stns, p, s.aoReg, o, e⟩

theorem logFault (s : State) (code step unit : Nat) (d0 : Word) (d1 : BitVec 64) : Governs s (s.logFault code step unit d0 d1) := by
  obtain ⟨r, q, p, o, e⟩ := s.logFault_eq code step unit d0 d1
  exact ⟨r, s.die.gov, s.die.stns, p, q, o, e⟩

theorem endCoast (s : State) (back : Bool) : Governs s (s.endCoast back) := by
  obtain ⟨g, r, q, e⟩ := s.endCoast_eq back
  exact ⟨r, g, s.die.stns, s.die.pcie, q, s.out, e⟩

variable {s t : State} (h : Governs s t)
include h

theorem lpddr : t.lpddr = s.lpddr := by
  obtain ⟨_, _, _, _, _, _, rfl⟩ := h
  rfl

theorem mesh : t.die.mesh = s.die.mesh := by
  obtain ⟨_, _, _, _, _, _, rfl⟩ := h
  rfl

theorem sup : t.sup = s.sup := by
  obtain ⟨_, _, _, _, _, _, rfl⟩ := h
  rfl

theorem fuses : t.fuses = s.fuses := by
  obtain ⟨_, _, _, _, _, _, rfl⟩ := h
  rfl

end Governs

theorem State.lpddr_of_outside {s t : State} (h : t.outside = s.outside) : t.lpddr = s.lpddr := congrArg (·.2.2.1) h

/-! ### Steps for every station -/

section
variable {f : Station → Station} (twice : ∀ x, f (f x) = f x)
include twice

/-- A step that may be made once or more often at a station, made for those of a list. -/
theorem State.stn_forStns_twice (l : List Nat) (s : State) (j : Nat) : (s.forStns l f).stn j = if j ∈ l then f (s.stn j) else s.stn j := by
  unfold State.forStns
  induction l generalizing s with
  | nil => rfl
  | cons i r ih =>
    rw [List.foldl_cons, ih, State.stn_setStn]
    by_cases hj : j = i
    · subst hj
      simp [twice]
    · rw [if_neg hj]
      exact if_congr (by rw [List.mem_cons, or_iff_right hj]) rfl rfl

/-- Such a step made for every station listed is made at every station, where it leaves a station as a reset leaves it. -/
theorem State.stn_forListed (reset : f Station.reset = Station.reset) (s : State) (j : Nat) : (s.forStns (s.die.stns.map (·.1)) f).stn j = f (s.stn j) := by
  rw [State.stn_forStns_twice twice]
  split
  · rfl
  · rename_i unlisted
    rw [show s.stn j = Station.reset from mget_of_not_mem unlisted, reset]

end

theorem Governs.forStns (s : State) (l : List Nat) (f : Station → Station) : Governs s (s.forStns l f) := by
  unfold State.forStns
  exact .foldl (fun (t : State) i => .setStn t i _) l s

/-! ### Fields of GOV_STATUS -/

/-- A field set to 0 reads 0 in each of its parts. -/
theorem fld_putFld_zero {n : Nat} (w : BitVec n) {lo len k m : Nat} (hn : lo + len ≤ n) (hk : lo ≤ k) (hm : k + m ≤ lo + len) :
    fld (putFld w lo len 0) k m = 0 := by
  apply Nat.eq_of_testBit_eq
  intro i
  simp only [fld, Nat.testBit_mod_two_pow, Nat.testBit_shiftRight, Nat.zero_testBit, Bool.and_eq_false_iff, decide_eq_false_iff_not]
  by_cases hi : i < m
  · have bit := bitAt_putFld w lo len 0 (k + i) (by omega)
    rw [if_pos (by omega), Nat.zero_testBit] at bit
    exact .inr bit
  · exact .inl hi

/-- A field of a register replaced leaves the fields beside it. -/
theorem State.fld_setFld (s : State) (a b lo len v : Nat) {k n : Nat} (hk : k + n ≤ 32) (h : b ≠ a ∨ k + n ≤ lo ∨ lo + len ≤ k) :
    fld ((s.setFld a lo len v).reg b) k n = fld (s.reg b) k n := by
  rw [State.reg_setFld]
  split
  · rename_i e
    rw [fld_putFld_other _ _ _ _ _ _ hk (by omega), e]
  · rfl

/-- The end of a coast leaves the fields of GOV_STATUS beside COASTING. -/
theorem State.fld_endCoast (s : State) (back : Bool) {k n : Nat} (hk : k + n ≤ 32) (h : k + n ≤ 7 ∨ 8 ≤ k) :
    fld ((s.endCoast back).reg 0x30000) k n = fld (s.reg 0x30000) k n := by
  unfold State.endCoast
  dsimp only
  split
  · exact State.fld_setFld s _ _ _ _ _ hk (by omega)
  · rfl

theorem State.bit_endCoast (s : State) (back : Bool) {k : Nat} (hk : k < 32) (h : k ≠ 7) :
    bitAt ((s.endCoast back).reg 0x30000) k = bitAt (s.reg 0x30000) k := by
  unfold State.endCoast
  dsimp only
  split
  · exact State.bit_setFld s _ _ _ _ _ hk (by omega)
  · rfl

theorem State.reg_setGov (s : State) (g : Gov) (a : Nat) : (s.setGov g).reg a = s.reg a := rfl
theorem State.stn_setGov (s : State) (g : Gov) (j : Nat) : (s.setGov g).stn j = s.stn j := rfl

/-! ### Records of the regulators -/

theorem Reports.gov {s t : State} (h : Reports s t) : t.die.gov = s.die.gov := by
  obtain ⟨_, _, _, _, _, _, rfl⟩ := h
  rfl

theorem Reports.logRegs (s : State) (code : Nat) (words : List (Fin 7 × BitVec 16)) : Reports s (s.logRegs code words) :=
  .foldl (fun t _ => .logFault t ..) words s

theorem Governs.logRegs (s : State) (code : Nat) (words : List (Fin 7 × BitVec 16)) : Governs s (s.logRegs code words) :=
  .foldl (fun t _ => .logFault t ..) words s

theorem State.reg_logRegs (s : State) (code : Nat) (words : List (Fin 7 × BitVec 16)) {a : Nat} (h : a < 0x60000) : (s.logRegs code words).reg a = s.reg a :=
  State.reg_foldl (fun t _ => State.reg_logFault t _ _ _ _ _ _ (by omega) (by omega) (by omega)) words s

/-- Each regulator that reports has its record (R365). -/
theorem State.wr_logRegs (s : State) (code : Nat) (words : List (Fin 7 × BitVec 16)) :
    (s.logRegs code words).reg 0x6000C = s.reg 0x6000C + BitVec.ofNat 32 words.length := by
  unfold State.logRegs
  induction words generalizing s with
  | nil => exact (BitVec.add_zero _).symm
  | cons r rest ih =>
    rw [List.foldl_cons, ih, State.wr_logFault, List.length_cons, Nat.add_comm, BitVec.ofNat_add, BitVec.add_assoc]
    rfl

/-! ### An alert -/

/-- A station without credits. -/
def Station.unpaid (x : Station) : Station := { x with iss := { x.iss with account := 0 } }

/-- Every account emptied (R364). -/
def State.unpaid (s : State) : State := s.forStns (s.die.stns.map (·.1)) Station.unpaid

/-- An alert empties the account of every station. -/
theorem State.stn_unpaid (s : State) (j : Nat) : s.unpaid.stn j = (s.stn j).unpaid := State.stn_forListed (f := Station.unpaid) (fun _ => rfl) rfl s j

theorem Governs.unpaid (s : State) : Governs s s.unpaid := .forStns ..

theorem State.reg_unpaid (s : State) (a : Nat) : s.unpaid.reg a = s.reg a := State.reg_foldl (fun _ _ => State.reg_setStn ..) _ s

/-- GOV_STATUS as an alert sets it, before the coast ends. -/
def State.alerted (s : State) : State := (s.unpaid.setFld 0x30000 6 1 1).setFld 0x30000 0 6 0

theorem State.alertOn_eq (s : State) :
    s.alertOn = ((s.alerted.endCoast false).setGov { (s.alerted.endCoast false).die.gov with hold := false }).signal 4 := by
  unfold State.alerted State.unpaid State.forStns
  rw [List.foldl_map]
  rfl

theorem State.reg_alertOn (s : State) (a : Nat) : s.alertOn.reg a = (s.alerted.endCoast false).reg a := by
  rw [State.alertOn_eq, State.reg_signal]
  rfl

/-- The response to an assertion (R364, R366). -/
theorem State.alertOn_spec (s : State) :
    s.alertOn.alerting = true ∧ s.alertOn.op = 0 ∧ s.alertOn.target = 0 ∧ s.alertOn.coasting = false ∧ s.alertOn.die.gov.hold = false ∧
    (∀ j, s.alertOn.stn j = (s.stn j).unpaid) ∧ (∀ a, a ≠ 0x30000 → s.alertOn.reg a = s.reg a) ∧ Governs s s.alertOn := by
  have point {k : Nat} (hk : k + 3 ≤ 6) : fld (s.alertOn.reg 0x30000) k 3 = 0 := by
    rw [State.reg_alertOn, State.fld_endCoast _ _ (by omega) (by omega), State.alerted, State.reg_setFld, if_pos rfl, fld_putFld_zero _ (by omega) (by omega) (by omega)]
  refine ⟨?_, point (by omega), point (by omega), ?_, ?_, fun j => ?_, fun a ha => ?_, ?_⟩
  · rw [State.alerting, State.reg_alertOn, State.bit_endCoast _ _ (by omega) (by omega), State.alerted, State.bit_setFld _ _ _ _ _ _ (by omega) (by omega),
      State.reg_setFld, if_pos rfl, bitAt_putFld _ _ _ _ _ (by omega)]
    rfl

  · rw [State.coasting, State.reg_alertOn]
    exact State.coasting_endCoast ..
  · rw [State.alertOn_eq, State.gov_signal]
    rfl
  · rw [State.alertOn_eq, State.stn_signal, State.stn_setGov, State.stn_endCoast, State.alerted, State.stn_setFld, State.stn_setFld, State.stn_unpaid]
  · rw [State.reg_alertOn, State.reg_endCoast _ _ _ ha, State.alerted, State.reg_setFld, if_neg ha, State.reg_setFld, if_neg ha, State.reg_unpaid]
  · have alerted : Governs s s.alerted := ((Governs.unpaid s).trans (.setFld ..)).trans (.setFld ..)
    rw [State.alertOn_eq]
    exact ((alerted.trans (.endCoast ..)).trans (.setGov ..)).trans (.signal ..)

/-! ### The commands -/

theorem exec_alertAssert {s : State} (reg : Bool) (words : List (Fin 7 × BitVec 16)) (h : s.governed = true) :
    exec (.alertAssert reg words) s =
      .next (if reg then (s.setInput reg true words).alertOn.logRegs 0x0402 words else (s.setInput reg true words).alertOn) := if_pos h

theorem exec_alertAssert_off {s : State} (reg : Bool) (words : List (Fin 7 × BitVec 16)) (h : s.governed = false) :
    exec (.alertAssert reg words) s = .next (s.setInput reg true words) := if_neg (by simp [h])

theorem exec_alertHoldExpiry {s : State} (hp : s.powered = true) (ha : s.alerting = true) (hh : s.die.gov.hold = true) :
    exec .alertHoldExpiry s = .next ((s.setFld 0x30000 6 1 0).setGov { (s.setFld 0x30000 6 1 0).die.gov with hold := false }) :=
  if_pos (by simp [hp, ha, hh])

theorem exec_alertHoldExpiry_still {s : State} (h : s.powered = false ∨ s.alerting = false ∨ s.die.gov.hold = false) :
    exec .alertHoldExpiry s = .next s := if_neg (by rcases h with h | h | h <;> simp [h])

theorem exec_regAlertLong {s : State} (words : List (Fin 7 × BitVec 16)) (hp : s.powered = true) (hr : s.sup.pinReg = true) :
    exec (.regAlertLong words) s = .next (s.logRegs 0x0403 words) := if_pos (by simp [hp, hr])

theorem exec_regAlertLong_still {s : State} (words : List (Fin 7 × BitVec 16)) (h : s.powered = false ∨ s.sup.pinReg = false) :
    exec (.regAlertLong words) s = .next s := if_neg (by rcases h with h | h <;> simp [h])

theorem exec_supplyLowEnd {s : State} (hl : s.supplyLow = true) (hv : (fld (s.reg 0x30020) 0 9 + 5) * 10 ≤ (s.reg 0x40008).toNat) :
    exec .supplyLowEnd s = .next (s.setFld 0x30000 8 1 0) := if_pos (by simp [hl, hv])

theorem exec_supplyLowEnd_still {s : State} (h : s.supplyLow = false ∨ (s.reg 0x40008).toNat < (fld (s.reg 0x30020) 0 9 + 5) * 10) :
    exec .supplyLowEnd s = .next s := if_neg (by rcases h with h | h <;> simp [h])

/-! ### The inputs -/

/-- An input that changes leaves everything but the pins and the words read (R364). -/
theorem State.setInput_spec (s : State) (reg on : Bool) (words : List (Fin 7 × BitVec 16)) :
    let t := s.setInput reg on words
    (if reg then t.sup.pinReg else t.sup.pinSupply) = on ∧ (if reg then t.sup.pinSupply else t.sup.pinReg) = (if reg then s.sup.pinSupply else s.sup.pinReg) ∧
    (reg = true → t.sup.words = words) ∧ t.die = s.die ∧ (∀ a, t.reg a = s.reg a) ∧ (∀ j, t.stn j = s.stn j) ∧ t.lpddr = s.lpddr := by
  cases reg
  · exact ⟨rfl, rfl, nofun, rfl, fun _ => rfl, fun _ => rfl, rfl⟩
  · exact ⟨rfl, rfl, fun _ => rfl, rfl, fun _ => rfl, fun _ => rfl, rfl⟩

/-- An alert that is asserted while the governor runs: what `alertOn` sets, and with the regulators' input a record for each that reports (R364, R365). -/
theorem State.asserted_spec (s : State) (reg : Bool) (words : List (Fin 7 × BitVec 16)) :
    let t := if reg then s.alertOn.logRegs 0x0402 words else s.alertOn
    t.alerting = true ∧ t.op = 0 ∧ t.target = 0 ∧ t.coasting = false ∧ t.die.gov.hold = false ∧ (∀ j, t.stn j = (s.stn j).unpaid) ∧
    t.reg 0x6000C = s.reg 0x6000C + (if reg then BitVec.ofNat 32 words.length else 0) ∧ Governs s t := by
  obtain ⟨alerting, op, target, coasting, hold, stns, regs, governs⟩ := s.alertOn_spec
  cases reg
  · exact ⟨alerting, op, target, coasting, hold, stns, (regs _ (by omega)).trans (BitVec.add_zero _).symm, governs⟩
  · have status : (s.alertOn.logRegs 0x0402 words).reg 0x30000 = s.alertOn.reg 0x30000 := State.reg_logRegs _ _ _ (by omega)
    have logged := Reports.logRegs s.alertOn 0x0402 words
    refine ⟨(congrArg (bitAt · 6) status).trans alerting, (congrArg (fld · 0 3) status).trans op, (congrArg (fld · 3 3) status).trans target,
      (congrArg (bitAt · 7) status).trans coasting, (congrArg Gov.hold logged.gov).trans hold, fun j => (logged.stn j).trans (stns j), ?_, governs.trans (.logRegs ..)⟩
    exact (State.wr_logRegs ..).trans (congrArg (· + BitVec.ofNat 32 words.length) (regs _ (by omega)))

/-- The hold begins with the second of the two inputs to be deasserted (R365). -/
theorem runs_alertDeassert (s : State) (reg : Bool) :
    Runs (.alertDeassert reg) s (fun t =>
      (if reg then t.sup.pinReg else t.sup.pinSupply) = false ∧
      (s.alerting = true → (if reg then s.sup.pinSupply else s.sup.pinReg) = false → t.die.gov.hold = true) ∧
      (s.alerting = false ∨ (if reg then s.sup.pinSupply else s.sup.pinReg) = true → t.die.gov = s.die.gov) ∧
      SameRegs s t [] ∧ SameStns s t [] ∧ t.lpddr = s.lpddr) := by
  obtain ⟨pin, other, -, die, regs, stns, lpddr⟩ := s.setInput_spec reg false []
  have same : (s.setInput reg false []).alerting = s.alerting := congrArg (bitAt · 6) (regs 0x30000)
  have begins : ((s.setInput reg false []).alerting && !(s.setInput reg false []).sup.pinReg && !(s.setInput reg false []).sup.pinSupply) = true ↔
      s.alerting = true ∧ (if reg then s.sup.pinSupply else s.sup.pinReg) = false := by
    rw [same]
    cases reg <;> simp [State.setInput]
  by_cases holds : s.alerting = true ∧ (if reg then s.sup.pinSupply else s.sup.pinReg) = false
  · refine runs_of (if_pos (begins.mpr holds)) ⟨pin, fun _ _ => rfl, fun stays => ?_, fun a _ => regs a, fun j _ => stns j, lpddr⟩
    exact absurd stays (by simp [holds])
  · refine runs_of (if_neg (mt begins.mp holds)) ⟨pin, fun ha hp => absurd ⟨ha, hp⟩ holds, fun _ => congrArg Die.gov die, fun a _ => regs a, fun j _ => stns j, lpddr⟩

end Sys2Proof.Machine

namespace Sys2Proof
open Machine

/-- Settles O44: an assertion through `State.asserted_spec`, the end of an input through `runs_alertDeassert`, and each other event by the one field or the records that it writes. -/
theorem alertsHoldThePoint : Obligations.AlertsHoldThePoint := by
  intro s
  refine ⟨fun reg words => ⟨fun on => ?_, fun off => ?_⟩, runs_alertDeassert s, fun hp ha hh => ?_, exec_alertHoldExpiry_still,
    fun words => ⟨fun hp hr => ?_, exec_regAlertLong_still words⟩, fun hl hv => ?_, exec_supplyLowEnd_still⟩
  · obtain ⟨alerting, op, target, coasting, hold, stns, records, governs⟩ := (s.setInput reg true words).asserted_spec reg words
    obtain ⟨pin, -, read, die, regs, before, lpddr⟩ := s.setInput_spec reg true words
    have emptied (i : Nat) := (stns i).trans (congrArg Station.unpaid (before i))
    refine runs_of (exec_alertAssert reg words on) ⟨alerting, op, target, coasting, hold, fun i => by rw [emptied]; rfl, ?_, ?_, records,
      fun i => by rw [emptied]; exact ⟨rfl, rfl, rfl⟩, governs.lpddr.trans lpddr, governs.mesh.trans (congrArg Die.mesh die)⟩
    · rw [governs.sup]
      exact pin
    · rw [governs.sup]
      exact read
  · obtain ⟨pin, -, read, die, regs, -, lpddr⟩ := s.setInput_spec reg true words
    exact runs_of (exec_alertAssert_off reg words off) ⟨pin, read, die, fun a _ => regs a, lpddr⟩
  · refine runs_of (exec_alertHoldExpiry hp ha hh) ⟨?_, rfl, State.fld_setFld s _ _ _ _ _ (by omega) (by omega), fun a h => ?_, fun j _ => State.stn_setFld .., State.lpddr_setFld ..⟩
    · rw [State.alerting, State.reg_setGov, State.reg_setFld, if_pos rfl, bitAt_putFld _ _ _ _ _ (by omega)]
      rfl
    · exact (State.reg_setFld ..).trans (if_neg (by simpa using h))
  · have logged := Reports.logRegs s 0x0403 words
    exact runs_of (exec_regAlertLong words hp hr) ⟨State.wr_logRegs .., logged.gov, fun j _ => logged.stn j, logged.lpddr⟩
  · refine runs_of (exec_supplyLowEnd hl hv) ⟨?_, OnlyChanges.setReg ..⟩
    rw [State.supplyLow, State.reg_setFld, if_pos rfl, bitAt_putFld _ _ _ _ _ (by omega)]
    rfl

end Sys2Proof
end

section
/-! PROOFS. Temperature and margin (O45): a halt as it begins, the readings of the temperature, the thermal steps, the trim and margin events, and the return from a coast. -/
namespace Sys2Proof.Machine

/-! ### A halt begins -/

theorem Station.halted_halted (x : Station) : x.halted.halted = x.halted := by
  unfold Station.halted
  by_cases off : x.ctl.run = .asleep ∨ x.ctl.run = .waking
  · rcases off with off | off <;> simp [off]
  · obtain ⟨ha, hw⟩ := not_or.mp off
    simp [ha, hw]

/-- The charge and discharge paths are judged by TENDER_STATUS and the cartridge alone (R397). -/
theorem State.paths_spec (s : State) :
    (∀ a, a ≠ 0x40000 → s.paths.reg a = s.reg a) ∧ s.paths.supState = s.supState ∧ (∀ j, s.paths.stn j = s.stn j) ∧ s.paths.sup = s.sup := by
  unfold State.paths
  dsimp only
  refine ⟨fun a ha => ?_, ?_, fun j => ?_, ?_⟩
  · rw [State.setTbit, State.reg_setReg, if_neg ha, State.setTbit, State.reg_setReg, if_neg ha]
    rfl
  · unfold State.supState State.setTbit putBit
    rw [State.reg_setReg, if_pos rfl, fld_putFld_other _ _ _ _ _ _ (by omega) (by omega), State.reg_setReg, if_pos rfl, fld_putFld_other _ _ _ _ _ _ (by omega) (by omega)]
    rfl
  · rw [State.setTbit, State.stn_setReg, State.setTbit, State.stn_setReg]
    rfl
  · rw [State.setTbit, State.sup_setReg, State.setTbit, State.sup_setReg]

/-- NSEQ counted on, the halt counted and HALT_OUT_N low, the notice sent and HALTING entered (R384). -/
def State.haltCalled (s : State) : State :=
  let s1 := ((s.setFld 0x4002C 0 16 ((s.hseq + 1) % 65536)).bump 0x40030 1).emit (.haltOut true)
  ((s1.signal 3).flood none (.notice 0 s1.modid s1.hseq 0 0 0 0 0)).setSup 1

theorem State.reg_haltCalled (s : State) (a : Nat) : s.haltCalled.reg a = ((((s.setFld 0x4002C 0 16 ((s.hseq + 1) % 65536)).bump 0x40030 1)).setSup 1).reg a := by
  unfold State.haltCalled State.setSup
  dsimp only
  rw [State.reg_setFld, State.reg_setFld, (Sends.flood ..).reg, (Sends.flood ..).reg, State.reg_signal, State.reg_signal]
  rfl

theorem State.stn_haltCalled (s : State) (j : Nat) : s.haltCalled.stn j = s.stn j := by
  unfold State.haltCalled State.setSup
  dsimp only
  rw [State.stn_setFld, (Sends.flood ..).stn, State.stn_signal, State.stn_emit, State.stn_bump, State.stn_setFld]

/-- Every station awake and the notice noted as one that this module has sent (R332, R384). -/
def State.allHalted (s : State) : State :=
  let t := s.forStns (s.die.stns.map (·.1)) Station.halted
  t.setNet { t.die.net with seen := t.die.net.seen ++ [(0, t.modid, t.hseq, 0)] }

theorem State.reg_allHalted (s : State) (a : Nat) : s.allHalted.reg a = s.reg a := State.reg_foldl (fun _ _ => State.reg_setStn ..) _ s

theorem State.stn_allHalted (s : State) (j : Nat) : s.allHalted.stn j = (s.stn j).halted := State.stn_forListed Station.halted_halted rfl s j

/-- The halt's cause and its ticks from the first low sample on (R384). -/
def State.haltTimed (s : State) (p : Supply) (cause : Nat) : State := { s with sup := { p with ticks := 200, cause := cause } }

theorem State.beginHalt_eq (s : State) (cause : Nat) : s.beginHalt cause = s.haltCalled.allHalted.paths.haltTimed s.haltCalled.allHalted.sup cause := by
  unfold State.beginHalt State.haltTimed State.allHalted State.haltCalled
  with_reducible rfl

/-- A halt begins (R384, R386): HALTING, NSEQ counted on, every station awake and owing nothing; the other registers and LPDDR5X stay. -/
theorem State.beginHalt_spec (s : State) (cause : Nat) :
    let t := s.beginHalt cause
    t.supState = 1 ∧ t.sup.cause = cause ∧ t.sup.ticks = 200 ∧ fld (t.reg 0x4002C) 0 16 = (s.hseq + 1) % 65536 ∧
    (∀ a, a ≠ 0x4002C → a ≠ 0x40030 → a ≠ 0x40000 → t.reg a = s.reg a) ∧ (∀ j, t.stn j = (s.stn j).halted) ∧ t.lpddr = s.lpddr := by
  have memory : (s.beginHalt cause).lpddr = s.lpddr := State.lpddr_of_outside (State.beginHalt_outside s cause)
  rw [State.beginHalt_eq] at memory ⊢
  have regs (a : Nat) := (s.haltCalled.reg_allHalted a).trans (s.reg_haltCalled a)
  have stns (j : Nat) := (s.haltCalled.stn_allHalted j).trans (congrArg Station.halted (s.stn_haltCalled j))
  generalize s.haltCalled.allHalted = u at *
  obtain ⟨others, state, same, -⟩ := u.paths_spec
  unfold State.setSup at regs
  refine ⟨state.trans ?_, rfl, rfl, (congrArg (fld · 0 16) (others 0x4002C (by omega))).trans ?_, fun a h1 h2 h3 => (others a h3).trans ?_,
    fun j => (same j).trans (stns j), memory⟩
  · rw [State.supState, regs, State.reg_setFld, if_pos rfl, fld_putFld_same _ _ _ _ (by omega)]
    rfl
  · rw [regs, State.reg_setFld, if_neg (by omega), State.reg_bump, if_neg (by omega), State.reg_setFld, if_pos rfl, fld_putFld_same _ _ _ _ (by omega)]
    omega
  · rw [regs, State.reg_setFld, if_neg h3, State.reg_bump, if_neg h2, State.reg_setFld, if_neg h1]

/-! ### The temperature -/

/-- A reading shown in GOV_STATUS (R368). -/
def State.showTj (s : State) (tj : BitVec 7) : State := s.setFld 0x30000 16 7 tj.toNat

theorem State.tj_showTj (s : State) (tj : BitVec 7) : (s.showTj tj).tj = tj.toNat := by
  rw [State.tj, State.showTj, State.reg_setFld, if_pos rfl, fld_putFld_same _ _ _ _ (by omega)]
  exact Nat.mod_eq_of_lt tj.isLt

theorem State.showTj_only (s : State) (tj : BitVec 7) : OnlyChanges s (s.showTj tj) [0x30000] [] := OnlyChanges.setReg ..

theorem State.reg_showTj (s : State) (tj : BitVec 7) {a : Nat} (h : a ≠ 0x30000) : (s.showTj tj).reg a = s.reg a := (s.showTj_only tj).1 a (by simpa using h)

theorem exec_temperatureRead {s : State} (tj : BitVec 7) (hp : s.powered = true) (hs : s.supState = 0) :
    exec (.temperatureRead tj) s = .next ((s.showTj tj).judgeHeat s.tj) := if_pos (by simp [hp, hs])

theorem exec_temperatureRead_off {s : State} (tj : BitVec 7) (h : s.powered = false ∨ s.supState ≠ 0) :
    exec (.temperatureRead tj) s = .next s := if_neg (by rcases h with h | h <;> simp [h])

/-- The registers outside the fault block hold what they held, and FAULT_WR counts `n` records. -/
structure Recorded (s t : State) (n : Nat) : Prop where
  reports : Reports s t
  count : t.reg 0x6000C = s.reg 0x6000C + BitVec.ofNat 32 n
  regs : ∀ a, a < 0x60000 → t.reg a = s.reg a

theorem Recorded.none (s : State) : Recorded s s 0 := ⟨.refl s, (BitVec.add_zero _).symm, fun _ _ => rfl⟩

theorem Recorded.logFault {s t : State} {n : Nat} (h : Recorded s t n) (code step unit : Nat) (d0 : Word) (d1 : BitVec 64) :
    Recorded s (t.logFault code step unit d0 d1) (n + 1) := by
  refine ⟨h.reports.trans (.logFault ..), ?_, fun a ha => (State.reg_logFault _ _ _ _ _ _ _ (by omega) (by omega) (by omega)).trans (h.regs a ha)⟩
  rw [State.wr_logFault, h.count, BitVec.ofNat_add, BitVec.add_assoc]
  rfl

theorem Recorded.signal {s t : State} {n : Nat} (h : Recorded s t n) (v : Nat) : Recorded s (t.signal v) n :=
  ⟨h.reports.trans (.signal ..), (State.reg_signal ..).trans h.count, fun a ha => (State.reg_signal ..).trans (h.regs a ha)⟩

/-- The record of 115 °C reached (R369). -/
def State.noteCut (s : State) (old : Nat) : State :=
  if old < 115 ∧ 115 ≤ s.tj then s.logFault 0x0405 0 0x300 (BitVec.ofNat 32 s.tj) 0 else s

/-- The record of 125 °C (R369). -/
def State.noteHeat (s : State) (old : Nat) : State := (s.noteCut old).logFault 0x0406 0 0x300 (BitVec.ofNat 32 s.tj) 0

theorem State.noteCut_recorded (s : State) (old : Nat) : Recorded s (s.noteCut old) (if old < 115 ∧ 115 ≤ s.tj then 1 else 0) := by
  unfold State.noteCut
  split
  · exact (Recorded.none s).logFault ..
  · exact .none s

theorem State.noteHeat_recorded (s : State) (old : Nat) : Recorded s (s.noteHeat old) ((if old < 115 ∧ 115 ≤ s.tj then 1 else 0) + 1) :=
  (s.noteCut_recorded old).logFault ..

/-- What is recorded leaves the job and the mode of the module. -/
theorem Reports.jobLoaded {s t : State} (h : Reports s t) (mode : t.reg 0x10000 = s.reg 0x10000) : t.jobLoaded = s.jobLoaded := by
  rw [State.jobLoaded, State.jobLoaded, State.mstate, State.mstate, h.job.1, mode]

theorem State.jobLoaded_noteCut (s : State) (old : Nat) : (s.noteCut old).jobLoaded = s.jobLoaded :=
  (s.noteCut_recorded old).reports.jobLoaded ((s.noteCut_recorded old).regs _ (by omega))

theorem State.jobLoaded_noteHeat (s : State) (old : Nat) : (s.noteHeat old).jobLoaded = s.jobLoaded :=
  (s.noteHeat_recorded old).reports.jobLoaded ((s.noteHeat_recorded old).regs _ (by omega))

/-- Below 125 °C, and above it where that was shown before and no job is loaded, there is at most the record of 115 °C (R369). -/
theorem State.judgeHeat_cut {s : State} {old : Nat} (h : s.tj < 125 ∨ 125 ≤ old ∧ s.jobLoaded = false) : s.judgeHeat old = s.noteCut old := by
  have still : ¬ (125 ≤ s.tj ∧ (old < 125 ∨ (s.noteCut old).jobLoaded = true)) := by
    rw [State.jobLoaded_noteCut]
    rcases h with h | ⟨h, job⟩
    · omega
    · simp [job]
      omega
  exact if_neg still

theorem State.judgeHeat_hot {s : State} {old : Nat} (ht : 125 ≤ s.tj) (h : old < 125 ∨ s.jobLoaded = true) :
    s.judgeHeat old = if s.jobLoaded then (s.noteHeat old).beginHalt 2 else s.noteHeat old := by
  have hot : 125 ≤ s.tj ∧ (old < 125 ∨ (s.noteCut old).jobLoaded = true) := ⟨ht, by rwa [State.jobLoaded_noteCut]⟩
  rw [← State.jobLoaded_noteHeat s old]
  exact if_pos hot

/-! ### Thermal steps -/

/-- A thermal step count with its record (R369). -/
def State.stepTo (s : State) (n : Nat) : State :=
  ((s.setFld 0x30000 9 3 n).logFault 0x0404 0 0x300 (BitVec.ofNat 32 s.tj) (BitVec.ofNat 64 n)).signal 4

theorem State.stepTo_spec (s : State) {n : Nat} (hn : n < 8) :
    (s.stepTo n).tsteps = n ∧ (s.stepTo n).tj = s.tj ∧ (s.stepTo n).reg 0x6000C = s.reg 0x6000C + 1 ∧ SameStns s (s.stepTo n) [] ∧ (s.stepTo n).lpddr = s.lpddr := by
  have recorded : Recorded (s.setFld 0x30000 9 3 n) (s.stepTo n) 1 := ((Recorded.none _).logFault ..).signal 4
  have status : (s.stepTo n).reg 0x30000 = putFld (s.reg 0x30000) 9 3 n :=
    (recorded.regs _ (by omega)).trans ((State.reg_setFld ..).trans (if_pos rfl))
  refine ⟨?_, ?_, recorded.count.trans (congrArg (· + 1#32) (State.reg_setReg ..)), fun j _ => (recorded.reports.stn j).trans (State.stn_setFld ..),
    recorded.reports.lpddr.trans (State.lpddr_setFld ..)⟩
  · rw [State.tsteps, status, fld_putFld_same _ _ _ _ (by omega)]
    exact Nat.mod_eq_of_lt hn
  · rw [State.tj, status, fld_putFld_other _ _ _ _ _ _ (by omega) (by omega)]
    rfl

theorem exec_thermalStepRise {s : State} (hg : s.governed = true) (ht : s.throttle ≤ s.tj) (hn : s.tsteps < 7) :
    exec .thermalStepRise s = .next (s.stepTo (s.tsteps + 1)) := if_pos (by simp [hg, ht, hn])

theorem exec_thermalStepRise_still {s : State} (h : s.governed = false ∨ s.tj < s.throttle ∨ s.tsteps = 7) :
    exec .thermalStepRise s = .next s := if_neg (by rcases h with h | h | h <;> simp [h])

theorem exec_thermalStepFall {s : State} (hg : s.governed = true) (ht : s.tj + 3 < s.throttle) (hn : 0 < s.tsteps) :
    exec .thermalStepFall s = .next (s.stepTo (s.tsteps - 1)) := if_pos (by simp [hg, ht, hn])

theorem exec_thermalStepFall_still {s : State} (h : s.governed = false ∨ s.throttle ≤ s.tj + 3 ∨ s.tsteps = 0) :
    exec .thermalStepFall s = .next s := if_neg (by rcases h with h | h | h <;> simp [h])

/-! ### The trim -/

/-- What a trim that may rise leaves: GOV_STATUS, the governor, the stations and LPDDR5X. -/
structure TrimFrame (s t : State) : Prop where
  status : t.reg 0x30000 = s.reg 0x30000
  gov : t.die.gov = s.die.gov
  stns : ∀ j, t.stn j = s.stn j
  lpddr : t.lpddr = s.lpddr

theorem TrimFrame.reports {s t : State} (h : Reports s t) (status : t.reg 0x30000 = s.reg 0x30000) : TrimFrame s t :=
  ⟨status, h.gov, h.stn, h.lpddr⟩

theorem TrimFrame.trans {s t u : State} (h : TrimFrame s t) (k : TrimFrame t u) : TrimFrame s u :=
  ⟨k.status.trans h.status, k.gov.trans h.gov, fun j => (k.stns j).trans (h.stns j), k.lpddr.trans h.lpddr⟩

/-- The trim and its count as GOV_AGE shows them after a rise (R372). -/
def State.raisedAge (s : State) : Word := BitVec.ofNat 32 (s.trim + 5 + (fld (s.reg 0x30038) 8 4 + 1) % 16 * 256)

theorem State.addTrim_full {s : State} (h : 50 ≤ s.trim) : s.addTrim = s := if_pos h

theorem State.addTrim_exhausted {s : State} (h : s.trim < 50) (full : 256 ≤ s.fuses.audit) : s.addTrim = s.exhausted 5 1 := by
  have refused : s.commitFuse 5 s.trim (s.trim + 5) [] (fun f => f) = (s.exhausted 5 1, false) := if_pos full
  unfold State.addTrim
  rw [if_neg (Nat.not_le.mpr h), refused]
  rfl

/-- A trim that rises: its audit record, GOV_AGE and its fault record (R372). -/
theorem State.addTrim_raises {s : State} (h : s.trim < 50) (room : s.fuses.audit < 256) :
    ∃ flash meas, s.addTrim = (({ s with flash := flash, meas := meas, fuses := { s.fuses with audit := s.fuses.audit + 1 } } : State).setReg 0x30038 s.raisedAge).logFault
      0x0408 0 0x300 (BitVec.ofNat 32 (s.trim + 5)) 0 := by
  obtain ⟨flash, meas, e⟩ := State.commitFuse_made 5 s.trim (s.trim + 5) [] (fun f => f) room
  unfold State.addTrim
  rw [if_neg (Nat.not_le.mpr h), e]
  exact ⟨flash, meas, rfl⟩

theorem State.addTrim_frame (s : State) : TrimFrame s s.addTrim := by
  by_cases full : 50 ≤ s.trim
  · rw [State.addTrim_full full]
    exact .reports (.refl s) rfl
  · by_cases room : s.fuses.audit < 256
    · obtain ⟨flash, meas, e⟩ := State.addTrim_raises (Nat.not_le.mp full) room
      rw [e]
      refine TrimFrame.trans (t := { s with flash := flash, meas := meas, fuses := { s.fuses with audit := s.fuses.audit + 1 } }) ⟨rfl, rfl, fun _ => rfl, rfl⟩ (.reports ?_ ?_)
      · exact (Reports.setReg ..).trans (.logFault ..)
      · rw [State.reg_logFault _ _ _ _ _ _ _ (by omega) (by omega) (by omega), State.reg_setReg, if_neg (by omega)]
    · rw [State.addTrim_exhausted (Nat.not_le.mp full) (Nat.not_lt.mp room)]
      exact .reports (.logFault ..) (State.reg_logFault _ _ _ _ _ _ _ (by omega) (by omega) (by omega))

/-- A trim below 50 mV rises by 5 mV with an audit record (R372). -/
theorem State.addTrim_spec {s : State} (h : s.trim < 50) (room : s.fuses.audit < 256) :
    s.addTrim.trim = s.trim + 5 ∧ s.addTrim.fuses.audit = s.fuses.audit + 1 := by
  obtain ⟨flash, meas, e⟩ := State.addTrim_raises h room
  rw [e]
  refine ⟨?_, ?_⟩
  · rw [State.trim, State.reg_logFault _ _ _ _ _ _ _ (by omega) (by omega) (by omega), State.reg_setReg, if_pos rfl]
    simp only [State.raisedAge, fld, BitVec.toNat_ofNat, Nat.shiftRight_zero]
    omega
  · rw [State.fuses_logFault, State.fuses_setReg]

/-! ### Margin events and low samples -/

/-- The clock a point lower and the event noted (R373). -/
def State.marginNoted (s : State) : State :=
  let s1 := s.setFld 0x30000 0 3 (s.op - 1)
  s1.setGov { s1.die.gov with margin := true, lastMargin := some s.uptime }

theorem State.marginEvent_eq (s : State) : s.marginEvent =
    (if 50 ≤ s.trim then (s.marginNoted.setFld 0x30000 12 1 1).logFault 0x0409 0 0x300 0 0 else s.marginNoted.addTrim).signal 4 := rfl

theorem State.marginNoted_spec (s : State) : s.marginNoted.op = s.op - 1 ∧ s.marginNoted.trim = s.trim ∧ s.marginNoted.die.gov.margin = true ∧
    s.marginNoted.die.gov.lastMargin = some s.uptime ∧ (∀ j, s.marginNoted.stn j = s.stn j) ∧ s.marginNoted.lpddr = s.lpddr ∧ s.marginNoted.fuses = s.fuses := by
  have point : s.op < 2 ^ 3 := Nat.mod_lt _ (by omega)
  refine ⟨?_, ?_, rfl, rfl, fun j => State.stn_setFld .., State.lpddr_setFld .., State.fuses_setFld ..⟩
  · rw [State.op, State.marginNoted, State.reg_setGov, State.reg_setFld, if_pos rfl, fld_putFld_same _ _ _ _ (by omega)]
    exact Nat.mod_eq_of_lt (by omega)
  · exact congrArg (fld · 0 6) ((State.reg_setFld ..).trans (if_neg (by omega)))

/-- OP7 given up, where the trim can rise no more (R373). -/
def State.giveUpBoost (s : State) : State := (s.setFld 0x30000 12 1 1).logFault 0x0409 0 0x300 0 0

theorem State.giveUpBoost_spec (s : State) : s.giveUpBoost.op = s.op ∧ bitAt (s.giveUpBoost.reg 0x30000) 12 = true ∧ s.giveUpBoost.trim = s.trim ∧
    s.giveUpBoost.fuses = s.fuses ∧ Governs s s.giveUpBoost ∧ s.giveUpBoost.die.gov = s.die.gov ∧ ∀ j, s.giveUpBoost.stn j = s.stn j := by
  have recorded : Recorded (s.setFld 0x30000 12 1 1) s.giveUpBoost 1 := (Recorded.none _).logFault ..
  have status := recorded.regs 0x30000 (by omega)
  refine ⟨?_, ?_, ?_, ?_, (Governs.setFld ..).trans (.logFault ..), recorded.reports.gov.trans (State.gov_setFld ..), fun j => (recorded.reports.stn j).trans (State.stn_setFld ..)⟩
  · exact (congrArg (fld · 0 3) status).trans (State.fld_setFld s _ _ _ _ _ (by omega) (by omega))
  · rw [status, State.reg_setFld, if_pos rfl, bitAt_putFld _ _ _ _ _ (by omega)]
    rfl
  · exact congrArg (fld · 0 6) ((recorded.regs 0x30038 (by omega)).trans ((State.reg_setFld ..).trans (if_neg (by omega))))
  · exact recorded.reports.fuses.trans (State.fuses_setFld ..)

/-- A margin event from `s` to `t` (R373): the clock a point lower and the event noted; the trim raised where it can be, and OP7 given up where it cannot. -/
structure Margined (s t : State) : Prop where
  op : t.op = s.op - 1
  margin : t.die.gov.margin = true
  last : t.die.gov.lastMargin = some s.uptime
  raised : s.trim < 50 → s.fuses.audit < 256 → t.trim = s.trim + 5 ∧ t.fuses.audit = s.fuses.audit + 1
  gaveUp : 50 ≤ s.trim → t.trim = s.trim ∧ t.fuses = s.fuses ∧ bitAt (t.reg 0x30000) 12 = true
  stns : ∀ j, t.stn j = s.stn j
  lpddr : t.lpddr = s.lpddr

theorem Margined.signal {s t : State} (h : Margined s t) (v : Nat) : Margined s (t.signal v) := by
  obtain ⟨p, o, e⟩ := t.signal_eq v
  rw [e]
  exact ⟨h.op, h.margin, h.last, h.raised, h.gaveUp, h.stns, h.lpddr⟩

theorem State.marginEvent_spec (s : State) : Margined s s.marginEvent := by
  obtain ⟨op, trim, margin, last, stns, lpddr, fuses⟩ := s.marginNoted_spec
  rw [State.marginEvent_eq]
  refine Margined.signal ?_ 4
  split
  · rename_i full
    obtain ⟨op', bit, trim', fuses', governs, gov, stns'⟩ := s.marginNoted.giveUpBoost_spec
    exact ⟨op'.trans op, (congrArg Gov.margin gov).trans margin, (congrArg Gov.lastMargin gov).trans last, fun low => absurd low (by omega),
      fun _ => ⟨trim'.trans trim, fuses'.trans fuses, bit⟩, fun j => (stns' j).trans (stns j), governs.lpddr.trans lpddr⟩
  · rename_i low
    have frame := s.marginNoted.addTrim_frame
    refine ⟨(congrArg (fld · 0 3) frame.status).trans op, (congrArg Gov.margin frame.gov).trans margin, (congrArg Gov.lastMargin frame.gov).trans last,
      fun lt room => ?_, fun full => absurd full low, fun j => (frame.stns j).trans (stns j), frame.lpddr.trans lpddr⟩
    have raised := State.addTrim_spec (s := s.marginNoted) (by omega) (by rw [fuses]; exact room)
    rwa [trim, fuses] at raised

/-- The low samples of a monitor (R372). -/
def State.lowsOf (s : State) (m : Nat) : List Nat := mget (fun _ => ([] : List Nat)) s.die.gov.lows m

/-- The low samples of a monitor within the hour, with one of now (R372). -/
def State.lowsNow (s : State) (m : Nat) : List Nat := s.uptime :: (s.lowsOf m).filter (fun u => decide (s.uptime - u < 14400000000))

/-- The low samples of a monitor replaced. -/
def State.setLows (s : State) (m : Nat) (l : List Nat) : State := s.setGov { s.die.gov with lows := mset (fun _ => ([] : List Nat)) s.die.gov.lows m l }

theorem State.lowsOf_setLows (s : State) (m : Nat) (l : List Nat) (k : Nat) : (s.setLows m l).lowsOf k = if k = m then l else s.lowsOf k := mget_mset ..

theorem State.lowSample_eq (s : State) (m : Nat) : s.lowSample m = if 1000 < (s.lowsNow m).length then (s.setLows m []).addTrim else s.setLows m (s.lowsNow m) := rfl

theorem exec_lowSample {s : State} (m : Fin 16) (h : s.governed = true) : exec (.marginSample [m] []) s = .next (s.lowSample m) := if_pos h

theorem exec_marginEvent {s : State} {short : List (Fin 16)} (h : s.governed = true) (hs : short ≠ []) :
    exec (.marginSample [] short) s = .next s.marginEvent := by
  refine (if_pos h).trans (congrArg Host.Outcome.next (if_neg ?_))
  simpa using hs

theorem exec_marginSample_none {s : State} (h : s.governed = true) : exec (.marginSample [] []) s = .next s := if_pos h

theorem exec_marginSample_off {s : State} (low short : List (Fin 16)) (h : s.governed = false) : exec (.marginSample low short) s = .next s :=
  if_neg (by simp [h])

/-! ### The return from a coast -/

theorem exec_coastReturn {s : State} (hl : s.live = true) (hc : s.coasting = true) : exec .coastReturn s = .next (s.endCoast true) := if_pos (by simp [hl, hc])

theorem exec_coastReturn_still {s : State} (h : s.live = false ∨ s.coasting = false) : exec .coastReturn s = .next s :=
  if_neg (by rcases h with h | h <;> simp [h])

/-- The return from a coast holds departures (R361, R375). -/
theorem State.departuresHeld_endCoast {s : State} (h : s.coasting = true) : (s.endCoast true).departuresHeld = true := by
  unfold State.endCoast
  rw [if_pos h]
  rfl

/-! ### Readings -/

theorem State.jobLoaded_showTj (s : State) (tj : BitVec 7) : (s.showTj tj).jobLoaded = s.jobLoaded := by
  rw [State.jobLoaded, State.jobLoaded, State.mstate, State.mstate, State.reg_showTj s tj (by omega), State.showTj, State.job_setFld]

/-- A reading that reaches no threshold, or none anew while no job is loaded, is shown and no more (R368, R369). -/
theorem State.judgeHeat_shown {s : State} {tj : BitVec 7} (h : tj.toNat < 115 ∨ 115 ≤ s.tj ∧ (tj.toNat < 125 ∨ 125 ≤ s.tj ∧ s.jobLoaded = false)) :
    (s.showTj tj).judgeHeat s.tj = s.showTj tj := by
  have low : (s.showTj tj).tj < 125 ∨ 125 ≤ s.tj ∧ (s.showTj tj).jobLoaded = false := by
    rw [s.tj_showTj tj, s.jobLoaded_showTj tj]
    rcases h with h | ⟨-, h⟩
    · exact .inl (by omega)
    · exact h
  rw [State.judgeHeat_cut low]
  refine if_neg ?_
  rw [s.tj_showTj tj]
  omega

section
variable {s t : State} {n : Nat} {tj : BitVec 7} (h : Recorded (s.showTj tj) t n)
include h

/-- A reading shown with `n` records. -/
theorem Recorded.shown : t.tj = tj.toNat ∧ t.reg 0x6000C = s.reg 0x6000C + BitVec.ofNat 32 n ∧ t.supState = s.supState ∧ SameStns s t [] ∧ t.lpddr = s.lpddr := by
  obtain ⟨regs, stns, -⟩ := s.showTj_only tj
  refine ⟨(congrArg (fld · 16 7) (h.regs _ (by omega))).trans (s.tj_showTj tj), ?_, ?_, fun j hj => (h.reports.stn j).trans (stns j hj),
    h.reports.lpddr.trans (s.showTj_only tj).lpddr⟩
  · rw [h.count, State.reg_showTj s tj (by omega)]
  · exact congrArg (fld · 0 2) ((h.regs _ (by omega)).trans (State.reg_showTj s tj (by omega)))

/-- A halt for heat that begins with the reading (R369). -/
theorem Recorded.halts : let u := t.beginHalt 2
    u.tj = tj.toNat ∧ u.supState = 1 ∧ u.sup.cause = 2 ∧ u.sup.ticks = 200 ∧ fld (u.reg 0x4002C) 0 16 = (s.hseq + 1) % 65536 ∧
    (∀ j, u.stn j = (s.stn j).halted) ∧ u.lpddr = s.lpddr := by
  obtain ⟨shown, -, -, stns, lpddr⟩ := h.shown
  obtain ⟨state, cause, ticks, nseq, regs, halted, memory⟩ := t.beginHalt_spec 2
  have hseq : t.hseq = s.hseq := congrArg BitVec.toNat ((h.regs _ (by omega)).trans (State.reg_showTj s tj (by omega)))
  rw [hseq] at nseq
  exact ⟨(congrArg (fld · 16 7) (regs _ (by omega) (by omega) (by omega))).trans shown, state, cause, ticks, nseq,
    fun j => (halted j).trans (congrArg Station.halted (stns j nofun)), memory.trans lpddr⟩

end

end Sys2Proof.Machine

namespace Sys2Proof
open Machine

/-- Settles O45: a reading by the thresholds that it reaches, the thermal steps through `State.stepTo_spec`, a margin event through `State.marginEvent_spec`, low samples by their count in the hour. -/
theorem temperatureAndMargin : Obligations.TemperatureAndMargin := by
  intro s lows
  refine ⟨fun tj => ⟨fun hp hs => ⟨fun low => ?_, fun cut lt new => ?_, fun hot job new => ?_, fun hot job old => ?_, fun hot job => ?_⟩, exec_temperatureRead_off tj⟩,
    fun hg ht hn => runs_of (exec_thermalStepRise hg ht hn) (s.stepTo_spec (by omega)), exec_thermalStepRise_still,
    fun hg ht hn => runs_of (exec_thermalStepFall hg ht hn) (s.stepTo_spec (have : s.tsteps < 8 := Nat.mod_lt _ (by omega); by omega)), exec_thermalStepFall_still,
    fun hg => ⟨fun short hne => ?_, fun m => ⟨fun few => ?_, fun many => ?_⟩, exec_marginSample_none hg⟩, fun low short => exec_marginSample_off low short,
    fun hl hc => ?_, exec_coastReturn_still⟩
  · have shown : (s.showTj tj).judgeHeat s.tj = s.showTj tj := State.judgeHeat_shown (by omega)
    exact runs_of ((exec_temperatureRead tj hp hs).trans (congrArg _ shown)) ⟨s.tj_showTj tj, s.showTj_only tj⟩
  · have recorded := (s.showTj tj).noteCut_recorded s.tj
    rw [s.tj_showTj tj, if_pos ⟨new, cut⟩] at recorded
    obtain ⟨shown, count, -, stns, lpddr⟩ := recorded.shown
    exact runs_of ((exec_temperatureRead tj hp hs).trans (congrArg _ (State.judgeHeat_cut (.inl (by rw [s.tj_showTj]; exact lt))))) ⟨shown, count, stns, lpddr⟩
  · obtain ⟨shown, count, state, stns, lpddr⟩ := ((s.showTj tj).noteHeat_recorded s.tj).shown
    have noted : (s.showTj tj).judgeHeat s.tj = (s.showTj tj).noteHeat s.tj := by
      rw [State.judgeHeat_hot (by rw [s.tj_showTj]; exact hot) (.inl new), s.jobLoaded_showTj, job]
      rfl
    have records : (if s.tj < 115 ∧ 115 ≤ (s.showTj tj).tj then 1 else 0) + 1 = if s.tj < 115 then 2 else 1 := by
      rw [s.tj_showTj]
      split_ifs <;> omega
    refine runs_of ((exec_temperatureRead tj hp hs).trans (congrArg _ noted)) ⟨shown, ?_, state.trans hs, stns, lpddr⟩
    rw [count, records]
    split_ifs <;> rfl
  · have shown : (s.showTj tj).judgeHeat s.tj = s.showTj tj := State.judgeHeat_shown (.inr ⟨by omega, .inr ⟨old, job⟩⟩)
    exact runs_of ((exec_temperatureRead tj hp hs).trans (congrArg _ shown)) ⟨s.tj_showTj tj, s.showTj_only tj⟩
  · obtain ⟨shown, state, cause, ticks, nseq, halted, lpddr⟩ := ((s.showTj tj).noteHeat_recorded s.tj).halts
    have begins : (s.showTj tj).judgeHeat s.tj = ((s.showTj tj).noteHeat s.tj).beginHalt 2 := by
      rw [State.judgeHeat_hot (by rw [s.tj_showTj]; exact hot) (.inr ((s.jobLoaded_showTj tj).trans job)), s.jobLoaded_showTj, job]
      rfl
    exact runs_of ((exec_temperatureRead tj hp hs).trans (congrArg _ begins)) ⟨shown, state, cause, ticks, nseq, fun i => by rw [halted]; exact ⟨rfl, rfl, rfl⟩, lpddr⟩
  · have event := s.marginEvent_spec
    exact runs_of (exec_marginEvent hg hne) ⟨event.op, event.margin, event.last, event.raised, event.gaveUp, fun j _ => event.stns j, event.lpddr⟩
  · have counted : s.lowSample m = s.setLows m (s.lowsNow m) := if_neg (Nat.not_lt.mpr few)
    refine runs_of ((exec_lowSample m hg).trans (congrArg _ counted)) ⟨(s.lowsOf_setLows ..).trans (if_pos rfl), fun k hk => (s.lowsOf_setLows ..).trans (if_neg hk),
      fun _ _ => rfl, fun _ _ => rfl, rfl⟩
  · have raised : s.lowSample m = (s.setLows m []).addTrim := if_pos many
    have frame := (s.setLows m []).addTrim_frame
    refine runs_of ((exec_lowSample m hg).trans (congrArg _ raised)) ⟨?_, fun lt room => State.addTrim_spec (s := s.setLows m []) lt room, fun full => ?_,
      congrArg (fld · 0 3) frame.status, fun j _ => frame.stns j, frame.lpddr⟩
    · exact (congrArg (fun g : Gov => mget (fun _ => ([] : List Nat)) g.lows m) frame.gov).trans ((s.lowsOf_setLows ..).trans (if_pos rfl))
    · exact (congrArg State.trim (State.addTrim_full (s := s.setLows m []) full) :)
  · exact runs_of (exec_coastReturn hl hc) ⟨State.coasting_endCoast .., State.departuresHeld_endCoast hc, fun a ha => State.reg_endCoast _ _ _ (by simpa using ha),
      fun j _ => State.stn_endCoast .., (Governs.endCoast ..).lpddr⟩

end Sys2Proof
end

section
/-! PROOFS. A governor period in a state whose two reason counters lie outside the table of R376. `State.charge` addresses
the duration registers by the reason alone, so a reason of 241 lands on the demand register of phase 2. -/

namespace Sys2Proof.Machine

/-- A powered die held below its base point by reason 241, a number that R376 does not list: the register that is charged
for it, 0x30080 + 8 · 241, is the demand register of phase 2. -/
def sReason241 : State :=
  { State.reset with powered := true, die := { Die.reset with gov := { Gov.reset with top := 7, lowBy := 241 } } }

theorem sReason241_governed : sReason241.governed = true := by decide

theorem sReason241_demand : sReason241.reg (0x30800 + 4 * 2) = 0 := by decide

/-- No awake station is in phase 2: in this state each is in phase 0. -/
theorem sReason241_phase (i : Nat) : (sReason241.stn i).iss.phase.toNat ≠ 2 := by
  have fresh : sReason241.stn i = Station.reset := rfl
  rw [fresh]
  decide

/-- The period charges reason 241 four counts, and they stand in the demand register of phase 2. -/
theorem sReason241_charged :
    (match exec (.governorPeriod 0 0 0) sReason241 with
      | .next t => decide (t.reg (0x30800 + 4 * 2) = 4)
      | _ => false) = true := by
  decide +kernel

end Sys2Proof.Machine

namespace Sys2Proof
open Machine

/-- Refutes O43: with the reason 241, which no rule lists and the state admits, the charge of a period overwrites the demand register of a phase without stations. -/
theorem not_governorClosesPeriods : ¬ Obligations.GovernorClosesPeriods := by
  intro holds
  obtain ⟨period, -⟩ := (holds sReason241).1 sReason241_governed
  obtain ⟨t, run, -, -, -, -, -, demands, -⟩ := period 0 0 0
  have none_mine : sReason241.awakeStns.filter (fun i => decide ((sReason241.stn i).iss.phase.toNat = 2)) = [] :=
    List.filter_eq_nil_iff.mpr fun i _ => by simpa using sReason241_phase i
  have kept : t.reg (0x30800 + 4 * 2) = sReason241.reg (0x30800 + 4 * 2) := (demands 2 (by omega)).trans (if_pos none_mine)
  have charged := sReason241_charged
  rw [run] at charged
  have four : t.reg (0x30800 + 4 * 2) = 4 := of_decide_eq_true charged
  exact absurd (four.symm.trans (kept.trans sReason241_demand)) (by decide)

end Sys2Proof
end

section
/-! PROOFS. The supply over a bring-up (O48, first part): what STATE of TENDER_STATUS, the power, the spill image and a copy under way rest on, and that no register write of an accepted copy reaches them. -/
namespace Sys2Proof.Machine

/-- STATE of TENDER_STATUS, the power and the spill image hold what they held, and no copy has gone under way. -/
structure Standing (s t : State) : Prop where
  state : t.supState = s.supState
  powered : t.powered = s.powered
  spill : t.spill = s.spill
  snapOut : s.snapOut = none → t.snapOut = none

namespace Standing

theorem refl (s : State) : Standing s s := ⟨rfl, rfl, rfl, id⟩

theorem trans {s t u : State} (h : Standing s t) (k : Standing t u) : Standing s u :=
  ⟨k.state.trans h.state, k.powered.trans h.powered, k.spill.trans h.spill, fun e => k.snapOut (h.snapOut e)⟩

theorem foldl {β : Type} {f : State → β → State} (h : ∀ t b, Standing t (f t b)) (l : List β) (s : State) : Standing s (l.foldl f s) := by
  induction l generalizing s with
  | nil => exact refl s
  | cons b l ih => exact (h s b).trans (ih _)

theorem ite {s t u : State} {c : Prop} [Decidable c] (h : Standing s t) (k : Standing s u) : Standing s (if c then t else u) := by
  split
  · exact h
  · exact k

/-! ### Shared updates -/

/-- A change of the cartridge. -/
theorem cart (s : State) (c : Cartridge) : Standing s { s with cart := c } := ⟨rfl, rfl, rfl, id⟩

/-- A change of the mailbox. -/
theorem mbx (s : State) (m : Mailbox) : Standing s { s with mbx := m } := ⟨rfl, rfl, rfl, id⟩

/-- A change of the die, and of what is put out. -/
theorem die (s : State) (d : Die) (o : List Out) : Standing s { s with die := d, out := o } := ⟨rfl, rfl, rfl, id⟩

theorem setReg (s : State) {a : Nat} (v : Word) (h : a ≠ 0x40000) : Standing s (s.setReg a v) :=
  ⟨congrArg (fld · 0 2) ((State.reg_setReg ..).trans (if_neg h.symm)), State.powered_setReg .., State.spill_setReg .., fun e => (State.snapOut_setReg ..).trans e⟩

theorem setFld (s : State) {a : Nat} (lo len v : Nat) (h : a ≠ 0x40000) : Standing s (s.setFld a lo len v) := setReg s _ h

theorem bump (s : State) {a : Nat} (k : Nat) (h : a ≠ 0x40000) : Standing s (s.bump a k) := setReg s _ h

/-- A field of TENDER_STATUS above STATE. -/
theorem setTender (s : State) {lo : Nat} (len v : Nat) (h : 2 ≤ lo) : Standing s (s.setFld 0x40000 lo len v) :=
  ⟨State.fld_setFld s _ _ _ _ _ (by omega) (by omega), State.powered_setFld .., State.spill_setFld .., fun e => (State.snapOut_setFld ..).trans e⟩

theorem setTbit (s : State) {k : Nat} (b : Bool) (h : 2 ≤ k) : Standing s (s.setTbit k b) := setTender s 1 _ h

theorem setAuth (s : State) (n : Nat) : Standing s (s.setAuth n) := setTender s 2 n (by omega)

theorem signal (s : State) (v : Nat) : Standing s (s.signal v) := by
  obtain ⟨p, o, e⟩ := s.signal_eq v
  rw [e]
  exact die ..

theorem logFault (s : State) (code step unit : Nat) (d0 : Word) (d1 : BitVec 64) : Standing s (s.logFault code step unit d0 d1) :=
  ⟨congrArg (fld · 0 2) (State.reg_logFault _ _ _ _ _ _ _ (by omega) (by omega) (by omega)), State.powered_logFault .., State.spill_logFault ..,
    fun e => (State.snapOut_logFault ..).trans e⟩

theorem sends {s t : State} (h : Sends s t) : Standing s t := by
  obtain ⟨_, _, rfl⟩ := h
  exact die ..

theorem setStn (s : State) (i : Nat) (x : Station) : Standing s (s.setStn i x) := die s _ s.out

theorem setNet (s : State) (n : Net) : Standing s (s.setNet n) := die s _ s.out

theorem setGov (s : State) (g : Gov) : Standing s (s.setGov g) := die s _ s.out

theorem fresh (s : State) : Standing s s.fresh.2 := ⟨rfl, rfl, rfl, id⟩

theorem enter (s : State) (n : Nat) : Standing s (s.enter n) := by
  unfold State.enter
  exact .ite (setReg _ _ (by omega)) ((setReg _ _ (by omega)).trans (signal ..))

theorem endCoast (s : State) (back : Bool) : Standing s (s.endCoast back) := by
  unfold State.endCoast
  exact .ite ((setFld _ _ _ _ (by omega)).trans (die ..)) (refl s)

/-! ### Stations -/

theorem requestWake (s : State) (i : Nat) : Standing s (s.requestWake i) := .ite (die ..) (refl s)

theorem putCtrl (s : State) (i : Nat) (v : Word) : Standing s (s.putCtrl i v) := by
  have written : Standing s (s.setReg (pageBase i + 4) (v &&& 0x3)) := setReg _ _ (by unfold pageBase; omega)
  unfold State.putCtrl
  extract_lets s1 x s2
  have run : Standing s s2 := written.trans (.ite (.ite (setStn ..) (refl _)) (setStn ..))
  exact .ite (run.trans (requestWake ..)) run

theorem ctrlWrite (s : State) (i : Nat) (v : Word) : Standing s (s.ctrlWrite i v) := .ite ((putCtrl ..).trans (die ..)) (putCtrl ..)

theorem setRw (s : State) {a : Nat} (v mask : Word) (h : a ≠ 0x40000) : Standing s (s.setRw a v mask) := setReg s _ h

theorem stnWrite (s : State) (i o : Nat) (v : Word) : Standing s (s.stnWrite i o v) := by
  have window (k : Nat) : Standing s (s.windowWrite i k v) := .ite (setStn ..) (bump _ _ (by omega))
  unfold State.stnWrite
  exact .ite (ctrlWrite ..) (.ite (setStn ..) (.ite (setStn ..) (.ite (window _) (setRw _ _ _ (by unfold pageBase; omega)))))

/-! ### The governor -/

theorem setMeas (s : State) (i : Nat) (d : List Byte) : Standing s (s.setMeas i d) := ⟨rfl, rfl, rfl, id⟩

theorem commitFuse (s : State) (kind old new : Nat) (detail : List Byte) (f : Fuses → Fuses) : Standing s (s.commitFuse kind old new detail f).1 := by
  by_cases room : s.fuses.audit < 256
  · obtain ⟨flash, meas, made⟩ := State.commitFuse_made kind old new detail f room
    rw [made]
    exact ⟨rfl, rfl, rfl, id⟩
  · have full : s.commitFuse kind old new detail f = (s.exhausted kind 1, false) := if_pos (by omega)
    rw [full]
    exact logFault ..

theorem ceilingWrite (s : State) (v : Word) (detail : List Byte) : Standing s (s.ceilingWrite v detail) :=
  .ite (logFault ..) (.ite (logFault ..) (commitFuse ..))

theorem clearDurations (s : State) {n : Nat} (h : n ≤ 9) : Standing s (s.clearDurations n) := by
  induction n with
  | zero => exact refl s
  | succ n ih =>
    have cleared : s.clearDurations (n + 1) = ((s.clearDurations n).setReg (0x30088 + 8 * n) 0).setReg (0x3008C + 8 * n) 0 := by
      simp [State.clearDurations, List.range_succ]
    rw [cleared]
    exact ((ih (by omega)).trans (setReg _ _ (by omega))).trans (setReg _ _ (by omega))

theorem govWrite (s : State) {a : Nat} (v : Word) (h : a ≠ 0x40000) : Standing s (s.govWrite a v) := by
  have written (w : Word) : Standing s (s.setReg a w) := setReg s w h
  unfold State.govWrite
  dsimp only
  split
  case h_1 => exact .ite ((setReg s _ (by omega)).trans (clearDurations _ (Nat.le_refl 9))) (setReg s _ (by omega))
  case h_2 | h_3 => exact (setReg s _ (by omega)).trans (setGov ..)
  case h_4 | h_5 | h_6 => exact setReg s _ (by omega)
  case h_7 => exact ceilingWrite ..
  case h_8 =>
    split
    case h_1 | h_2 => exact refl s
    case h_3 => exact written _

/-! ### Memory and the queues -/

theorem wakeChannel (s : State) (l : Nat) : Standing s (s.wakeChannel l) := die ..

theorem corrected (s : State) (l : Nat) (ce : Bool) : Standing s (s.corrected l ce) := .ite (bump _ _ (by omega)) (refl s)

theorem readUe (s : State) (l : Nat) : Standing s (s.readUe l) := by
  unfold State.readUe
  extract_lets c s1 s2
  have counted : Standing s s2 := Standing.trans (t := s1) ⟨rfl, rfl, rfl, id⟩ (bump _ _ (by omega))
  exact .ite (counted.trans (logFault ..)) (counted.trans (logFault ..))

theorem readLine (s : State) (l : Nat) (ce : Bool) : Standing s (s.readLine l ce false) := by
  unfold State.readLine
  dsimp only
  rw [if_neg Bool.false_ne_true]
  exact (wakeChannel s l).trans (.ite (readUe ..) (corrected ..))

theorem putLine (s : State) (l : Nat) (bs : List Byte) : Standing s (s.putLine l bs) := ⟨rfl, rfl, rfl, id⟩

theorem poll (s : State) (q : Nat) : Standing s (s.poll q) := (readLine s _ false).trans (die ..)

theorem qClear (s : State) (q : Nat) : Standing s (s.qClear q) :=
  (setReg s _ (by unfold qBase; omega)).trans (setReg _ _ (by unfold qBase; omega))

theorem qCtrl (s : State) (q : Nat) (v : Word) : Standing s (s.qCtrl q v) := by
  unfold State.qCtrl
  extract_lets a was s1 dir en s2
  have cleared : Standing s s1 := .ite (qClear ..) (refl s)
  have set : Standing s s2 := cleared.trans (setReg _ _ (by simp only [a, qBase]; omega))
  exact .ite (set.trans (.ite ((poll ..).trans (readLine ..)) ((putLine ..).trans (putLine ..)))) set

/-! ### Line clears and the ladder -/

theorem sessMove (s : State) (i st b : Nat) : Standing s (s.sessMove i st b) :=
  (setFld s _ _ _ (by unfold sessAddr; omega)).trans (setFld _ _ _ _ (by unfold sessAddr; omega))

theorem unberth (s : State) : Standing s s.unberth := by
  refine foldl (fun t p => ?_) _ s
  split
  · exact (sessMove ..).trans (die ..)
  · exact refl t

theorem clearStations (s : State) : Standing s s.clearStations := foldl (fun _ _ => setStn ..) _ s

theorem clearTickets (s : State) : Standing s s.clearTickets :=
  foldl (fun t c => (setReg t _ (by omega)).trans (setReg _ _ (by omega))) _ s

theorem clearQueues (s : State) : Standing s s.clearQueues := foldl (fun t _ => die t _ t.out) _ s

theorem drained (s : State) : Standing s s.drained := ⟨rfl, rfl, rfl, fun _ => rfl⟩

theorem lineClear (s : State) (lce : Nat) : Standing s (s.lineClear lce) := by
  have cleared : Standing s s.clearUnits := (((clearStations s).trans (clearTickets _)).trans (clearQueues _)).trans (unberth _)
  rw [State.lineClear_eq]
  exact (((cleared.trans (drained _)).trans (setReg _ _ (by omega))).trans (setReg _ _ (by omega))).trans (endCoast ..)

theorem beginRoll (s : State) (w : FaultInfo) (unit : Nat) : Standing s (s.beginRoll w unit) :=
  ((setNet s _).trans (setFld _ _ _ _ (by omega))).trans (setFld _ _ _ _ (by omega))

theorem actClear (s : State) (lce : Nat) (w : FaultInfo) (unit : Nat) : Standing s (s.actClear lce w unit) :=
  (lineClear s lce).trans (.ite (beginRoll ..) ((setFld _ _ _ _ (by omega)).trans (setFld _ _ _ _ (by omega))))

theorem startClear (s : State) (w : FaultInfo) (unit : Nat) : Standing s (s.startClear w unit) :=
  (sends (Sends.flood ..)).trans (actClear ..)

theorem takeStep5 (s : State) (w : FaultInfo) (unit : Nat) : Standing s (s.takeStep5 w unit) :=
  (((bump s _ (by omega)).trans (logFault ..)).trans (setNet ..)).trans (startClear ..)

theorem retire (s : State) (w : FaultInfo) (unit : Nat) : Standing s (s.retire w unit) :=
  .ite (refl s) ((((setFld s _ _ _ (by omega)).trans (bump _ _ (by omega))).trans (logFault ..)).trans (takeStep5 ..))

theorem step5 (s : State) (w : FaultInfo) (unit : Nat) (own : Bool) : Standing s (s.step5 w unit own) := by
  have noted : Standing s { s with ownSteps := s.ownSteps ++ [s.uptime] } := ⟨rfl, rfl, rfl, id⟩
  exact .ite (.ite (noted.trans (retire ..)) (noted.trans (takeStep5 ..))) (takeStep5 ..)

/-! ### Ports -/

theorem setPort (s : State) (p : Nat) (q : Port) : Standing s (s.setPort p q) := die s _ s.out

theorem setPortState (s : State) (p st : Nat) : Standing s (s.setPortState p st) := by
  have set : Standing s (s.setFld (portBase p) 0 2 st) := setFld _ _ _ _ (by unfold portBase; omega)
  exact .ite set (set.trans (signal ..))

theorem abortFlight (s : State) (w : FaultInfo) (k : Nat × Nat) : Standing s (s.abortFlight w k) := by
  unfold State.abortFlight
  split
  · exact setStn ..
  · exact refl s

theorem loseDirection (s : State) (d : Nat) : Standing s (s.loseDirection d) := by
  unfold State.loseDirection
  extract_lets ws owners w s1 s2 stay s3 v
  have emptied : Standing s s1 := foldl (fun t p => setPort ..) _ s
  have aborted : Standing s1 s2 := (logFault ..).trans (foldl (fun t k => abortFlight t w k) _ _)
  have routed : Standing s2 s3 := foldl (fun t k => sends (Sends.routeWaiting ..)) _ _
  have same := emptied.trans (aborted.trans routed)
  exact .ite (same.trans ((logFault ..).trans (step5 ..))) same

theorem failOver (s : State) (p : Nat) : Standing s (s.failOver p) := by
  unfold State.failOver
  extract_lets a s1
  have emptied : Standing s s1 := (setPort ..).trans (setFld _ _ _ _ (by unfold portBase; omega))
  exact .ite (emptied.trans (foldl (fun t w => sends (Sends.toPort ..)) _ _)) (.ite (loseDirection ..) (refl s))

theorem settleLinks (s : State) : Standing s s.settleLinks := .ite (enter ..) (refl s)

theorem trainPort (s : State) (p : Nat) : Standing s (s.trainPort p) :=
  .ite ((((setPort ..).trans (setFld _ _ _ _ (by unfold portBase; omega))).trans (setFld _ _ _ _ (by unfold portBase; omega))).trans (setPortState ..)) (refl s)

theorem linkCtrlWrite (s : State) (p : Nat) (v : Word) : Standing s (s.linkCtrlWrite p v) := by
  unfold State.linkCtrlWrite
  extract_lets was s1 s2
  have written : Standing s s1 := setReg _ _ (by unfold portBase; omega)
  have down : Standing s1 (((s1.setFld (portBase p) 2 4 0).setPortState p 0).failOver p).settleLinks :=
    (((setFld _ _ _ _ (by unfold portBase; omega)).trans (setPortState ..)).trans (failOver ..)).trans (settleLinks _)
  have enabled : Standing s s2 := written.trans (.ite down (.ite (trainPort ..) (refl _)))
  exact .ite (enabled.trans (trainPort ..)) enabled

/-! ### Every register write -/

theorem mbxWrite (s : State) (v : Word) : Standing s (s.mbxWrite v) := by
  have started (w : Word) (m : Mailbox) : Standing s { s.setReg 0x10018 w with mbx := m } := (setReg s w (by omega)).trans (mbx _ m)
  unfold State.mbxWrite State.mbxPost
  exact .ite (refl s) (.ite ((started _ _).trans (signal ..)) (started _ _))

theorem setGolden (s : State) (b : Bool) : Standing s (s.setGolden b) := by
  have set := setReg s (a := 0x1001C) (if b then 1 else 0) (by omega)
  exact .ite set (set.trans (signal ..))

theorem paths (s : State) : Standing s s.paths := by
  unfold State.paths
  exact ((cart s _).trans (setTbit _ _ (by omega))).trans (setTbit _ _ (by omega))

theorem tellTender {s t u : State} (h : Standing s u) : Standing s (State.tellTender t u) := .ite h (h.trans (signal ..))

theorem tenderCtrl (s : State) (v : Word) : Standing s (s.tenderCtrl v) := by
  unfold State.tenderCtrl
  extract_lets s1 _ _ s2 _ _ s3
  have written : Standing s s1 := setReg _ _ (by omega)
  have calibrated : Standing s1 s2 := .ite ((setTbit s1 true (by omega)).trans (cart ..)) (refl s1)
  have asked : Standing s2 s3 := .ite ((setAuth s2 1).trans (cart ..)) (refl s2)
  exact tellTender (((written.trans calibrated).trans asked).trans (paths _))

theorem faultCtrl (s : State) (v : Word) : Standing s (s.faultCtrl v) := by
  have written := setReg s (a := 0x60004) (v &&& 3) (by omega)
  exact .ite (written.trans (beginRoll ..)) written

theorem clearWrite (s : State) (v : Word) : Standing s (s.clearWrite v) := .ite (startClear ..) (refl s)

theorem memConfigWrite (s : State) {a : Nat} (v : Word) (h : a ≠ 0x40000) : Standing s (s.memConfigWrite a v) :=
  .ite (refl s) (.ite (logFault ..) ((setReg _ _ h).trans (die ..)))

theorem rwoWrite (s : State) {a : Nat} (v : Word) (h : a ≠ 0x40000) : Standing s (s.rwoWrite a v) := by
  unfold State.rwoWrite
  extract_lets t u
  have written : Standing s t := setRw _ _ _ h
  have followed : Standing t u := .ite (setFld _ _ _ _ (by omega)) (refl t)
  exact .ite (refl s) ((written.trans followed).trans (die ..))

theorem xqWrite (s : State) {a : Nat} (v : Word) (h : a ≠ 0x40000) : Standing s (s.xqWrite a v) :=
  (setReg s _ h).trans (.ite (die ..) (refl _))

theorem tktValWrite (s : State) (c : Nat) (v : Word) : Standing s (s.tktValWrite c v) :=
  (setReg s _ (by omega)).trans (setReg _ _ (by omega))

theorem sessionCmd (s : State) (v : Word) : Standing s (s.sessionCmd v) :=
  .ite (die ..) ((bump s _ (by omega)).trans (signal ..))

/-- TENDER_STATUS has no field that a register write sets. -/
theorem setRw_tenderStatus (s : State) (v : Word) : Standing s (s.setRw 0x40000 v ((rwMask 0x40000).getD 0)) := by
  have same : ((v &&& ((rwMask 0x40000).getD 0)) ||| (s.reg 0x40000 &&& ~~~((rwMask 0x40000).getD 0))) = s.reg 0x40000 := by
    have mask : (rwMask 0x40000).getD 0 = 0#32 := by decide
    rw [mask, BitVec.and_zero, BitVec.zero_or]
    exact BitVec.and_allOnes
  refine ⟨?_, State.powered_setReg .., State.spill_setReg .., fun e => (State.snapOut_setReg ..).trans e⟩
  unfold State.setRw
  rw [same]
  exact congrArg (fld · 0 2) ((State.reg_setReg ..).trans (if_pos rfl))

/-- No register write reaches the supply: each branch by its own lemma. -/
theorem regWrite (s : State) (a : Nat) (v : Word) : Standing s (s.regWrite a v) := by
  by_cases h : a = 0x40000
  · subst h
    exact setRw_tenderStatus s v
  have word (w : Word) := setReg s w h
  have golden : Standing s (s.goldenWrite v) := .ite (setGolden ..) (refl s)
  have faultRd : Standing s (s.faultRd v) := setReg _ _ (by omega)
  exact .ite (stnWrite ..) (.ite (mbxWrite ..) (.ite golden (.ite (govWrite _ _ h) (.ite (tenderCtrl ..) (.ite (word _) (.ite (qCtrl ..)
    (.ite (faultCtrl ..) (.ite (word _) (.ite faultRd (.ite (linkCtrlWrite ..) (.ite (clearWrite ..) (.ite (memConfigWrite _ _ h)
    (.ite (rwoWrite _ _ h) (.ite (xqWrite _ _ h) (.ite (tktValWrite ..) (.ite (sessionCmd ..) (word _)))))))))))))))))

end Standing

end Sys2Proof.Machine
end

section
/-! PROOFS. The supply over a bring-up (O48, second part): the sequence from the rails on, of which each stage leaves the supply, the power and the spill image. -/
namespace Sys2Proof.Machine

namespace Standing

/-! ### Logs and measurements -/

theorem setBoot (s : State) (i : Nat) (b : Bool) : Standing s (s.setBoot i b) := setReg _ _ (by omega)

theorem scanHalts (s : State) : Standing s s.scanHalts := by
  unfold State.scanHalts
  split
  · exact refl s
  · extract_lets hs s1
    have closed : Standing s s1 := ⟨rfl, rfl, rfl, id⟩
    exact (closed.trans (setBoot ..)).trans ((bump _ _ (by omega)).trans (logFault ..))

theorem settleAudit (s : State) : Standing s s.settleAudit := .ite (.ite ⟨rfl, rfl, rfl, id⟩ ⟨rfl, rfl, rfl, id⟩) (refl s)

theorem reconcile (s : State) : Standing s s.reconcile := by
  unfold State.reconcile
  dsimp only
  split
  · exact (settleAudit s).trans (setBoot ..)
  · exact (settleAudit s).trans ((setBoot ..).trans (logFault ..))

theorem loadAge (s : State) : Standing s s.loadAge := by
  unfold State.loadAge
  dsimp only
  split
  · exact refl s
  · exact setReg _ _ (by omega)

theorem measFlags (s : State) : Standing s s.measFlags := setMeas ..

theorem measureBase (s : State) : Standing s s.measureBase :=
  (((setMeas s 0 _).trans (setMeas _ 4 _)).trans (setMeas _ 5 _)).trans (measFlags _)

/-! ### Channels and copies -/

theorem slowChannel (s : State) (h : Nat) : Standing s (s.slowChannel h) := (setFld _ _ _ _ (by omega)).trans (logFault ..)

theorem loseChannel (s : State) (h : Nat) : Standing s (s.loseChannel h) := logFault ..

theorem trainChannels (s : State) (e : BootEnv) : Standing s (s.trainChannels e) := by
  refine foldl (fun t h => ?_) _ s
  have trained : Standing t (t.setFld (0x100000 + 0x1000 * (h / 4)) (h % 4) 1 1) := setFld _ _ _ _ (by omega)
  exact .ite (loseChannel ..) (.ite (trained.trans (slowChannel ..)) trained)

theorem readSnapGen (s : State) (old : Word) (n : Nat) : Standing s (s.readSnapGen old n) :=
  .ite ((fresh s).trans (setReg _ _ (by omega))) (setReg _ _ (by omega))

theorem logCopy (s : State) (slot reason : Nat) : Standing s (s.logCopy slot reason) := .ite (refl s) (logFault ..)

theorem plan (s : State) (p : Plan) (image : List Byte) : Standing s { s with plan := p, image := image } := ⟨rfl, rfl, rfl, id⟩

theorem selectCopy (s : State) (slot : Nat) : Standing s (s.selectCopy slot) := by
  unfold State.selectCopy
  extract_lets n s1 s2 s3 s4
  have fields : Standing s s2 := ((((setFld s _ _ _ (by omega)).trans (setReg _ _ (by omega))).trans (setReg _ _ (by omega)))).trans (setFld _ _ _ _ (by omega))
  have planned : Standing s2 s3 := plan ..
  have measured : Standing s3 s4 := ((setMeas s3 1 _).trans (setMeas _ 2 _)).trans (setMeas _ 3 _)
  have same := (fields.trans planned).trans measured
  exact .ite (same.trans (setAuth ..)) same

theorem refresh (s : State) : Standing s s.refresh := (setReg _ _ (by omega)).trans (setReg _ _ (by omega))

theorem selectNone (s : State) : Standing s s.selectNone := by
  unfold State.selectNone
  extract_lets _ s1 s2
  have planned : Standing s s1 := (setFld s _ _ _ (by omega)).trans (plan ..)
  have fields : Standing s1 s2 := ((setReg s1 _ (by omega)).trans (setReg _ _ (by omega))).trans (setFld _ _ _ _ (by omega))
  exact ((planned.trans fields).trans ((setAuth s2 0).trans (setMeas ..))).trans ((paths _).trans (refresh _))

theorem examine (s : State) (e : BootEnv) : Standing s (s.examine e) := by
  unfold State.examine
  extract_lets ra rb s1
  have logged : Standing s s1 := ((logCopy s 0 ra).trans (logCopy _ 1 rb)).trans (setReg _ _ (by omega))
  split
  · exact logged.trans (selectNone _)
  · exact logged.trans (selectCopy ..)

/-! ### The inputs -/

theorem alertOn (s : State) : Standing s s.alertOn := by
  unfold State.alertOn
  extract_lets s1 s2
  have emptied : Standing s s1 := foldl (fun _ _ => setStn ..) _ s
  have shown : Standing s1 s2 := ((setFld s1 _ _ _ (by omega)).trans (setFld _ _ _ _ (by omega))).trans (endCoast ..)
  exact ((emptied.trans shown).trans (setGov ..)).trans (signal ..)

theorem logRegs (s : State) (code : Nat) (words : List (Fin 7 × BitVec 16)) : Standing s (s.logRegs code words) :=
  foldl (fun _ _ => logFault ..) _ s

theorem judgeInputs (s : State) : Standing s s.judgeInputs :=
  .ite (.ite ((alertOn s).trans (logRegs ..)) (alertOn s)) (.ite (setGov ..) (refl s))

/-! ### The accepted copy -/

theorem putTorus (s : State) {a : Nat} (v : Word) (h : a ≠ 0x40000) : Standing s (s.putTorus a v) := (setReg s v h).trans (die ..)

theorem applyTorus (s : State) : Standing s s.applyTorus := by
  unfold State.applyTorus
  extract_lets p s1 s2
  have placed : Standing s s1 := ((putTorus s _ (by omega)).trans (putTorus _ _ (by omega))).trans (putTorus _ _ (by omega))
  have identified : Standing s1 s2 := setFld _ _ _ _ (by omega)
  exact .ite ((placed.trans identified).trans ((putTorus _ _ (by omega)).trans (putTorus _ _ (by omega)))) (refl s)

theorem putRecords (s : State) (rs : List (Nat × Word)) : Standing s (s.putRecords rs) := foldl (fun _ _ => regWrite ..) _ s

theorem applyEcc (s : State) : Standing s s.applyEcc :=
  foldl (fun _ _ => (memConfigWrite _ _ (by omega)).trans (memConfigWrite _ _ (by omega))) _ s

theorem applyPhases (s : State) : Standing s s.applyPhases := by
  refine foldl (fun t p => ?_) _ s
  split
  · exact govWrite _ _ (by split <;> omega)
  · exact refl t

theorem applyCopy (s : State) : Standing s s.applyCopy := by
  unfold State.applyCopy
  extract_lets s1 s2 colls s3
  have configured : Standing s s2 := ((applyTorus s).trans (putRecords ..)).trans (applyEcc _)
  exact ((configured.trans (die s2 _ s2.out)).trans (putRecords ..)).trans (applyPhases _)

theorem applyFuses (s : State) (slot : Nat) : Standing s (s.applyFuses slot) := by
  unfold State.applyFuses
  extract_lets h v s1 s2 s3
  have version : Standing s s1 := .ite (commitFuse ..) (refl s)
  have key : Standing s1 s2 := .ite (commitFuse ..) (refl s1)
  have solo : Standing s2 s3 := .ite (commitFuse ..) (refl s2)
  have same := (version.trans key).trans solo
  split
  · exact .ite (same.trans (ceilingWrite ..)) same
  · exact same

theorem startLinks (s : State) (slot : Nat) : Standing s (s.startLinks slot) :=
  .ite ((setBoot ..).trans (enter ..)) (((enter s 4).trans (foldl (fun _ _ => trainPort ..) _ _)).trans (settleLinks _))

theorem afterTest (s : State) (e : BootEnv) (slot : Nat) : Standing s (s.afterTest e slot) := by
  unfold State.afterTest
  split
  · exact (logFault ..).trans (enter ..)
  · exact ((applyCopy s).trans (applyFuses ..)).trans (startLinks ..)

end Standing

/-- The die with its supplies on. -/
def State.withPower (s : State) : State := { s with powered := true }

theorem State.withPower_spec (s : State) :
    s.withPower.supState = s.supState ∧ s.withPower.powered = true ∧ s.withPower.spill = s.spill ∧ s.withPower.snapOut = s.snapOut := ⟨rfl, rfl, rfl, rfl⟩

/-- The supplies on once the logs are read. -/
def State.railed (s : State) : State := s.scanHalts.reconcile.withPower

theorem State.railed_spec (s : State) :
    s.railed.supState = s.supState ∧ s.railed.powered = true ∧ s.railed.spill = s.spill ∧ (s.snapOut = none → s.railed.snapOut = none) := by
  obtain ⟨state, -, spill, snapOut⟩ := (Standing.scanHalts s).trans (.reconcile _)
  obtain ⟨onState, onPowered, onSpill, onSnap⟩ := s.scanHalts.reconcile.withPower_spec
  exact ⟨onState.trans state, onPowered, onSpill.trans spill, fun none => onSnap.trans (snapOut none)⟩

theorem Standing.fromRails (s : State) (e : BootEnv) (gen : Word) (n : Nat) : Standing s.railed (s.fromRails e gen n) := by
  have examined : Standing s.railed ((((s.railed.loadAge.measureBase).trainChannels e).readSnapGen gen n).examine e) :=
    ((((Standing.loadAge _).trans (.measureBase _)).trans (.trainChannels ..)).trans (.readSnapGen ..)).trans (.examine ..)
  unfold State.fromRails
  extract_lets _ s1 s2 bad _ _ s3 s4 s5
  have jobless : Standing s2 s3 := ⟨rfl, rfl, rfl, id⟩
  have link : Standing s3 s4 := .ite (.refl s3) (.setReg _ _ (by omega))
  have judged : Standing s.railed s5 := (((show Standing s.railed s2 from examined).trans jobless).trans link).trans (.judgeInputs s4)
  refine .ite (judged.trans (.enter ..)) ?_
  split
  · exact judged.trans (.enter ..)
  · exact (judged.trans (.enter ..)).trans (.afterTest ..)

/-- A bring-up from the rails on powers the die, and leaves the supply state and the spill image (R402, R403). -/
theorem State.fromRails_spec (s : State) (e : BootEnv) (gen : Word) (n : Nat) :
    let t := s.fromRails e gen n
    t.supState = s.supState ∧ t.powered = true ∧ t.spill = s.spill ∧ (s.snapOut = none → t.snapOut = none) := by
  obtain ⟨state, powered, spill, snapOut⟩ := s.railed_spec
  have after := Standing.fromRails s e gen n
  exact ⟨after.state.trans state, after.powered.trans powered, after.spill.trans spill, fun none => after.snapOut (snapOut none)⟩

end Sys2Proof.Machine
end

section
/-! PROOFS. The ways out of HOLD, the thermal trip and the loss of the always-on domain (O48). -/
namespace Sys2Proof.Machine

/-! ### The supply state -/

theorem State.supState_setSup (s : State) {n : Nat} (h : n < 4) : (s.setSup n).supState = n := by
  unfold State.supState State.setSup State.setFld
  rw [State.reg_setReg, if_pos rfl, fld_putFld_same _ _ _ _ (by omega)]
  exact Nat.mod_eq_of_lt h

/-- The halt in hold as it stands when its end is judged: what the input's bit of TENDER_STATUS leaves of it. -/
structure SameHold (s u : State) : Prop where
  state : u.supState = s.supState
  spill : u.spill = s.spill
  seq : u.hseq = s.hseq
  region : u.region = s.region
  poison : u.poison = s.poison
  sup : u.sup = s.sup
  lpddr : u.lpddr = s.lpddr
  fuses : u.fuses = s.fuses
  changes : OnlyChanges s u [0x40000] []

theorem SameHold.refl (s : State) : SameHold s s := ⟨rfl, rfl, rfl, rfl, rfl, rfl, rfl, rfl, fun _ _ => rfl, fun _ _ => rfl, rfl⟩

/-- The regions of memory do not rest on TENDER_STATUS. -/
theorem State.region_setTbit (s : State) (k : Nat) (b : Bool) : (s.setTbit k b).region = s.region := by
  have other {a : Nat} (h : a ≠ 0x40000) : (s.setTbit k b).reg a = s.reg a := (State.reg_setReg ..).trans (if_neg h)
  have cap : (s.setTbit k b).capMib = s.capMib := congrArg (if · then 491520 else 327680) (State.l480_setReg ..)
  have snap : (s.setTbit k b).snapN = s.snapN := congrArg (fun w => min (fld w 0 7) 64) (other (by omega))
  have ecc : (List.range 4).map (fun n => fld ((s.setTbit k b).reg (0x100814 + 8 * n)) 0 10) = (List.range 4).map (fun n => fld (s.reg (0x100814 + 8 * n)) 0 10) :=
    List.map_congr_left fun n _ => congrArg (fld · 0 10) (other (by omega))
  have top : (s.setTbit k b).userTop = s.userTop := by
    unfold State.userTop
    rw [cap, snap, ecc]
  funext a
  unfold State.region
  rw [cap, snap, top]

/-- The input's bit of TENDER_STATUS cleared (R382). -/
theorem SameHold.setTbit (s : State) : SameHold s (s.setTbit 10 false) where
  state := (Standing.setTbit s false (by omega)).state
  spill := State.spill_setReg ..
  seq := congrArg BitVec.toNat ((State.reg_setReg ..).trans (if_neg (by omega)))
  region := State.region_setTbit ..
  poison := State.poison_setReg ..
  sup := State.sup_setReg ..
  lpddr := State.lpddr_setReg ..
  fuses := State.fuses_setReg ..
  changes := OnlyChanges.setReg ..

/-! ### The end of a hold (R389, R393) -/

/-- The image that the halt left can be restored: valid, of M3's NSEQ, and readable (R389). -/
def State.restores (s : State) (p : Spill) (e : BootEnv) : Prop :=
  p.valid = true ∧ p.nseq = s.hseq ∧ e.spillUe = none ∧ ∀ l ∈ s.poison, s.region (l * 64) ≠ .spill

/-- A line of the spill region that no read corrects. -/
def State.spillPoison (s : State) : Option Nat := s.poison.find? (fun l => match s.region (l * 64) with | .spill => true | _ => false)

theorem State.spillPoison_eq_none (s : State) : s.spillPoison = none ↔ ∀ l ∈ s.poison, s.region (l * 64) ≠ .spill := by
  unfold State.spillPoison
  rw [List.find?_eq_none]
  refine forall₂_congr fun l _ => ?_
  cases s.region (l * 64) <;> simp

theorem State.startResume_eq {s : State} {p : Spill} (e : BootEnv) (image : s.spill = some p) :
    s.startResume e =
      if !p.valid || decide (p.nseq ≠ s.hseq) then s.spillLost p (s.spillStart / 64) e
      else match e.spillUe <|> s.spillPoison with
        | some l => s.spillLost p l e
        | none => { s.setSup 3 with powered := true, sup := { (s.setSup 3).sup with ticks := 0 } } := by
  unfold State.startResume
  rw [image]
  rfl

/-- The resume begins with a good image (R393). -/
theorem State.startResume_good {s : State} {p : Spill} {e : BootEnv} (image : s.spill = some p) (good : s.restores p e) :
    s.startResume e = { s.setSup 3 with powered := true, sup := { (s.setSup 3).sup with ticks := 0 } } := by
  obtain ⟨valid, seq, readable, clean⟩ := good
  rw [State.startResume_eq e image, if_neg (by simp [valid, seq]), readable, s.spillPoison_eq_none.mpr clean]
  rfl

/-- A bad image is the loss of state (R389, R394). -/
theorem State.startResume_bad {s : State} {p : Spill} {e : BootEnv} (image : s.spill = some p) (bad : ¬ s.restores p e) :
    ∃ line, s.startResume e = s.spillLost p line e := by
  rw [State.startResume_eq e image]
  split
  · exact ⟨_, rfl⟩
  · rename_i here
    split
    · exact ⟨_, rfl⟩
    · rename_i unread
      obtain ⟨readable, clean⟩ : e.spillUe = none ∧ s.spillPoison = none := by simpa using unread
      obtain ⟨valid, seq⟩ : p.valid = true ∧ p.nseq = s.hseq := by simpa using here
      exact absurd ⟨valid, seq, readable, s.spillPoison_eq_none.mp clean⟩ bad

/-- The module after an image was found bad, before its bring-up: no halt, no image and no copy under way. -/
def State.imageLost (s : State) (line : Nat) : State :=
  let s1 := { s.restartBoot with spill := none, snapOut := none, sup := { s.sup with ticks := 0, cause := 0 } }
  { (((s1.setSup 0).emit (.haltOut false)).logFault 0x0205 0 0x300 0 (BitVec.ofNat 64 line)).logLoss 4 with die := Die.reset }

theorem State.imageLost_spec (s : State) (line : Nat) :
    (s.imageLost line).supState = 0 ∧ (s.imageLost line).spill = none ∧ (s.imageLost line).snapOut = none := by
  unfold State.imageLost
  extract_lets _ _ s1
  have off : (s1.setSup 0).supState = 0 := s1.supState_setSup (by omega)
  obtain ⟨state, -, spill, snapOut⟩ := Standing.logFault ((s1.setSup 0).emit (.haltOut false)) 0x0205 0 0x300 0 (BitVec.ofNat 64 line)
  exact ⟨state.trans off, spill, snapOut rfl⟩

/-- The state is lost and the module comes up anew (R389, R394). -/
theorem State.spillLost_spec (s : State) (p : Spill) (line : Nat) (e : BootEnv) :
    let t := s.spillLost p line e
    t.supState = 0 ∧ t.powered = true ∧ t.spill = none ∧ t.snapOut = none := by
  obtain ⟨off, dropped, idle⟩ := s.imageLost_spec line
  obtain ⟨state, powered, spill, snapOut⟩ := (s.imageLost line).fromRails_spec e (mget regReset p.die.reg 0x80824) (min (fld (mget regReset p.die.reg 0x100804) 0 7) 64)
  exact ⟨state.trans off, powered, spill.trans dropped, snapOut idle⟩

/-! ### What ends a hold -/

/-- The return of the input, or the temperature after a thermal halt, judges the image (R369, R387, R389). -/
theorem exec_holdEnds {s : State} {e : BootEnv} {c : Instr} (hold : s.supState = 2)
    (ends : (c = .inputQualified e ∧ s.sup.cause < 2) ∨ (c = .thermalResume e ∧ s.sup.cause = 2)) :
    ∃ u, SameHold s u ∧ exec c s = .next (u.startResume e) := by
  obtain ⟨rfl, cause⟩ | ⟨rfl, cause⟩ := ends
  · have same := SameHold.setTbit s
    have input : (s.setTbit 10 false).sup.cause < 2 := by rwa [same.sup]
    refine ⟨_, same, (if_pos (same.state.trans hold)).trans ?_⟩
    rw [if_neg (by omega), if_neg (by omega)]
  · exact ⟨s, .refl s, if_pos (by simp [hold, cause])⟩

theorem SameHold.restores_iff {s u : State} (h : SameHold s u) (p : Spill) (e : BootEnv) : u.restores p e ↔ s.restores p e := by
  unfold State.restores
  rw [h.seq, h.region, h.poison]

theorem runs_resume {s u : State} {e : BootEnv} {c : Instr} {p : Spill} (same : SameHold s u) (run : exec c s = .next (u.startResume e))
    (image : s.spill = some p) (good : s.restores p e) :
    Runs c s (fun t => t.supState = 3 ∧ t.powered = true ∧ t.sup.ticks = 0 ∧ t.spill = some p ∧ t.lpddr = s.lpddr ∧ t.fuses = s.fuses) := by
  rw [State.startResume_good (same.spill.trans image) ((same.restores_iff p e).mpr good)] at run
  exact runs_of run ⟨u.supState_setSup (n := 3) (by omega), rfl, rfl, (State.spill_setFld ..).trans (same.spill.trans image),
    (State.lpddr_setFld ..).trans same.lpddr, (State.fuses_setFld ..).trans same.fuses⟩

theorem runs_imageLost {s u : State} {e : BootEnv} {c : Instr} {p : Spill} (same : SameHold s u) (run : exec c s = .next (u.startResume e))
    (image : s.spill = some p) (bad : ¬ s.restores p e) :
    Runs c s (fun t => t.supState = 0 ∧ t.powered = true ∧ t.spill = none ∧ t.snapOut = none) := by
  obtain ⟨line, lost⟩ := State.startResume_bad (same.spill.trans image) (mt (same.restores_iff p e).mp bad)
  rw [lost] at run
  exact runs_of run (u.spillLost_spec p line e)

/-! ### The input and the temperature of a thermal halt -/

/-- The temperature is back before the input: the halt now waits for the input as one for brownout does (R387). -/
theorem runs_thermalResume_waits {s : State} (e : BootEnv) (hold : s.supState = 2) (both : s.sup.cause = 3) :
    Runs (.thermalResume e) s (fun t => t.supState = 2 ∧ t.sup.cause = 0 ∧ OnlyChanges { s with sup := t.sup } t [] []) := by
  have run : exec (.thermalResume e) s = .next { s with sup := { s.sup with cause := 0 } } :=
    (if_neg (by simp [both])).trans (if_pos (by simp [hold, both]))
  exact runs_of run ⟨hold, rfl, fun _ _ => rfl, fun _ _ => rfl, rfl⟩

/-- The input is back before the temperature: the halt now waits for the temperature alone (R387). -/
theorem runs_inputQualified_both {s : State} (e : BootEnv) (hold : s.supState = 2) (both : s.sup.cause = 3) :
    Runs (.inputQualified e) s (fun t => t.supState = 2 ∧ t.sup.cause = 2 ∧ OnlyChanges { s with sup := t.sup } t [0x40000] []) := by
  have same := SameHold.setTbit s
  obtain ⟨regs, stns, core⟩ := same.changes
  have waits : (s.setTbit 10 false).sup.cause = 3 := by rwa [same.sup]
  have run : exec (.inputQualified e) s = .next { s.setTbit 10 false with sup := { (s.setTbit 10 false).sup with cause := 2 } } :=
    (if_pos (same.state.trans hold)).trans (if_pos waits)
  exact runs_of run ⟨same.state.trans hold, rfl, regs, stns, congrArg (fun u : State => { u with sup := { (s.setTbit 10 false).sup with cause := 2 } }) core⟩

theorem runs_inputQualified_thermal {s : State} (e : BootEnv) (hold : s.supState = 2) (thermal : s.sup.cause = 2) :
    Runs (.inputQualified e) s (fun t => t.supState = 2 ∧ OnlyChanges s t [0x40000] []) := by
  have same := SameHold.setTbit s
  have waits : (s.setTbit 10 false).sup.cause = 2 := by rwa [same.sup]
  refine runs_of ((if_pos (same.state.trans hold)).trans ?_) ⟨same.state.trans hold, same.changes⟩
  rw [if_neg (by omega), if_pos waits]

theorem exec_thermalResume_still {s : State} (e : BootEnv) (h : s.supState = 2 → s.sup.cause < 2) : exec (.thermalResume e) s = .next s := by
  refine (if_neg fun ends => ?_).trans (if_neg fun ends => ?_)
  all_goals
    obtain ⟨hold, cause⟩ : s.supState = 2 ∧ _ := by simpa using ends
    have := h hold
    omega

/-! ### The loss of the always-on domain (R394) -/

theorem State.powerLoss_spec (s : State) :
    let t := s.powerLoss
    t.powered = false ∧ t.die = Die.reset ∧ t.lpddr = [] ∧ t.spill = none ∧ t.uptime = 0 ∧ t.reg 0x40034 = s.reg 0x40034 ∧
    t.fuses = s.fuses ∧ t.flash = s.flash ∧ t.haltLog = s.haltLog := by
  have counter : s.powerLoss.reg 0x40034 = s.reg 0x40034 := mget_mset_same ..
  have kept : s.powerLoss.fuses = s.fuses ∧ s.powerLoss.flash = s.flash ∧ s.powerLoss.haltLog = s.haltLog := by
    unfold State.powerLoss
    dsimp only
    split <;> exact ⟨rfl, rfl, rfl⟩
  exact ⟨rfl, rfl, rfl, rfl, rfl, counter, kept⟩

/-! ### A trip (R370) -/

/-- The always-on registers as a trip leaves them: no halt, BRINGUP, no golden copy. -/
def State.tripped (s : State) : State :=
  (((if s.supState = 0 then s else s.emit (.haltOut false)).setSup 0).setFld 0x10000 0 3 0).setReg 0x1001C 0

theorem State.tripped_spec (s : State) :
    s.tripped.supState = 0 ∧ s.tripped.mstate = 0 ∧ s.tripped.reg 0x1001C = 0 ∧ s.tripped.lpddr = s.lpddr ∧ s.tripped.fuses = s.fuses := by
  unfold State.tripped
  generalize told : (if s.supState = 0 then s else s.emit (.haltOut false)) = u
  have memory : u.lpddr = s.lpddr ∧ u.fuses = s.fuses := by
    rw [← told]
    split <;> exact ⟨rfl, rfl⟩
  refine ⟨?_, ?_, (State.reg_setReg ..).trans (if_pos rfl), ?_, ?_⟩
  · exact ((Standing.setReg _ _ (by omega)).state.trans (Standing.setFld _ _ _ _ (by omega)).state).trans (u.supState_setSup (by omega))
  · rw [State.mstate, State.reg_setReg, if_neg (by omega), State.reg_setFld, if_pos rfl, fld_putFld_zero _ (by omega) (by omega) (by omega)]
  · exact (((State.lpddr_setReg ..).trans (State.lpddr_setFld ..)).trans (State.lpddr_setFld ..)).trans memory.1
  · exact (((State.fuses_setReg ..).trans (State.fuses_setFld ..)).trans (State.fuses_setFld ..)).trans memory.2

theorem runs_thermalTrip {s : State} (on : s.powered = true) :
    Runs .thermalTrip s (fun t => t.powered = false ∧ t.mstate = 0 ∧ t.supState = 0 ∧ t.sup.trip = 1 ∧ t.reg 0x1001C = 0 ∧ t.die = Die.reset ∧
      t.spill = none ∧ t.lpddr = s.lpddr ∧ t.fuses = s.fuses) := by
  obtain ⟨state, mstate, golden, lpddr, fuses⟩ := s.tripped_spec
  exact runs_of (if_pos on) ⟨rfl, mstate, state, rfl, golden, rfl, rfl, lpddr, fuses⟩

end Sys2Proof.Machine

namespace Sys2Proof
open Machine

/-- Settles O48: what ends a hold judges the image (`exec_holdEnds`), which `runs_resume` restores and `runs_imageLost` gives up; that a bring-up leaves the supply state is `State.fromRails_spec`. -/
theorem holdEndsInResumeOrLoss : Obligations.HoldEndsInResumeOrLoss := by
  intro s e
  refine ⟨fun hold => ⟨fun p c image ends => ?_, fun both => ⟨runs_thermalResume_waits e hold both, runs_inputQualified_both e hold both⟩,
      runs_inputQualified_thermal e hold, fun input => exec_thermalResume_still e fun _ => input⟩,
    fun other => exec_thermalResume_still e fun hold => absurd hold other, fun drawn reserve => ?_, fun goes => ?_, runs_thermalTrip, fun off => ?_, ?_⟩
  · obtain ⟨u, same, run⟩ := exec_holdEnds hold ends
    refine ⟨fun valid seq readable clean => runs_resume same run image ⟨valid, seq, readable, clean⟩, fun bad => runs_imageLost same run image ?_⟩
    rintro ⟨valid, seq, readable, clean⟩
    obtain invalid | other | unread | ⟨l, hl, line⟩ := bad
    · exact absurd (invalid.symm.trans valid) (by decide)
    · exact other seq
    · exact unread readable
    · exact clean l hl line
  · obtain ⟨powered, -, lpddr, spill, -, -, fuses, flash, haltLog⟩ := (s.logLoss 1).powerLoss_spec
    exact runs_of (if_pos (by simp [drawn, reserve])) ⟨powered, lpddr, spill, fuses, flash, haltLog⟩
  · refine if_neg ?_
    obtain input | above := goes
    · simp [input]
    · simpa [not_le] using fun _ => above
  · exact if_neg (by simp [off])
  · obtain ⟨powered, die, lpddr, -, uptime, lost, fuses, flash, haltLog⟩ := s.powerLoss_spec
    exact runs_of rfl ⟨powered, die, lpddr, uptime, lost, fuses, flash, haltLog⟩

end Sys2Proof
end
